-- ==== Sys2Proof/Word.lean ====
section
/-! DEFINITION. The word types of Jujor, the sparse map type, torus coordinates and the small enumerations that both
the commands and the state use. -/

namespace Sys2Proof

/-- R9: a byte of a memory. -/
abbrev Byte := BitVec 8

/-- R11: a 32-bit register word. -/
abbrev W32 := BitVec 32

/-- A 64-bit word. -/
abbrev W64 := BitVec 64

/-- R17: a 16-bit error code; 0x0000 is success. -/
abbrev Code := BitVec 16

/-- A sparse map: keys strictly rising, and no entry equal to what an unlisted key holds. -/
abbrev SMap (α : Type) := List (Nat × α)

/-- R217: torus coordinates, packed as x in [5:0], y in [10:6], z in [15:11] (R211). -/
structure Coord where
  /-- x coordinate, 6 bits. -/
  x : Nat := 0
  /-- y coordinate, 5 bits. -/
  y : Nat := 0
  /-- z coordinate, 5 bits. -/
  z : Nat := 0
  deriving DecidableEq, Repr, Inhabited

/-- R2: the variants. -/
inductive Variant where
  | jujorL
  | jujorM
  | jujorS
  deriving DecidableEq, Repr, Inhabited

/-- R235: the states of a context. -/
inductive CtxState where
  | free
  | active
  | broken
  | faulted
  | destroying
  deriving DecidableEq, Repr, Inhabited

/-- R248: the states of a fence. -/
inductive FenceState where
  | free
  | pending
  | signalled
  | error
  deriving DecidableEq, Repr, Inhabited

/-- R332: the states of a partition. -/
inductive PartState where
  | absent
  | active
  | failed
  deriving DecidableEq, Repr, Inhabited

/-- R90: the states of a group's staging epoch. -/
inductive Staging where
  | closed
  | opened
  | sealed
  deriving DecidableEq, Repr, Inhabited

/-- R198: the actions that the table of 64 armed actions holds. -/
inductive ArmKind where
  | snapshot
  | domainReset
  | idleInsertion
  deriving DecidableEq, Repr, Inhabited

/-- R149: where a task of a step stands. -/
inductive TaskState where
  | waiting
  | running
  | saved
  | halted
  deriving DecidableEq, Repr, Inhabited

/-- R279: where a dispatched command stands. -/
inductive JobStatus where
  /-- Dispatched; its effect has not yet come about. -/
  | dispatched
  /-- Its effect has begun and its completion awaits a condition the spec names. -/
  | waiting
  /-- Complete, with its code set: it may retire. -/
  | done
  deriving DecidableEq, Repr, Inhabited

/-- R161: the modes of a tile instruction. -/
inductive TileMode where
  | matrix
  | l1
  | l2
  | dot
  | hamming
  | maxPlus
  | minPlus
  | convolution
  | eq
  | ne
  | lt
  | le
  | gt
  | ge
  deriving DecidableEq, Repr, Inhabited

end Sys2Proof
end

