-- ==== Sys2Proof/Syntax.lean ====
section
/-! DEFINITION. The commands of Jujor: one constructor of `Instr` for every row of the opcode table, with the operands
that the outside (or the unit that executes the row) supplies. -/

namespace Sys2Proof

/-- R161: the fields of a tile instruction, as encoded. -/
structure TileFields where
  /-- bit 0: array A, bit 1: array B. -/
  arrays : Nat := 1
  /-- activation format code. -/
  fmtA : Nat := 0
  /-- weight format code. -/
  fmtW : Nat := 0
  /-- output format code. -/
  fmtOut : Nat := 0
  /-- 0 acc_write, 1 acc_add, 2 acc_add_out, 3 act_write, 4 select, 5 acc_add with select. -/
  dest : Nat := 0
  /-- asymmetric correction (R133). -/
  asym : Bool := false
  /-- clamp below zero (R132). -/
  clamp : Bool := false
  /-- statistics clear (R134). -/
  statClear : Bool := false
  /-- M/4 - 1, 12 bits. -/
  mBlk : Nat := 0
  /-- K_active - 1, 8 bits. -/
  kAct : Nat := 0
  /-- N_active - 1, 7 bits. -/
  nAct : Nat := 0
  /-- activation K tile base in 64-byte units, 15 bits. -/
  actAddr : Nat := 0
  /-- weight tile in 1 KiB units, 12 bits. -/
  wAddr : Nat := 0
  /-- accumulator row offset, 10 bits. -/
  accRow : Nat := 0
  /-- activation output base in 64-byte units, 15 bits. -/
  outAddr : Nat := 0
  /-- g register of the select column bases or the convolution geometry. -/
  xg : Nat := 0
  /-- z_a when asym is set; thr - 1 in compare modes; 8 bits. -/
  imm8 : Nat := 0
  /-- g register of the address offsets. -/
  ab : Nat := 0
  deriving DecidableEq, Repr, Inhabited

/-- R164: the fields of select-begin. -/
structure SelectFields where
  /-- dir: largest. -/
  largest : Bool := false
  /-- vtype: INT32. -/
  int32 : Bool := false
  /-- k, 1 to 256. -/
  k : Nat := 1
  /-- rows, 1 to 65,536. -/
  rows : Nat := 1
  /-- row_base, 14 bits. -/
  rowBase : Nat := 0
  /-- g register of id_offset. -/
  a : Nat := 0
  /-- g register of pad_id. -/
  b : Nat := 0
  deriving DecidableEq, Repr, Inhabited

/-- R165: the fields of a vector instruction. -/
structure VecFields where
  /-- destination vector register. -/
  vd : Nat := 0
  /-- first source. -/
  va : Nat := 0
  /-- second source. -/
  vb : Nat := 0
  /-- third source. -/
  vc : Nat := 0
  /-- format code of R161. -/
  fmt : Nat := 0xE
  /-- layout 1, tiled. -/
  tiled : Bool := false
  /-- space 1, the accumulator. -/
  acc : Bool := false
  /-- address, 15 bits. -/
  addr : Nat := 0
  /-- g register added to the address. -/
  ab : Nat := 0
  /-- g register of the tiled row. -/
  ga : Nat := 0
  /-- immediate word. -/
  imm32 : W32 := 0
  deriving DecidableEq, Repr, Inhabited

/-- R168: the fields of a local move. -/
structure MoveFields where
  /-- source space: 0 activation, 1 accumulator, 2 weight, 4 statistics. -/
  srcSpace : Nat := 0
  /-- destination space: 0 to 2 as the source, 3 program memory. -/
  dstSpace : Nat := 0
  /-- source byte address, 22 bits. -/
  srcAddr : Nat := 0
  /-- destination byte address, 22 bits. -/
  dstAddr : Nat := 0
  /-- length in 32-byte units, 1 to 131,072. -/
  length : Nat := 1
  /-- g register of the address offsets. -/
  ab : Nat := 0
  deriving DecidableEq, Repr, Inhabited

/-- R368: an ATS translation completion: the engine (R347) and access that asked, and what the host answered. -/
structure AtsReply where
  /-- engine: 0 to 63 cores, 64 to 83 stack groups, 84 to 99 copy engines, 100 the front end, 101 the link engine. -/
  engine : Nat := 0
  /-- context of the request. -/
  ctx : Nat := 0
  /-- host address asked for. -/
  va : W64 := 0
  /-- the access is a write. -/
  write : Bool := false
  /-- the access is denied, or Unsupported Request was returned. -/
  denied : Bool := false
  /-- translation size, 12 to 30. -/
  sizeLog2 : Nat := 12
  /-- translated address. -/
  pa : Nat := 0
  /-- read permission. -/
  readOk : Bool := true
  /-- write permission. -/
  writeOk : Bool := true
  deriving DecidableEq, Repr, Inhabited
/-- PRI response codes (R368). -/
inductive PriResponse where
  | success
  | invalid
  | failure
  deriving DecidableEq, Repr, Inhabited
/-- ECC outcome of an SRAM word read. -/
inductive SramEcc where
  | good
  | corrected
  | uncorrectable
  deriving DecidableEq, Repr, Inhabited
/-- R214: the packet header of a best-effort packet. -/
structure BeHeader where
  /-- source coordinates. -/
  src : Coord := {}
  /-- destination coordinates. -/
  dst : Coord := {}
  /-- kind. -/
  kind : Nat := 0
  /-- flow. -/
  flow : Nat := 0
  /-- flits in the packet. -/
  flits : Nat := 1
  /-- flow_seq. -/
  seq : Nat := 0
  deriving DecidableEq, Repr, Inhabited

/-- R28, R230: how the PCS marks the two words of a flit, and the corrected symbols that lk_fec_cnt gives for them. -/
structure RxMark where
  /-- lk_rx_fec of the first word: 0 clean, 1 corrected, 2 uncorrectable. -/
  word0 : Nat := 0
  /-- lk_rx_fec of the second word. -/
  word1 : Nat := 0
  /-- corrected symbols of the two words. -/
  symbols : Nat := 0
  deriving DecidableEq, Repr, Inhabited

/-- R341: a TLB miss to be walked. -/
structure WalkRequest where
  /-- engine, as in `AtsReply`. -/
  engine : Nat := 0
  /-- context of the access. -/
  ctx : Nat := 0
  /-- device virtual address. -/
  va : W64 := 0
  /-- the access is a write. -/
  write : Bool := false
  deriving DecidableEq, Repr, Inhabited

/-- R403: who reads a stack-port beat. -/
inductive BeatReader where
  /-- a lane, an HBM-to-core stream, a grey-lane or an exchange read of the step of a partition. -/
  | step (part : Nat)
  /-- a copy engine, for a command. -/
  | copy (job : Nat)
  /-- a translation walk. -/
  | walk (w : WalkRequest)
  /-- a record of the object table. -/
  | object (index : Nat) (ownerRead : Bool)
  /-- a record of the fence table. -/
  | fence (index : Nat) (ownerRead : Bool)
  /-- a table descriptor. -/
  | descriptor (table : Nat) (ownerRead : Bool)
  /-- twin catch-up of a local row. -/
  | catchup (table row : Nat)
  /-- delta merge of a local row. -/
  | merge (table row : Nat)
  /-- the copy of a promotion. -/
  | promotion (table row : Nat)
  /-- the digest engine. -/
  | digest
  deriving DecidableEq, Repr, Inhabited

/-- R377: the kinds of access that a control processor makes. -/
inductive FwKind where
  | read
  | write
  | flashRead
  | flashProgram
  | flashErase
  deriving DecidableEq, Repr, Inhabited

/-- R373, R377: an access of a control processor: a processor address, or an offset in flash. -/
structure FwAccess where
  /-- kind of access. -/
  kind : FwKind := .read
  /-- processor address, or flash offset. -/
  addr : Nat := 0
  /-- bytes read or erased. -/
  len : Nat := 4
  /-- bytes written or programmed. -/
  data : List Byte := []
  deriving DecidableEq, Repr, Inhabited

/-- R8: the commands of the block. -/
inductive Instr where
  /-- COLD_RESET (R37): por_n falls; every domain of the block is reset, fuse shadows, soft-repair map, sticky logs and the tick counter are cleared, and any warm-reset qualification is discarded. -/
  | coldReset
  /-- COLD_RESET_RELEASE (R390): The TCLK-synchronised release of por_n samples the straps and starts staged start at fuse load. -/
  | coldResetRelease (octal testEn : Bool)
  /-- WARM_RESET (R38): wrst_req has been sampled high for 64 consecutive TCLK cycles; every domain except the always-on health and power domain and the tick counter is reset. -/
  | warmReset
  /-- WARM_RESET_SHORT (R38): wrst_req falls before 64 cycles of qualification; the request is ignored and counted in BC_WRST_SHORT_CNT. -/
  | warmResetShort
  /-- WARM_RESET_RELEASE (R38): wrst_req falls after a qualified warm reset; the block leaves reset and repeats staged start from amber. -/
  | warmResetRelease
  /-- CLOCK_LOSS (R33): No ACLK edge has been seen for 32 TCLK cycles; all domains except the always-on ones stop, jj_stage goes to 0b00 and root_clk_lost is set. -/
  | clockLoss
  /-- POWER_BUDGET_CAPTURE (R40): pwr_budget_vld has been high for two cycles; pwr_budget is captured for application at the next power window. -/
  | powerBudgetCapture (watts : BitVec 10)
  /-- PWR_STATE_RUN (R41): pwr_state becomes run; normal operation resumes at the next launch tick and pwr_ack reports 0b00. -/
  | pwrStateRun
  /-- PWR_STATE_HOLD (R40): pwr_state becomes hold; launches that fall due are deferred as slips, running steps continue and pwr_ack reports 0b01. -/
  | pwrStateHold
  /-- PWR_STATE_PREPARE_OFF (R40): pwr_state becomes prepare-off; fetch stops, running steps run to their deadlines and the shutdown sequence begins. -/
  | pwrStatePrepareOff
  /-- PREPARE_OFF_DONE (R40): Local contexts are force-aborted, link ports are idle and stack writes are finished; pwr_ack is driven to 0b10. -/
  | prepareOffDone
  /-- PWR_STATE_OFF (R40): pwr_state becomes off after prepare-off has been acknowledged; no new action is taken and pwr_ack reports 0b11. -/
  | pwrStateOff
  /-- POWER_REMOVED (R41): Module power is removed; nothing survives and the block presents the unpowered face of R47. -/
  | powerRemoved
  /-- THERMAL_ALARM (R42): therm_alarm_n falls; cluster and stack-group ACLK is gated at thermal level 1 and a thermal event is raised. -/
  | thermalAlarm
  /-- THERMAL_REAISE (R43): The alarm has stayed active for another 100 ms; the thermal event is raised again and the gating level rises. -/
  | thermalReaise
  /-- THERMAL_RELEASE (R43): therm_alarm_n has been high for 1 ms; the throttle is released and the thermal level returns to 0. -/
  | thermalRelease
  /-- TPULSE_EDGE (R44): A rising edge of tpulse of valid width arrives; it is accepted and the master steers to it, or it is ignored as too soon and counted. -/
  | tpulseEdge (widthOk : Bool) (tclk : Nat)
  /-- TPULSE_HOLDOVER (R45): No tpulse edge has been accepted for 2 s while the input is enabled; the block enters pulse holdover. -/
  | tpulseHoldover
  /-- FUNCTION_LEVEL_RESET (R330): A bit of hp_flr is asserted; every context bound to the function is force-aborted with 0x0805. -/
  | functionLevelReset (function : Nat)
  /-- FUNCTION_RESET_COMPLETE (R330): Every context of the instance is free; hp_flr_done is asserted, or reset-instance signals. -/
  | functionResetComplete (function : Nat)
  /-- FUNCTION_RESET_BOUND (R330): 2 ms have passed since an instance reset began; every partition holding a context that is not yet free is reset. -/
  | functionResetBound (function : Nat)
  /-- ATS_INVALIDATE (R369): An ATS Invalidate Request arrives on hp_ats_inv; the overlapping ATC and micro-TLB entries are removed and the draining starts. -/
  | atsInvalidate (pasid va len : Nat)
  /-- ATS_INVALIDATE_DONE (R369): The drain of an ATS invalidation completes; hp_ats_inv_done is asserted. -/
  | atsInvalidateDone
  /-- ATS_COMPLETION (R368): An ATS translation completion arrives; the ATC is filled, or a denial faults a compute engine or sends a page request for a copy engine. -/
  | atsCompletion (a : AtsReply)
  /-- PRI_RESPONSE (R368): A PRI page response arrives; the stalled copy engines retry ATS or fail with 0x0207. -/
  | priResponse (entry : Nat) (response : PriResponse)
  /-- REGISTER_WRITE (R12): A BAR0 or firmware write to a register that has no behaviour of its own updates the register under its access code, locks and reserved-bit rules. -/
  | registerWrite (who offset : Nat) (value : BitVec 64) (enables : BitVec 8)
  /-- RC_COUNTER_READ (R12): A read of an RC field returns the field's value and clears it. -/
  | counterRead (bar2 : Bool) (offset : Nat) (enables : BitVec 8)
  /-- DOORBELL_SQ_TAIL (R276): A write to a context's sq_tail doorbell word merges into the register; it makes entries ready, withdraws entries or is ignored as invalid. -/
  | doorbellSqTail (function offset : Nat) (value : BitVec 64) (enables : BitVec 8)
  /-- DOORBELL_CQ_HEAD (R276): A write to a context's cq_head doorbell frees completion entries, which may resume fetch. -/
  | doorbellCq (function offset : Nat) (value : BitVec 64) (enables : BitVec 8)
  /-- DOORBELL_EQ_HEAD (R296): A write to a context's eq_head doorbell frees event entries; an events_lost record is written first if events were dropped. -/
  | doorbellEq (function offset : Nat) (value : BitVec 64) (enables : BitVec 8)
  /-- ADMQ_TAIL_WRITE (R298): A write to admq_tail announces administrator descriptors, or is ignored and counted if it is out of range. -/
  | admqTailWrite (value : W32)
  /-- ADMCQ_HEAD_WRITE (R298): A write to admcq_head frees administrator completion entries. -/
  | admcqHeadWrite (value : W32)
  /-- ADMEQ_HEAD_WRITE (R298): A write to admeq_head frees administrator event entries. -/
  | admeqHeadWrite (value : W32)
  /-- DESCRIPTOR_FETCH (R277): The front end fetches a ready descriptor when completion space, the rate limit and the buffer allow; an untranslatable slot is a job fault. -/
  | descriptorFetch (admin : Bool)
  /-- DISPATCH (R278): In the block's 4-tick dispatch slot the next eligible command is dispatched after its wait, serial and handle checks, or retires refused. -/
  | dispatch (admin : Bool)
  /-- COMMAND_RETIRE (R279): A command completes; its fence is updated, its completion entry is written or held, and its interrupt is requested. -/
  | commandRetire (job : Nat) (ecc : SramEcc)
  /-- QUEUE_TIMEOUT_CHECK (R290): At a 1,024-tick check a command whose per-queue timeout has expired is ended with 0x0401, with a stalled_wait event if it was held on a wait. -/
  | queueTimeoutCheck
  /-- MSIX_MODERATION_EXPIRE (R294): A vector's moderation interval ends with a request pending; one merged MSI-X message is sent. -/
  | msixModerationExpire (vector : Nat)
  /-- NOP (R273): The nop command does nothing and retires. -/
  | nop (job : Nat)
  /-- COPY (R273): A copy command moves bytes between two objects on a copy engine. -/
  | copy (job : Nat)
  /-- FILL (R273): A fill command writes a 64-bit pattern over a range of an object. -/
  | fill (job : Nat)
  /-- EXEC_BUFFER (R286): An exec-buffer command dispatches its array of operations in order and retires when all of them have retired. -/
  | execBuffer (job : Nat)
  /-- LAUNCH_STEP (R287): A launch-step command settles its launch tick and schedules len step launches of a step program. -/
  | launchStep (job : Nat)
  /-- CREATE_OBJECT (R240): A create-object command checks type, range and quota, allocates an object index and returns a handle. -/
  | createObject (job : Nat)
  /-- FREE_OBJECT (R244): A free-object command raises the generation and marks the object freed; the record is released later. -/
  | freeObject (job : Nat)
  /-- OBJECT_RELEASE (R244): A freed object's reference count reaches 0; its record is released and the free command's fence signals. -/
  | objectRelease (index : Nat)
  /-- CREATE_FENCE (R249): A create-fence command allocates a fence at its initial value in the pending state and returns its ID. -/
  | createFence (job : Nat)
  /-- DESTROY_FENCE (R255): A destroy-fence command puts the fence into error with 0x030B and awaits its return to free. -/
  | destroyFence (job : Nat)
  /-- FENCE_FREE (R255): No queued or dispatched command names a destroyed fence any more; it returns to free and the destroy completes. -/
  | fenceFree (fence : Nat)
  /-- QUERY_CAPABILITIES (R263): A query-capabilities command copies the capability table once its busy bit is clear. -/
  | queryCapabilities (job : Nat)
  /-- LOAD_PROGRAM (R247): A load-program command validates a step program, copies its code into program memory and takes its bindings. -/
  | loadProgram (job : Nat)
  /-- UNLOAD_PROGRAM (R247): An unload-program command refuses new submissions of the program; it completes when the program's last step has ended. -/
  | unloadProgram (job : Nat)
  /-- GRANT_ARENA (R256): A grant-arena command adds an object's 32 MiB pages to the context's slab arena. -/
  | grantArena (job : Nat)
  /-- REVOKE_ARENA (R256): A revoke-arena command removes an object's arena pages if none of them holds a block. -/
  | revokeArena (job : Nat)
  /-- BIND_TABLE (R55): A bind-table command validates a table descriptor, fills the page map and writes the descriptor for use from the next step boundary. -/
  | bindTable (job : Nat)
  /-- UNBIND_TABLE (R56): An unbind-table command releases a table ID at the next step boundary, once the steps using it have retired. -/
  | unbindTable (job : Nat)
  /-- LOAD_CODEBOOK (R65): A load-codebook command writes PQ codebook units into every stack group. -/
  | loadCodebook (job : Nat)
  /-- UPDATE (R93): An update command fetches update records from memory and passes each to the update engine. -/
  | update (job : Nat)
  /-- BIND_STREAM (R93): A bind-stream command binds an update-stream number to an epoch group. -/
  | bindStream (job : Nat)
  /-- UNBIND_STREAM (R93): An unbind-stream command releases an update-stream number. -/
  | unbindStream (job : Nat)
  /-- SEAL (R95): A seal command names a group's staging epoch; it fails with 0x0A06 if the epoch is wrong and otherwise awaits its conditions. -/
  | sealEpoch (job : Nat)
  /-- SEAL_COMPLETE (R95): All prior updates, last-marked stream records and held records of the epoch are in; staging becomes sealed and the seal signals. -/
  | sealComplete (group : Nat)
  /-- FLIP (R103): A flip command checks lead, epoch and release delay on the coordinator and broadcasts the flip announcement. -/
  | flip (job : Nat)
  /-- READ_TICK (R273): A read-tick command writes TB_TICK as read at dispatch to the result address. -/
  | readTick (job : Nat)
  /-- READ_SNAPSHOT (R421): A read-snapshot command writes the snapshot number, the snapshot tick and the 24 telemetry snapshot copies. -/
  | readSnapshot (job : Nat)
  /-- CREATE_CONTEXT (R233): A create-context command reads its parameter block and creates an active local or group context. -/
  | createContext (job : Nat)
  /-- DESTROY_CONTEXT (R260): A destroy-context command starts the eight-phase forced abort of a context. -/
  | destroyContext (job : Nat)
  /-- DESTROY_COMPLETE (R260): Every reference of a destroyed context has dropped; it becomes free, its vectors are masked and the destroy completes. -/
  | destroyComplete (ctx : Nat)
  /-- DESTROY_WATCHDOG (R261): A destroy has not completed within 2 ms; the partition is reset and other contexts' work ends with 0x0802. -/
  | destroyWatchdog (ctx : Nat)
  /-- PARTITION_RESET_OVERRUN (R261): A partition reset has not completed in time; the partition is marked failed and its contexts are faulted with 0x0807. -/
  | partitionResetOverrun (part : Nat)
  /-- CREATE_PARTITION (R308): A create-partition command creates a partition from a partition block of cores and lane units. -/
  | createPartition (job : Nat)
  /-- RESIZE_PARTITION (R309): A resize-partition command checks new masks and queues the change for the next step boundary. -/
  | resizePartition (job : Nat)
  /-- DESTROY_PARTITION (R311): A destroy-partition command releases the partition's resources at its next step boundary. -/
  | destroyPartition (job : Nat)
  /-- LOAD_GROUP (R312): A load-group command checks the group block, computes h_g and G, and rewrites the capability table. -/
  | loadGroup (job : Nat)
  /-- UNLOAD_GROUP (R312): An unload-group command unloads a partition's placement group. -/
  | unloadGroup (job : Nat)
  /-- SET_CONTEXT_SCHED (R314): A set-context-sched command sets a context's share and core-SRAM window. -/
  | setContextSched (job : Nat)
  /-- SET_CALIBRATION (R328): A set-calibration command sets a program's calibration, or asks for it to be measured. -/
  | setCalibration (job : Nat)
  /-- READ_ACCOUNTING (R327): A read-accounting command writes consecutive context accounting records to host memory. -/
  | readAccounting (job : Nat)
  /-- GRANT_PAGES (R310): A grant-pages command gives consecutive HBM pages to a partition. -/
  | grantPages (job : Nat)
  /-- REVOKE_PAGES (R310): A revoke-pages command takes pages from a partition for new translations and completes after invalidation at a step boundary. -/
  | revokePages (job : Nat)
  /-- RESET_INSTANCE (R330): A reset-instance command resets every context bound to a function, as for a function-level reset. -/
  | resetInstance (job : Nat)
  /-- REPLAY_HOLDING_RING (R293): A replay-holding-ring command writes the held completion entries and reactivates the broken context. -/
  | replayHoldingRing (job : Nat)
  /-- SET_QUEUE (R289): A set-queue command changes a queue's timeout and fetch limit. -/
  | setQueue (job : Nat)
  /-- PARTITION_STEP_BOUNDARY (R306): A partition reaches a tick with no step running or suspended; its pending changes, filter swaps, crimson visibility and page-map re-walks apply. -/
  | partitionStepBoundary (part : Nat)
  /-- STEP_LAUNCH (R5): At a launch tick the step is checked for readiness, variant and ownership, and then launches, is deferred as a slip, or is slice-shifted. -/
  | stepLaunch (part : Nat)
  /-- TIMED_POINT_MISS (R174): A core has not reached a timed point by its deadline tick; a slip notice is issued, or the step ends with 0x0402 at max_slips. -/
  | timedPointMiss (part core : Nat)
  /-- SLIP (R220): At t_eff every pending slot, ready, twait and deadline tick of the step, and every later launch, moves later by the slip quantum. -/
  | slip (part : Nat)
  /-- IDLE_INSERTION (R202): At its tick, an idle insertion moves every launch of its scope at or after that tick later by n. -/
  | idleInsertion (part : Nat)
  /-- TEAL_FLIP (R104): At T_f an armed flip switches the group to the new active epoch and retains the old one; a block that did not arm reports a missed flip. -/
  | tealFlip (group : Nat)
  /-- SNAPSHOT_LATCH (R200): At T_s the tick counter and the telemetry counters are copied into their snapshot copies with the snapshot number. -/
  | snapshotLatch
  /-- DOMAIN_RESET_FIRE (R201): At T_r running group steps end with 0x0403 and group reservations, timed flits, slips and insertions are discarded. -/
  | domainResetFire
  /-- DOMAIN_RESET_LOCAL_DONE (R201): A block completes its local domain reset and sends reset done to the arming block. -/
  | domainResetLocalDone
  /-- DOMAIN_RESET_DEADLINE (R201): The reset deadline passes at the arming block; missing blocks are counted and reset_incomplete is set. -/
  | domainResetDeadline
  /-- SLICE_END (R318): A holder's slice ends; the holder is pre-empted if another context is ready, or else starts a new slice. -/
  | sliceEnd (part : Nat)
  /-- STEP_SUSPEND (R320): A pre-empted step has no running task, pending delivery or unready feature; it is suspended and the partition passes to the next holder. -/
  | stepSuspend (part : Nat)
  /-- GROUP_CLAIM (R323): At launch less G less 8,192 ticks the front end requests pre-emption of a local holder for a group launch. -/
  | groupClaim (part : Nat)
  /-- CONTROL_NOP (R160): The control nop instruction does nothing. -/
  | controlNop (core : Nat) (dw : Bool)
  /-- LI (R160): The li instruction loads imm into g[d]. -/
  | li (core : Nat) (dw : Bool) (d : Nat) (imm : W64)
  /-- ADDI (R160): The addi instruction adds imm to g[a] modulo 2^64. -/
  | addi (core : Nat) (dw : Bool) (d a : Nat) (imm : W64)
  /-- ADD (R160): The add instruction adds g[a] and g[b] modulo 2^64. -/
  | add (core : Nat) (dw : Bool) (d a b : Nat)
  /-- SUB (R160): The sub instruction subtracts g[b] from g[a] modulo 2^64. -/
  | sub (core : Nat) (dw : Bool) (d a b : Nat)
  /-- CMP (R160): The cmp instruction sets z and n from an unsigned comparison of g[a] and g[b]. -/
  | cmp (core : Nat) (dw : Bool) (a b : Nat)
  /-- BR (R160): The br instruction branches to its target when its condition holds. -/
  | br (core : Nat) (dw : Bool) (cond target : Nat)
  /-- LOOP (R160): The loop instruction decrements g[a] and branches while the result is non-zero. -/
  | loop (core : Nat) (dw : Bool) (a target : Nat)
  /-- SYNC (R153): The sync instruction holds issue until every unit is idle and no allocation is outstanding. -/
  | sync (core : Nat) (dw : Bool)
  /-- TWAIT (R160): The twait instruction holds issue until the step's elapsed tick reaches imm. -/
  | twait (core : Nat) (dw : Bool) (imm : W64)
  /-- RDTICK (R160): The rdtick instruction writes the step's elapsed tick to g[d]. -/
  | rdtick (core : Nat) (dw : Bool) (d : Nat)
  /-- HALT (R160): The halt instruction syncs and ends the task, freeing its core. -/
  | halt (core : Nat) (dw : Bool)
  /-- TILE_MATRIX (R114): A matrix-mode tile instruction streams activations through a stationary weight tile on one or both arrays. -/
  | tileMatrix (core : Nat) (dw : Bool) (f : TileFields) (ecc : SramEcc)
  /-- TILE_L1 (R135): An L1-mode tile computes sums of absolute differences. -/
  | tileL1 (core : Nat) (dw : Bool) (f : TileFields) (ecc : SramEcc)
  /-- TILE_L2 (R135): An L2-mode tile computes sums of squared differences. -/
  | tileL2 (core : Nat) (dw : Bool) (f : TileFields) (ecc : SramEcc)
  /-- TILE_DOT (R135): A dot-mode tile computes dot products exactly as matrix mode does. -/
  | tileDot (core : Nat) (dw : Bool) (f : TileFields) (ecc : SramEcc)
  /-- TILE_HAMMING (R135): A Hamming-mode tile computes popcounts of XORed 4-bit codes. -/
  | tileHamming (core : Nat) (dw : Bool) (f : TileFields) (ecc : SramEcc)
  /-- TILE_MAX_PLUS (R136): A max-plus tile computes max over k of a + w. -/
  | tileMaxPlus (core : Nat) (dw : Bool) (f : TileFields) (ecc : SramEcc)
  /-- TILE_MIN_PLUS (R136): A min-plus tile computes min over k of a + w. -/
  | tileMinPlus (core : Nat) (dw : Bool) (f : TileFields) (ecc : SramEcc)
  /-- TILE_CONVOLUTION (R125): A convolution tile computes 1-D convolutions with shifting activation registers. -/
  | tileConvolution (core : Nat) (dw : Bool) (f : TileFields) (ecc : SramEcc)
  /-- TILE_EQ (R137): A compare tile with eq counts equal positions and writes threshold masks. -/
  | tileEq (core : Nat) (dw : Bool) (f : TileFields) (ecc : SramEcc)
  /-- TILE_NE (R137): A compare tile with ne counts unequal positions and writes threshold masks. -/
  | tileNe (core : Nat) (dw : Bool) (f : TileFields) (ecc : SramEcc)
  /-- TILE_LT (R137): A compare tile with lt counts positions where a < w and writes threshold masks. -/
  | tileLt (core : Nat) (dw : Bool) (f : TileFields) (ecc : SramEcc)
  /-- TILE_LE (R137): A compare tile with le counts positions where a <= w and writes threshold masks. -/
  | tileLe (core : Nat) (dw : Bool) (f : TileFields) (ecc : SramEcc)
  /-- TILE_GT (R137): A compare tile with gt counts positions where a > w and writes threshold masks. -/
  | tileGt (core : Nat) (dw : Bool) (f : TileFields) (ecc : SramEcc)
  /-- TILE_GE (R137): A compare tile with ge counts positions where a >= w and writes threshold masks. -/
  | tileGe (core : Nat) (dw : Bool) (f : TileFields) (ecc : SramEcc)
  /-- TILE_COMPLETE (R115): A tile's last output is written by the drain; statistics become final and dw waits may release. -/
  | tileComplete (core : Nat)
  /-- SELECT_BEGIN (R139): The select-begin instruction opens a top-k selection of rows lists of k entries. -/
  | selectBegin (core : Nat) (dw : Bool) (f : SelectFields)
  /-- SELECT_END (R141): The select-end instruction closes the selection and emits the lists as pairs and/or an ID stream. -/
  | selectEnd (core : Nat) (dw emitPairs emitIds : Bool) (outAddr stream : Nat) (ecc : SramEcc)
  /-- MERGE (R143): The merge instruction feeds (value, index) pairs from the activation buffer into the open selection. -/
  | merge (core : Nat) (dw : Bool) (srcAddr nInM1 : Nat) (ecc : SramEcc)
  /-- VLD (R424): The vld instruction loads and widens 128 elements into a vector register. -/
  | vld (core : Nat) (dw : Bool) (f : VecFields) (ecc : SramEcc)
  /-- VST (R424): The vst instruction converts a vector register and stores it without scales. -/
  | vst (core : Nat) (dw : Bool) (f : VecFields)
  /-- VIMM (R166): The vimm instruction fills every lane with imm32. -/
  | vimm (core : Nat) (dw : Bool) (f : VecFields)
  /-- VIDX (R166): The vidx instruction sets each lane to its index. -/
  | vidx (core : Nat) (dw : Bool) (f : VecFields)
  /-- FADD (R166): The fadd instruction adds two vectors in FP32. -/
  | fadd (core : Nat) (dw : Bool) (f : VecFields)
  /-- FSUB (R166): The fsub instruction subtracts two vectors in FP32. -/
  | fsub (core : Nat) (dw : Bool) (f : VecFields)
  /-- FMUL (R166): The fmul instruction multiplies two vectors in FP32. -/
  | fmul (core : Nat) (dw : Bool) (f : VecFields)
  /-- FFMA (R166): The ffma instruction performs a fused multiply-add with one rounding. -/
  | ffma (core : Nat) (dw : Bool) (f : VecFields)
  /-- FMAX (R166): The fmax instruction takes the lane maximum with NaN propagation. -/
  | fmax (core : Nat) (dw : Bool) (f : VecFields)
  /-- FMIN (R166): The fmin instruction takes the lane minimum with NaN propagation. -/
  | fmin (core : Nat) (dw : Bool) (f : VecFields)
  /-- FABS (R166): The fabs instruction takes the absolute value of each lane. -/
  | fabs (core : Nat) (dw : Bool) (f : VecFields)
  /-- FNEG (R166): The fneg instruction negates each lane. -/
  | fneg (core : Nat) (dw : Bool) (f : VecFields)
  /-- FRELU (R166): The frelu instruction clamps negative lanes and -0 to +0. -/
  | frelu (core : Nat) (dw : Bool) (f : VecFields)
  /-- FSEL (R166): The fsel instruction selects va or vb by the raw word of vc. -/
  | fsel (core : Nat) (dw : Bool) (f : VecFields)
  /-- FLT (R166): The flt instruction writes 1 where va < vb. -/
  | flt (core : Nat) (dw : Bool) (f : VecFields)
  /-- FEQ (R166): The feq instruction writes 1 where va = vb. -/
  | feq (core : Nat) (dw : Bool) (f : VecFields)
  /-- FMULS (R166): The fmuls instruction multiplies each lane by an FP32 immediate. -/
  | fmuls (core : Nat) (dw : Bool) (f : VecFields)
  /-- FADDS (R166): The fadds instruction adds an FP32 immediate to each lane. -/
  | fadds (core : Nat) (dw : Bool) (f : VecFields)
  /-- FEXP2 (R166): The fexp2 instruction computes 2 to the power of each lane. -/
  | fexp2 (core : Nat) (dw : Bool) (f : VecFields)
  /-- FLOG2 (R166): The flog2 instruction computes log2 of each lane. -/
  | flog2 (core : Nat) (dw : Bool) (f : VecFields)
  /-- FRECIP (R166): The frecip instruction computes the reciprocal of each lane. -/
  | frecip (core : Nat) (dw : Bool) (f : VecFields)
  /-- FRSQRT (R166): The frsqrt instruction computes the reciprocal square root of each lane. -/
  | frsqrt (core : Nat) (dw : Bool) (f : VecFields)
  /-- FEXP (R166): The fexp instruction computes e to the power of each lane. -/
  | fexp (core : Nat) (dw : Bool) (f : VecFields)
  /-- FSIGMOID (R166): The fsigmoid instruction computes the logistic function of each lane. -/
  | fsigmoid (core : Nat) (dw : Bool) (f : VecFields)
  /-- FTANH (R166): The ftanh instruction computes tanh of each lane. -/
  | ftanh (core : Nat) (dw : Bool) (f : VecFields)
  /-- FSUM (R167): The fsum instruction sums the lanes pairwise and broadcasts the result. -/
  | fsum (core : Nat) (dw : Bool) (f : VecFields)
  /-- FMAXR (R167): The fmaxr instruction reduces the lanes to their maximum. -/
  | fmaxr (core : Nat) (dw : Bool) (f : VecFields)
  /-- FMINR (R167): The fminr instruction reduces the lanes to their minimum. -/
  | fminr (core : Nat) (dw : Bool) (f : VecFields)
  /-- IADD (R166): The iadd instruction adds two INT32 vectors with wrapping. -/
  | iadd (core : Nat) (dw : Bool) (f : VecFields)
  /-- ISUB (R166): The isub instruction subtracts two INT32 vectors with wrapping. -/
  | isub (core : Nat) (dw : Bool) (f : VecFields)
  /-- IMUL (R166): The imul instruction keeps the low 32 bits of each lane product. -/
  | imul (core : Nat) (dw : Bool) (f : VecFields)
  /-- IMAX (R166): The imax instruction takes the signed maximum of each lane pair. -/
  | imax (core : Nat) (dw : Bool) (f : VecFields)
  /-- IMIN (R166): The imin instruction takes the signed minimum of each lane pair. -/
  | imin (core : Nat) (dw : Bool) (f : VecFields)
  /-- ISHL (R166): The ishl instruction shifts each lane left. -/
  | ishl (core : Nat) (dw : Bool) (f : VecFields)
  /-- ISHR (R166): The ishr instruction shifts each lane right arithmetically. -/
  | ishr (core : Nat) (dw : Bool) (f : VecFields)
  /-- CVTIF (R166): The cvtif instruction converts INT32 lanes to FP32. -/
  | cvtif (core : Nat) (dw : Bool) (f : VecFields)
  /-- CVTFI (R166): The cvtfi instruction converts FP32 lanes to saturated INT32. -/
  | cvtfi (core : Nat) (dw : Bool) (f : VecFields)
  /-- MXST (R167): The mxst instruction stores a vector in an MX format with per-block scales. -/
  | mxst (core : Nat) (dw : Bool) (f : VecFields)
  /-- LOCAL_MOVE (R168): A local move copies bytes between memories of its own core at 64 bytes per tick. -/
  | localMove (core : Nat) (dw : Bool) (f : MoveFields) (ecc : SramEcc)
  /-- TSEND (R169): The tsend instruction queues the stream's next delivery for its slot tick. -/
  | tsend (core : Nat) (dw : Bool) (stream space srcAddr ab : Nat)
  /-- RARM (R169): The rarm instruction declares the ring slot of the stream's next delivery free. -/
  | rarm (core : Nat) (dw : Bool) (stream : Nat)
  /-- RWAIT (R169): The rwait instruction holds issue until the oldest unwaited delivery has landed; a lost or bad delivery ends the step. -/
  | rwait (core : Nat) (dw : Bool) (stream : Nat)
  /-- ALLOC (R170): The alloc instruction requests a slab block of size 2^size_log2. -/
  | alloc (core : Nat) (dw : Bool) (d sizeLog2 : Nat) (must : Bool)
  /-- FREE (R170): The free instruction returns a slab block to the arena. -/
  | free (core : Nat) (dw : Bool) (a : Nat)
  /-- SLAB_SERVE (R257): The slab unit serves a queued alloc or free by the buddy rules and writes the result back. -/
  | slabServe
  /-- FSIG (R171): The fsig instruction syncs and signals a fence. -/
  | fsig (core : Nat) (dw : Bool) (fence a : Nat)
  /-- FWAIT (R171): The fwait instruction holds issue until the fence reaches a value or enters error. -/
  | fwait (core : Nat) (dw : Bool) (fence a : Nat) (ignoreErr : Bool)
  /-- YIELD (R172): The yield instruction marks a point at which a pending pre-emption saves the task and frees its core. -/
  | yield (core : Nat) (dw : Bool)
  /-- LATE_FEATURE_TEST (R173): The late-feature test waits for a feature's ready tick, copies its late and subst bits and may write a bag mask. -/
  | lateFeatureTest (core : Nat) (dw : Bool) (feature : Nat) (writeMask : Bool) (maskAddr ab : Nat)
  /-- TIMED_SEND (R208): At a delivery's slot tick the NoC or link engine sends it in its reserved slots, or the slot carries best-effort traffic. -/
  | timedSend (part stream : Nat) (ecc : SramEcc)
  /-- DELIVERY_LANDED (R169): All flits of a delivery have landed in its destination ring slot; an indigo digest is checked and rwait may release. -/
  | deliveryLanded (part stream : Nat)
  /-- FEATURE_READY (R85): At a feature's ready tick its late and substitution bits are fixed and its partial grey slots are filled. -/
  | featureReady (part feature : Nat)
  /-- LOOKUP_ID (R62): A lane resolves a feature ID to a row source, and fetches it, sends it in an exchange record or spills it to the grey lane. -/
  | lookupId (part feature bag pos : Nat) (ecc : SramEcc)
  /-- PROMOTION_COPY_DONE (R75): A promotion copy arrives; it is installed, evicts a victim, or is dropped by quota, epoch or invalidation. -/
  | promotionCopyDone (table row : Nat)
  /-- SKETCH_HALVING (R73): Every 2^decay_log2 ticks every sketch counter is halved. -/
  | sketchHalving
  /-- SKETCH_CLEAR (R88): A write of 1 to sketch_clear zeroes every sketch counter at the next tick. -/
  | sketchClear
  /-- CRIMSON_QUOTA_WRITE (R75): A write to EE_CRIMSON_QUOTA sets a partition's quota, or is ignored if the sum would exceed the tier; a reduction evicts at the boundary. -/
  | crimsonQuotaWrite (part : Nat) (value : W32)
  /-- EXCHANGE_RECORD_SERVE (R81): An owner serves incoming exchange records on its lanes at the requester's epoch and returns partials in return slots. -/
  | exchangeServe (part requester feature epoch : Nat)
  /-- CARRY_AREA_FINAL (R84): The carry-area deadline is reached; lists are written and final is set. -/
  | carryAreaFinal (part : Nat)
  /-- TWIN_CATCHUP_DONE (R97): A twin catch-up finishes copying dirty rows; held records for the new staging epoch are applied. -/
  | twinCatchupDone (table : Nat)
  /-- DELTA_MERGE_PASS_END (R102): The merge engine ends a pass over the delta index and rebuilds the shadow filter. -/
  | deltaMergePassEnd (tableGroup : Nat)
  /-- TIMED_FLIT (R213): A timed flit arrives; it is forwarded in its outbound slot or recorded, and marked lost on FEC, CRC or lateness. -/
  | timedFlit (port : Nat) (fec : RxMark) (bytes : List Byte)
  /-- BEST_EFFORT_FLIT (R214): A best-effort flit arrives; it is acknowledged, NAKed or routed onward, and delivered in flow order. -/
  | bestEffortFlit (port : Nat) (fec : RxMark) (bytes : List Byte)
  /-- BE_RETRY_TIMEOUT (R214): A best-effort flit has had no acknowledgement for 2,048 ticks; it is resent, and after 16 resends the port is marked out. -/
  | beRetryTimeout (port : Nat)
  /-- BE_PACKET_TIMEOUT (R214): A best-effort packet has not reached its destination within 1,000,000 ticks; it is dropped and reported with 0x0606. -/
  | bePacketTimeout (index : Nat)
  /-- UPDATE_STREAM_PACKET (R93): A best-effort packet of kind update stream delivers records to a bound stream in seq order. -/
  | updateStreamPacket (p : BeHeader) (data : List Byte)
  /-- GREY_LANE_RECORD (R82): A best-effort grey-lane record reaches the owner for policy-2 service. -/
  | greyLaneRecord (p : BeHeader) (data : List Byte)
  /-- GREY_LANE_RETURN (R83): A best-effort grey-lane return arrives; it completes the bag's partial slot or writes the row to the carry area. -/
  | greyLaneReturn (p : BeHeader) (data : List Byte)
  /-- PROMOTION_FETCH (R74): A best-effort promotion fetch is served by the owner of the row. -/
  | promotionFetch (p : BeHeader) (data : List Byte)
  /-- PROMOTION_DATA (R74): Best-effort promotion data arrives from a remote owner for installation. -/
  | promotionData (p : BeHeader) (data : List Byte)
  /-- FIRMWARE_MANAGEMENT (R214): A best-effort firmware-management packet is delivered to firmware. -/
  | firmwareManagement (p : BeHeader) (data : List Byte)
  /-- SYNC_MARKER (R189): A sync marker arrives; the servo updates offset and frequency, acquires or locks, and the port's neighbour offset is policed. -/
  | markerFlit (port frac : Nat) (fec : RxMark) (bytes : List Byte)
  /-- SYNC_MARKER_SEND (R188): In slot 0 of every 64th link frame a master or locked block sends its sync marker on every up port. -/
  | syncMarkerSend
  /-- MARKER_HOLDOVER (R193): No upstream marker has arrived for 4 marker periods; the block enters holdover. -/
  | markerHoldover
  /-- UNALIGNED (R193): A block has been in holdover for 60,000,000 ticks; it becomes unaligned and ends its group steps with 0x0404. -/
  | unaligned
  /-- MASTER_TAKEOVER (R195): A backup has heard no marker of lower rank for 4 + 4k periods; it becomes master. -/
  | masterTakeover
  /-- FLIP_ANNOUNCEMENT (R104): A flip announcement arrives; the block arms the flip if staging is sealed and T_f is still ahead. -/
  | flipFlit (port : Nat) (fec : RxMark) (bytes : List Byte)
  /-- SNAPSHOT_ANNOUNCEMENT (R200): A snapshot announcement arrives and arms a latch at T_s. -/
  | snapshotAnnouncement (port : Nat) (fec : RxMark) (bytes : List Byte)
  /-- DOMAIN_RESET_MESSAGE (R201): A domain reset message arrives and arms the reset at T_r. -/
  | resetFlit (port : Nat) (fec : RxMark) (bytes : List Byte)
  /-- RESET_DONE (R201): A reset-done message reaches the arming block; the reset completes once every block has reported. -/
  | resetDone (port : Nat) (fec : RxMark) (bytes : List Byte)
  /-- IDLE_INSERTION_MESSAGE (R202): An idle insertion message arrives and arms the insertion for its group. -/
  | idleInsertionMessage (port : Nat) (fec : RxMark) (bytes : List Byte)
  /-- SLIP_NOTICE (R222): A slip notice arrives and arms a slip at t_eff; notices with the same t_eff merge into one slip. -/
  | slipFlit (port : Nat) (fec : RxMark) (bytes : List Byte)
  /-- LINK_LOSS_NOTICE (R224): A link-loss notice arrives; the group's current step ends with 0x0602 at the effective tick. -/
  | linkLossNotice (port : Nat) (fec : RxMark) (bytes : List Byte)
  /-- STEP_ABANDON (R226): A step-abandon notice arrives; the block ends the same step with 0x0604. -/
  | abandonFlit (port : Nat) (fec : RxMark) (bytes : List Byte)
  /-- MANAGEMENT (R216): A management control message is delivered to firmware at its destination. -/
  | management (port : Nat) (fec : RxMark) (bytes : List Byte)
  /-- LINK_PCS_DOWN (R29): lk_pcs_up or lk_pcs_align falls on an up port; the port is marked out within 64 ticks as link loss. -/
  | linkPcsDown (port : Nat)
  /-- STACK_READ_BEAT (R403): A stack-port read beat arrives; a corrected beat is counted and an uncorrectable beat ends its reader's work. -/
  | stackReadBeat (stack recc : Nat) (reader : BeatReader) (addr : Nat)
  /-- STACK_READ_TIMEOUT (R415): A stack-port read has received no data for 65,536 ticks; the whole stack is marked lost. -/
  | stackReadTimeout (stack : Nat)
  /-- REFRESH_WINDOW (R25): At the start of a refresh window sp_ref_grant is pulsed on the named pseudo-channels. -/
  | refreshWindow (part index : Nat)
  /-- SP_REF_URGENT (R26): The controller asserts sp_ref_urgent; the lanes of the pseudo-channel stall and the event is counted unless it coincides with a grant. -/
  | spRefUrgent (stack pc : Nat) (coincident : Bool)
  /-- FUSE_LOAD (R394): Fuses are read into their shadow registers; amber stage begins and CP0 is released into the boot ROM. -/
  | fuseLoad
  /-- FLASH_READ (R387): The boot engine reads the record and image from flash into the boot store while computing SHA-384. -/
  | flashRead (answered : Bool)
  /-- VERIFY (R388): The bundle's checks run; on success the record is applied, the boot lock is set and CP0 jumps to the image, otherwise start awaits an image. -/
  | verify
  /-- FIRMWARE_START (R390): Firmware starts, releases CP1 to CP3 and begins HBM training. -/
  | firmwareStart
  /-- HBM_TRAIN_DONE (R22): sp_train_done is asserted; the stack is up. -/
  | hbmTrainDone (stack : Nat) (cfg : W32)
  /-- HBM_TRAIN_FAIL (R22): sp_train_fail is asserted, or 2 s pass without done; the stack is lost. -/
  | hbmTrainFail (stack : Nat)
  /-- BIST_AND_REPAIR (R392): BIST and scan run, the soft-repair map is built and applied, and the repair lock is set. -/
  | bistAndRepair (faults : List W32)
  /-- LINK_TRAINING (R392): Allowed ports train: delays and FIFO offsets are measured, and peers and flight are checked. -/
  | linkTraining (port flight : Nat) (echoes : List Nat) (peer : Coord) (peerPort : Nat)
  /-- LINK_PORT_UP (R392): A port completes training and comes up; the capability generation advances. -/
  | linkPortUp (port flight : Nat) (echoes : List Nat) (peer : Coord) (peerPort : Nat)
  /-- LINK_RETRY (R392): Every 10 s firmware retries training of untrained ports. -/
  | linkRetry
  /-- SYNC_WAIT_EVENT (R392): While start waits for time lock, firmware raises a sync-wait health event every 10 s. -/
  | syncWaitEvent
  /-- LOAD_STATE (R392): Firmware loads the bulk segment, creates default partitions, rewrites the capability table and sets green. -/
  | loadState (ok : Bool)
  /-- START_STATE_LIMIT (R390): A start state reaches its time limit; its units are marked out or lost, or start returns to awaiting image. -/
  | startStateLimit
  /-- START_HELD (R393): A pwr_state other than run during start moves start to the held state at the end of its current action. -/
  | startHeld
  /-- CAPABILITY_REWRITE_DONE (R264): A capability-table rewrite completes; busy clears and the generation rises. -/
  | capabilityRewriteDone
  /-- CP_HOLD_SET (R374): Setting a hold bit in CC_CP_CTL puts the processor into reset. -/
  | cpHoldSet (cp : Nat)
  /-- CP_HOLD_CLEAR (R374): Clearing a hold bit in CC_CP_CTL restarts the processor at its entry. -/
  | cpHoldClear (cp : Nat)
  /-- WATCHDOG_KICK (R375): A write of 1 to a watchdog kick bit restarts its period. -/
  | watchdogKick (cp : Nat)
  /-- WATCHDOG_EXPIRE (R375): A processor's watchdog expires; the processor restarts, its mailbox locks are released and pending mailboxes to it are acknowledged with 0x0910. -/
  | watchdogExpire (cp : Nat)
  /-- FIRMWARE_ACCESS (R377): A control-processor access is checked by the firmware limiter and performed, clipped or refused with a bus error. -/
  | firmwareAccess (cp : Nat) (a : FwAccess) (ecc : SramEcc)
  /-- FLASH_COMMAND_RELEASE (R378): A held program or erase command proceeds once no step runs on any partition. -/
  | flashCommandRelease
  /-- MAILBOX_LOCK_READ (R380): A read of a mailbox lock acquires a free lock for a sender, or returns the owner's number. -/
  | mailboxLockRead (who mailbox : Nat)
  /-- MAILBOX_RELEASE (R380): The owner writes the lock; the mailbox is released and its notice, done, code and pending are cleared. -/
  | mailboxRelease (who mailbox : Nat)
  /-- MAILBOX_RING (R381): The owner writes the doorbell; pending is set and the receiver is interrupted. -/
  | mailboxRing (who mailbox : Nat)
  /-- MAILBOX_ACK (R381): The receiver writes done and a return code; pending clears and the host may be interrupted. -/
  | mailboxAck (who mailbox : Nat) (code : Code)
  /-- MAILBOX_UNPOWERED (R382): A mailbox access while the control complex is powered down reads all-ones, drops writes and reports 0x0901. -/
  | mailboxUnpowered (mailbox : Nat) (write : Bool)
  /-- GET_STATUS (R383): The get-status mailbox command returns BC_START, the record words and the firmware version. -/
  | getStatus (mailbox : Nat)
  /-- PUSH_BUNDLE (R389): The push-bundle mailbox command copies a record and image from the window and runs the bundle checks. -/
  | pushBundle (mailbox : Nat)
  /-- FLASH_UPDATE (R383): The flash-update mailbox command writes a new record and image to flash. -/
  | flashUpdate (mailbox : Nat) (flashOk : Bool)
  /-- RETRAIN_PORT (R224): The retrain-port mailbox command retrains a marked-out port that no loaded program reserves. -/
  | retrainPort (mailbox : Nat) (trained : Bool) (flight : Nat) (echoes : List Nat)
  /-- DOMAIN_RESET (R383): The domain-reset mailbox command arms a domain reset and acknowledges when it completes. -/
  | domainReset (mailbox : Nat)
  /-- ARM_SNAPSHOT (R383): The arm-snapshot mailbox command arms a snapshot latch. -/
  | armSnapshot (mailbox : Nat)
  /-- ADD_SOFT_REPAIR (R396): The add-soft-repair mailbox command adds an entry to the pending store, or is refused when the store is full. -/
  | addSoftRepair (mailbox : Nat)
  /-- COMMAND_UNKNOWN (R383): An undefined mailbox command is acknowledged with 0x090C. -/
  | commandUnknown (mailbox : Nat)
  /-- SNAPSHOT_ARM (R198): A write of 1 to snap_arm arms a block or domain snapshot at TB_SNAP_AT, or is refused for short lead. -/
  | snapshotArm
  /-- DOMAIN_RESET_ARM (R201): A write of 1 to reset_go arms and announces a domain reset at now plus B. -/
  | domainResetArm
  /-- NOC_OWNERSHIP_WRITE (R205): A write to TB_NOC_OWN assigns NoC offsets for the next step boundary, or is ignored beyond 384 owned offsets. -/
  | nocOwnershipWrite (word : Nat) (value : W32)
  /-- SLOT_OWNERSHIP_WRITE (R210): A write to LK_SLOT_OWN assigns link slots for the next step boundary. -/
  | slotOwnershipWrite (port word : Nat) (value : W32)
  /-- TRANSLATION_WALK (R341): A TLB miss is walked through the stage-1 and stage-2 tables; the translation is installed or the walk faults. -/
  | translationWalk (w : WalkRequest) (ecc : SramEcc)
  /-- PAGE_REQUEST_RESPONSE (R358): A write to TU_PRESP answers a page request; the attached engines walk again or their copies fail with 0x0207. -/
  | pageRequestResponse (value : W32)
  /-- FAULT_RECORD_WRITE (R357): A held fault record is written to the fault queue when room appears. -/
  | faultRecordWrite
  /-- ACCESS_COUNTER_DECAY (R364): Every 2^decay_log2 ticks every access counter halves. -/
  | accessCounterDecay
  /-- AC_CLEAR (R365): A write to TU_AC_CLEAR with an index zeroes that counter and its notified bit. -/
  | acClear (index : Nat)
  /-- AC_CLEAR_ALL (R365): A write to TU_AC_CLEAR with all set zeroes every counter and notified bit. -/
  | acClearAll
  /-- MIRROR_GO (R360): A write of 1 to go starts a mirror copy into the translation region, or refuses it. -/
  | mirrorGo
  /-- MIRROR_DONE (R360): A mirror copy has written every byte; go reads 0. -/
  | mirrorDone
  /-- INVALIDATE_ALL (R362): A TU_INV_CTL write with scope 0 queues removal of every cached translation. -/
  | invalidateAll
  /-- INVALIDATE_PASID (R362): A TU_INV_CTL write with scope 1 queues removal of a PASID's entries. -/
  | invalidatePasid (pasid : Nat)
  /-- INVALIDATE_PASID_RANGE (R362): A TU_INV_CTL write with scope 2 queues removal of a PASID's entries in a VA range. -/
  | invalidatePasidRange (pasid : Nat)
  /-- INVALIDATE_DOMAIN (R362): A TU_INV_CTL write with scope 3 queues removal of a stage-2 domain's entries. -/
  | invalidateDomain (domain : Nat)
  /-- INVALIDATE_DOMAIN_RANGE (R362): A TU_INV_CTL write with scope 4 queues removal of a domain's entries with walk-cache entries in an IPA range. -/
  | invalidateDomainRange (domain : Nat)
  /-- INVALIDATE_PASID_ENTRY (R362): A TU_INV_CTL write with scope 5 queues removal of a PASID's entries and its cached PASID-table entry. -/
  | invalidatePasidEntry (pasid : Nat)
  /-- INVALIDATION_COMPLETE (R363): A queued invalidation has removed, drained and refreshed everything in its scope; its sequence number completes. -/
  | invalidationComplete
  /-- FORERUNNER_MODE_SET (R366): A write to TU_MODE while all contexts are free enters or leaves forerunner compatibility mode. -/
  | forerunnerModeSet (on : Bool)
  /-- TRANSLATION_REGION_SET (R336): A write to TU_REGION names the translation region, and is ignored if it names pages owned by a partition. -/
  | translationRegionSet (value : W32)
  /-- KEY_SLOT_LOAD (R346): An MP_KEY_CTL write with load loads MP_KEY_DATA into a key slot once earlier accesses complete. -/
  | keySlotLoad (slot : Nat)
  /-- KEY_SLOT_CLEAR (R346): An MP_KEY_CTL write with clear empties a key slot and zeroes its keys once earlier accesses complete. -/
  | keySlotClear (slot : Nat)
  /-- KEY_SLOT_EFFECT (R346): Earlier stack-port accesses complete; the load or clear takes effect and busy clears. -/
  | keySlotEffect
  /-- CE_COUNTER_HALVING (R408): Every 2^41 ticks every corrected-error counter halves. -/
  | ceCounterHalving
  /-- ASH_TEST (R412): A unit's known-answer test falls due and runs in free slots, or at a free core boundary. -/
  | ashTest (unit : Nat) (deferred : Bool)
  /-- ASH_TEST_RESULT (R414): A known-answer test completes; a failure marks a lane or port out, or queues a repair for a core, and raises an event. -/
  | ashTestResult (unit : Nat) (pass : Bool) (repair : W32)
  /-- ASH_WATCH_SET (R413): An HP_ASH_SET write with set places a unit on ash watch. -/
  | ashWatchSet (unit : Nat)
  /-- ASH_WATCH_CLEAR (R413): An HP_ASH_SET write with clear removes a unit from ash watch. -/
  | ashWatchClear (unit : Nat)
  /-- UNIT_MARK_OUT (R415): An HP_UNIT_OUT write with go marks a core, lane, stack or port out, ending the steps that use it. -/
  | unitMarkOut (unit : Nat)
  /-- DIGEST_GO (R410): A write of 1 to HP_DIGEST_CTL go checks the range and starts a weight digest. -/
  | digestGo
  /-- DIGEST_DONE (R409): The digest engine finishes; the status and the 128-bit result are set and go reads 0. -/
  | digestDone
  /-- POWER_WINDOW (R417): At each 1 ms window boundary the budget is applied, r is updated, idle insertions are armed and the backstop is judged. -/
  | powerWindow (watts : Nat)
  /-- LINK_LOSS_EFFECTIVE_TICK (R224): At the effective tick t_o + G of a link loss, every block of each group whose current step reserves the lost port ends that step with 0x0602. -/
  | linkLossEffectiveTick (part : Nat)
  /-- READINESS_DEADLINE (R5): At a group step's readiness deadline, the launch tick less G, readiness is judged and an unready launch issues a slip notice with t_eff equal to the launch tick. -/
  | readinessDeadline (part : Nat)
  /-- PARTITION_RESET_DONE (R261): A partition reset started by the destroy watchdog or an instance-reset bound completes in time; fetch resumes for the partition's other contexts and the forced destroy completes with 0x0806. -/
  | partitionResetDone (part : Nat)
  /-- WRAPPER_INSTRUCTION_UPDATE (R46): An update of the IEEE 1500 wrapper instruction register loads the shifted instruction, or BYPASS when strap_test_en was low at por_n rise or the repair lock is set. -/
  | wrapperInstructionUpdate (instruction : Nat)
  /-- POWERED_DOWN_DOMAIN_ACCESS (R20): A BAR0 access reaches a unit whose clock domain is powered down; reads return 0xFFFF_FFFF per word, writes are dropped and class 0x09 is reported. -/
  | poweredDownDomainAccess (offset : Nat) (write : Bool)
  deriving DecidableEq, Repr, Inhabited

end Sys2Proof
end

