-- ==== Sys2Proof/Config.lean ====
section
/-! DEFINITION. What the spec leaves free: constants without a body, so that no proof can see their values. -/

namespace Sys2Proof

/-- R151, R172 (log 4): lane `lane` of vector register `r` whose value the spec calls undefined; `seed` tells one task start
or yield from another. -/
opaque Config.freeLane : (seed r lane : Nat) → BitVec 32

/-- R172 (log 4): a statistics register that a yield did not preserve. -/
opaque Config.freeStat : (seed index : Nat) → BitVec 32

/-- R167 (log 7): the fixed function that a special vector operation computes, by its op code; the spec bounds its error and
does not state its value. -/
opaque Config.special : (op : Nat) → (x : BitVec 32) → BitVec 32


/-- R5 (log 16): whether the control path has a launch's staging complete at its readiness deadline, for the `n`-th judgement. -/
opaque Config.prepared : (n : Nat) → Bool

/-- R368 (log 42): the page requests that the host has allocated in the PRI capability, which is outside the block. -/
opaque Config.priAllocation : Nat

/-- R132, R424 (log 10): the sign and the fraction of the NaN that a NaN word becomes in E5M2 or BF16, by its format code; the
spec says that it stays a NaN and does not give its code. -/
opaque Config.nanCode : (fmt : Nat) → (word : BitVec 32) → BitVec 16

/-- The `n`-th free value that a command takes (log 9). -/
opaque Config.freeValue : Nat → BitVec 64

end Sys2Proof
end

