-- ==== Sys2Proof/Machine/SMap.lean ====
section
/-! DEFINITION. Sparse maps, byte memories, and the byte-order and bit-field helpers of R9. -/

namespace Sys2Proof.Machine

variable {α : Type}

/-- The value at a key. -/
def mfind (m : SMap α) (k : Nat) : Option α :=
  match m with
  | [] => none
  | (j, x) :: r => if j = k then some x else mfind r k

/-- Put a value at a key, keys rising. -/
def mput (m : SMap α) (k : Nat) (v : α) : SMap α :=
  match m with
  | [] => [(k, v)]
  | (j, x) :: r => if j = k then (k, v) :: r else if k < j then (k, v) :: (j, x) :: r else (j, x) :: mput r k v

/-- Remove a key. -/
def mdel (m : SMap α) (k : Nat) : SMap α :=
  match m with
  | [] => []
  | (j, x) :: r => if j = k then mdel r k else (j, x) :: mdel r k

/-- Change the value at a key that is present. -/
def mupd (m : SMap α) (k : Nat) (f : α → α) : SMap α :=
  match mfind m k with
  | none => m
  | some x => mput m k (f x)

/-- The keys present. -/
def mkeys (m : SMap α) : List Nat := m.map (·.1)

/-- The value at a key, `d` when it is not listed. -/
def mgetD (d : α) (m : SMap α) (k : Nat) : α := (mfind m k).getD d

/-- Set the value at a key; the value `d` is not listed. -/
def msetD [DecidableEq α] (d : α) (m : SMap α) (k : Nat) (v : α) : SMap α :=
  if v = d then mdel m k else mput m k v

/-- The value at a key, the type's default when it is not listed. -/
def mget [Inhabited α] (m : SMap α) (k : Nat) : α := mgetD default m k

/-- Set the value at a key; the type's default is not listed. -/
def mset [DecidableEq α] [Inhabited α] (m : SMap α) (k : Nat) (v : α) : SMap α := msetD default m k v

/-- Change the value at a key. -/
def mmod [DecidableEq α] [Inhabited α] (m : SMap α) (k : Nat) (f : α → α) : SMap α := mset m k (f (mget m k))

/-- Keys strictly rising, all above `lo`. -/
def risingFrom (lo : Nat) (m : SMap α) : Bool :=
  match m with
  | [] => true
  | (j, _) :: r => decide (lo < j) && risingFrom j r

/-- Keys strictly rising. -/
def rising (m : SMap α) : Bool :=
  match m with
  | [] => true
  | (j, _) :: r => risingFrom j r

/-- The canonical form of a memory: addresses strictly rising, no entry equal to 0, which an unlisted byte reads as
(DESIGN CHOICE, log 1). -/
def Memory.wf (m : List Host.Cell) : Bool := rising m && m.all (fun c => decide (c.2 ≠ 0))

/-- Read a byte. -/
def rd8 (m : List Host.Cell) (a : Nat) : Byte := mgetD 0 m a

/-- Write a byte. -/
def wr8 (m : List Host.Cell) (a : Nat) (b : Byte) : List Host.Cell := msetD 0 m a b

/-- Read `n` consecutive bytes. -/
def rdBytes (m : List Host.Cell) (a n : Nat) : List Byte := (List.range n).map (fun i => rd8 m (a + i))

/-- Write consecutive bytes. -/
def wrBytes (m : List Host.Cell) (a : Nat) (bs : List Byte) : List Host.Cell :=
  match bs with
  | [] => m
  | b :: r => wrBytes (wr8 m a b) (a + 1) r

/-- Clear every byte of `[lo, lo + n)`. -/
def clearBytes (m : List Host.Cell) (lo n : Nat) : List Host.Cell := m.filter (fun c => !(decide (lo ≤ c.1) && decide (c.1 < lo + n)))

/-- R9: the number that bytes hold, little-endian. -/
def leNat (bs : List Byte) : Nat :=
  match bs with
  | [] => 0
  | b :: r => b.toNat + 256 * leNat r

/-- R9: the `n` bytes of a number, little-endian. -/
def leBytes (n v : Nat) : List Byte :=
  match n with
  | 0 => []
  | k + 1 => BitVec.ofNat 8 v :: leBytes k (v / 256)

/-- Read an `n`-byte number. -/
def rdLE (m : List Host.Cell) (a n : Nat) : Nat := leNat (rdBytes m a n)

/-- Write an `n`-byte number. -/
def wrLE (m : List Host.Cell) (a n v : Nat) : List Host.Cell := wrBytes m a (leBytes n v)

/-- Bits `[lo + w - 1 : lo]` of a number. -/
def bits (v lo w : Nat) : Nat := v / 2 ^ lo % 2 ^ w

/-- Bit `i` of a number. -/
def bit (v i : Nat) : Bool := v / 2 ^ i % 2 == 1

/-- Replace bits `[lo + w - 1 : lo]` of a number. -/
def setBits (v lo w x : Nat) : Nat := v - bits v lo w * 2 ^ lo + x % 2 ^ w * 2 ^ lo

/-- A Boolean as a bit. -/
def b2n (b : Bool) : Nat := if b then 1 else 0

/-- The `n`-byte number at offset `off` of a byte list; bytes beyond its end read 0. -/
def fieldAt (bs : List Byte) (off n : Nat) : Nat := leNat ((bs.drop off).take n)

/-- Replace bytes of a list from an offset; the list is lengthened with zeros if it is short. -/
def putAt (bs : List Byte) (off : Nat) (x : List Byte) : List Byte :=
  let p := bs ++ List.replicate (off - bs.length) 0
  p.take off ++ x ++ p.drop (off + x.length)

/-- Two's-complement value of the low `w` bits of a number. -/
def sx (w v : Nat) : Int :=
  let u := v % 2 ^ w
  if u < 2 ^ (w - 1) then (u : Int) else (u : Int) - 2 ^ w

/-- The low `w` bits of an integer. -/
def low (w : Nat) (v : Int) : Nat := (v % (2 ^ w : Int)).toNat

/-- `⌈a / b⌉`. -/
def cdiv (a b : Nat) : Nat := (a + b - 1) / b

/-- Add without passing a bound. -/
def satAdd (bound a b : Nat) : Nat := min bound (a + b)

/-- Lowest number below `n` with a property. -/
def firstBelow (n : Nat) (p : Nat → Bool) : Option Nat := (List.range n).find? p

/-- The numbers of the bits set in a mask, rising, below `n`. -/
def maskList (n mask : Nat) : List Nat := (List.range n).filter (fun i => bit mask i)

/-- Number of bits set below `n`. -/
def popc (n mask : Nat) : Nat := (maskList n mask).length

/-- Apply a function for every number below `n`, rising. -/
def iter {σ : Type} (n : Nat) (f : Nat → σ → σ) (s : σ) : σ := (List.range n).foldl (fun s i => f i s) s

/-- Apply a function for every element. -/
def each {σ β : Type} (l : List β) (f : β → σ → σ) (s : σ) : σ := l.foldl (fun s i => f i s) s

/-- A signed number within bounds. -/
def clampInt (lo hi v : Int) : Int := if v < lo then lo else if hi < v then hi else v

end Sys2Proof.Machine
end

