-- ==== Sys2Proof/Machine/Float.lean ====
section
/-! DEFINITION. Number formats (R126, R127, R161) and exact arithmetic on their values, with round-to-nearest-even
conversion. -/

namespace Sys2Proof.Machine

/-- A value: NaN, an infinity, or `(-1)^neg * m * 2^e`. -/
inductive FVal where
  | nan
  | inf (neg : Bool)
  | fin (neg : Bool) (m : Nat) (e : Int)
  deriving DecidableEq, Repr, Inhabited

/-- A binary floating-point format: exponent field and fraction widths, the exponent of its smallest step, the largest
finite magnitude, whether a larger magnitude is an infinity (exactly `maxMag + 1`) or NaN, whether it has NaN at all. -/
structure FFmt where
  fracBits : Nat
  step : Int
  maxMag : Nat
  hasInf : Bool
  hasNan : Bool
  signBit : Nat
  deriving DecidableEq, Repr, Inhabited

def fmtF32 : FFmt := ⟨23, -149, 0x7F7FFFFF, true, true, 31⟩
def fmtBF16 : FFmt := ⟨7, -133, 0x7F7F, true, true, 15⟩
def fmtE4M3 : FFmt := ⟨3, -9, 0x7E, false, true, 7⟩
def fmtE5M2 : FFmt := ⟨2, -16, 0x7B, true, true, 7⟩
def fmtE2M3 : FFmt := ⟨3, -3, 0x1F, false, false, 5⟩
def fmtE3M2 : FFmt := ⟨2, -4, 0x1F, false, false, 5⟩
def fmtE2M1 : FFmt := ⟨1, -1, 0x7, false, false, 3⟩
/-- IEEE 754 half precision (the row scales of R63). -/
def fmtF16 : FFmt := ⟨10, -24, 0x7BFF, true, true, 15⟩

/-- The value of a code. -/
def FFmt.decode (f : FFmt) (c : Nat) : FVal :=
  let neg := bit c f.signBit
  let mag := c % 2 ^ f.signBit
  if f.maxMag < mag then (if f.hasInf && mag == f.maxMag + 1 then .inf neg else .nan)
  else if mag < 2 ^ f.fracBits then .fin neg mag f.step
  else .fin neg (2 ^ f.fracBits + mag % 2 ^ f.fracBits) (f.step + (mag / 2 ^ f.fracBits : Nat) - 1)

/-- The integer nearest to `m * 2^e / 2^g`, ties to even. -/
def rne (m : Nat) (e g : Int) : Nat :=
  if g ≤ e then m * 2 ^ (e - g).toNat
  else
    let d := 2 ^ (g - e).toNat
    let q := m / d
    let r := m % d
    if 2 * r < d then q else if d < 2 * r then q + 1 else q + q % 2

/-- `⌊log2 m⌋` of a positive number. -/
def log2 (m : Nat) : Nat := Nat.log2 m

/-- The magnitude code nearest to `m * 2^e` (ties to even), as if the exponent field had no upper end. -/
def FFmt.magnitude (f : FFmt) (m : Nat) (e : Int) : Nat :=
  if m = 0 then 0
  else
    let g : Int := max f.step ((log2 m : Int) + e - f.fracBits)
    rne m e g + (g - f.step).toNat * 2 ^ f.fracBits

/-- The sign bit of a code. -/
def FFmt.sgn (f : FFmt) (neg : Bool) : Nat := if neg then 2 ^ f.signBit else 0

/-- R167, R129: the NaN that is produced. -/
def nan32 : BitVec 32 := 0x7FC00000

/-- Round to IEEE FP32. -/
def toF32 (v : FVal) : BitVec 32 :=
  match v with
  | .nan => nan32
  | .inf neg => BitVec.ofNat 32 (fmtF32.sgn neg + 0x7F800000)
  | .fin neg m e => BitVec.ofNat 32 (fmtF32.sgn neg + min 0x7F800000 (fmtF32.magnitude m e))

/-- The value of an FP32 word. -/
def ofF32 (w : BitVec 32) : FVal := fmtF32.decode w.toNat

/-- Is the word a NaN? -/
def isNan32 (w : BitVec 32) : Bool := decide (0x7F800000 < w.toNat % 2 ^ 31)

def FVal.isNan (v : FVal) : Bool := match v with | .nan => true | _ => false
def FVal.isZero (v : FVal) : Bool := match v with | .fin _ 0 _ => true | _ => false
def FVal.isInf (v : FVal) : Bool := match v with | .inf _ => true | _ => false

def FVal.neg (v : FVal) : FVal :=
  match v with
  | .nan => .nan
  | .inf n => .inf (!n)
  | .fin n m e => .fin (!n) m e

/-- Two dyadic numbers as integers over their smaller exponent. -/
def align (a : Int) (ea : Int) (b : Int) (eb : Int) : Int × Int × Int :=
  let e := min ea eb
  (a * 2 ^ (ea - e).toNat, b * 2 ^ (eb - e).toNat, e)

def sgnInt (neg : Bool) (m : Nat) : Int := if neg then -(m : Int) else m

/-- The value of a signed dyadic number, +0 when it is zero. -/
def dyadic (a e : Int) : FVal := .fin (decide (a < 0)) a.natAbs e

/-- Exact sum, under IEEE 754: an exact zero sum of opposite signs is +0. -/
def FVal.add (x y : FVal) : FVal :=
  match x, y with
  | .nan, _ => .nan
  | _, .nan => .nan
  | .inf a, .inf b => if a = b then .inf a else .nan
  | .inf a, _ => .inf a
  | _, .inf b => .inf b
  | .fin a m e, .fin b n f =>
    if m = 0 ∧ n = 0 then .fin (a && b) 0 0
    else
      let (p, q, g) := align (sgnInt a m) e (sgnInt b n) f
      dyadic (p + q) g

/-- Exact product, under IEEE 754. -/
def FVal.mul (x y : FVal) : FVal :=
  match x, y with
  | .nan, _ => .nan
  | _, .nan => .nan
  | .inf a, .inf b => .inf (a != b)
  | .inf a, .fin b n _ => if n = 0 then .nan else .inf (a != b)
  | .fin a m _, .inf b => if m = 0 then .nan else .inf (a != b)
  | .fin a m e, .fin b n f => .fin (a != b) (m * n) (e + f)

/-- x < y; false with a NaN. -/
def FVal.lt (x y : FVal) : Bool :=
  match x, y with
  | .nan, _ => false
  | _, .nan => false
  | .inf a, .inf b => a && !b
  | .inf a, .fin _ _ _ => a
  | .fin _ _ _, .inf b => !b
  | .fin a m e, .fin b n f =>
    let (p, q, _) := align (sgnInt a m) e (sgnInt b n) f
    decide (p < q)

/-- x = y; false with a NaN; -0 = +0. -/
def FVal.eqv (x y : FVal) : Bool := !x.isNan && !y.isNan && !x.lt y && !y.lt x

def FVal.isNeg (v : FVal) : Bool :=
  match v with
  | .nan => false
  | .inf n => n
  | .fin n _ _ => n

/-- Times a power of two. -/
def FVal.scale (v : FVal) (k : Int) : FVal :=
  match v with
  | .fin n m e => .fin n m (e + k)
  | w => w

def FVal.abs (v : FVal) : FVal :=
  match v with
  | .nan => .nan
  | .inf _ => .inf false
  | .fin _ m e => .fin false m e

/-- FP32 addition. -/
def addF32 (a b : BitVec 32) : BitVec 32 := toF32 ((ofF32 a).add (ofF32 b))

/-- R129, R131: an addition in the array or the drain, where an exact zero is +0. -/
def addArr (a b : BitVec 32) : BitVec 32 :=
  let r := addF32 a b
  if r = 0x80000000 then 0 else r

/-- R166: the larger; a NaN in either gives NaN; max(-0, +0) = +0. -/
def maxF32 (a b : BitVec 32) : BitVec 32 :=
  if isNan32 a || isNan32 b then nan32
  else if (ofF32 a).lt (ofF32 b) then b else if (ofF32 b).lt (ofF32 a) then a else if (ofF32 a).isNeg then b else a

/-- R166: the smaller; a NaN in either gives NaN; min(-0, +0) = -0. -/
def minF32 (a b : BitVec 32) : BitVec 32 :=
  if isNan32 a || isNan32 b then nan32
  else if (ofF32 a).lt (ofF32 b) then a else if (ofF32 b).lt (ofF32 a) then b else if (ofF32 a).isNeg then a else b

/-- The integer nearest to a finite value, ties to even. -/
def roundInt (neg : Bool) (m : Nat) (e : Int) : Int := sgnInt neg (rne m e 0)

/-- R161: does the code name an integer format (INT8, INT4, INT32)? MXINT8 is a float format (R127). -/
def isIntFmt (f : Nat) : Bool := f == 2 || f == 3 || f == 0xF

/-- R161: does the code name an MX format? -/
def isMx (f : Nat) : Bool := decide (8 ≤ f ∧ f ≤ 0xD)

/-- R161: the element format behind a format code. -/
def elemFmt (f : Nat) : Nat :=
  match f with
  | 8 => 0 | 9 => 1 | 10 => 4 | 11 => 5 | 12 => 6 | 13 => 2 | g => g

/-- R126: bits of an element. -/
def elemBits (f : Nat) : Nat :=
  match elemFmt f with
  | 3 => 4 | 4 => 6 | 5 => 6 | 6 => 4 | 7 => 16 | 14 => 32 | 15 => 32 | _ => 8

/-- The floating-point format of a float element code. -/
def elemF (f : Nat) : FFmt :=
  match elemFmt f with
  | 0 => fmtE4M3 | 1 => fmtE5M2 | 4 => fmtE2M3 | 5 => fmtE3M2 | 6 => fmtE2M1 | 7 => fmtBF16 | _ => fmtF32

/-- The value of an element code (R127: MXINT8 carries 2^-6), scales aside. -/
def elemVal (f c : Nat) : FVal :=
  match elemFmt f with
  | 2 => if f = 13 then dyadic (sx 8 c) (-6) else dyadic (sx 8 c) 0
  | 3 => dyadic (sx 4 c) 0
  | 15 => dyadic (sx 32 c) 0
  | _ => (elemF f).decode (c % 2 ^ elemBits f)

/-- R132: the code written for the NaN word `word` in format `f`. E4M3 has one NaN of each sign, and the sign is kept (DEDUCED,
log 10). The quiet NaN of R130 and R167 is a BF16 value and keeps its code there (DEDUCED, log 10). Every other BF16 NaN and
every E5M2 NaN is some NaN of the format (a free value, log 10). FP6 and FP4 write +0 (R424). -/
def nanElem (f : Nat) (word : BitVec 32) : Nat :=
  let g := elemF f
  let free := Config.nanCode (elemFmt f) word
  match elemFmt f with
  | 0 => g.sgn (bit word.toNat 31) + 0x7F
  | 1 => g.sgn (bit free.toNat 15) + 0x7D + free.toNat % 3
  | 7 => if word = nan32 then 0x7FC0 else g.sgn (bit free.toNat 15) + 0x7F81 + free.toNat % 127
  | 14 => word.toNat
  | _ => 0

/-- R132: a finite magnitude above 448, which E4M3 clamps though it may round to 448. -/
def above448 (f m : Nat) (e : Int) : Bool := elemFmt f == 0 && (FVal.fin false 448 0).lt (.fin false m e)

/-- R132: convert to a float output format; the flag is a clamp to a saturation limit. FP8 and BF16 follow R132; FP6 and FP4
follow R424. `word` is the FP32 word that holds the value, where that is a NaN. -/
def convF (f : Nat) (v : FVal) (word : BitVec 32) : Nat × Bool :=
  let g := elemF f
  match v with
  | .nan => (nanElem f word, false)
  | .inf neg =>
    if g.hasInf then (g.sgn neg + g.maxMag + 1, false) else (g.sgn neg + g.maxMag, true)
  | .fin neg m e =>
    let mag := g.magnitude m e
    if g.maxMag < mag then
      (if elemFmt f == 7 || elemFmt f == 14 then (g.sgn neg + g.maxMag + 1, false) else (g.sgn neg + g.maxMag, true))
    else (g.sgn neg + mag, above448 f m e)

/-- R132: quantise to `[lo, hi]`: the exact product with the scale, rounded, plus the zero point; the flag is a clamp. -/
def quant (x scale : FVal) (z lo hi : Int) : Int × Bool :=
  match x.mul scale with
  | .nan => (clampInt lo hi z, decide (z < lo ∨ hi < z))
  | .inf neg => (if neg then lo else hi, true)
  | .fin neg m e =>
    let q := roundInt neg m e + z
    (clampInt lo hi q, decide (q < lo ∨ hi < q))

/-- An FP32 word to INT32: round to nearest even, saturating; NaN gives 0 (R166). -/
def f32ToI32 (w : BitVec 32) : BitVec 32 :=
  match ofF32 w with
  | .nan => 0
  | .inf neg => if neg then 0x80000000 else 0x7FFFFFFF
  | .fin neg m e => BitVec.ofInt 32 (clampInt (-2147483648) 2147483647 (roundInt neg m e))

/-- An INT32 word to FP32. -/
def i32ToF32 (w : BitVec 32) : BitVec 32 := toF32 (dyadic w.toInt 0)

/-- The largest power-of-two exponent of an element format (R167). -/
def emaxOf (f : Nat) : Int :=
  match elemFmt f with
  | 0 => 8 | 1 => 15 | 4 => 2 | 5 => 4 | 6 => 2 | _ => 0

end Sys2Proof.Machine
end

