-- ==== Sys2Proof/Machine/State.lean ====
section
/-! DEFINITION. The state of Jujor as plain data, every piece of it with its value at reset, and the reasons a command
can stop. -/

namespace Sys2Proof.Machine

/-- The fuses (R394), programmed on the tester only (R46); the chip's own constants, copied to the shadows at FUSE_LOAD. -/
structure Fuses where
  /-- R394: serial number (reset value: DESIGN CHOICE, log 2). -/
  serial : BitVec 64 := 0
  /-- R399: stepping (reset value: DESIGN CHOICE, log 2). -/
  stepping : BitVec 8 := 0
  /-- R394: variant, 0 L, 1 M, 2 S (reset value: DESIGN CHOICE, log 2). -/
  variant : Variant := .jujorL
  /-- R394: unit-present mask of the cores (reset value: DESIGN CHOICE, log 2). -/
  coresPresent : BitVec 64 := 0xFFFFFFFFFFFFFFFF
  /-- R394: unit-present mask of the stack groups (reset value: DESIGN CHOICE, log 2). -/
  stacksPresent : BitVec 20 := 0xFFFFF
  /-- R394: unit-present mask of the link ports (reset value: DESIGN CHOICE, log 2). -/
  portsPresent : BitVec 60 := 0xFFFFFFFFFFFFFFF
  /-- R394: fused repairs reported in MF_REPAIR[c] (reset value: DESIGN CHOICE, log 2). -/
  mfRepair : SMap (BitVec 32) := []
  /-- R394: fused lane spares per stack group (EE_SG_SPARES) (reset value: DESIGN CHOICE, log 2). -/
  sparesUsed : SMap Nat := []
  /-- R394: fused power ceiling in watts (reset value: DESIGN CHOICE, log 2). -/
  powerCeiling : Nat := 650
  /-- R417: fused idle power P_idle in watts (reset value: DESIGN CHOICE, log 2). -/
  idleW : Nat := 180
  /-- R394: the 48-byte key hash (reset value: DESIGN CHOICE, log 2). -/
  keyHash : BitVec 384 := 0
  /-- R394: minimum security version (reset value: DESIGN CHOICE, log 2). -/
  minSecurity : BitVec 32 := 0
  deriving DecidableEq, Repr, Inhabited

/-- A partition block (R308). -/
structure PartBlock where
  /-- R308: partition. -/
  partition : Nat := 0
  /-- R308: core_mask. -/
  coreMask : BitVec 64 := 0
  /-- R308: lane-unit mask. -/
  luMask : BitVec 80 := 0
  /-- R308: slice length in units of 1,024 ticks. -/
  sliceUnits : Nat := 684
  /-- R308: slowdown threshold. -/
  slowThr : Nat := 1250
  deriving DecidableEq, Repr, Inhabited

/-- The configuration record's values in force after VERIFY (R384, R385). -/
structure ConfigRecord where
  /-- R388: a bundle has been accepted in this start. -/
  present : Bool := false
  /-- R385: topology: domain member. -/
  domainMember : Bool := false
  /-- R385: topology: express skip s. -/
  skip : Nat := 8
  /-- R385: topology: this block's coordinates. -/
  coord : Coord := {}
  /-- R385: topology: the domain extents. -/
  extent : Coord := { x := 1, y := 1, z := 1 }
  /-- R385: topology: master and backups, ranks 0 to 3. -/
  ranks : List (Option Coord) := []
  /-- R385: topology: time pulse enabled. -/
  tpulseEn : Bool := false
  /-- R385: topology: pulse period in seconds. -/
  pulseP : Nat := 1
  /-- R385: port map: allowed mask. -/
  allowed : BitVec 60 := 0
  /-- R385: port map: expected peer coordinates and peer port. -/
  expected : SMap (Coord × Nat) := []
  /-- R385: clock plan: domain-off mask. -/
  domainOff : BitVec 40 := 0
  /-- R385: clock plan: cluster ramp interval in TCLK cycles. -/
  ramp : Nat := 10000
  /-- R385: partition defaults. -/
  partitions : List PartBlock := []
  /-- R385: repair section. -/
  repairs : List (BitVec 32) := []
  /-- R384: record_bytes. -/
  recordBytes : Nat := 0
  /-- R384: security_version. -/
  securityVersion : Nat := 0
  /-- R386: firmware version of the image. -/
  fwVersion : Nat := 0
  /-- R384: where the image begins in the boot store. -/
  imageOffset : Nat := 0
  /-- R386: image entry, a control SRAM address. -/
  entry : Nat := 0
  /-- R386: resident segment length. -/
  residentBytes : Nat := 0
  /-- R386: bulk segment length. -/
  bulkBytes : Nat := 0
  deriving DecidableEq, Repr, Inhabited

/-- The addressed memories outside the cores; every unlisted byte reads 0. -/
structure Memories where
  /-- R304: the HBM stacks' bytes by physical address (ciphertext on encrypted pages) (reset value: DESIGN CHOICE, log 1). -/
  hbm : List Host.Cell := []
  /-- R334: host memory as the host port reaches it (the far side of the boundary) (reset value: DESIGN CHOICE, log 1). -/
  host : List Host.Cell := []
  /-- R387: serial flash contents (reset value: DESIGN CHOICE, log 1). -/
  flash : List Host.Cell := []
  /-- R387: boot store SRAM (reset value: DESIGN CHOICE, log 1). -/
  bootStore : List Host.Cell := []
  /-- R373: control SRAM (reset value: DESIGN CHOICE, log 1). -/
  ctrlSram : List Host.Cell := []
  /-- R65: PQ codebook SRAM (the same units in every stack group) (reset value: DESIGN CHOICE, log 1). -/
  codebook : List Host.Cell := []
  deriving DecidableEq, Repr, Inhabited

/-- Pins and boundary state. -/
structure Boundary where
  /-- R41: module power present (reset value: DESIGN CHOICE, log 3). -/
  powered : Bool := true
  /-- R37: por_n is low: the block is in cold reset. -/
  porLow : Bool := true
  /-- R38: a qualified wrst_req still holds the block in warm reset. -/
  warmHeld : Bool := false
  /-- R33: every domain but the always-on ones is stopped. -/
  clockLost : Bool := false
  /-- R47: jj_alive. -/
  alive : Bool := true
  /-- R390: jj_stage: 0 not ready, 1 amber, 2 green. -/
  stage : Nat := 0
  /-- R47: the host port answers (amber or green). -/
  hostAnswers : Bool := false
  /-- R48: how many times the absent face was entered: forwarded requests completed with all-ones, in-flight DMA discarded (the model's own field). -/
  absentCompletions : Nat := 0
  /-- R40: prepare-off: the front end fetches no descriptor. -/
  fetchStopped : Bool := false
  /-- R40: off: no new action. -/
  noAction : Bool := false
  /-- R40: prepare-off in progress. -/
  prepareOff : Bool := false
  /-- R40: a captured budget awaits the next power window. -/
  budgetPending : Bool := false
  /-- R40: a captured budget has been applied since the cold reset. -/
  budgetApplied : Bool := false
  /-- R42: therm_alarm_n is held active and the throttle is held. -/
  thermActive : Bool := false
  /-- R420: gated ticks of every 8, g. -/
  thermGate : Nat := 0
  /-- R44: TCLK cycle of the last accepted tpulse edge. -/
  lastTpulse : Option Nat := none
  /-- R330: instance resets in progress: function, tick at which each began, and the reset-instance command (none for hp_flr). -/
  instResets : List (Nat × Nat × Option Nat) := []
  /-- R21: hp_flr_done. -/
  flrDone : BitVec 16 := 0
  /-- R330: functions that issue no request until a context is bound again. -/
  fnSilent : BitVec 16 := 0
  /-- R369: hp_ats_inv_done. -/
  atsInvDone : Bool := false
  /-- R46: IEEE 1500 wrapper instruction register; 0 stands for BYPASS. -/
  wir : Nat := 0
  /-- R46: the repair lock has forced BYPASS; lasts until the next cold reset. -/
  bypassForced : Bool := false
  /-- R22: sp_rst_n of every stack port. -/
  spRstN : BitVec 20 := 0
  /-- R22: sp_train_start of every stack port. -/
  spTrainStart : BitVec 20 := 0
  /-- R22: trained stacks. -/
  stackUp : BitVec 20 := 0
  /-- R415: stacks lost. -/
  stackLost : BitVec 20 := 0
  /-- R22: sp_cfg found by training: [7:0] capacity in GiB, [15:8] pin rate (the fields' places are the model's). -/
  spCfg : SMap (BitVec 32) := []
  /-- R27: lk_tx_en of every link port. -/
  lkTxEn : BitVec 60 := 0
  /-- R25: sp_ref_grant pulsed in this tick: stack group and pseudo-channel mask. -/
  refGrant : List (Nat × BitVec 64) := []
  /-- R26: pseudo-channels whose lanes are stalled by an urgent refresh, by stack. -/
  refUrgent : SMap (BitVec 64) := []
  /-- R26: tick at which the urgent refresh of pseudo-channel 64 x stack + pc is over (free lengths, log 148) (the model's own field). -/
  refEnds : SMap Nat := []
  /-- R26: the memory-port telemetry counters of urgent refreshes. -/
  urgentCount : SMap Nat := []
  /-- R47: fl_cs_n. -/
  flCsN : Bool := true
  /-- R47: fl_reset_n. -/
  flResetN : Bool := false
  /-- R30: opcode of the last flash read command: 0x13, or 0xEE in octal mode. -/
  flOpcode : Nat := 0
  /-- R30: fl_dq lanes of its format: 1 for 1S-1S-1S, 8 for 8D-8D-8D. -/
  flLanes : Nat := 0
  /-- R30: it transfers on both edges of SCK and captures on fl_dqs. -/
  flDtr : Bool := false
  /-- R30: TCLK cycles per SCK cycle: 4 or 2. -/
  flSckDiv : Nat := 0
  /-- R30: its dummy cycles. -/
  flDummy : Nat := 0
  /-- R294: MSI-X messages sent, oldest first (output of the host port) (the model's own field). -/
  msixOut : List Nat := []
  /-- R260: vectors masked because their context was destroyed. -/
  msixMasked : List Nat := []
  /-- R40: last qualified pwr_state. -/
  pwr : Nat := 0
  deriving DecidableEq, Repr, Inhabited

/-- Staged start. -/
structure StartState where
  /-- R394: the fuses themselves (reset value: DESIGN CHOICE, log 2). -/
  fuses : Fuses := {}
  /-- R394: fuse shadow registers; none until fuse load. -/
  shadow : Option Fuses := none
  /-- R385: record values in force. -/
  record : ConfigRecord := {}
  /-- R393: state to resume at when start is held. -/
  resume : Nat := 0
  /-- R387: SHA-384 computed while the flash bytes stream in. -/
  imageDigest : BitVec 384 := 0
  /-- R388: the flash answered the read of this start. -/
  flashAnswered : Bool := false
  /-- R396: soft-repair entries applied in this start. -/
  repairsUsed : List (BitVec 32) := []
  /-- R399: tick of reset release, for green_ms. -/
  startTick : Nat := 0
  deriving DecidableEq, Repr, Inhabited

/-- One of the 64 armed snapshot, reset and idle-insertion actions (R198). -/
structure ArmedAction where
  /-- R198: which action. -/
  kind : ArmKind := .snapshot
  /-- R198: the tick at which it fires. -/
  tick : Nat := 0
  /-- R200: snapshot number. -/
  number : Nat := 0
  /-- R202: partition of an idle insertion. -/
  scope : Nat := 0
  /-- R202: n of an idle insertion. -/
  amount : Nat := 0
  /-- R201: arming block of a domain reset. -/
  origin : Coord := {}
  /-- R198: domain scope; placement-group scope of an idle insertion. -/
  domainWide : Bool := false
  /-- R229: armed by TB_SNAP_CTL of this block. -/
  own : Bool := false
  deriving DecidableEq, Repr, Inhabited

/-- A control message issued by this block (R215, R216). -/
structure CtlMsg where
  /-- R215: message type 0x01 to 0x0A. -/
  type : Nat := 0
  /-- R216: msg_seq. -/
  seq : Nat := 0
  /-- R216: placement group, 0xFFFF otherwise. -/
  group : Nat := 0xFFFF
  /-- R216: first message word (T_f, T_s, T_r, T, t_eff, effective tick, tick, step). -/
  a : Nat := 0
  /-- R216: second message word. -/
  b : Nat := 0
  /-- R216: third message word. -/
  c : Nat := 0
  /-- R215: port of a per-port message. -/
  port : Nat := 0xFF
  /-- R216: issuing block. -/
  origin : Coord := {}
  /-- R211: hop count of the flit header. -/
  hops : Nat := 0
  /-- R216: firmware data of a management message. -/
  data : List (BitVec 8) := []
  deriving DecidableEq, Repr, Inhabited

/-- Per-port time measurement. -/
structure PortTime where
  /-- R189: one-way delay d_p, in sixteenths of a tick. -/
  delay : Int := 0
  /-- R192: the last 16 raw neighbour offsets. -/
  offsets : List Int := []
  /-- R192: consecutive markers with the filtered offset beyond 8 ticks. -/
  overMarks : Nat := 0
  /-- R192: consecutive markers with the filtered offset within 7 ticks. -/
  within : Nat := 0
  /-- R189: tick of the last marker heard on the port. -/
  heard : Option Nat := none
  /-- R189: master rank of that marker. -/
  rank : Nat := 0
  /-- R189: its hop count from the master. -/
  hops : Nat := 0
  deriving DecidableEq, Repr, Inhabited

/-- The ivory time base. -/
structure TimeBase where
  /-- R185: TB_TICK: the ivory tick counter. -/
  tick : Nat := 0
  /-- R185: ACLK edges since the last hold or step, counted up to 1,023 (none yet). -/
  sinceAdjust : Nat := 1023
  /-- R190: markers heard while acquiring. -/
  acquired : Nat := 0
  /-- R190: consecutive markers within 1 tick. -/
  inLock : Nat := 0
  /-- R190: the last 16 raw offsets of the upstream, as holds and steps have changed them since. -/
  phase : List Int := []
  /-- R190: frequency estimate in force. -/
  freq : Int := 0
  /-- R190: what holds and steps have yet to remove. -/
  owed : Int := 0
  /-- R196: frequency to which the master is steering. -/
  steer : Int := 0
  /-- R196: tick of the last accepted edge of the time pulse, none before the first. -/
  pulseTick : Option Nat := none
  /-- R193: tick of the last marker from the upstream. -/
  lastMarker : Nat := 0
  /-- R229: marker periods without a marker since then, as counted. -/
  missCounted : Nat := 0
  /-- R195: tick at which a marker of each rank was last heard. -/
  rankHeard : SMap Nat := []
  /-- R193: tick at which holdover was entered. -/
  holdoverAt : Nat := 0
  /-- R194: a re-acquiring step of this size awaits the step boundary. -/
  reacquire : Option Int := none
  /-- R192: per-port delay and neighbour offset. -/
  ports : SMap PortTime := []
  /-- R198: armed snapshot, reset and idle-insertion actions. -/
  armed : List ArmedAction := []
  /-- R201: T_r of the reset armed or in progress. -/
  resetAt : Nat := 0
  /-- R201: a local domain reset is in progress. -/
  resetRunning : Bool := false
  /-- R201: arming block of the reset in progress. -/
  resetOrigin : Coord := {}
  /-- R201: blocks that have reported done to this arming block. -/
  resetReports : List Coord := []
  /-- R383: administrator mailbox awaiting the end of the domain reset. -/
  resetMailbox : Option Nat := none
  /-- R216: msg_seq of the next message this block issues. -/
  nextSeq : Nat := 0
  /-- R216: messages seen in the last 1,048,576 ticks. -/
  seen : List (Coord × Nat × Nat) := []
  /-- R215: control messages issued and on their way to their ports, oldest first. -/
  ctlOut : List CtlMsg := []
  /-- R216: control messages to be forwarded and on their way to their ports, oldest first. -/
  forwarded : List CtlMsg := []
  deriving DecidableEq, Repr, Inhabited

/-- A best-effort packet (R214). -/
structure BePacket where
  /-- R214: source coordinates. -/
  src : Coord := {}
  /-- R214: destination coordinates. -/
  dst : Coord := {}
  /-- R214: 0 update stream, 1 grey record, 2 grey return, 3 promotion fetch, 4 promotion data, 5 firmware. -/
  kind : Nat := 0
  /-- R214: flow. -/
  flow : Nat := 0
  /-- R214: flits in the packet. -/
  flits : Nat := 1
  /-- R214: flow_seq. -/
  seq : Nat := 0
  /-- R214: payload after the packet header. -/
  data : List (BitVec 8) := []
  /-- R214: tick at which it was sent. -/
  born : Nat := 0
  /-- R214: sending context. -/
  ctx : Nat := 0
  /-- R214: port and link sequence of its last flit, none while it waits for a port. -/
  via : Option (Nat × Nat) := none
  deriving DecidableEq, Repr, Inhabited

/-- A best-effort flit in a retry buffer (R214). -/
structure BeFlit where
  /-- R214: link sequence. -/
  seq : Nat := 0
  /-- R211: destination coordinates, packed. -/
  dst : Nat := 0
  /-- R211: last flit of its packet. -/
  last : Bool := false
  /-- R211: payload. -/
  data : List (BitVec 8) := []
  /-- R214: tick at which it was last sent, none while it waits for a slot. -/
  sentAt : Option Nat := none
  /-- R214: consecutive resends of it. -/
  resends : Nat := 0
  deriving DecidableEq, Repr, Inhabited

/-- A link port. -/
structure Port where
  /-- R230: LK_PORT_UP bit. -/
  up : Bool := false
  /-- R230: LK_PORT_OUT bit. -/
  out : Bool := false
  /-- R212: measured one-way flight in ticks. -/
  flight : Nat := 0
  /-- R212: over_budget: best-effort and control traffic only. -/
  overBudget : Bool := false
  /-- R192: over_budget set by the neighbour offset. -/
  overOffset : Bool := false
  /-- R266: peer coordinates and peer port. -/
  peer : Option (Coord × Nat) := none
  /-- R214: next link sequence to send. -/
  txSeq : Nat := 0
  /-- R214: retry buffer, oldest first. -/
  retry : List BeFlit := []
  /-- R215: control messages that wait for a slot, oldest first. -/
  ctlQ : List CtlMsg := []
  /-- R210: slot ticks to come that timed flits take. -/
  txBusy : List Nat := []
  /-- R213: slot tick of the last timed flit that arrived in a reserved slot. -/
  rxTick : Option Nat := none
  /-- R214: next link sequence expected. -/
  rxSeq : Nat := 0
  /-- R214: a NAK is to be sent for rxSeq. -/
  nak : Bool := false
  /-- R214: flits of the packet being received. -/
  rxPart : List (BitVec 8) := []
  /-- R213: timed flits recorded or forwarded on this port: slot and lost. -/
  timedRx : List (Nat × Nat) := []
  /-- R395: marked out for the life of the start by a soft-repair port-out entry. -/
  linkOut : Bool := false
  deriving DecidableEq, Repr, Inhabited

/-- The link engine and the network ownership. -/
structure Links where
  /-- R230: link ports. -/
  ports : SMap Port := []
  /-- R205: TB_NOC_OWN: owner of each NoC offset in force. -/
  nocOwn : SMap Nat := []
  /-- R205: owners written and awaiting the step boundary. -/
  nocNext : SMap Nat := []
  /-- R210: LK_SLOT_OWN: owner of slot 560q + j in force. -/
  slotOwn : SMap Nat := []
  /-- R210: owners written and awaiting the step boundary. -/
  slotNext : SMap Nat := []
  /-- R214: next flow_seq expected, by packed source, kind and flow. -/
  flowRx : SMap Nat := []
  /-- R214: packets received ahead of their flow_seq. -/
  flowHeld : List BePacket := []
  /-- R214: packets sent or routed onward and not known to have arrived. -/
  beOut : List BePacket := []
  /-- R214: next flow_seq to send, by packed destination, kind and flow. -/
  flowTx : SMap Nat := []
  /-- R214: firmware-management packets delivered. -/
  fwInbox : List BePacket := []
  /-- R216: management control messages delivered to firmware. -/
  fwMsgs : List (Coord × List (BitVec 8)) := []
  /-- R211: flits sent or forwarded, oldest first (output) (the model's own field). -/
  flitsOut : List (Nat × List (BitVec 8)) := []
  /-- R392: tick of the last retry of untrained ports. -/
  retryAt : Nat := 0
  deriving DecidableEq, Repr, Inhabited

/-- A fetched 64-byte descriptor (R272), with where it came from. -/
structure Desc where
  /-- R272: the descriptor as fetched. -/
  raw : List (BitVec 8) := []
  /-- R280: its ring slot (sq_index). -/
  slot : Nat := 0
  /-- R281: submit tick: the fetch tick. -/
  submit : Nat := 0
  /-- R289: tick at which it reached the head of its queue (timer start). -/
  headAt : Option Nat := none
  /-- R289: ticks its timer was paused in a broken context. -/
  paused : Nat := 0
  /-- R289: timeout in force when it reached the head. -/
  limit : Nat := 0
  /-- R274: code found at the head of its queue (or 0x0401 of a held command, R290), 0 where it passed. -/
  headCode : BitVec 16 := 0
  deriving DecidableEq, Repr, Inhabited

/-- A submission queue of a context. -/
structure SubQ where
  /-- R299: ring address. -/
  va : BitVec 64 := 0
  /-- R299: depth 2^n, 0 disabled. -/
  log2 : Nat := 0
  /-- R277: fetches in a 1,024-tick window. -/
  fetchLimit : Nat := 64
  /-- R289: timeout in microseconds. -/
  timeoutUs : Nat := 2000000
  /-- R276: doorbell register sq_tail. -/
  tail : Nat := 0
  /-- R271: fetch head. -/
  head : Nat := 0
  /-- R277: fetched descriptors not yet dispatched, oldest first. -/
  fetched : List Desc := []
  /-- R277: ticks of the fetches in the last 1,024-tick window. -/
  recent : List Nat := []
  /-- R277: an untranslatable slot stopped this queue. -/
  stopped : Bool := false
  /-- R286: exec-buffer job whose operations are being dispatched. -/
  buffer : Option Nat := none
  /-- R326: QF_CTX_QJOBS: commands retired. -/
  retired : BitVec 32 := 0
  deriving DecidableEq, Repr, Inhabited

/-- A completion or event ring. -/
structure Ring where
  /-- R299: ring address. -/
  va : BitVec 64 := 0
  /-- R299: depth 2^n. -/
  log2 : Nat := 0
  /-- R275: entries consumed by the driver. -/
  head : Nat := 0
  /-- R301: next entry Jujor writes. -/
  tail : Nat := 0
  /-- R280: passes of the tail through the ring (phase). -/
  wraps : Nat := 0
  /-- R296: events dropped since the last events_lost record. -/
  dropped : Nat := 0
  deriving DecidableEq, Repr, Inhabited

/-- A context's accounting record (R327). -/
structure Account where
  /-- R327: steps ended. -/
  steps : Nat := 0
  /-- R327: hold ticks. -/
  hold : Nat := 0
  /-- R327: engine ticks. -/
  engine : Nat := 0
  /-- R327: queue wait ticks. -/
  wait : Nat := 0
  /-- R327: pre-emptions suffered. -/
  preempts : Nat := 0
  /-- R327: slice shifts. -/
  shifts : Nat := 0
  /-- R327: slice-shift ticks. -/
  shiftTicks : Nat := 0
  /-- R327: overrun ticks. -/
  overrun : Nat := 0
  /-- R327: slips. -/
  slips : Nat := 0
  deriving DecidableEq, Repr, Inhabited

/-- A 32 MiB arena page. -/
structure ArenaPage where
  /-- R256: object index it came from. -/
  obj : Nat := 0
  /-- R256: its device virtual address. -/
  va : BitVec 64 := 0
  /-- R257: free blocks, by order 12 to 25 and offset. -/
  free : List (Nat × Nat) := []
  /-- R257: outstanding blocks. -/
  used : List (Nat × Nat) := []
  deriving DecidableEq, Repr, Inhabited

/-- A forced abort in progress (R260, R262). -/
structure Abort where
  /-- R260: the code it ends work with. -/
  code : BitVec 16 := 0
  /-- R260: dispatch tick of the destroy. -/
  since : Nat := 0
  /-- R260: destroy-context command that waits for it. -/
  job : Option Nat := none
  /-- R261: the watchdog reset the partition. -/
  forced : Bool := false
  deriving DecidableEq, Repr, Inhabited

/-- A 16-step slowdown window (R329). -/
structure SlowWindow where
  /-- R329: steps in the window. -/
  count : Nat := 0
  /-- R329: sum of the slowdowns. -/
  sum : Nat := 0
  /-- R329: largest slowdown. -/
  largest : Nat := 0
  /-- R329: pre-emptions suffered. -/
  preempts : Nat := 0
  /-- R329: slips. -/
  slips : Nat := 0
  /-- R329: slice-shift ticks. -/
  shiftTicks : Nat := 0
  /-- R329: overrun ticks charged. -/
  overrun : Nat := 0
  deriving DecidableEq, Repr, Inhabited

/-- A context. -/
structure Context where
  /-- R235: state. -/
  state : CtxState := .free
  /-- R234: group context. -/
  group : Bool := false
  /-- R233: bound partition. -/
  partition : Nat := 0
  /-- R233: PASID. -/
  pasid : Nat := 0
  /-- R233: PCIe function. -/
  function : Nat := 0
  /-- R299: enabled profiles. -/
  profiles : BitVec 8 := 0
  /-- R233: fence quota. -/
  fenceQuota : Nat := 16384
  /-- R233: object quota. -/
  objQuota : Nat := 65536
  /-- R294: completion vector. -/
  cqVector : Nat := 0
  /-- R294: event vector. -/
  eqVector : Nat := 0
  /-- R237: submission queues. -/
  sq : SMap SubQ := []
  /-- R237: completion ring. -/
  cq : Ring := {}
  /-- R237: event ring. -/
  eq : Ring := {}
  /-- R292: holding ring: does the entry request the vector (R294), and its 32 bytes. -/
  holding : List (Bool × List (BitVec 8)) := []
  /-- R289: tick at which the context broke (timers pause). -/
  brokenAt : Nat := 0
  /-- R256: arena pages in grant order. -/
  arena : List ArenaPage := []
  /-- R314: share. -/
  share : Nat := 100
  /-- R314: window base, in sixteenths. -/
  sramBase : Nat := 0
  /-- R314: window size, in sixteenths. -/
  sramCount : Nat := 0
  /-- R318: virtual time. -/
  vt : BitVec 64 := 0
  /-- R322: overrun debt. -/
  debt : Nat := 0
  /-- R318: the context was ready before. -/
  wasReady : Bool := false
  /-- R327: accounting record. -/
  account : Account := {}
  /-- R151: number of the next step, counted from 0. -/
  stepNext : Nat := 0
  /-- R276: tick of the last doorbell_invalid event. -/
  dbEventAt : Option Nat := none
  /-- R260: forced abort in progress. -/
  abort : Option Abort := none
  /-- R236: code of the job fault. -/
  fault : BitVec 16 := 0
  /-- R328: calibration by program object index. -/
  calib : SMap Nat := []
  /-- R328: programs whose calibration is to be measured. -/
  calibWanted : List Nat := []
  /-- R329: slowdown windows. -/
  windows : SMap SlowWindow := []
  deriving DecidableEq, Repr, Inhabited

/-- What updates to a fence change (R248). -/
structure FenceVals where
  /-- R248: value. -/
  value : BitVec 64 := 0
  /-- R248: state. -/
  state : FenceState := .free
  /-- R248: error_code. -/
  error : BitVec 16 := 0
  /-- R248: ooo_count. -/
  ooo : Nat := 0
  /-- R269: origin. -/
  origin : Nat := 0
  deriving DecidableEq, Repr, Inhabited

/-- One update of a fence (R254). -/
structure FenceUp where
  /-- R254: requester number. -/
  req : Nat := 0
  /-- R252: an error, else a signal. -/
  fails : Bool := false
  /-- R283: value of the signal. -/
  value : BitVec 64 := 0
  /-- R252: code of the error. -/
  code : BitVec 16 := 0
  /-- R253: origin of the error. -/
  origin : Nat := 0
  deriving DecidableEq, Repr, Inhabited

/-- A fence record (R248). -/
structure Fence where
  /-- R248: value. -/
  value : BitVec 64 := 0
  /-- R248: state. -/
  state : FenceState := .free
  /-- R248: owner. -/
  ctx : Nat := 0
  /-- R248: error_code. -/
  error : BitVec 16 := 0
  /-- R248: ooo_count. -/
  ooo : Nat := 0
  /-- R269: QF_FENCE_ORIGIN. -/
  origin : Nat := 0
  /-- R254: value before the updates of tick upAt. -/
  before : BitVec 64 := 0
  /-- R254: tick of the last updates. -/
  upAt : Option Nat := none
  /-- R254: the updates of that tick, by requester number. -/
  ups : List FenceUp := []
  /-- R254: what the fence held before them. -/
  base : FenceVals := {}
  /-- R254: tick of the last accepted signal. -/
  valueAt : Nat := 0
  /-- R254: tick at which it entered error. -/
  errorAt : Nat := 0
  /-- R255: its destruction is under way. -/
  destroying : Bool := false
  /-- R255: destroy-fence commands that wait for it. -/
  destroyJobs : List Nat := []
  deriving DecidableEq, Repr, Inhabited

/-- An object record (R241). -/
structure Obj where
  /-- R241: base. -/
  va : BitVec 64 := 0
  /-- R241: size. -/
  size : BitVec 64 := 0
  /-- R241: generation. -/
  gen : Nat := 1
  /-- R241: type. -/
  type : Nat := 0
  /-- R241: owner. -/
  ctx : Nat := 0
  /-- R241: pinned. -/
  pinned : Bool := false
  /-- R241: freed. -/
  freed : Bool := false
  /-- R241: work references. -/
  refs : Nat := 0
  /-- R241: persistent references. -/
  bindings : Nat := 0
  /-- R241: the record is allocated. -/
  allocated : Bool := false
  /-- R244: free-object commands that wait for the release. -/
  freeJobs : List Nat := []
  deriving DecidableEq, Repr, Inhabited

/-- How indices are handed out (R242, R251). -/
structure IdxAlloc where
  /-- R242: lowest index never used since cold reset. -/
  next : Nat := 0
  /-- R242: released indices, longest ago first. -/
  released : List Nat := []
  /-- R242: retired indices. -/
  retired : Nat := 0
  deriving DecidableEq, Repr, Inhabited

/-- A command that has been dispatched or is retiring (R278, R279). -/
structure Job where
  /-- R298: administrator queue. -/
  admin : Bool := false
  /-- R278: submitting context. -/
  ctx : Nat := 0
  /-- R280: submission queue. -/
  queue : Nat := 0
  /-- R272: its descriptor. -/
  desc : Desc := {}
  /-- R281: start tick; none where it retires without dispatching or launching. -/
  start : Option Nat := none
  /-- R289: its timeout. -/
  limit : Nat := 0
  /-- R281: end tick (step 1 of R279). -/
  endAt : Nat := 0
  /-- R279: where it stands. -/
  status : JobStatus := .dispatched
  /-- R280: its status code. -/
  code : BitVec 16 := 0
  /-- R253: origin of a propagated error. -/
  errOrigin : Option Nat := none
  /-- R281: engine ticks. -/
  engine : Nat := 0
  /-- R281: slips taken. -/
  slips : Nat := 0
  /-- R286: exec-buffer it is an operation of. -/
  parent : Option Nat := none
  /-- R286: exec-buffer: next operation to dispatch. -/
  opNext : Nat := 0
  /-- R286: exec-buffer: operations dispatched and not retired. -/
  opLive : Nat := 0
  /-- R289: tick at which its timer last started. -/
  timerAt : Nat := 0
  /-- R245: object indices on which it holds a work reference. -/
  refs : List Nat := []
  /-- R281: copy engine serving it. -/
  copyEngine : Option Nat := none
  /-- R281: tick at which an engine began to serve it. -/
  servedAt : Option Nat := none
  deriving DecidableEq, Repr, Inhabited

/-- A request to the slab unit (R258). -/
structure SlabReq where
  /-- R170: alloc or free. -/
  isAlloc : Bool := true
  /-- R170: requesting core. -/
  core : Nat := 0
  /-- R170: its context. -/
  ctx : Nat := 0
  /-- R170: its partition. -/
  part : Nat := 0
  /-- R170: size_log2. -/
  order : Nat := 12
  /-- R170: must. -/
  must : Bool := false
  /-- R170: destination g register. -/
  dest : Nat := 0
  /-- R170: address freed. -/
  addr : BitVec 64 := 0
  /-- R258: tick at which the request reached the slab unit. -/
  came : Nat := 0
  deriving DecidableEq, Repr, Inhabited

/-- MSI-X moderation of a vector (R294). -/
structure Vector where
  /-- R294: tick of its last message. -/
  lastAt : Option Nat := none
  /-- R301: QF_VEC_MOD pending. -/
  pending : Bool := false
  deriving DecidableEq, Repr, Inhabited

/-- The final page of a context ring's page (R377). -/
structure RingPage where
  /-- R377: the context whose ring it holds. -/
  ctx : Nat := 0
  /-- R377: host memory. -/
  host : Bool := false
  /-- R377: page, in units of its size. -/
  page : Nat := 0
  /-- R377: its size. -/
  sizeLog2 : Nat := 25
  deriving DecidableEq, Repr, Inhabited

/-- The Camop queue front end. -/
structure FrontEnd where
  /-- R233: contexts. -/
  ctxs : SMap Context := []
  /-- R248: on-block fence memory. -/
  fences : SMap Fence := []
  /-- R241: object table. -/
  objs : SMap Obj := []
  /-- R242: object indices. -/
  objAlloc : IdxAlloc := {}
  /-- R251: fence IDs. -/
  fenceAlloc : IdxAlloc := {}
  /-- R278: commands dispatched and not yet retired. -/
  jobs : SMap Job := []
  /-- R278: number of the next job (the model's own field). -/
  jobNext : Nat := 0
  /-- R243: the command just dispatched, whose effect has not yet come about (the model's own field). -/
  executing : Option Nat := none
  /-- R278: tick of the last dispatch slot used. -/
  lastDispatch : Option Nat := none
  /-- R316: context served last by fetch. -/
  fetchTurn : Nat := 0
  /-- R316: context served last by dispatch. -/
  dispatchTurn : Nat := 0
  /-- R298: administrator descriptors fetched and not dispatched. -/
  admFetched : List Desc := []
  /-- R298: passes of the administrator completion ring. -/
  admCqWraps : Nat := 0
  /-- R298: passes of the administrator event ring. -/
  admEqWraps : Nat := 0
  /-- R296: administrator events dropped since the last events_lost record. -/
  admDropped : Nat := 0
  /-- R298: tick of the last administrator doorbell_invalid event. -/
  admDbEventAt : Option Nat := none
  /-- R294: MSI-X moderation. -/
  vectors : SMap Vector := []
  /-- R258: requests waiting for the slab unit, in service order. -/
  slab : List SlabReq := []
  /-- R258: tick at which the slab unit last began a request. -/
  slabLast : Option Nat := none
  /-- R377: final page of every ring page the front end has translated. -/
  ringPages : List RingPage := []
  /-- R263: capability generation. -/
  capGen : Nat := 1
  /-- R264: the entries as the last rewrite left them; none before it. -/
  capImage : List (BitVec 8) := []
  /-- R263: capability table busy. -/
  capBusy : Bool := false
  /-- R264: tick at which the rewrite in progress began. -/
  capAt : Nat := 0
  /-- R264: a change fell in a later tick of the rewrite: another follows. -/
  capMore : Bool := false
  /-- R264: query-capabilities commands waiting for the rewrite. -/
  capJobs : List Nat := []
  deriving DecidableEq, Repr, Inhabited

/-- A placement group loaded for a partition (R312). -/
structure Group where
  /-- R312: group number. -/
  number : Nat := 0
  /-- R312: this block's index. -/
  index : Nat := 0
  /-- R312: coordinates in group-relative order. -/
  blocks : List Coord := []
  /-- R218: h_g. -/
  hops : Nat := 0
  /-- R225: the block has left the group. -/
  left : Bool := false
  /-- R225: directions already wholly out when the group was loaded. -/
  lostDirs : List Nat := []
  deriving DecidableEq, Repr, Inhabited

/-- A slip notice that awaits its effective tick (R222). -/
structure SlipNotice where
  /-- R222: t_eff. -/
  tEff : Nat := 0
  /-- R216: step number. -/
  step : Nat := 0
  /-- R216: origin block, group-relative. -/
  origin : Nat := 0
  /-- R222: cause. -/
  cause : Nat := 1
  /-- R219: of the placement group. -/
  group : Bool := false
  /-- R219: the launch-step whose launch is deferred. -/
  job : Option Nat := none
  deriving DecidableEq, Repr, Inhabited

/-- A partition. -/
structure Partition where
  /-- R332: absent, active, failed. -/
  state : PartState := .absent
  /-- R302: cores. -/
  coreMask : BitVec 64 := 0
  /-- R302: lane units. -/
  luMask : BitVec 80 := 0
  /-- R332: slice length in force. -/
  sliceUnits : Nat := 684
  /-- R332: slowdown threshold in force. -/
  slowThr : Nat := 1250
  /-- R309: pending resize. -/
  resize : Option (PartBlock × Nat) := none
  /-- R309: resize whose code copy runs: its lane units have yet to change owner. -/
  resizeRest : Option (PartBlock × Nat) := none
  /-- R311: pending destroy. -/
  destroyJob : Option Nat := none
  /-- R310: revoke-pages commands awaiting their boundary. -/
  revokes : List (Nat × Nat × Nat × Nat) := []
  /-- R303: cores marked out while owned, leaving at the boundary. -/
  coresOut : BitVec 64 := 0
  /-- R222: slip notices awaiting their effective tick. -/
  slips : List SlipNotice := []
  /-- R309: end of a code copy. -/
  copyUntil : Nat := 0
  /-- R102: rebuilt filters awaiting the boundary. -/
  filterSwap : List Nat := []
  /-- R75: a quota was reduced below the space in use. -/
  quotaDrop : Bool := false
  /-- R352: page-map entries to be walked again. -/
  rewalk : List Nat := []
  /-- R312: placement group. -/
  group : Option Group := none
  /-- R317: holder context. -/
  holder : Option Nat := none
  /-- R318: tick at which the holder took the partition. -/
  heldSince : Nat := 0
  /-- R318: end of the slice. -/
  sliceEnd : Nat := 0
  /-- R322: the slice has ended and a pre-emption request is out. -/
  sliceOver : Bool := false
  /-- R323: the request out is a group claim. -/
  claimed : Bool := false
  /-- R247: object indices of loaded step programs. -/
  programs : List Nat := []
  /-- R60: shard-map store: entries by map number. -/
  shardMaps : SMap (List Nat) := []
  /-- R261: a partition reset runs until this bound. -/
  resetUntil : Option Nat := none
  /-- R418: run time of the last step. -/
  lastRun : Nat := 0
  /-- R413: steps launched, for ash watch. -/
  stepsRun : Nat := 0
  /-- R413: tick of the last launch. -/
  lastLaunch : Nat := 0
  deriving DecidableEq, Repr, Inhabited

/-- Partitions and ownership. -/
structure Partitions where
  /-- R302: partitions. -/
  parts : SMap Partition := []
  /-- R333: MP_PAGE_OWN: owner of each page. -/
  pageOwn : SMap Nat := []
  deriving DecidableEq, Repr, Inhabited

/-- The fields of a tile instruction in flight (R161), its captured operands and raw results. -/
structure Tile where
  /-- R161: the instruction. -/
  fields : TileFields := {}
  /-- R161: the mode. -/
  mode : TileMode := .matrix
  /-- R116: rows M. -/
  m : Nat := 4
  /-- R162: accumulator row with its offset. -/
  accRow : Nat := 0
  /-- R162: activation output base in bytes, within the window. -/
  outAddr : Nat := 0
  /-- R162: col_base_A. -/
  colBaseA : BitVec 32 := 0
  /-- R162: col_base_B. -/
  colBaseB : BitVec 32 := 0
  /-- R114: results before accumulation: key 256 m + 128 x + n. -/
  raw : SMap (BitVec 32) := []
  /-- R125: rows that the drain writes (M, less the priming rows of a convolution). -/
  rows : Nat := 4
  /-- R130: corrections saturated in array A. -/
  satA : Nat := 0
  /-- R130: corrections saturated in array B. -/
  satB : Nat := 0
  /-- R126: results are INT32. -/
  intResult : Bool := false
  /-- R119: out_scale by 128 x + n. -/
  scales : SMap (BitVec 32) := []
  /-- R119: z_out by 128 x + n. -/
  zouts : SMap Int := []
  deriving DecidableEq, Repr, Inhabited

/-- An open selection (R139). -/
structure Selection where
  /-- R164: dir. -/
  largest : Bool := false
  /-- R164: vtype INT32. -/
  int32 : Bool := false
  /-- R164: list length. -/
  k : Nat := 1
  /-- R164: lists. -/
  rows : Nat := 1
  /-- R164: row_base. -/
  rowBase : Nat := 0
  /-- R164: id_offset. -/
  idOffset : BitVec 64 := 0
  /-- R164: pad_id. -/
  padId : BitVec 64 := 0
  /-- R140: candidates (value, index) of each list, best first. -/
  lists : SMap (List (BitVec 32 × BitVec 32)) := []
  deriving DecidableEq, Repr, Inhabited

/-- A task of a step (R149). -/
structure Task where
  /-- R180: task-table index. -/
  index : Nat := 0
  /-- R180: entry instruction. -/
  entry : Nat := 0
  /-- R180: named core, partition-relative, or 0xFF. -/
  core : Nat := 0xFF
  /-- R180: argument. -/
  argument : BitVec 64 := 0
  /-- R180: bytes of its code segment. -/
  codeBytes : Nat := 0
  /-- R180: code_offset. -/
  codeOffset : Nat := 0
  /-- R149: waiting for placement, running, saved or halted. -/
  state : TaskState := .waiting
  /-- R149: core on which it runs. -/
  on : Nat := 0
  /-- R281: tick of placement. -/
  placedAt : Nat := 0
  /-- R172: saved pc, g1 to g15 and flags. -/
  saved : List (BitVec 64) := []
  deriving DecidableEq, Repr, Inhabited

/-- A matrix core. -/
structure Core where
  /-- R113: weight buffer (reset value: DESIGN CHOICE, log 1). -/
  weight : List Host.Cell := []
  /-- R113: activation buffer (reset value: DESIGN CHOICE, log 1). -/
  act : List Host.Cell := []
  /-- R113: accumulator, bytes in the order of R165's row and array (reset value: DESIGN CHOICE, log 1). -/
  acc : List Host.Cell := []
  /-- R113: program memory (reset value: DESIGN CHOICE, log 1). -/
  prog : List Host.Cell := []
  /-- R151: index of the task it runs in its partition's running step. -/
  task : Option Nat := none
  /-- R151: partition whose step it runs. -/
  part : Nat := 0
  /-- R151: pc, an instruction index. -/
  pc : Nat := 0
  /-- R151: g1 to g15 (g0 reads 0). -/
  g : SMap (BitVec 64) := []
  /-- R151: z flag. -/
  z : Bool := false
  /-- R151: n flag. -/
  n : Bool := false
  /-- R151: late flag. -/
  late : Bool := false
  /-- R151: subst flag. -/
  subst : Bool := false
  /-- R151: fail flag. -/
  fail : Bool := false
  /-- R151: vector registers, lane l of v r at 128 r + l; an unlisted lane holds the free value of vseed (free values, log 4). -/
  v : SMap (BitVec 32) := []
  /-- R151: which free values the unlisted lanes hold (undefined at task start and after a yield) (the model's own field). -/
  vseed : Nat := 0
  /-- R134: statistics registers by index, drains' col_max, tile_max and flags. -/
  stats : SMap (BitVec 32) := []
  /-- R172: after a yield: which free values the unwritten statistics hold (the model's own field). -/
  statLost : Option Nat := none
  /-- R139: open selection of the top-k unit. -/
  sel : Option Selection := none
  /-- R123: tiles issued and not yet complete, oldest first. -/
  tiles : List Tile := []
  /-- R153: allocations outstanding. -/
  allocs : Nat := 0
  /-- R153: g registers an alloc has yet to write. -/
  gWait : List Nat := []
  /-- R117: active weight plane of array A, as stored in the weight tile (reset value: DESIGN CHOICE, log 1). -/
  planeA : List Host.Cell := []
  /-- R117: shadow weight plane of array A (reset value: DESIGN CHOICE, log 1). -/
  shadowA : List Host.Cell := []
  /-- R117: active weight plane of array B (reset value: DESIGN CHOICE, log 1). -/
  planeB : List Host.Cell := []
  /-- R117: shadow weight plane of array B (reset value: DESIGN CHOICE, log 1). -/
  shadowB : List Host.Cell := []
  /-- R284: tick at which the fwait that holds it was first tested. -/
  waitAt : Option Nat := none
  deriving DecidableEq, Repr, Inhabited

/-- A stream of a running step (R181). -/
structure StreamRun where
  /-- R181: stream. -/
  number : Nat := 0
  /-- R181: kind. -/
  kind : Nat := 0
  /-- R181: src_core. -/
  srcCore : Nat := 0xFF
  /-- R181: dst_core. -/
  dstCore : Nat := 0xFF
  /-- R181: port. -/
  port : Nat := 0xFF
  /-- R181: bytes per delivery. -/
  bytes : Nat := 0
  /-- R181: dst_addr. -/
  dstAddr : Nat := 0
  /-- R181: dst_space. -/
  dstSpace : Nat := 0
  /-- R181: ring slots. -/
  ring : Nat := 1
  /-- R181: HBM handle in use, after R108. -/
  handle : BitVec 64 := 0
  /-- R181: hbm_offset. -/
  offset : Nat := 0
  /-- R181: peer_stream. -/
  peer : Nat := 0
  /-- R169: tsends issued and not yet sent, oldest first. -/
  sends : List (Nat × Nat × Nat × Nat) := []
  /-- R141: kind 6: IDs emitted by select-end and not yet sent. -/
  ids : List (BitVec 64) := []
  /-- R141: kind 6: IDs that have reached the lanes, in order. -/
  laneIds : List (BitVec 64) := []
  /-- R208: deliveries sent. -/
  sent : Nat := 0
  /-- R169: deliveries on their way to this block's destination. -/
  landing : List (Nat × List (BitVec 8) × Nat) := []
  /-- R169: deliveries armed by rarm. -/
  armed : Nat := 0
  /-- R169: ticks at which the deliveries armed and not yet sent were armed. -/
  arms : List Nat := []
  /-- R172: tasks that armed the deliveries not yet waited for, oldest first. -/
  armTasks : List Nat := []
  /-- R213: landed deliveries: 0 good, 1 to 3 lost value, 4 indigo mismatch. -/
  landed : SMap Nat := []
  /-- R169: deliveries waited for by rwait. -/
  waited : Nat := 0
  /-- R208: slot ticks still to come, relative to launch. -/
  slots : List Nat := []
  deriving DecidableEq, Repr, Inhabited

/-- One row contribution to a bag (R68). -/
structure Contribution where
  /-- R68: ID position in the bag. -/
  pos : Nat := 0
  /-- R68: none local, else the group-relative block. -/
  owner : Option Nat := none
  /-- R80: IDs it covers. -/
  count : Nat := 1
  /-- R64: FP32 elements. -/
  values : List (BitVec 32) := []
  /-- R66: weight of a weighted sum. -/
  weight : BitVec 32 := 0
  deriving DecidableEq, Repr, Inhabited

/-- A lookup-set feature of a running step (R66). -/
structure FeatureRun where
  /-- R66: table_id. -/
  tableId : Nat := 0
  /-- R66: pool_op. -/
  poolOp : Nat := 0
  /-- R66: late_policy. -/
  latePolicy : Nat := 0
  /-- R66: out_format. -/
  outFormat : Nat := 0
  /-- R66: max_bag. -/
  maxBag : Nat := 1
  /-- R66: src_core. -/
  srcCore : Nat := 0
  /-- R66: id_source. -/
  topk : Bool := false
  /-- R66: id_va. -/
  idVa : BitVec 64 := 0
  /-- R66: offsets_va. -/
  offsetsVa : BitVec 64 := 0
  /-- R66: weights_va. -/
  weightsVa : BitVec 64 := 0
  /-- R66: dest_core. -/
  destCore : Nat := 0xFF
  /-- R66: dest_offset. -/
  destOffset : Nat := 0
  /-- R66: dest_va. -/
  destVa : BitVec 64 := 0
  /-- R66: slot_stream. -/
  slotStream : Nat := 0
  /-- R66: batch. -/
  batch : Nat := 1
  /-- R85: ready tick, moved by slips and shifts. -/
  readyAt : Nat := 0
  /-- R85: its bits are fixed. -/
  ready : Bool := false
  /-- R85: late bit. -/
  lateBit : Bool := false
  /-- R85: substitution bit. -/
  substBit : Bool := false
  /-- R85: spilled IDs still outstanding by bag. -/
  spilled : SMap Nat := []
  /-- R68: contributions that have arrived, by bag. -/
  contrib : SMap (List Contribution) := []
  /-- R79: remote records sent and not yet returned, by bag. -/
  awaiting : SMap Nat := []
  /-- R85: bags incomplete at the ready tick. -/
  lateBags : List Nat := []
  /-- R67: IDs resolved so far, by bag (the bag's length n at the ready tick). -/
  lengths : SMap Nat := []
  /-- R85: an ID of it has spilled. -/
  spilt : Bool := false
  deriving DecidableEq, Repr, Inhabited

/-- A running or suspended step. -/
structure StepRun where
  /-- R287: context. -/
  ctx : Nat := 0
  /-- R287: its launch-step command. -/
  job : Nat := 0
  /-- R287: program object index. -/
  program : Nat := 0
  /-- R151: step number. -/
  number : Nat := 0
  /-- R287: i, its place in the submission. -/
  seqNo : Nat := 0
  /-- R179: variant. -/
  variant : Nat := 0
  /-- R177: group step. -/
  group : Bool := false
  /-- R287: launch tick. -/
  launch : Nat := 0
  /-- R329: due tick. -/
  due : Nat := 0
  /-- R160: launch tick from which the elapsed tick is counted (moved by slips, shifts and Δ). -/
  base : Nat := 0
  /-- R174: deadline tick, from the base. -/
  deadline : Nat := 0
  /-- R177: slip quantum. -/
  quantum : Nat := 1024
  /-- R177: max_slips. -/
  maxSlips : Nat := 16
  /-- R176: slips taken. -/
  slips : Nat := 0
  /-- R90: launch epoch of each epoch group. -/
  epochs : SMap Nat := []
  /-- R180: its tasks. -/
  tasks : List Task := []
  /-- R181: its streams. -/
  streams : List StreamRun := []
  /-- R66: its features. -/
  features : List FeatureRun := []
  /-- R183: budget left and return flits, by destination. -/
  budget : SMap (Nat × Nat) := []
  /-- R79: destinations whose budget was overdrawn. -/
  overdrawn : List Nat := []
  /-- R78: exchange requests and spilled records that wait for reserved slots, oldest first. -/
  outRecords : SMap (List (List (BitVec 8))) := []
  /-- R81: return bytes that wait for return slots. -/
  retOut : SMap (List (BitVec 8)) := []
  /-- R208: reserved slots that have passed. -/
  slotsUsed : SMap Nat := []
  /-- R81: exchange records received and not yet served, oldest first. -/
  inRecords : SMap (List (BitVec 64 × BitVec 64)) := []
  /-- R80: return bytes received and not yet parsed. -/
  retBuf : SMap (List (BitVec 8)) := []
  /-- R245: object indices on which it holds a work reference. -/
  refs : List Nat := []
  /-- R178: ports it reserves. -/
  ports : BitVec 60 := 0
  /-- R177: grey area handle. -/
  grey : BitVec 64 := 0
  /-- R177: carry area for even steps. -/
  carry0 : BitVec 64 := 0
  /-- R177: carry area for odd steps. -/
  carry1 : BitVec 64 := 0
  /-- R84: it reserves a spill window. -/
  hasSpill : Bool := false
  /-- R297: IDs spilled in the step. -/
  lateCount : Nat := 0
  /-- R297: grey drops of the step. -/
  greyDrops : Nat := 0
  /-- R320: tick at which it was suspended. -/
  suspended : Option Nat := none
  /-- R329: suspensions it took. -/
  preempts : Nat := 0
  /-- R329: slice-shift ticks before it launched. -/
  shiftTicks : Nat := 0
  /-- R281: engine ticks of its ended tasks. -/
  engine : Nat := 0
  /-- R224: link losses awaiting their effective tick. -/
  lossAt : List (Nat × Nat) := []
  /-- R25: refresh windows of the step whose grants have been pulsed (the model's own field). -/
  refDone : List Nat := []
  deriving DecidableEq, Repr, Inhabited

/-- A dispatched launch-step (R287). -/
structure Submission where
  /-- R287: its command. -/
  job : Nat := 0
  /-- R287: context. -/
  ctx : Nat := 0
  /-- R287: partition. -/
  part : Nat := 0
  /-- R287: program object index. -/
  program : Nat := 0
  /-- R287: variant. -/
  variant : Nat := 0
  /-- R287: launch tick of the next step, as moved. -/
  next : Nat := 0
  /-- R329: due tick of the next step (moved by insertions only). -/
  dueNext : Nat := 0
  /-- R287: steps launched. -/
  index : Nat := 0
  /-- R287: len. -/
  count : Nat := 1
  /-- R287: program period. -/
  period : Nat := 0
  /-- R287: group program. -/
  group : Bool := false
  /-- R209: slips taken while waiting for the next launch. -/
  deferred : Nat := 0
  /-- R319: slice-shift ticks while waiting for the next launch. -/
  shifted : Nat := 0
  /-- R323: the claim for the next launch was made. -/
  claimDone : Bool := false
  /-- R319: its launch fell due and is held: a slice shift is due. -/
  held : Bool := false
  /-- R5: launch tick for which readiness has been judged. -/
  judged : Option Nat := none
  /-- R287: dispatch tick. -/
  came : Nat := 0
  deriving DecidableEq, Repr, Inhabited

/-- A loaded step program (R247). -/
structure Program where
  /-- R247: context. -/
  ctx : Nat := 0
  /-- R247: partition. -/
  part : Nat := 0
  /-- R184: the image as read at load. -/
  image : List (BitVec 8) := []
  /-- R245: object indices on which it holds a binding. -/
  bound : List Nat := []
  /-- R247: unload dispatched. -/
  unloading : Bool := false
  /-- R247: unload-program commands that wait. -/
  unloadJobs : List Nat := []
  /-- R60: shard maps it defines. -/
  maps : List Nat := []
  deriving DecidableEq, Repr, Inhabited

/-- Step programs, submissions and running steps. -/
structure Steps where
  /-- R247: loaded step programs. -/
  programs : SMap Program := []
  /-- R287: launch-steps with launches to come. -/
  subs : List Submission := []
  /-- R209: the step running in each partition. -/
  running : SMap StepRun := []
  /-- R320: suspended steps. -/
  suspended : List (Nat × StepRun) := []
  deriving DecidableEq, Repr, Inhabited

/-- A bound table (R54). -/
structure Table where
  /-- R54: the descriptor as written in the table. -/
  desc : List (BitVec 8) := []
  /-- R54: owning context. -/
  ctx : Nat := 0
  /-- R60: its partition. -/
  part : Nat := 0
  /-- R351: its page-map entries. -/
  pages : List Nat := []
  /-- R56: an unbind awaits the step boundary. -/
  unbinding : Bool := false
  /-- R56: unbind-table commands that wait. -/
  unbindJobs : List Nat := []
  /-- R56: bind-table command that waits for the boundary. -/
  bindJob : Option Nat := none
  /-- R245: object index on which it holds a binding. -/
  obj : Nat := 0
  /-- R90: twin catch-up or delta merge in progress (bg_busy). -/
  busy : Bool := false
  /-- R102: delta slots released and not yet reusable: none here when reusable. -/
  deltaFree : List Nat := []
  deriving DecidableEq, Repr, Inhabited

/-- A page-map entry (R351). -/
structure PmapEntry where
  /-- R351: HBM page number. -/
  page : Nat := 0
  /-- R351: write permission. -/
  write : Bool := true
  /-- R351: enc. -/
  enc : Bool := false
  /-- R351: key slot. -/
  key : Nat := 0
  /-- R352: device virtual address walked. -/
  va : BitVec 64 := 0
  /-- R352: owning context. -/
  ctx : Nat := 0
  /-- R351: in use. -/
  used : Bool := false
  deriving DecidableEq, Repr, Inhabited

/-- A crimson-tier entry (R71). -/
structure Crimson where
  /-- R71: table ID. -/
  table : Nat := 0
  /-- R71: logical row. -/
  row : Nat := 0
  /-- R71: epoch. -/
  epoch : Nat := 0
  /-- R75: partition. -/
  part : Nat := 0
  /-- R71: set. -/
  set : Nat := 0
  /-- R75: way. -/
  way : Nat := 0
  /-- R71: the row as stored. -/
  data : List (BitVec 8) := []
  /-- R71: visible since a step boundary. -/
  visible : Bool := false
  /-- R71: evicted: hits only until its partition's next step boundary. -/
  evicted : Bool := false
  deriving DecidableEq, Repr, Inhabited

/-- A queued promotion (R74). -/
structure Promotion where
  /-- R74: table ID. -/
  table : Nat := 0
  /-- R74: logical row. -/
  row : Nat := 0
  /-- R74: epoch. -/
  epoch : Nat := 0
  /-- R74: partition. -/
  part : Nat := 0
  /-- R76: of a refresh pass. -/
  refresh : Bool := false
  /-- R74: its row has been asked for from its owner. -/
  asked : Bool := false
  deriving DecidableEq, Repr, Inhabited

/-- A held grey record (R83). -/
structure GreyHeld where
  /-- R83: partition. -/
  part : Nat := 0
  /-- R83: context. -/
  ctx : Nat := 0
  /-- R82: grey area handle. -/
  handle : Nat := 0
  /-- R83: index in the record area. -/
  slot : Nat := 0
  /-- R78: feature. -/
  feature : Nat := 0
  /-- R78: bag. -/
  bag : Nat := 0
  /-- R78: local_row at the owner. -/
  row : Nat := 0
  /-- R83: weight. -/
  weight : BitVec 32 := 0
  /-- R83: position in bag. -/
  pos : Nat := 0
  /-- R83: partial slot index. -/
  partialSlot : Nat := 0xFFFF
  /-- R83: epoch. -/
  epoch : Nat := 0
  /-- R83: owner, group-relative block. -/
  owner : Nat := 0
  /-- R83: sent_be. -/
  sentBe : Bool := false
  /-- R82: sent in a spill window. -/
  sent : Bool := false
  /-- R83: its result has returned and is yet to be added. -/
  back : Bool := false
  /-- R83: step number. -/
  step : Nat := 0
  /-- R82: table ID of its feature. -/
  table : Nat := 0
  /-- R82: out_format of its feature. -/
  outFormat : Nat := 0
  /-- R82: pool_op of its feature. -/
  poolOp : Nat := 0
  deriving DecidableEq, Repr, Inhabited

/-- A partial slot of the grey area (R83). -/
structure GreyPartial where
  /-- R83: partition. -/
  part : Nat := 0
  /-- R83: context. -/
  ctx : Nat := 0
  /-- R82: grey area handle. -/
  handle : Nat := 0
  /-- R83: slot. -/
  slot : Nat := 0
  /-- R83: step number. -/
  step : Nat := 0
  /-- R83: feature. -/
  feature : Nat := 0
  /-- R83: bag. -/
  bag : Nat := 0
  /-- R83: records still outstanding. -/
  outstanding : Nat := 0
  /-- R83: IDs covered so far. -/
  count : Nat := 0
  /-- R83: the feature's ready tick has passed. -/
  filled : Bool := false
  /-- R83: the partial value. -/
  values : List (BitVec 32) := []
  /-- R83: late partials held until every record has returned. -/
  returned : List Contribution := []
  /-- R86: a default row contributed. -/
  subst : Bool := false
  /-- R82: out_format of its feature. -/
  outFormat : Nat := 0
  /-- R82: pool_op of its feature. -/
  poolOp : Nat := 0
  deriving DecidableEq, Repr, Inhabited

/-- An entry of a carry area (R84). -/
structure CarryEntry where
  /-- R84: feature. -/
  feature : Nat := 0
  /-- R84: bag. -/
  bag : Nat := 0
  /-- R84: position. -/
  pos : Nat := 0
  /-- R84: substituted. -/
  subst : Bool := false
  /-- R84: byte offset of the entry. -/
  offset : Nat := 0
  deriving DecidableEq, Repr, Inhabited

/-- A carry area (R84). -/
structure CarryArea where
  /-- R84: partition. -/
  part : Nat := 0
  /-- R84: context. -/
  ctx : Nat := 0
  /-- R84: its object. -/
  handle : Nat := 0
  /-- R84: step that reads it. -/
  reader : Nat := 0
  /-- R84: bytes used after 0x4040. -/
  used : Nat := 0
  /-- R84: late bags and rows that did not fit. -/
  overflow : Nat := 0
  /-- R84: final. -/
  final : Bool := false
  /-- R84: entries in the order in which bags completed. -/
  entries : List CarryEntry := []
  deriving DecidableEq, Repr, Inhabited

/-- The embedding engine. -/
structure Embedding where
  /-- R53: bound tables by table ID. -/
  tables : SMap Table := []
  /-- R56: binds and rebinds that await the step boundary, oldest first. -/
  binds : List (Nat × Table) := []
  /-- R351: page map. -/
  pmap : SMap PmapEntry := []
  /-- R88: codebook units holding a loaded codebook. -/
  cbLoaded : BitVec 64 := 0
  /-- R260: context that loaded each codebook unit. -/
  cbOwner : SMap Nat := []
  /-- R71: crimson tier. -/
  crimson : List Crimson := []
  /-- R72: sketch counters by ((group-stack * 8 + g) * 4 + k) * 65,536 + h. -/
  sketch : SMap Nat := []
  /-- R76: keys invalidated in this tick. -/
  invalidated : List (Nat × Nat × Nat) := []
  /-- R74: promotion queue. -/
  promos : List Promotion := []
  /-- R82: held grey records by partition (their images stand in the grey areas). -/
  greyHeld : List GreyHeld := []
  /-- R83: partial slots in use. -/
  greyParts : List GreyPartial := []
  /-- R245: work references of ended steps that left grey records. -/
  greyRefs : List (Nat × Nat × List Nat) := []
  /-- R84: carry areas. -/
  carries : List CarryArea := []
  /-- R353: translation failures of the grey lane whose context faults are due. -/
  greyFaults : List (Nat × Nat × BitVec 16) := []
  /-- R415: lanes marked out. -/
  lanesOut : List Nat := []
  /-- R416: lane units marked out. -/
  laneUnitsOut : List Nat := []
  deriving DecidableEq, Repr, Inhabited

/-- An epoch group (R89, R90). -/
structure EpochGroup where
  /-- R110: the group exists. -/
  valid : Bool := false
  /-- R110: owning context. -/
  ctx : Nat := 0
  /-- R110: active epoch. -/
  active : Nat := 0
  /-- R110: epoch a - 1 is retained. -/
  retained : Bool := false
  /-- R110: staging state. -/
  staging : Staging := .closed
  /-- R104: armed flip. -/
  armed : Option (Nat × Nat) := none
  /-- R105: flip announced and not yet taken. -/
  announced : Option (Nat × Nat × Nat) := none
  /-- R104: flip commands awaiting T_f (coordinator). -/
  flipJobs : List Nat := []
  /-- R106: T_f plus the release delay. -/
  releaseAt : Nat := 0
  /-- R95: seal commands that wait. -/
  sealJobs : List Nat := []
  /-- R95: streams that have delivered a last record for the staging epoch. -/
  lastSeen : List Nat := []
  /-- R105: T_f passed without a switch. -/
  missed : Bool := false
  deriving DecidableEq, Repr, Inhabited

/-- An update record held or in flight (R91). -/
structure UpdRec where
  /-- R91: header and payload. -/
  bytes : List (BitVec 8) := []
  /-- R93: submitting context. -/
  ctx : Nat := 0
  /-- R93: update command (host path). -/
  job : Option Nat := none
  deriving DecidableEq, Repr, Inhabited

/-- A bound update stream (R93). -/
structure UpdStream where
  /-- R93: context. -/
  ctx : Nat := 0
  /-- R93: epoch group. -/
  group : Nat := 0
  /-- R93: bound. -/
  bound : Bool := false
  /-- R93: next seq. -/
  seq : Nat := 0
  /-- R93: records received ahead of their seq. -/
  ahead : List UpdRec := []
  deriving DecidableEq, Repr, Inhabited

/-- The update engine. -/
structure Update where
  /-- R89: epoch groups. -/
  groups : SMap EpochGroup := []
  /-- R93: update streams. -/
  streams : SMap UpdStream := []
  /-- R92: ingest queue. -/
  held : List UpdRec := []
  /-- R100: active delta filters, bit g * 4,194,304 + b. -/
  filterActive : SMap Bool := []
  /-- R100: shadow delta filters. -/
  filterShadow : SMap Bool := []
  /-- R403: rows that the catch-up or merge under way could not read. -/
  unread : List (Nat × Nat × Bool) := []
  /-- R97: tables whose twin catch-up is to run or runs. -/
  catchup : List Nat := []
  deriving DecidableEq, Repr, Inhabited

/-- A TLB entry (R347). -/
structure TlbEntry where
  /-- R347: PASID. -/
  pasid : Nat := 0
  /-- R347: VA page, in units of its size. -/
  page : Nat := 0
  /-- R347: size: 25 or 30 (12 to 30 for ATS). -/
  sizeLog2 : Nat := 25
  /-- R347: final physical address of the page. -/
  pa : Nat := 0
  /-- R347: host memory. -/
  hostPage : Bool := false
  /-- R347: read. -/
  read : Bool := true
  /-- R347: write. -/
  write : Bool := true
  /-- R347: enc. -/
  enc : Bool := false
  /-- R347: key. -/
  key : Nat := 0
  /-- R347: ac_en. -/
  acEn : Bool := false
  /-- R347: ac_index. -/
  acIndex : Nat := 0
  /-- R347: no_snoop. -/
  noSnoop : Bool := false
  /-- R347: relaxed. -/
  relaxed : Bool := false
  /-- R347: hot. -/
  hot : Bool := false
  /-- R362: stage-2 domain of its PASID. -/
  domain : Nat := 0
  deriving DecidableEq, Repr, Inhabited

/-- A page-request entry (R355). -/
structure PageReq where
  /-- R355: outstanding. -/
  used : Bool := false
  /-- R355: PASID. -/
  pasid : Nat := 0
  /-- R355: stage. -/
  stage : Nat := 0
  /-- R355: page. -/
  page : Nat := 0
  /-- R355: copies attached. -/
  jobs : List Nat := []
  /-- R356: faulting VA. -/
  va : BitVec 64 := 0
  /-- R356: write. -/
  write : Bool := false
  deriving DecidableEq, Repr, Inhabited

/-- A queued invalidation (R362). -/
structure InvCmd where
  /-- R362: scope. -/
  scope : Nat := 0
  /-- R362: domain. -/
  domain : Nat := 0
  /-- R362: PASID. -/
  pasid : Nat := 0
  /-- R362: TU_INV_ADDR when queued. -/
  addr : Nat := 0
  /-- R362: TU_INV_LEN when queued. -/
  len : Nat := 0
  /-- R362: sequence number. -/
  seq : Nat := 0
  deriving DecidableEq, Repr, Inhabited

/-- A key slot (R343). -/
structure KeySlot where
  /-- R372: loaded. -/
  loaded : Bool := false
  /-- R343: key 1 in bits [255:0], key 2 in bits [511:256]. -/
  data : BitVec 512 := 0
  deriving DecidableEq, Repr, Inhabited

/-- A walk-cache entry (R349): a non-leaf entry, or the stage-2 translation of a stage-1 table page. -/
structure WalkCacheEntry where
  /-- R349: stage. -/
  stage : Nat := 1
  /-- R349: PASID. -/
  pasid : Nat := 0
  /-- R349: domain. -/
  domain : Nat := 0
  /-- R349: address of the table entry, or IPA page of the stage-1 table. -/
  addr : Nat := 0
  /-- R349: the entry, or the PA. -/
  value : BitVec 64 := 0
  deriving DecidableEq, Repr, Inhabited

/-- The translation unit and the key slots. -/
structure Translation where
  /-- R347: micro-TLB of each engine, most recently used first. -/
  utlb : SMap (List TlbEntry) := []
  /-- R348: second-level TLB, most recently used first. -/
  l2 : SMap (List TlbEntry) := []
  /-- R349: walk cache. -/
  wcache : List WalkCacheEntry := []
  /-- R362: cached PASID-table entries. -/
  pasidCache : SMap (BitVec 128) := []
  /-- R367: ATC. -/
  atc : List TlbEntry := []
  /-- R355: page-request entries. -/
  preqs : SMap PageReq := []
  /-- R368: a Response Failure stopped page requests. -/
  priStopped : Bool := false
  /-- R357: records held because the fault queue is full. -/
  fqHeld : List (List (BitVec 8)) := []
  /-- R356: next record sequence number. -/
  fqSeq : Nat := 0
  /-- R357: passes of the fault queue (the model's own field). -/
  fqWraps : Nat := 0
  /-- R362: invalidation queue. -/
  invQ : List InvCmd := []
  /-- R362: sequence of the last command queued. -/
  invSeq : Nat := 0
  /-- R362: sequence of the last command completed. -/
  invDone : Nat := 0
  /-- R369: an ATS invalidation drains. -/
  atsDrain : Bool := false
  /-- R364: access counters. -/
  acs : SMap Nat := []
  /-- R365: notified bits. -/
  acNotified : SMap Bool := []
  /-- R365: notifications still to be posted. -/
  acPending : List Nat := []
  /-- R360: mirror copy running. -/
  mirror : Option (Nat × Nat × Nat) := none
  /-- R343: key slots. -/
  keys : SMap KeySlot := []
  /-- R372: MP_KEY_DATA as written. -/
  keyData : BitVec 512 := 0
  /-- R346: load or clear that has not yet taken effect. -/
  keyPending : Option (Nat × Bool × BitVec 512) := none
  deriving DecidableEq, Repr, Inhabited

/-- A mailbox (R380). -/
structure Mailbox where
  /-- R398: CC_MB_NOTICE. -/
  notice : BitVec 64 := 0
  /-- R398: owner's requester number, 0 free. -/
  lock : Nat := 0
  /-- R398: done. -/
  done : Bool := false
  /-- R398: return code. -/
  code : BitVec 16 := 0
  /-- R398: pending. -/
  pending : Bool := false
  /-- R380: tick of the lock reads in `readers` (the model's own field). -/
  readAt : Nat := 0
  /-- R380: who has read the lock in that tick (the model's own field). -/
  readers : List Nat := []
  /-- R380: the lock's owner as those reads find it (the model's own field). -/
  before : Nat := 0
  deriving DecidableEq, Repr, Inhabited

/-- The control complex. -/
structure Control where
  /-- R382: the control-complex domain is powered. -/
  powered : Bool := true
  /-- R374: entry at which each processor restarts (0 boot ROM until an image). -/
  entry : SMap Nat := []
  /-- R374: times each processor was started at its entry (the model's own field). -/
  restarts : SMap Nat := []
  /-- R374: CP0 runs the image. -/
  imageRuns : Bool := false
  /-- R375: tick at which each watchdog's period last restarted. -/
  kicked : SMap Nat := []
  /-- R379: mailboxes. -/
  mailboxes : SMap Mailbox := []
  /-- R381: processors interrupted by mailboxes (output) (the model's own field). -/
  irq : List Nat := []
  /-- R373: bus-error exceptions taken by each processor (the model's own field). -/
  busErrors : SMap Nat := []
  /-- R378: program or erase commands held because a step runs. -/
  heldFlash : List (Nat × Nat × List (BitVec 8)) := []
  /-- R378: data returned by the last read of each control processor (the model's own field). -/
  cpRead : SMap (BitVec 64) := []
  deriving DecidableEq, Repr, Inhabited

/-- A running digest request (R410). -/
structure Digest where
  /-- R410: context. -/
  ctx : Nat := 0
  /-- R410: object index. -/
  obj : Nat := 0
  /-- R410: first address. -/
  va : Nat := 0
  /-- R410: bytes. -/
  len : Nat := 0
  deriving DecidableEq, Repr, Inhabited

/-- Errors, ash watch, power. -/
structure Health where
  /-- R408: units whose source-1 event was raised in this halving period. -/
  ceRaised : List Nat := []
  /-- R410: digest request running. -/
  digest : Option Digest := none
  /-- R421: HP_TELEM. -/
  telem : SMap (BitVec 64) := []
  /-- R421: HP_TELEM_SNAP. -/
  snap : SMap (BitVec 64) := []
  /-- R413: tick of each unit's last test, and the steps its partition had launched by then. -/
  ashLast : SMap (Nat × Nat) := []
  /-- R412: tests running. -/
  ashRunning : List Nat := []
  /-- R419: consecutive windows in which P exceeded L by more than 5%. -/
  overRun : Nat := 0
  /-- R417: tick of the last power window boundary. -/
  windowAt : Nat := 0
  deriving DecidableEq, Repr, Inhabited

/-- What the block last returned to a read. -/
structure Reply where
  /-- R11: word, or aligned pair of words, returned by the last register or mailbox read of the host (the model's own field). -/
  data : BitVec 64 := 0
  deriving DecidableEq, Repr, Inhabited

/-- The block. -/
structure State where
  /-- R8: commands that are waiting, first in first out (the model's own field). -/
  pending : List Instr := []
  /-- R304: addressed memories. -/
  mem : Memories := {}
  /-- R15: registers whose home is the register file. -/
  regs : SMap (BitVec 32) := []
  /-- R18: boundary. -/
  bound : Boundary := {}
  /-- R390: staged start. -/
  start : StartState := {}
  /-- R185: time base. -/
  time : TimeBase := {}
  /-- R230: link engine. -/
  links : Links := {}
  /-- R231: front end. -/
  front : FrontEnd := {}
  /-- R302: partitions. -/
  parts : Partitions := {}
  /-- R177: step programs. -/
  steps : Steps := {}
  /-- R111: matrix cores. -/
  cores : SMap Core := []
  /-- R51: embedding engine. -/
  emb : Embedding := {}
  /-- R89: update engine. -/
  upd : Update := {}
  /-- R334: translation unit. -/
  trans : Translation := {}
  /-- R373: control complex. -/
  ctrl : Control := {}
  /-- R400: health and power. -/
  health : Health := {}
  /-- R167: how many free values have been taken (the model's own field). -/
  freeCount : Nat := 0
  /-- R20: data returned (the model's own field). -/
  reply : Reply := {}
  deriving DecidableEq, Repr, Inhabited

/-- R37, R41: the block right after power-on: held in cold reset (`por_n` low), every register at its reset value, no
command waiting. -/
def State.reset : State := {}

/-- The reasons a command stops with a fault. -/
inductive Fault where
  /-- Raised by every command that names a unit, register or partition outside the ranges of R13: the spec gives such a
  command no effect. Safe: no claim about a next state can be made of it. -/
  | noSuchUnit
  deriving DecidableEq, Repr, Inhabited

/-- The reasons a command is refused. -/
inductive Refusal where
  /-- A row that has no meaning in this model, by its mnemonic. Safe. -/
  | notModelled (mnemonic : String)
  deriving DecidableEq, Repr, Inhabited

end Sys2Proof.Machine
end

