-- ==== Sys2Proof/Machine/Operands.lean ====
section
/-! DEFINITION. The operand forms of core instructions: g and v registers, statistics registers, core memory behind the
context's window (R315), the layouts of R156 to R158, and the tile operands of R161 and R162. -/

namespace Sys2Proof.Machine

/-- A core. -/
def coreOf (s : State) (c : Nat) : Core := mget s.cores c

/-- Replace a core. -/
def putCore (s : State) (c : Nat) (k : Core) : State := { s with cores := mset s.cores c k }

/-- R151: a g register; g0 reads 0. -/
def gReg (k : Core) (r : Nat) : BitVec 64 := if r = 0 then 0 else mget k.g r

/-- R151: write a g register; a write to g0 is ignored. -/
def setG (k : Core) (r : Nat) (v : BitVec 64) : Core := if r = 0 then k else { k with g := mset k.g r v }

/-- R151: a lane of a vector register; a lane nothing has written since the registers became undefined holds a free value
(log 4). -/
def vLane (k : Core) (r l : Nat) : BitVec 32 := (mfind k.v (128 * r + l)).getD (Config.freeLane k.vseed r l)

/-- Write lanes of a vector register. -/
def setLane (k : Core) (r l : Nat) (x : BitVec 32) : Core := { k with v := mput k.v (128 * r + l) x }

/-- Write all 128 lanes of a vector register. -/
def setLanes (k : Core) (r : Nat) (f : Nat → BitVec 32) : Core :=
  { k with v := (List.range 128).foldl (fun m l => mput m (128 * r + l) (f l)) k.v }

/-- R134: a statistics register; indices that R134 does not list read 0. -/
def statReg (k : Core) (i : Nat) : BitVec 32 :=
  match mfind k.stats i with
  | some x => x
  | none =>
    match k.statLost with
    | none => 0
    | some seed => if i < 130 ∨ (256 ≤ i ∧ i < 386) then Config.freeStat seed i else 0

/-- Write a statistics register. -/
def setStat (k : Core) (i : Nat) (x : BitVec 32) : Core := { k with stats := mput k.stats i x }

/-- R314: a context's window, in sixteenths of every core memory. -/
structure Win where
  base : Nat
  count : Nat
  deriving DecidableEq, Repr, Inhabited

/-- The window of the context whose step the core runs. -/
def winOf (s : State) (c : Nat) : Win :=
  match mfind s.steps.running (coreOf s c).part with
  | none => ⟨0, 16⟩
  | some r => ⟨(mget s.front.ctxs r.ctx).sramBase, (mget s.front.ctxs r.ctx).sramCount⟩

/-- R315: an activation-buffer byte. -/
def winAct (w : Win) (a : Nat) : Nat := w.base * 131072 + a % (w.count * 131072)

/-- R315: a weight-buffer byte, `off` bytes into the tile at 1 KiB unit `u`; the bank bit is kept. -/
def winTile (w : Win) (u off : Nat) : Nat :=
  u / 2048 % 2 * 2097152 + w.base * 131072 + (u % 2048 * 1024 + off) % (w.count * 131072)

/-- R315: a weight-buffer byte by its byte address. -/
def winWeight (w : Win) (a : Nat) : Nat := winTile w (a / 1024) (a % 1024)

/-- R315: an accumulator row. -/
def winRow (w : Win) (r : Nat) : Nat := 64 * w.base + r % (64 * w.count)

/-- An accumulator byte: array, then row of 128 words (log 11), behind the window. -/
def winAcc (w : Win) (a : Nat) : Nat := a / 524288 % 2 * 524288 + winRow w (a / 512 % 1024) * 512 + a % 512

/-- R315: a program-memory instruction index. -/
def winProg (w : Win) (i : Nat) : Nat := 1024 * w.base + i % (1024 * w.count)

/-- R315: a program-memory byte. -/
def winProgByte (w : Win) (a : Nat) : Nat := w.base * 16384 + a % (w.count * 16384)

/-- R168: read a byte of a core memory: space 0 activation, 1 accumulator, 2 weight, 3 program, 4 statistics. -/
def coreRd (k : Core) (w : Win) (sp a : Nat) : Byte :=
  match sp with
  | 0 => rd8 k.act (winAct w a)
  | 1 => rd8 k.acc (winAcc w a)
  | 2 => rd8 k.weight (winWeight w a)
  | 3 => rd8 k.prog (winProgByte w a)
  | _ => BitVec.ofNat 8 (bits (statReg k (a / 4)).toNat (8 * (a % 4)) 8)

/-- Write a byte of a core memory; the statistics registers are not written. -/
def coreWr (k : Core) (w : Win) (sp a : Nat) (b : Byte) : Core :=
  match sp with
  | 0 => { k with act := wr8 k.act (winAct w a) b }
  | 1 => { k with acc := wr8 k.acc (winAcc w a) b }
  | 2 => { k with weight := wr8 k.weight (winWeight w a) b }
  | 3 => { k with prog := wr8 k.prog (winProgByte w a) b }
  | _ => k

def coreRdN (k : Core) (w : Win) (sp a n : Nat) : List Byte := (List.range n).map (fun i => coreRd k w sp (a + i))

def coreWrN (k : Core) (w : Win) (sp a : Nat) (bs : List Byte) : Core :=
  match bs with
  | [] => k
  | b :: r => coreWrN (coreWr k w sp a b) w sp (a + 1) r

def coreRdLE (k : Core) (w : Win) (sp a n : Nat) : Nat := leNat (coreRdN k w sp a n)

def coreWrLE (k : Core) (w : Win) (sp a n v : Nat) : Core := coreWrN k w sp a (leBytes n v)

/-- R156: the byte of element (m, k) within a K tile, for elements stored in 4, 8 or 16 bits. -/
def actOff (store m k : Nat) : Nat :=
  match store with
  | 4 => 1024 * (m / 8) + 32 * (k / 8) + 16 * (m / 4 % 2) + 4 * (m % 4) + k % 8 / 2
  | 16 => 1024 * (m / 4) + 32 * (k / 4) + 8 * (m % 4) + 2 * (k % 4)
  | _ => 1024 * (m / 8) + 32 * (k / 4) + 16 * (m / 4 % 2) + 4 * (m % 4) + k % 4

/-- R158: the byte of weight (k, n) within a tile. -/
def weightOff (store k n : Nat) : Nat :=
  match store with
  | 4 => 512 * (k / 8) + 16 * (n / 4) + 4 * (n % 4) + k % 8 / 2
  | 16 => 1024 * (k / 4) + 32 * (n / 4) + 8 * (k % 4) + 2 * (n % 4)
  | _ => 512 * (k / 4) + 16 * (n / 4) + 4 * (k % 4) + n % 4

/-- R127: a 4-bit pair runs at K_t = 256, any other at 128. -/
def tileKt (f : TileFields) : Nat := if elemBits f.fmtA = 4 ∧ elemBits f.fmtW = 4 then 256 else 128

/-- R127, R156, R158: the bits an element is stored in: a 4-bit operand of a pair at K_t = 128 takes a byte. -/
def storeBits (kt fmt : Nat) : Nat :=
  if elemBits fmt = 16 then 16 else if elemBits fmt = 4 ∧ kt = 256 then 4 else 8

/-- R116: M, K_active and N_active. -/
def tileM (f : TileFields) : Nat := 4 * (f.mBlk + 1)
def tileK (f : TileFields) : Nat := f.kAct + 1
def tileN (f : TileFields) : Nat := f.nAct + 1

/-- R127: does the pair run at the BF16 rate? -/
def tileBf16 (f : TileFields) : Bool := elemFmt f.fmtA == 7 || elemFmt f.fmtW == 7

/-- R127: integer formats on both sides. -/
def tileInt (f : TileFields) : Bool := isIntFmt f.fmtA && isIntFmt f.fmtW

/-- R162: the activation K tile base in bytes; bits [3:0] of the unit value are taken as 0. -/
def tileActBase (f : TileFields) (off : Nat) : Nat := (f.actAddr + bits off 12 15) % 32768 / 16 * 1024

/-- R162: the weight tile's unit for an array (R161: array B of a pair lies at w_addr XOR 0x800). -/
def tileWUnit (f : TileFields) (off x : Nat) : Nat :=
  let u := (f.wAddr + bits off 0 12) % 4096
  if f.arrays = 3 ∧ x = 1 then (u + 2048) % 4096 else u

/-- R162: the output base in bytes. -/
def tileOutBase (f : TileFields) (off : Nat) : Nat := (f.outAddr + bits off 27 15) % 32768 * 64

/-- R162: the first accumulator row. -/
def tileAccRow (f : TileFields) (off : Nat) : Nat := (f.accRow + bits off 42 10) % 1024

/-- The arrays a tile names: 0 for A, 1 for B. -/
def tileArrays (f : TileFields) : List Nat := (if bit f.arrays 0 then [0] else []) ++ (if bit f.arrays 1 then [1] else [])

/-- An element's code: `byte i` is byte `i` of its place. -/
def elemCode (fmt store k : Nat) (byte : Nat → Nat) : Nat :=
  match store with
  | 4 => if k % 2 = 0 then byte 0 % 16 else byte 0 / 16
  | 16 => byte 0 + 256 * byte 1
  | _ => byte 0 % 2 ^ elemBits fmt

/-- R156: the code of activation (m, k) of the K tile at `base`. -/
def actCode (k : Core) (w : Win) (fmt store base m i : Nat) : Nat :=
  elemCode fmt store i (fun j => (coreRd k w 0 (base + actOff store m i + j)).toNat)

/-- R156: the MX scale of activation (m, i); 127 (2^0) without MX scales (R127). -/
def actScale (k : Core) (w : Win) (fmt base mTot m i : Nat) : Nat :=
  if isMx fmt then (coreRd k w 0 (base + 1024 * cdiv mTot 8 + 8 * m + i / 32)).toNat else 127

/-- A byte of a weight tile and its parameter block. -/
def tileByte (k : Core) (w : Win) (u off : Nat) : Nat := (rd8 k.weight (winTile w u off)).toNat

/-- R158: the code of weight (i, n). -/
def weightCode (k : Core) (w : Win) (fmt store u i n : Nat) : Nat :=
  elemCode fmt store i (fun j => tileByte k w u (weightOff store i n + j))

/-- R126: bytes of a weight tile; its parameter block follows (R119). -/
def weightBytes (fmt : Nat) : Nat := if elemFmt fmt = 7 then 32768 else 16384

/-- R119: parameters of column n: z_w, out_scale, z_out, mx_scale of the K group of position i. -/
def paramZw (k : Core) (w : Win) (fmt u n : Nat) : Int := sx 8 (tileByte k w u (weightBytes fmt + n))
def paramScale (k : Core) (w : Win) (fmt u n : Nat) : BitVec 32 :=
  BitVec.ofNat 32 (leNat ((List.range 4).map (fun j => BitVec.ofNat 8 (tileByte k w u (weightBytes fmt + 0x80 + 4 * n + j)))))
def paramZout (k : Core) (w : Win) (fmt u n : Nat) : Int := sx 8 (tileByte k w u (weightBytes fmt + 0x280 + n))
def weightScale (k : Core) (w : Win) (fmt u i n : Nat) : Nat :=
  if isMx fmt then tileByte k w u (weightBytes fmt + 0x300 + 128 * (i / 32) + n) else 127

/-- The integer value of a code of INT8 or INT4. -/
def intVal (fmt c : Nat) : Int := if elemFmt fmt = 3 then sx 4 c else sx 8 c

end Sys2Proof.Machine
end

