-- ==== Sys2Proof/Machine/Flags.lean ====
section
/-! DEFINITION. The sequencer's flags z, n, late, subst and fail (R151, R160) and the conditions of br. -/

namespace Sys2Proof.Machine

/-- R160: cmp sets z where the operands are equal and n where the first is lower, unsigned. -/
def cmpFlags (k : Core) (a b : BitVec 64) : Core := { k with z := decide (a = b), n := decide (a.toNat < b.toNat) }

/-- R160: the conditions of br. -/
def condHolds (k : Core) (cond : Nat) : Bool :=
  match cond with
  | 0 => true
  | 1 => k.z
  | 2 => !k.z
  | 3 => k.n
  | 4 => k.late
  | 5 => !k.late
  | 6 => k.subst
  | _ => k.fail

/-- R160, R173: the late-feature test sets late and subst. -/
def lateFlags (k : Core) (late subst : Bool) : Core := { k with late := late, subst := subst }

/-- R160: an alloc that finds no block and an fwait that ends on an error set fail. -/
def failFlag (k : Core) : Core := { k with fail := true }

/-- R172: the flags as the save record holds them (log 22). -/
def flagBits (k : Core) : Nat := b2n k.z + 2 * b2n k.n + 4 * b2n k.late + 8 * b2n k.subst + 16 * b2n k.fail

end Sys2Proof.Machine
end

