-- ==== Sys2Proof/Machine/Aes.lean ====
section
/-! DEFINITION. XTS-AES-256 on a 32-byte granule (R343, R344: IEEE 1619 over the AES of FIPS 197; PRESUMED from those
standards, log 14). Blocks are lists of 16 bytes. -/

namespace Sys2Proof.Machine

/-- The S-box, byte `x` at bits [8x + 7 : 8x]. -/
def aesSbox : Nat :=
  0x16BB54B00F2D99416842E6BF0D89A18CDF2855CEE9871E9B948ED9691198F8E19E1DC186B95735610EF6034866B53E708A8BBD4B1F74DDE8C6B4A61C2E2578BA08AE7A65EAF4566CA94ED58D6D37C8E779E4959162ACD3C25C2406490A3A32E0DB0B5EDE14B8EE4688902A22DC4F816073195D643D7EA7C41744975FEC130CCDD2F3FF1021DAB6BCF5389D928F40A351A89F3C507F02F94585334D43FBAAEFD0CF584C4A39BECB6A5BB1FC20ED00D153842FE329B3D63B52A05A6E1B1A2C830975B227EBE28012079A059618C323C7041531D871F1E5A534CCF73F362693FDB7C072A49CAFA2D4ADF04759FA7DC982CA76ABD7FE2B670130C56F6BF27B777C63

/-- The inverse S-box. -/
def aesInvSbox : Nat :=
  0x7D0C2155631469E126D677BA7E042B17619953833CBBEBC8B0F52AAE4D3BE0A0EF9CC9939F7AE52D0D4AB519A97F51605FEC8027591012B131C7078833A8DD1FF45ACD78FEC0DB9A2079D2C64B3E56FC1BBE18AA0E62B76F89C5291D711AF1476EDF751CE837F9E28535ADE72274AC9673E6B4F0CECFF297EADC674F4111913A6B8A130103BDAFC1020F3FCA8F1E2CD00645B3B80558E4F70AD3BC8C00ABD890849D8DA75746155EDAB9EDFD5048706C92B6655DCC5CA4D41698688664F6F87225D18B6D49A25B76B224D92866A12E084EC3FA420B954CEE3D23C2A632947B54CBE9DEC444438E3487FF2F9B8239E37CFBD7F3819EA340BF38A53630D56A0952

def subByte (t : Nat) (b : Byte) : Byte := BitVec.ofNat 8 (t / 2 ^ (8 * b.toNat))

/-- Multiply by x in GF(2^8). -/
def xtime (b : Byte) : Byte := (b <<< 1) ^^^ (if b.msb then 0x1B else 0)

/-- Multiply in GF(2^8), `n` bits of the second factor. -/
def gmul (n : Nat) (a b : Byte) : Byte :=
  match n with
  | 0 => 0
  | k + 1 => (if b.getLsbD 0 then a else 0) ^^^ gmul k (xtime a) (b >>> 1)

def nth (l : List Byte) (i : Nat) : Byte := l.getD i 0

def xorL (a b : List Byte) : List Byte := a.zipWith (· ^^^ ·) b

/-- Column-major state: row r of column c is byte 4c + r. -/
def shiftRows (l : List Byte) : List Byte := (List.range 16).map (fun i => nth l ((i + 4 * (i % 4)) % 16))
def invShiftRows (l : List Byte) : List Byte := (List.range 16).map (fun i => nth l ((i + 12 * (i % 4)) % 16))

/-- Mix columns with the circulant matrix of first row `c`. -/
def mixColumns (c : List Byte) (l : List Byte) : List Byte :=
  (List.range 16).map (fun i => (List.range 4).foldl (fun a j =>
    a ^^^ gmul 8 (nth l (i / 4 * 4 + j)) (nth c ((j + 4 - i % 4) % 4))) 0)

/-- Key schedule of AES-256: words 8 onward. -/
def expandKey (n : Nat) (ws : List (List Byte)) (rcon : Byte) : List (List Byte) :=
  match n with
  | 0 => ws
  | k + 1 =>
    let i := ws.length
    let t := ws.getD (i - 1) []
    let t' := if i % 8 = 0 then
        let r := ((t.drop 1) ++ t.take 1).map (subByte aesSbox)
        xorL r [rcon, 0, 0, 0]
      else if i % 8 = 4 then t.map (subByte aesSbox) else t
    expandKey k (ws ++ [xorL (ws.getD (i - 8) []) t']) (if i % 8 = 0 then xtime rcon else rcon)

/-- The round keys of a 32-byte key. -/
def roundKeys (key : List Byte) : List (List Byte) :=
  let ws := expandKey 52 ((List.range 8).map (fun i => (key.drop (4 * i)).take 4)) 1
  (List.range 15).map (fun r => ((List.range 4).map (fun j => ws.getD (4 * r + j) [])).flatten)

/-- AES-256 encryption of a block. -/
def aesEncrypt (rk : List (List Byte)) (b : List Byte) : List Byte :=
  let s := (List.range 13).foldl (fun s r =>
    xorL (mixColumns [2, 3, 1, 1] (shiftRows (s.map (subByte aesSbox)))) (rk.getD (r + 1) [])) (xorL b (rk.getD 0 []))
  xorL (shiftRows (s.map (subByte aesSbox))) (rk.getD 14 [])

/-- AES-256 decryption of a block. -/
def aesDecrypt (rk : List (List Byte)) (b : List Byte) : List Byte :=
  let s := (List.range 13).foldl (fun s r =>
    mixColumns [14, 11, 13, 9] (xorL ((invShiftRows s).map (subByte aesInvSbox)) (rk.getD (13 - r) []))) (xorL b (rk.getD 14 []))
  xorL ((invShiftRows s).map (subByte aesInvSbox)) (rk.getD 0 [])

/-- IEEE 1619: multiply a tweak by the primitive element of GF(2^128). -/
def tweakNext (t : List Byte) : List Byte :=
  let v := leNat t
  leBytes 16 (v * 2 % 2 ^ 128 ^^^ (if 2 ^ 127 ≤ v then 0x87 else 0))

/-- R344: encrypt or decrypt the 32-byte granule at a physical address; key 1 in the low 256 bits. -/
def xtsGranule (enc : Bool) (keys : BitVec 512) (pa : Nat) (d : List Byte) : List Byte :=
  let k1 := roundKeys (leBytes 32 keys.toNat)
  let k2 := roundKeys (leBytes 32 (keys.toNat / 2 ^ 256))
  let t0 := aesEncrypt k2 (leBytes 16 (pa % 2 ^ 52 / 32))
  let t1 := tweakNext t0
  let f := fun t b => xorL ((if enc then aesEncrypt else aesDecrypt) k1 (xorL b t)) t
  f t0 (d.take 16) ++ f t1 (d.drop 16)

end Sys2Proof.Machine
end

