-- ==== Sys2Proof/Machine/Regs.lean ====
section
/-! DEFINITION. The BAR0 register file (R11, R12, R15): one definition per field of the spec's register tables, and the
operations that read, set and count in a field. -/

namespace Sys2Proof.Machine

/-- R12: the access codes; RWL is split by the lock that the register's table names. -/
inductive Acc where
  | ro
  | rw
  | w1c
  | w1s
  | wo
  | rc
  | rwlBoot
  | rwlRepair
  deriving DecidableEq, Repr, Inhabited

/-- A register field: the BAR0 offset of its word, the stride and number of its copies, its place in the word, its
access code and the reset value of the whole word. -/
structure Fld where
  off : Nat
  stride : Nat
  count : Nat
  lo : Nat
  width : Nat
  acc : Acc
  rst : Nat
  deriving DecidableEq, Repr, Inhabited

/-- R50 BC fl_octal: BC_STRAPS: strap_fl_octal as sampled at por_n rising -/
def bcFlOctal : Fld := ⟨0x1C01000, 0, 1, 0, 1, .ro, 0x0⟩

/-- R50 BC test_en: strap_test_en as sampled at por_n rising -/
def bcTestEn : Fld := ⟨0x1C01000, 0, 1, 1, 1, .ro, 0x0⟩

/-- R50 BC therm_alarm: BC_IN_STATUS: 1 while the throttle of R42 is held -/
def bcThermAlarm : Fld := ⟨0x1C01004, 0, 1, 0, 1, .ro, 0x0⟩

/-- R50 BC tpulse_holdover: 1 while in holdover under R45 -/
def bcTpulseHoldover : Fld := ⟨0x1C01004, 0, 1, 1, 1, .ro, 0x0⟩

/-- R50 BC root_clk_lost: 1 after clock loss under R33 -/
def bcRootClkLost : Fld := ⟨0x1C01004, 0, 1, 2, 1, .ro, 0x0⟩

/-- R50 BC pwr_state: last qualified pwr_state -/
def bcPwrState : Fld := ⟨0x1C01004, 0, 1, 3, 2, .ro, 0x0⟩

/-- R50 BC pwr_ack: value driven on pwr_ack -/
def bcPwrAck : Fld := ⟨0x1C01004, 0, 1, 5, 2, .ro, 0x0⟩

/-- R50 BC captured_w: BC_PWR_BUDGET: last captured pwr_budget, in watts -/
def bcCapturedW : Fld := ⟨0x1C01008, 0, 1, 0, 10, .ro, 0xC803FF⟩

/-- R50 BC effective_w: effective limit under R40, in watts -/
def bcEffectiveW : Fld := ⟨0x1C01008, 0, 1, 16, 10, .ro, 0xC803FF⟩

/-- R50 BC wrst_short: BC_WRST_SHORT_CNT: warm-reset requests shorter than 64 TCLK cycles -/
def bcWrstShort : Fld := ⟨0x1C0100C, 0, 1, 0, 16, .rc, 0x0⟩

/-- R50 BC tpulse_ignored: BC_TPULSE_IGN_CNT: accepted-width edges ignored as too soon -/
def bcTpulseIgnored : Fld := ⟨0x1C01010, 0, 1, 0, 32, .rc, 0x0⟩

/-- R50 BC therm_falls: BC_THERM_CNT: synchronised falls of therm_alarm_n -/
def bcThermFalls : Fld := ⟨0x1C01014, 0, 1, 0, 16, .rc, 0x0⟩

/-- R88 EE sg_count: active stack groups -/
def eeSgCount : Fld := ⟨0x400000, 0, 1, 0, 5, .ro, 0x0⟩

/-- R88 EE lanes_active: active lanes, spares excluded -/
def eeLanesActive : Fld := ⟨0x400000, 0, 1, 8, 12, .ro, 0x0⟩

/-- R88 EE crimson_present: 1 if the crimson tier exists -/
def eeCrimsonPresent : Fld := ⟨0x400000, 0, 1, 20, 1, .ro, 0x0⟩

/-- R88 EE crimson_units: EE_CRIMSON_SIZE: tier size in 64 KiB units -/
def eeCrimsonUnits : Fld := ⟨0x400004, 0, 1, 0, 16, .ro, 0x0⟩

/-- R88 EE cb_used_lo: codebook units 0–31 holding a loaded codebook -/
def eeCbUsedLo : Fld := ⟨0x400008, 0, 1, 0, 32, .ro, 0x0⟩

/-- R88 EE cb_used_hi: codebook units 32–63 -/
def eeCbUsedHi : Fld := ⟨0x40000C, 0, 1, 0, 32, .ro, 0x0⟩

/-- R88 EE base_lo: EE_TABLE_BASE bits [31:22] -/
def eeBaseLo : Fld := ⟨0x400010, 0, 1, 22, 10, .rw, 0x0⟩

/-- R88 EE base_hi: EE_TABLE_BASE bits [51:32] -/
def eeBaseHi : Fld := ⟨0x400014, 0, 1, 0, 20, .rw, 0x0⟩

/-- R88 EE table_count: EE_TABLE_COUNT: descriptors bound -/
def eeTableCount : Fld := ⟨0x400018, 0, 1, 0, 17, .ro, 0x0⟩

/-- R88 EE decay_log2: EE_HEAT_CTL: sketch halving period 2^n ticks -/
def eeDecayLog2 : Fld := ⟨0x400020, 0, 1, 0, 5, .rw, 0x118⟩

/-- R88 EE sketch_en: 0 stops counting and promotion -/
def eeSketchEn : Fld := ⟨0x400020, 0, 1, 8, 1, .rw, 0x118⟩

/-- R88 EE sketch_clear: zeroes every counter at the next tick -/
def eeSketchClear : Fld := ⟨0x400020, 0, 1, 9, 1, .w1s, 0x118⟩

/-- R88 EE threshold: EE_PROMOTE_THR[g], g = 0 to 7: promotion estimate -/
def eeThreshold : Fld := ⟨0x400040, 4, 8, 0, 16, .rw, 0x100⟩

/-- R88 EE promote_en: enables promotion for table group g -/
def eePromoteEn : Fld := ⟨0x400040, 4, 8, 16, 1, .rw, 0x100⟩

/-- R88 EE lookups_lo: EE_CRIMSON_LOOKUPS, 64-bit -/
def eeLookupsLo : Fld := ⟨0x400060, 0, 1, 0, 32, .ro, 0x0⟩

/-- R88 EE lookups_hi:  -/
def eeLookupsHi : Fld := ⟨0x400064, 0, 1, 0, 32, .ro, 0x0⟩

/-- R88 EE hits_lo: EE_CRIMSON_HITS, 64-bit -/
def eeHitsLo : Fld := ⟨0x400068, 0, 1, 0, 32, .ro, 0x0⟩

/-- R88 EE hits_hi:  -/
def eeHitsHi : Fld := ⟨0x40006C, 0, 1, 0, 32, .ro, 0x0⟩

/-- R88 EE promotes: EE_PROMOTE_CNT: entries installed -/
def eePromotes : Fld := ⟨0x400070, 0, 1, 0, 32, .rc, 0x0⟩

/-- R88 EE promote_skips: EE_PROMOTE_SKIP -/
def eePromoteSkips : Fld := ⟨0x400074, 0, 1, 0, 32, .rc, 0x0⟩

/-- R88 EE crimson_ecc_miss: EE_CRIMSON_ECC_MISS -/
def eeCrimsonEccMiss : Fld := ⟨0x400078, 0, 1, 0, 32, .rc, 0x0⟩

/-- R88 EE spill_lo: EE_GREY_SPILL, 64-bit -/
def eeSpillLo : Fld := ⟨0x400080, 0, 1, 0, 32, .ro, 0x0⟩

/-- R88 EE spill_hi:  -/
def eeSpillHi : Fld := ⟨0x400084, 0, 1, 0, 32, .ro, 0x0⟩

/-- R88 EE grey_drop: EE_GREY_DROP -/
def eeGreyDrop : Fld := ⟨0x400088, 0, 1, 0, 32, .rc, 0x0⟩

/-- R88 EE substitutions: EE_SUBST_CNT: default-row contributions from all causes -/
def eeSubstitutions : Fld := ⟨0x40008C, 0, 1, 0, 32, .rc, 0x0⟩

/-- R88 EE oob: EE_OOB_CNT -/
def eeOob : Fld := ⟨0x400090, 0, 1, 0, 32, .rc, 0x0⟩

/-- R88 EE quota_units: EE_CRIMSON_QUOTA[p], p = 0 to 63 -/
def eeQuotaUnits : Fld := ⟨0x401000, 4, 64, 0, 12, .rw, 0x0⟩

/-- R88 EE used_units: space held by partition p -/
def eeUsedUnits : Fld := ⟨0x401000, 4, 64, 16, 12, .ro, 0x0⟩

/-- R88 EE lane_out: EE_LANE_OUT[w], w = 0 to 79: bit b set means lane 32w + b is marked out -/
def eeLaneOut : Fld := ⟨0x402000, 4, 80, 0, 32, .ro, 0x0⟩

/-- R88 EE spares_used: EE_SG_SPARES[s], s = 0 to 19: spares switched in, 0 to 4 -/
def eeSparesUsed : Fld := ⟨0x402200, 4, 20, 0, 3, .ro, 0x0⟩

/-- R110 EE ingest_en: EE_UPD_CTL: 0 holds all records in the ingest queue -/
def eeIngestEn : Fld := ⟨0x403000, 0, 1, 0, 1, .rw, 0x1⟩

/-- R110 EE rate_gbps: EE_UPD_RATE: engine write limit in GB/s -/
def eeRateGbps : Fld := ⟨0x403004, 0, 1, 0, 10, .rw, 0x190⟩

/-- R110 EE bytes_lo: EE_UPD_BYTES, 64-bit: record bytes applied -/
def eeBytesLo : Fld := ⟨0x403008, 0, 1, 0, 32, .ro, 0x0⟩

/-- R110 EE bytes_hi:  -/
def eeBytesHi : Fld := ⟨0x40300C, 0, 1, 0, 32, .ro, 0x0⟩

/-- R110 EE refused: EE_UPD_REFUSED: records refused -/
def eeRefused : Fld := ⟨0x403010, 0, 1, 0, 32, .rc, 0x0⟩

/-- R110 EE catchup_rows: rows copied by twin catch-up -/
def eeCatchupRows : Fld := ⟨0x403014, 0, 1, 0, 32, .rc, 0x0⟩

/-- R110 EE merged: delta versions merged -/
def eeMerged : Fld := ⟨0x403018, 0, 1, 0, 32, .rc, 0x0⟩

/-- R110 EE filter_pos: delta filter positives -/
def eeFilterPos : Fld := ⟨0x40301C, 0, 1, 0, 32, .rc, 0x0⟩

/-- R110 EE filter_false: positives that found no usable version -/
def eeFilterFalse : Fld := ⟨0x403020, 0, 1, 0, 32, .rc, 0x0⟩

/-- R110 EE flip_unsealed: flips missed for 0x0A05 -/
def eeFlipUnsealed : Fld := ⟨0x403024, 0, 1, 0, 32, .rc, 0x0⟩

/-- R110 EE flip_late: flips missed for 0x0A07 -/
def eeFlipLate : Fld := ⟨0x403028, 0, 1, 0, 32, .rc, 0x0⟩

/-- R110 EE epoch_unavail: remote records answered with 0x0A08 -/
def eeEpochUnavail : Fld := ⟨0x40302C, 0, 1, 0, 32, .rc, 0x0⟩

/-- R110 EE bits_set: EE_FILTER_FILL[g], g = 0 to 7: bits set in the active filter -/
def eeBitsSet : Fld := ⟨0x403100, 4, 8, 0, 23, .ro, 0x0⟩

/-- R110 EE active_epoch: EE_EPOCH[n], n = 0 to 255: group n's active epoch -/
def eeActiveEpoch : Fld := ⟨0x403200, 8, 256, 0, 32, .ro, 0x0⟩

/-- R110 EE valid: group n exists -/
def eeValid : Fld := ⟨0x403204, 8, 256, 0, 1, .ro, 0x0⟩

/-- R110 EE retained: an epoch is retained -/
def eeRetained : Fld := ⟨0x403204, 8, 256, 1, 1, .ro, 0x0⟩

/-- R110 EE staging: 0 closed, 1 open, 2 sealed -/
def eeStaging : Fld := ⟨0x403204, 8, 256, 2, 2, .ro, 0x0⟩

/-- R110 EE flip_armed: a flip is armed -/
def eeFlipArmed : Fld := ⟨0x403204, 8, 256, 4, 1, .ro, 0x0⟩

/-- R110 EE ctx_id: owning context -/
def eeCtxId : Fld := ⟨0x403204, 8, 256, 16, 12, .ro, 0x0⟩

/-- R148 MF cores_active: MF_INFO: cores present and not marked out -/
def mfCoresActive : Fld := ⟨0x800000, 0, 1, 0, 7, .ro, 0x0⟩

/-- R148 MF clusters: clusters present -/
def mfClusters : Fld := ⟨0x800000, 0, 1, 8, 4, .ro, 0x0⟩

/-- R148 MF dist_present: 1 if distance and compare modes exist -/
def mfDistPresent : Fld := ⟨0x800000, 0, 1, 12, 1, .ro, 0x0⟩

/-- R148 MF topk_k_max: MF_TOPK_INFO: largest k -/
def mfTopkKMax : Fld := ⟨0x800004, 0, 1, 0, 9, .ro, 0x40000100⟩

/-- R148 MF topk_entries_div4: list entries per core ÷ 4 (65,536) -/
def mfTopkEntriesDiv4 : Fld := ⟨0x800004, 0, 1, 16, 16, .ro, 0x40000100⟩

/-- R148 MF out_lo: MF_CORE_OUT, 64-bit: bit c set means core c is marked out -/
def mfOutLo : Fld := ⟨0x800010, 0, 1, 0, 32, .ro, 0x0⟩

/-- R148 MF out_hi:  -/
def mfOutHi : Fld := ⟨0x800014, 0, 1, 0, 32, .ro, 0x0⟩

/-- R148 MF zero_gate_en: MF_CTL: 0 disables zero gating (R145) -/
def mfZeroGateEn : Fld := ⟨0x800020, 0, 1, 0, 1, .rw, 0x1⟩

/-- R148 MF a_row_en: MF_REPAIR[c], c = 0 to 63: array A row spare in use -/
def mfARowEn : Fld := ⟨0x800100, 4, 64, 0, 1, .ro, 0x0⟩

/-- R148 MF a_row: r_bad of array A -/
def mfARow : Fld := ⟨0x800100, 4, 64, 1, 5, .ro, 0x0⟩

/-- R148 MF a_col_en: array A column spare in use -/
def mfAColEn : Fld := ⟨0x800100, 4, 64, 6, 1, .ro, 0x0⟩

/-- R148 MF a_col: c_bad of array A -/
def mfACol : Fld := ⟨0x800100, 4, 64, 7, 5, .ro, 0x0⟩

/-- R148 MF b_row_en: array B row spare in use -/
def mfBRowEn : Fld := ⟨0x800100, 4, 64, 12, 1, .ro, 0x0⟩

/-- R148 MF b_row: r_bad of array B -/
def mfBRow : Fld := ⟨0x800100, 4, 64, 13, 5, .ro, 0x0⟩

/-- R148 MF b_col_en: array B column spare in use -/
def mfBColEn : Fld := ⟨0x800100, 4, 64, 18, 1, .ro, 0x0⟩

/-- R148 MF b_col: c_bad of array B -/
def mfBCol : Fld := ⟨0x800100, 4, 64, 19, 5, .ro, 0x0⟩

/-- R148 MF a_soft: 1 if an array A repair came from the soft-repair map -/
def mfASoft : Fld := ⟨0x800100, 4, 64, 24, 1, .ro, 0x0⟩

/-- R148 MF b_soft: the same for array B -/
def mfBSoft : Fld := ⟨0x800100, 4, 64, 25, 1, .ro, 0x0⟩

/-- R148 MF tiles_lo: MF_TILE_CNT, 64-bit: tiles completed, counting each array separately -/
def mfTilesLo : Fld := ⟨0x800200, 0, 1, 0, 32, .ro, 0x0⟩

/-- R148 MF tiles_hi:  -/
def mfTilesHi : Fld := ⟨0x800204, 0, 1, 0, 32, .ro, 0x0⟩

/-- R148 MF gated_lo: MF_GATED, 64-bit: cube-ticks gated -/
def mfGatedLo : Fld := ⟨0x800208, 0, 1, 0, 32, .ro, 0x0⟩

/-- R148 MF gated_hi:  -/
def mfGatedHi : Fld := ⟨0x80020C, 0, 1, 0, 32, .ro, 0x0⟩

/-- R148 MF feed_dry: MF_FEED_DRY: cube-row ticks stalled by a dry feeder -/
def mfFeedDry : Fld := ⟨0x800210, 0, 1, 0, 32, .rc, 0x0⟩

/-- R148 MF drain_back: MF_DRAIN_BACK: column-slice ticks stalled at a drain -/
def mfDrainBack : Fld := ⟨0x800214, 0, 1, 0, 32, .rc, 0x0⟩

/-- R148 MF topk_bp: MF_TOPK_BP: ticks of top-k back-pressure -/
def mfTopkBp : Fld := ⟨0x800218, 0, 1, 0, 32, .rc, 0x0⟩

/-- R148 MF saturations: MF_SAT: saturations under R130 and R132 -/
def mfSaturations : Fld := ⟨0x80021C, 0, 1, 0, 32, .rc, 0x0⟩

/-- R148 MF nan_tiles: MF_NAN: tiles whose output held a NaN -/
def mfNanTiles : Fld := ⟨0x800220, 0, 1, 0, 32, .rc, 0x0⟩

/-- R229 TB tick_lo: TB_TICK, 64-bit: the ivory tick counter -/
def tbTickLo : Fld := ⟨0x1000000, 0, 1, 0, 32, .ro, 0x0⟩

/-- R229 TB tick_hi:  -/
def tbTickHi : Fld := ⟨0x1000004, 0, 1, 0, 32, .ro, 0x0⟩

/-- R229 TB sync_state: TB_SYNC: 0 local, 1 acquiring, 2 locked, 3 holdover -/
def tbSyncState : Fld := ⟨0x1000008, 0, 1, 0, 2, .ro, 0xFC0⟩

/-- R229 TB master: this block is sending markers as master -/
def tbMaster : Fld := ⟨0x1000008, 0, 1, 2, 1, .ro, 0xFC0⟩

/-- R229 TB unaligned: R193 -/
def tbUnaligned : Fld := ⟨0x1000008, 0, 1, 3, 1, .ro, 0xFC0⟩

/-- R229 TB master_rank: rank of the master followed -/
def tbMasterRank : Fld := ⟨0x1000008, 0, 1, 4, 2, .ro, 0xFC0⟩

/-- R229 TB upstream: upstream port, 0 to 59 -/
def tbUpstream : Fld := ⟨0x1000008, 0, 1, 6, 6, .ro, 0xFC0⟩

/-- R229 TB hops: hops from the master, 0 to 63 -/
def tbHops : Fld := ⟨0x1000008, 0, 1, 12, 6, .ro, 0xFC0⟩

/-- R229 TB offset: filtered offset in sixteenths of a tick, two's complement -/
def tbOffset : Fld := ⟨0x100000C, 0, 1, 0, 16, .ro, 0x0⟩

/-- R229 TB freq_ppb: frequency correction in parts per 10^9, two's complement -/
def tbFreqPpb : Fld := ⟨0x1000010, 0, 1, 0, 32, .ro, 0x0⟩

/-- R229 TB domain_b: TB_DOMAIN: B in ticks -/
def tbDomainB : Fld := ⟨0x1000014, 0, 1, 0, 16, .ro, 0x0⟩

/-- R229 TB diameter: D -/
def tbDiameter : Fld := ⟨0x1000014, 0, 1, 16, 8, .ro, 0x0⟩

/-- R229 TB align: A(D), the alignment bound of R191, in ticks -/
def tbAlign : Fld := ⟨0x1000014, 0, 1, 24, 4, .ro, 0x0⟩

/-- R229 TB slips: TB_SLIP_CNT: slips on this block, all partitions -/
def tbSlips : Fld := ⟨0x1000018, 0, 1, 0, 16, .rc, 0x0⟩

/-- R229 TB markers_missed: TB_SYNC_CNT: marker periods with no marker -/
def tbMarkersMissed : Fld := ⟨0x100001C, 0, 1, 0, 16, .rc, 0x0⟩

/-- R229 TB holdovers: entries into holdover -/
def tbHoldovers : Fld := ⟨0x100001C, 0, 1, 16, 16, .rc, 0x0⟩

/-- R229 TB snap_at_lo: TB_SNAP_AT, 64-bit: T_s for the next snapshot -/
def tbSnapAtLo : Fld := ⟨0x1000020, 0, 1, 0, 32, .rw, 0x0⟩

/-- R229 TB snap_at_hi:  -/
def tbSnapAtHi : Fld := ⟨0x1000024, 0, 1, 0, 32, .rw, 0x0⟩

/-- R229 TB snap_arm: TB_SNAP_CTL: arm a snapshot at TB_SNAP_AT -/
def tbSnapArm : Fld := ⟨0x1000028, 0, 1, 0, 1, .w1s, 0x0⟩

/-- R229 TB snap_domain: 1 for domain scope -/
def tbSnapDomain : Fld := ⟨0x1000028, 0, 1, 1, 1, .rw, 0x0⟩

/-- R229 TB snap_refused: the last arming was refused under R198 -/
def tbSnapRefused : Fld := ⟨0x1000028, 0, 1, 2, 1, .ro, 0x0⟩

/-- R229 TB snap_number: snapshot number sent and latched -/
def tbSnapNumber : Fld := ⟨0x1000028, 0, 1, 8, 8, .rw, 0x0⟩

/-- R229 TB snap_tick_lo: TB_SNAP_TICK, 64-bit: counter at the last latch -/
def tbSnapTickLo : Fld := ⟨0x1000030, 0, 1, 0, 32, .ro, 0x0⟩

/-- R229 TB snap_tick_hi:  -/
def tbSnapTickHi : Fld := ⟨0x1000034, 0, 1, 0, 32, .ro, 0x0⟩

/-- R229 TB reset_go: TB_RESET_CTL: arm a domain reset at now + B -/
def tbResetGo : Fld := ⟨0x1000038, 0, 1, 0, 1, .w1s, 0x0⟩

/-- R229 TB reset_busy: a reset armed here is not complete -/
def tbResetBusy : Fld := ⟨0x1000038, 0, 1, 1, 1, .ro, 0x0⟩

/-- R229 TB reset_incomplete: the last reset ended at its deadline with blocks missing -/
def tbResetIncomplete : Fld := ⟨0x1000038, 0, 1, 2, 1, .ro, 0x0⟩

/-- R229 TB reset_missing: blocks that did not report the last reset -/
def tbResetMissing : Fld := ⟨0x100003C, 0, 1, 0, 16, .ro, 0x0⟩

/-- R229 TB group_lead: TB_GROUP_LEAD[p], p = 0 to 63: G for partition p's placement group -/
def tbGroupLead : Fld := ⟨0x1000100, 4, 64, 0, 16, .ro, 0x0⟩

/-- R229 TB owner0: TB_NOC_OWN[w], w = 0 to 127: owners of NoC offsets 4w to 4w + 3 -/
def tbOwner0 : Fld := ⟨0x1000200, 4, 128, 0, 8, .rw, 0xFFFFFFFF⟩

/-- R229 TB owner1: TB_NOC_OWN[w], w = 0 to 127: owners of NoC offsets 4w to 4w + 3 -/
def tbOwner1 : Fld := ⟨0x1000200, 4, 128, 8, 8, .rw, 0xFFFFFFFF⟩

/-- R229 TB owner2: TB_NOC_OWN[w], w = 0 to 127: owners of NoC offsets 4w to 4w + 3 -/
def tbOwner2 : Fld := ⟨0x1000200, 4, 128, 16, 8, .rw, 0xFFFFFFFF⟩

/-- R229 TB owner3: TB_NOC_OWN[w], w = 0 to 127: owners of NoC offsets 4w to 4w + 3 -/
def tbOwner3 : Fld := ⟨0x1000200, 4, 128, 24, 8, .rw, 0xFFFFFFFF⟩

/-- R230 LK torus_ports: LK_INFO: torus ports present -/
def lkTorusPorts : Fld := ⟨0x1100000, 0, 1, 0, 6, .ro, 0x0⟩

/-- R230 LK express_ports: express ports present -/
def lkExpressPorts : Fld := ⟨0x1100000, 0, 1, 6, 6, .ro, 0x0⟩

/-- R230 LK express_skip: s -/
def lkExpressSkip : Fld := ⟨0x1100000, 0, 1, 12, 5, .ro, 0x0⟩

/-- R230 LK x: LK_COORD -/
def lkX : Fld := ⟨0x1100004, 0, 1, 0, 6, .ro, 0x0⟩

/-- R230 LK y:  -/
def lkY : Fld := ⟨0x1100004, 0, 1, 6, 5, .ro, 0x0⟩

/-- R230 LK z:  -/
def lkZ : Fld := ⟨0x1100004, 0, 1, 11, 5, .ro, 0x0⟩

/-- R230 LK size_x_m1: x extent − 1 -/
def lkSizeXM1 : Fld := ⟨0x1100004, 0, 1, 16, 6, .ro, 0x0⟩

/-- R230 LK size_y_m1: y extent − 1 -/
def lkSizeYM1 : Fld := ⟨0x1100004, 0, 1, 22, 5, .ro, 0x0⟩

/-- R230 LK size_z_m1: z extent − 1 -/
def lkSizeZM1 : Fld := ⟨0x1100004, 0, 1, 27, 5, .ro, 0x0⟩

/-- R230 LK up_lo: LK_PORT_UP, 64-bit: bit q set when port q is up -/
def lkUpLo : Fld := ⟨0x1100008, 0, 1, 0, 32, .ro, 0x0⟩

/-- R230 LK up_hi:  -/
def lkUpHi : Fld := ⟨0x110000C, 0, 1, 0, 28, .ro, 0x0⟩

/-- R230 LK out_lo: LK_PORT_OUT, 64-bit: bit q set when port q is marked out -/
def lkOutLo : Fld := ⟨0x1100010, 0, 1, 0, 32, .ro, 0x0⟩

/-- R230 LK out_hi:  -/
def lkOutHi : Fld := ⟨0x1100014, 0, 1, 0, 28, .ro, 0x0⟩

/-- R230 LK allowed_lo: LK_PORT_ALLOWED, 64-bit: ports the record allows (R27) -/
def lkAllowedLo : Fld := ⟨0x1100018, 0, 1, 0, 32, .ro, 0x0⟩

/-- R230 LK allowed_hi:  -/
def lkAllowedHi : Fld := ⟨0x110001C, 0, 1, 0, 28, .ro, 0x0⟩

/-- R230 LK timed_lost: LK_TIMED_LOST: timed flits lost to FEC, CRC or a port out -/
def lkTimedLost : Fld := ⟨0x1100020, 0, 1, 0, 32, .rc, 0x0⟩

/-- R230 LK timed_late: LK_TIMED_LATE: timed flits lost as late -/
def lkTimedLate : Fld := ⟨0x1100024, 0, 1, 0, 32, .rc, 0x0⟩

/-- R230 LK be_retries: best-effort flits resent -/
def lkBeRetries : Fld := ⟨0x1100028, 0, 1, 0, 32, .rc, 0x0⟩

/-- R230 LK be_drop: LK_BE_DROP: best-effort packets dropped -/
def lkBeDrop : Fld := ⟨0x110002C, 0, 1, 0, 32, .rc, 0x0⟩

/-- R230 LK flight: LK_PORT_STAT[q]: measured one-way flight in ticks -/
def lkFlight : Fld := ⟨0x1100100, 16, 60, 0, 8, .ro, 0x0⟩

/-- R230 LK over_budget: flight above 14 ticks (R212), or neighbour offset beyond ±8 ticks (R192) -/
def lkOverBudget : Fld := ⟨0x1100100, 16, 60, 8, 1, .ro, 0x0⟩

/-- R230 LK fec_corrected: corrected symbols, accumulated from lk_fec_cnt -/
def lkFecCorrected : Fld := ⟨0x1100104, 16, 60, 0, 32, .rc, 0x0⟩

/-- R230 LK fec_uncorrectable: words received uncorrectable or with a bad CRC -/
def lkFecUncorrectable : Fld := ⟨0x1100108, 16, 60, 0, 32, .rc, 0x0⟩

/-- R230 LK retries: best-effort resends on this port -/
def lkRetries : Fld := ⟨0x110010C, 16, 60, 0, 32, .rc, 0x0⟩

/-- R230 LK owner0: LK_SLOT_OWN[q][w], w = 0 to 139: owners of slots 4w to 4w + 3 of port q -/
def lkOwner0 : Fld := ⟨0x1101000, 4, 15360, 0, 8, .rw, 0xFFFFFFFF⟩

/-- R230 LK owner1: LK_SLOT_OWN[q][w], w = 0 to 139: owners of slots 4w to 4w + 3 of port q -/
def lkOwner1 : Fld := ⟨0x1101000, 4, 15360, 8, 8, .rw, 0xFFFFFFFF⟩

/-- R230 LK owner2: LK_SLOT_OWN[q][w], w = 0 to 139: owners of slots 4w to 4w + 3 of port q -/
def lkOwner2 : Fld := ⟨0x1101000, 4, 15360, 16, 8, .rw, 0xFFFFFFFF⟩

/-- R230 LK owner3: LK_SLOT_OWN[q][w], w = 0 to 139: owners of slots 4w to 4w + 3 of port q -/
def lkOwner3 : Fld := ⟨0x1101000, 4, 15360, 24, 8, .rw, 0xFFFFFFFF⟩

/-- R269 QF admq_lo: QF_ADMQ_BASE, 64-bit: administrator submission ring, host address, 4 KiB-aligned -/
def qfAdmqLo : Fld := ⟨0x10000, 0, 1, 0, 32, .rw, 0x0⟩

/-- R269 QF admq_hi:  -/
def qfAdmqHi : Fld := ⟨0x10004, 0, 1, 0, 32, .rw, 0x0⟩

/-- R269 QF admq_log2: depth 2^n, 6 to 16 -/
def qfAdmqLog2 : Fld := ⟨0x10008, 0, 1, 0, 5, .rw, 0x6⟩

/-- R269 QF admq_tail: administrator doorbell: the new tail index -/
def qfAdmqTail : Fld := ⟨0x1000C, 0, 1, 0, 16, .rw, 0x0⟩

/-- R269 QF admq_head: next entry to fetch -/
def qfAdmqHead : Fld := ⟨0x10010, 0, 1, 0, 16, .ro, 0x0⟩

/-- R269 QF admcq_lo: QF_ADMCQ_BASE, 64-bit, as QF_ADMQ_BASE -/
def qfAdmcqLo : Fld := ⟨0x10014, 0, 1, 0, 32, .rw, 0x0⟩

/-- R269 QF admcq_hi:  -/
def qfAdmcqHi : Fld := ⟨0x10018, 0, 1, 0, 32, .rw, 0x0⟩

/-- R269 QF admcq_log2: depth 2^n, 6 to 16 -/
def qfAdmcqLog2 : Fld := ⟨0x1001C, 0, 1, 0, 5, .rw, 0x6⟩

/-- R269 QF admcq_head: entries consumed by the driver -/
def qfAdmcqHead : Fld := ⟨0x10020, 0, 1, 0, 16, .rw, 0x0⟩

/-- R269 QF admcq_tail: next entry Jujor writes -/
def qfAdmcqTail : Fld := ⟨0x10024, 0, 1, 0, 16, .ro, 0x0⟩

/-- R269 QF admeq_lo: QF_ADMEQ_BASE, 64-bit, as QF_ADMQ_BASE -/
def qfAdmeqLo : Fld := ⟨0x10028, 0, 1, 0, 32, .rw, 0x0⟩

/-- R269 QF admeq_hi:  -/
def qfAdmeqHi : Fld := ⟨0x1002C, 0, 1, 0, 32, .rw, 0x0⟩

/-- R269 QF admeq_log2: depth 2^n, 6 to 12 -/
def qfAdmeqLog2 : Fld := ⟨0x10030, 0, 1, 0, 4, .rw, 0x6⟩

/-- R269 QF admeq_head: events consumed by the driver -/
def qfAdmeqHead : Fld := ⟨0x10034, 0, 1, 0, 16, .rw, 0x0⟩

/-- R269 QF admeq_tail: next event Jujor writes -/
def qfAdmeqTail : Fld := ⟨0x10038, 0, 1, 0, 16, .ro, 0x0⟩

/-- R269 QF fence_base_lo: QF_FENCE_BASE bits [31:24], 16 MiB-aligned -/
def qfFenceBaseLo : Fld := ⟨0x10040, 0, 1, 24, 8, .rw, 0x0⟩

/-- R269 QF fence_base_hi: QF_FENCE_BASE bits [51:32] -/
def qfFenceBaseHi : Fld := ⟨0x10044, 0, 1, 0, 20, .rw, 0x0⟩

/-- R269 QF obj_base_lo: QF_OBJ_BASE bits [31:25], 32 MiB-aligned -/
def qfObjBaseLo : Fld := ⟨0x10048, 0, 1, 25, 7, .rw, 0x0⟩

/-- R269 QF obj_base_hi: QF_OBJ_BASE bits [51:32] -/
def qfObjBaseHi : Fld := ⟨0x1004C, 0, 1, 0, 20, .rw, 0x0⟩

/-- R269 QF fence_sel: QF_FENCE_SEL: fence read by the next three registers -/
def qfFenceSel : Fld := ⟨0x10050, 0, 1, 0, 20, .rw, 0x0⟩

/-- R269 QF fval_lo: QF_FENCE_VAL, 64-bit: value of the selected fence -/
def qfFvalLo : Fld := ⟨0x10054, 0, 1, 0, 32, .ro, 0x0⟩

/-- R269 QF fval_hi:  -/
def qfFvalHi : Fld := ⟨0x10058, 0, 1, 0, 32, .ro, 0x0⟩

/-- R269 QF fstate: QF_FENCE_STAT: state of the selected fence -/
def qfFstate : Fld := ⟨0x1005C, 0, 1, 0, 2, .ro, 0x0⟩

/-- R269 QF fctx: owner -/
def qfFctx : Fld := ⟨0x1005C, 0, 1, 2, 12, .ro, 0x0⟩

/-- R269 QF ferror: error code -/
def qfFerror : Fld := ⟨0x1005C, 0, 1, 16, 16, .ro, 0x0⟩

/-- R269 QF forigin: QF_FENCE_ORIGIN: fence at which the selected fence's error began -/
def qfForigin : Fld := ⟨0x10060, 0, 1, 0, 20, .ro, 0x0⟩

/-- R269 QF obj_count: QF_OBJ_COUNT: allocated and retired object indices -/
def qfObjCount : Fld := ⟨0x10064, 0, 1, 0, 21, .ro, 0x0⟩

/-- R269 QF fence_count: QF_FENCE_COUNT: fences not free -/
def qfFenceCount : Fld := ⟨0x10068, 0, 1, 0, 21, .ro, 0x0⟩

/-- R269 QF destroy_wd: destroys that reached the watchdog (R261) -/
def qfDestroyWd : Fld := ⟨0x1006C, 0, 1, 0, 16, .rc, 0x0⟩

/-- R269 QF part_failed: partition resets that overran -/
def qfPartFailed : Fld := ⟨0x1006C, 0, 1, 16, 16, .rc, 0x0⟩

/-- R269 QF state: QF_CTX_STATE[n], n = 0 to 4,095: state code of R235 -/
def qfState14000 : Fld := ⟨0x14000, 4, 4096, 0, 3, .ro, 0x0⟩

/-- R269 QF group: 1 for a group context -/
def qfGroup : Fld := ⟨0x14000, 4, 4096, 3, 1, .ro, 0x0⟩

/-- R269 QF partition: bound partition -/
def qfPartition : Fld := ⟨0x14000, 4, 4096, 4, 6, .ro, 0x0⟩

/-- R269 QF pasid: bound PASID -/
def qfPasid : Fld := ⟨0x14000, 4, 4096, 10, 20, .ro, 0x0⟩

/-- R270 MP allocs: MP_SLAB_ALLOC: allocations that returned a block -/
def mpAllocs : Fld := ⟨0x208000, 0, 1, 0, 32, .rc, 0x0⟩

/-- R270 MP frees: MP_SLAB_FREE: frees served -/
def mpFrees : Fld := ⟨0x208004, 0, 1, 0, 32, .rc, 0x0⟩

/-- R270 MP fails: MP_SLAB_FAIL: allocations that found no block, with or without must -/
def mpFails : Fld := ⟨0x208008, 0, 1, 0, 32, .rc, 0x0⟩

/-- R270 MP pages: MP_SLAB_PAGES: arena pages granted across all contexts -/
def mpPages : Fld := ⟨0x20800C, 0, 1, 0, 24, .ro, 0x0⟩

/-- R270 MP queue_peak: largest number of requests waiting at once -/
def mpQueuePeak : Fld := ⟨0x208010, 0, 1, 0, 8, .rc, 0x0⟩

/-- R301 QF interval: QF_VEC_MOD[v], v = 0 to 2,047: minimum interval in units of 64 ticks (91.4 ns) -/
def qfInterval : Fld := ⟨0x18000, 4, 2048, 0, 16, .rw, 0x0⟩

/-- R301 QF pending: requests merged and awaiting the interval -/
def qfPending : Fld := ⟨0x18000, 4, 2048, 16, 1, .ro, 0x0⟩

/-- R301 QF fetched_lo: QF_FETCH_CNT, 64-bit: descriptors fetched -/
def qfFetchedLo : Fld := ⟨0x1A000, 0, 1, 0, 32, .ro, 0x0⟩

/-- R301 QF fetched_hi:  -/
def qfFetchedHi : Fld := ⟨0x1A004, 0, 1, 0, 32, .ro, 0x0⟩

/-- R301 QF dispatched_lo: QF_DISPATCH_CNT, 64-bit: commands and buffer operations dispatched -/
def qfDispatchedLo : Fld := ⟨0x1A008, 0, 1, 0, 32, .ro, 0x0⟩

/-- R301 QF dispatched_hi:  -/
def qfDispatchedHi : Fld := ⟨0x1A00C, 0, 1, 0, 32, .ro, 0x0⟩

/-- R301 QF db_bad: QF_DB_BAD: doorbell writes ignored under R276 -/
def qfDbBad : Fld := ⟨0x1A010, 0, 1, 0, 32, .rc, 0x0⟩

/-- R301 QF timeouts: QF_TIMEOUT_CNT: commands ended with 0x0401 -/
def qfTimeouts : Fld := ⟨0x1A014, 0, 1, 0, 32, .rc, 0x0⟩

/-- R301 QF held: QF_HOLD_CNT: entries placed in holding rings -/
def qfHeld : Fld := ⟨0x1A018, 0, 1, 0, 32, .rc, 0x0⟩

/-- R301 QF evt_lost: QF_EVT_LOST: event records dropped -/
def qfEvtLost : Fld := ⟨0x1A01C, 0, 1, 0, 32, .rc, 0x0⟩

/-- R301 QF refused: QF_REFUSE_CNT: descriptors refused at dispatch (R274) -/
def qfRefused : Fld := ⟨0x1A020, 0, 1, 0, 32, .rc, 0x0⟩

/-- R301 QF sq0_head: QF_CTX_QSTAT[n], n = 0 to 4,095: fetch head of queue 0 -/
def qfSq0Head : Fld := ⟨0x20000, 16, 4096, 0, 16, .ro, 0x0⟩

/-- R301 QF sq1_head: fetch head of queue 1 -/
def qfSq1Head : Fld := ⟨0x20000, 16, 4096, 16, 16, .ro, 0x0⟩

/-- R301 QF sq2_head: fetch head of queue 2 -/
def qfSq2Head : Fld := ⟨0x20004, 16, 4096, 0, 16, .ro, 0x0⟩

/-- R301 QF sq3_head: fetch head of queue 3 -/
def qfSq3Head : Fld := ⟨0x20004, 16, 4096, 16, 16, .ro, 0x0⟩

/-- R301 QF cq_tail: next completion entry Jujor writes -/
def qfCqTail : Fld := ⟨0x20008, 16, 4096, 0, 16, .ro, 0x0⟩

/-- R301 QF eq_tail: next event record Jujor writes -/
def qfEqTail : Fld := ⟨0x20008, 16, 4096, 16, 16, .ro, 0x0⟩

/-- R301 QF hold_count: entries in the holding ring, 0 to 8 -/
def qfHoldCount : Fld := ⟨0x2000C, 16, 4096, 0, 4, .ro, 0x0⟩

/-- R332 QF jobs: QF_CTX_QJOBS[n][q], n = 0 to 4,095, q = 0 to 3: commands retired from queue q (R326) -/
def qfJobs : Fld := ⟨0x30000, 4, 16384, 0, 32, .ro, 0x0⟩

/-- R332 QF state: QF_PART_STATE[p], p = 0 to 63: 0 absent, 1 active, 2 failed -/
def qfState40000 : Fld := ⟨0x40000, 32, 64, 0, 2, .ro, 0x0⟩

/-- R332 QF change_pending: a change awaits a step boundary (R306) -/
def qfChangePending : Fld := ⟨0x40000, 32, 64, 2, 1, .ro, 0x0⟩

/-- R332 QF group_loaded: a placement group is loaded -/
def qfGroupLoaded : Fld := ⟨0x40000, 32, 64, 3, 1, .ro, 0x0⟩

/-- R332 QF holder_valid: the partition has a holder -/
def qfHolderValid : Fld := ⟨0x40000, 32, 64, 4, 1, .ro, 0x0⟩

/-- R332 QF holder: holder context -/
def qfHolder : Fld := ⟨0x40000, 32, 64, 16, 12, .ro, 0x0⟩

/-- R332 QF slice_units: slice length in 1,024-tick units, as in force -/
def qfSliceUnits : Fld := ⟨0x40004, 32, 64, 0, 16, .ro, 0x0⟩

/-- R332 QF slow_thr: slowdown threshold, as in force -/
def qfSlowThr : Fld := ⟨0x40004, 32, 64, 16, 16, .ro, 0x0⟩

/-- R332 QF slices: QF_PART_STAT: slices started -/
def qfSlices : Fld := ⟨0x40008, 32, 64, 0, 32, .rc, 0x0⟩

/-- R332 QF preempts: suspensions -/
def qfPreempts : Fld := ⟨0x4000C, 32, 64, 0, 32, .rc, 0x0⟩

/-- R332 QF overruns: slices that ended in an overrun -/
def qfOverruns : Fld := ⟨0x40010, 32, 64, 0, 32, .rc, 0x0⟩

/-- R332 QF overrun_ticks: overrun ticks charged -/
def qfOverrunTicks : Fld := ⟨0x40014, 32, 64, 0, 32, .rc, 0x0⟩

/-- R332 QF shifts: slice shifts -/
def qfShifts : Fld := ⟨0x40018, 32, 64, 0, 32, .rc, 0x0⟩

/-- R332 QF claims_late: group launches that slipped under R323 -/
def qfClaimsLate : Fld := ⟨0x4001C, 32, 64, 0, 32, .rc, 0x0⟩

/-- R332 QF share: QF_CTX_SCHED[n]: share, 1 to 1,000 -/
def qfShare : Fld := ⟨0x50000, 16, 4096, 0, 10, .ro, 0x0⟩

/-- R332 QF sram_base: window base, in sixteenths -/
def qfSramBase : Fld := ⟨0x50000, 16, 4096, 10, 4, .ro, 0x0⟩

/-- R332 QF sram_count: window size, in sixteenths -/
def qfSramCount : Fld := ⟨0x50000, 16, 4096, 14, 5, .ro, 0x0⟩

/-- R332 QF ready: the context is ready in its partition -/
def qfReady : Fld := ⟨0x50000, 16, 4096, 19, 1, .ro, 0x0⟩

/-- R332 QF suspended: the context has a suspended step -/
def qfSuspended : Fld := ⟨0x50000, 16, 4096, 20, 1, .ro, 0x0⟩

/-- R332 QF debt: overrun debt in ticks, saturating -/
def qfDebt : Fld := ⟨0x50004, 16, 4096, 0, 32, .ro, 0x0⟩

/-- R332 QF vt_lo: virtual time, 64-bit (R318) -/
def qfVtLo : Fld := ⟨0x50008, 16, 4096, 0, 32, .ro, 0x0⟩

/-- R332 QF vt_hi:  -/
def qfVtHi : Fld := ⟨0x5000C, 16, 4096, 0, 32, .ro, 0x0⟩

/-- R333 MP owner0: MP_PAGE_OWN[w], w = 0 to 10,239: owners of pages 4w to 4w + 3 -/
def mpOwner0 : Fld := ⟨0x210000, 4, 10240, 0, 8, .ro, 0xFFFFFFFF⟩

/-- R333 MP owner1: MP_PAGE_OWN[w], w = 0 to 10,239: owners of pages 4w to 4w + 3 -/
def mpOwner1 : Fld := ⟨0x210000, 4, 10240, 8, 8, .ro, 0xFFFFFFFF⟩

/-- R333 MP owner2: MP_PAGE_OWN[w], w = 0 to 10,239: owners of pages 4w to 4w + 3 -/
def mpOwner2 : Fld := ⟨0x210000, 4, 10240, 16, 8, .ro, 0xFFFFFFFF⟩

/-- R333 MP owner3: MP_PAGE_OWN[w], w = 0 to 10,239: owners of pages 4w to 4w + 3 -/
def mpOwner3 : Fld := ⟨0x210000, 4, 10240, 24, 8, .ro, 0xFFFFFFFF⟩

/-- R333 MP pages_owned: MP_PAGE_COUNT: pages owned by any partition -/
def mpPagesOwned : Fld := ⟨0x21A000, 0, 1, 0, 16, .ro, 0x0⟩

/-- R333 MP pages_present: pages that exist under R304 -/
def mpPagesPresent : Fld := ⟨0x21A000, 0, 1, 16, 16, .ro, 0x0⟩

/-- R371 TU forerunner: TU_MODE: forerunner mode (R366) -/
def tuForerunner : Fld := ⟨0x100000, 0, 1, 0, 1, .rw, 0x0⟩

/-- R371 TU first_page: TU_REGION: first page of the translation region (R336) -/
def tuFirstPage : Fld := ⟨0x100004, 0, 1, 0, 16, .rw, 0x0⟩

/-- R371 TU pages: pages in the region -/
def tuPages : Fld := ⟨0x100004, 0, 1, 16, 16, .rw, 0x0⟩

/-- R371 TU pasid_base_lo: TU_PASID_BASE bits [31:24] -/
def tuPasidBaseLo : Fld := ⟨0x100008, 0, 1, 24, 8, .rw, 0x0⟩

/-- R371 TU pasid_base_hi: TU_PASID_BASE bits [51:32] -/
def tuPasidBaseHi : Fld := ⟨0x10000C, 0, 1, 0, 20, .rw, 0x0⟩

/-- R371 TU fq_lo: TU_FQ_BASE, 64-bit: fault queue host address, 4 KiB-aligned -/
def tuFqLo : Fld := ⟨0x100010, 0, 1, 0, 32, .rw, 0x0⟩

/-- R371 TU fq_hi:  -/
def tuFqHi : Fld := ⟨0x100014, 0, 1, 0, 32, .rw, 0x0⟩

/-- R371 TU fq_log2: TU_FQ_CTL: depth 2^n records, 6 to 16 -/
def tuFqLog2 : Fld := ⟨0x100018, 0, 1, 0, 5, .rw, 0x6⟩

/-- R371 TU vector: MSI-X vector for records -/
def tuVector : Fld := ⟨0x100018, 0, 1, 16, 11, .rw, 0x6⟩

/-- R371 TU fq_head: TU_FQ_HEAD: records consumed by the driver -/
def tuFqHead : Fld := ⟨0x10001C, 0, 1, 0, 16, .rw, 0x0⟩

/-- R371 TU fq_tail: TU_FQ_TAIL: next record Jujor writes -/
def tuFqTail : Fld := ⟨0x10001C, 0, 1, 16, 16, .ro, 0x0⟩

/-- R371 TU entry: TU_PRESP: page-request entry answered (R358) -/
def tuEntry : Fld := ⟨0x100020, 0, 1, 0, 4, .wo, 0x0⟩

/-- R371 TU fail: 1 answers with failure -/
def tuFail : Fld := ⟨0x100020, 0, 1, 8, 1, .wo, 0x0⟩

/-- R371 TU outstanding: bit e set when page-request entry e is outstanding -/
def tuOutstanding : Fld := ⟨0x100024, 0, 1, 0, 16, .ro, 0x0⟩

/-- R371 TU inv_addr_lo: TU_INV_ADDR, 64-bit: VA or IPA -/
def tuInvAddrLo : Fld := ⟨0x100028, 0, 1, 0, 32, .rw, 0x0⟩

/-- R371 TU inv_addr_hi:  -/
def tuInvAddrHi : Fld := ⟨0x10002C, 0, 1, 0, 32, .rw, 0x0⟩

/-- R371 TU inv_len: TU_INV_LEN: 32 MiB units -/
def tuInvLen : Fld := ⟨0x100030, 0, 1, 0, 32, .rw, 0x0⟩

/-- R371 TU scope: TU_INV_CTL: a write queues a command (R362) -/
def tuScope : Fld := ⟨0x100034, 0, 1, 0, 3, .wo, 0x0⟩

/-- R371 TU domain: domain for scopes 3 and 4 -/
def tuDomain : Fld := ⟨0x100034, 0, 1, 3, 8, .wo, 0x0⟩

/-- R371 TU pasid: PASID for scopes 1, 2 and 5 -/
def tuPasid : Fld := ⟨0x100034, 0, 1, 11, 20, .wo, 0x0⟩

/-- R371 TU submitted: TU_INV_STAT: sequence of the last command queued -/
def tuSubmitted : Fld := ⟨0x100038, 0, 1, 0, 16, .ro, 0x0⟩

/-- R371 TU completed: sequence of the last command completed -/
def tuCompleted : Fld := ⟨0x100038, 0, 1, 16, 16, .ro, 0x0⟩

/-- R371 TU full: the invalidation queue is full -/
def tuFull : Fld := ⟨0x10003C, 0, 1, 0, 1, .ro, 0x0⟩

/-- R371 TU dropped: a TU_INV_CTL write was ignored -/
def tuDropped : Fld := ⟨0x10003C, 0, 1, 1, 1, .w1c, 0x0⟩

/-- R371 TU threshold: TU_AC_THR: notification threshold (R365) -/
def tuThreshold : Fld := ⟨0x100040, 0, 1, 0, 16, .rw, 0x1E1000⟩

/-- R371 TU decay_log2: decay period 2^n ticks -/
def tuDecayLog2 : Fld := ⟨0x100040, 0, 1, 16, 6, .rw, 0x1E1000⟩

/-- R371 TU index: TU_AC_CLEAR: counter to clear -/
def tuIndex : Fld := ⟨0x100044, 0, 1, 0, 17, .wo, 0x0⟩

/-- R371 TU all: 1 clears every counter -/
def tuAll : Fld := ⟨0x100044, 0, 1, 31, 1, .wo, 0x0⟩

/-- R371 TU src_lo: TU_MIRROR_SRC, 64-bit: host address, 64-byte aligned -/
def tuSrcLo : Fld := ⟨0x100048, 0, 1, 0, 32, .rw, 0x0⟩

/-- R371 TU src_hi:  -/
def tuSrcHi : Fld := ⟨0x10004C, 0, 1, 0, 32, .rw, 0x0⟩

/-- R371 TU dst_lo: TU_MIRROR_DST, 64-bit: HBM PA, 64-byte aligned -/
def tuDstLo : Fld := ⟨0x100050, 0, 1, 0, 32, .rw, 0x0⟩

/-- R371 TU dst_hi:  -/
def tuDstHi : Fld := ⟨0x100054, 0, 1, 0, 32, .rw, 0x0⟩

/-- R371 TU len: TU_MIRROR_LEN: bytes (R360) -/
def tuLen : Fld := ⟨0x100058, 0, 1, 0, 32, .rw, 0x0⟩

/-- R371 TU go: TU_MIRROR_CTL: start the copy -/
def tuGo : Fld := ⟨0x10005C, 0, 1, 0, 1, .w1s, 0x0⟩

/-- R371 TU error: the last copy was refused -/
def tuError : Fld := ⟨0x10005C, 0, 1, 1, 1, .ro, 0x0⟩

/-- R371 TU pmap_used: TU_PMAP: page-map entries in use -/
def tuPmapUsed : Fld := ⟨0x100060, 0, 1, 0, 16, .ro, 0x0⟩

/-- R371 TU utlb_miss: micro-TLB misses, all engines -/
def tuUtlbMiss : Fld := ⟨0x100100, 0, 1, 0, 32, .rc, 0x0⟩

/-- R371 TU l2_miss: second-level TLB misses -/
def tuL2Miss : Fld := ⟨0x100104, 0, 1, 0, 32, .rc, 0x0⟩

/-- R371 TU walk_reads: entries read by walks -/
def tuWalkReads : Fld := ⟨0x100108, 0, 1, 0, 32, .rc, 0x0⟩

/-- R371 TU ctx_faults: context faults (R353) -/
def tuCtxFaults : Fld := ⟨0x10010C, 0, 1, 0, 32, .rc, 0x0⟩

/-- R371 TU page_requests: page requests issued, native and PRI -/
def tuPageRequests : Fld := ⟨0x100110, 0, 1, 0, 32, .rc, 0x0⟩

/-- R371 TU coalesced: walks attached to an outstanding request (R355) -/
def tuCoalesced : Fld := ⟨0x100114, 0, 1, 0, 32, .rc, 0x0⟩

/-- R371 TU fq_full: records that found the fault queue full -/
def tuFqFull : Fld := ⟨0x100118, 0, 1, 0, 32, .rc, 0x0⟩

/-- R371 TU fq_lost: kind-3 records dropped -/
def tuFqLost : Fld := ⟨0x10011C, 0, 1, 0, 32, .rc, 0x0⟩

/-- R371 TU presp_ignored: answers to entries not outstanding -/
def tuPrespIgnored : Fld := ⟨0x100120, 0, 1, 0, 32, .rc, 0x0⟩

/-- R371 TU ats_requests: ATS translation requests sent -/
def tuAtsRequests : Fld := ⟨0x100124, 0, 1, 0, 32, .rc, 0x0⟩

/-- R371 TU ats_inval: ATS invalidations completed -/
def tuAtsInval : Fld := ⟨0x100128, 0, 1, 0, 32, .rc, 0x0⟩

/-- R371 TU valid: TU_S2_ROOT[d], d = 0 to 255, 64-bit: domain valid (R338) -/
def tuValid : Fld := ⟨0x101000, 8, 256, 0, 1, .rw, 0x0⟩

/-- R371 TU s2_en: stage 2 enabled -/
def tuS2En : Fld := ⟨0x101000, 8, 256, 1, 1, .rw, 0x0⟩

/-- R371 TU root_lo: root PA bits [31:12] -/
def tuRootLo : Fld := ⟨0x101000, 8, 256, 12, 20, .rw, 0x0⟩

/-- R371 TU root_hi: root PA bits [51:32] -/
def tuRootHi : Fld := ⟨0x101004, 8, 256, 0, 20, .rw, 0x0⟩

/-- R371 TU count: TU_AC[i], i = 0 to 131,071: access counter (R364) -/
def tuCount : Fld := ⟨0x180000, 4, 131072, 0, 16, .ro, 0x0⟩

/-- R371 TU notified: a notification has been posted -/
def tuNotified : Fld := ⟨0x180000, 4, 131072, 16, 1, .ro, 0x0⟩

/-- R372 MP key_data: MP_KEY_DATA[w], w = 0 to 15: key 1 in words 0 to 7, key 2 in words 8 to 15, little-endian -/
def mpKeyData : Fld := ⟨0x220000, 4, 16, 0, 32, .wo, 0x0⟩

/-- R372 MP slot: MP_KEY_CTL: slot acted on -/
def mpSlot : Fld := ⟨0x220040, 0, 1, 0, 6, .rw, 0x0⟩

/-- R372 MP load: load MP_KEY_DATA into the slot (R346) -/
def mpLoad : Fld := ⟨0x220040, 0, 1, 8, 1, .wo, 0x0⟩

/-- R372 MP clear: empty the slot and zero its keys -/
def mpClear : Fld := ⟨0x220040, 0, 1, 9, 1, .wo, 0x0⟩

/-- R372 MP busy: a load or clear has not yet taken effect -/
def mpBusy : Fld := ⟨0x220040, 0, 1, 16, 1, .ro, 0x0⟩

/-- R372 MP loaded_lo: MP_KEY_STATE, 64-bit: bit k set when slot k is loaded -/
def mpLoadedLo : Fld := ⟨0x220048, 0, 1, 0, 32, .ro, 0x0⟩

/-- R372 MP loaded_hi:  -/
def mpLoadedHi : Fld := ⟨0x22004C, 0, 1, 0, 32, .ro, 0x0⟩

/-- R372 MP rmw: MP_RMW_CNT: partial writes to encrypted pages (R345) -/
def mpRmw : Fld := ⟨0x220050, 0, 1, 0, 32, .rc, 0x0⟩

/-- R398 CC cps: CC_INFO: control processors -/
def ccCps : Fld := ⟨0x1400000, 0, 1, 0, 3, .ro, 0xC⟩

/-- R398 CC rom_mode: CP0 runs the boot ROM -/
def ccRomMode : Fld := ⟨0x1400000, 0, 1, 3, 1, .ro, 0xC⟩

/-- R398 CC hold: CC_CP_CTL: bit n holds CPn in reset (R374) -/
def ccHold : Fld := ⟨0x1400004, 0, 1, 0, 4, .rw, 0xF⟩

/-- R398 CC running: bit n set while CPn runs -/
def ccRunning : Fld := ⟨0x1400004, 0, 1, 4, 4, .ro, 0xF⟩

/-- R398 CC period: CC_WDOG[n], n = 0 to 3: period in units of 1,024 CCLK cycles -/
def ccPeriod : Fld := ⟨0x1400008, 4, 4, 0, 24, .rw, 0x0⟩

/-- R398 CC kick: restarts the period -/
def ccKick : Fld := ⟨0x1400008, 4, 4, 24, 1, .w1s, 0x0⟩

/-- R398 CC admwin_lo: CC_ADMWIN_BASE, 64-bit, 4 KiB-aligned -/
def ccAdmwinLo : Fld := ⟨0x1400020, 0, 1, 0, 32, .rw, 0x0⟩

/-- R398 CC admwin_hi:  -/
def ccAdmwinHi : Fld := ⟨0x1400024, 0, 1, 0, 32, .rw, 0x0⟩

/-- R398 CC admwin_size: CC_ADMWIN_SIZE in 4 KiB units -/
def ccAdmwinSize : Fld := ⟨0x1400028, 0, 1, 0, 20, .rw, 0x0⟩

/-- R398 CC flash_unlock: CC_FLASH_UNLOCK -/
def ccFlashUnlock : Fld := ⟨0x140002C, 0, 1, 0, 1, .rw, 0x0⟩

/-- R398 CC dma: CC_LIM_CNT: refusals for 0x0903, 0x0904 and 0x0905 -/
def ccDma : Fld := ⟨0x1400030, 0, 1, 0, 8, .rc, 0x0⟩

/-- R398 CC queue: CC_LIM_CNT: refusals for 0x0903, 0x0904 and 0x0905 -/
def ccQueue : Fld := ⟨0x1400030, 0, 1, 8, 8, .rc, 0x0⟩

/-- R398 CC power: CC_LIM_CNT: refusals for 0x0903, 0x0904 and 0x0905 -/
def ccPower : Fld := ⟨0x1400030, 0, 1, 16, 8, .rc, 0x0⟩

/-- R398 CC port: refusals for 0x0906 -/
def ccPort : Fld := ⟨0x1400030, 0, 1, 24, 8, .rc, 0x0⟩

/-- R398 CC repair: refusals for 0x0907 and 0x0908 -/
def ccRepair : Fld := ⟨0x1400034, 0, 1, 0, 8, .rc, 0x0⟩

/-- R398 CC flash: refusals for 0x0907 and 0x0908 -/
def ccFlash : Fld := ⟨0x1400034, 0, 1, 8, 8, .rc, 0x0⟩

/-- R398 CC mb_bad: CC_MB_BAD: ignored mailbox writes -/
def ccMbBad : Fld := ⟨0x1400038, 0, 1, 0, 32, .rc, 0x0⟩

/-- R398 CC wdog_exp0: expiries of CP0 to CP3 -/
def ccWdogExp0 : Fld := ⟨0x140003C, 0, 1, 0, 8, .rc, 0x0⟩

/-- R398 CC wdog_exp1: expiries of CP0 to CP3 -/
def ccWdogExp1 : Fld := ⟨0x140003C, 0, 1, 8, 8, .rc, 0x0⟩

/-- R398 CC wdog_exp2: expiries of CP0 to CP3 -/
def ccWdogExp2 : Fld := ⟨0x140003C, 0, 1, 16, 8, .rc, 0x0⟩

/-- R398 CC wdog_exp3: expiries of CP0 to CP3 -/
def ccWdogExp3 : Fld := ⟨0x140003C, 0, 1, 24, 8, .rc, 0x0⟩

/-- R398 CC vector: CC_MB_VEC: MSI-X vector for host-side mailbox interrupts -/
def ccVector : Fld := ⟨0x1400040, 0, 1, 0, 11, .rw, 0x0⟩

/-- R398 CC notice_lo: CC_MB_NOTICE[m], m = 0 to 63, 64-bit -/
def ccNoticeLo : Fld := ⟨0x1401000, 32, 64, 0, 32, .rw, 0x0⟩

/-- R398 CC notice_hi:  -/
def ccNoticeHi : Fld := ⟨0x1401004, 32, 64, 0, 32, .rw, 0x0⟩

/-- R398 CC lock: CC_MB_LOCK[m]: read acquires, write releases (R380) -/
def ccLock : Fld := ⟨0x1401008, 32, 64, 0, 16, .rw, 0x0⟩

/-- R398 CC done: CC_MB_ACK[m]: receiver writes only -/
def ccDone : Fld := ⟨0x140100C, 32, 64, 0, 1, .rw, 0x0⟩

/-- R398 CC code: return code -/
def ccCode : Fld := ⟨0x140100C, 32, 64, 16, 16, .rw, 0x0⟩

/-- R398 CC ring: CC_MB_DB[m]: owner writes -/
def ccRing : Fld := ⟨0x1401010, 32, 64, 0, 1, .w1s, 0x0⟩

/-- R399 BC state: BC_START: state code of R390 -/
def bcState : Fld := ⟨0x1C00000, 0, 1, 0, 4, .ro, 0x0⟩

/-- R399 BC boot_lock: set on leaving state 3 -/
def bcBootLock : Fld := ⟨0x1C00000, 0, 1, 4, 1, .ro, 0x0⟩

/-- R399 BC repair_lock: set on leaving state 7 -/
def bcRepairLock : Fld := ⟨0x1C00000, 0, 1, 5, 1, .ro, 0x0⟩

/-- R399 BC pushed: the bundle in use came from push-bundle -/
def bcPushed : Fld := ⟨0x1C00000, 0, 1, 6, 1, .ro, 0x0⟩

/-- R399 BC code: class 0x09 code of the last start failure -/
def bcCode : Fld := ⟨0x1C00000, 0, 1, 16, 16, .ro, 0x0⟩

/-- R399 BC green_ms: milliseconds from reset release to green -/
def bcGreenMs : Fld := ⟨0x1C00004, 0, 1, 0, 32, .ro, 0x0⟩

/-- R399 BC record_bytes: BC_RECORD: record in use -/
def bcRecordBytes : Fld := ⟨0x1C00008, 0, 1, 0, 32, .ro, 0x0⟩

/-- R399 BC security_version:  -/
def bcSecurityVersion : Fld := ⟨0x1C0000C, 0, 1, 0, 32, .ro, 0x0⟩

/-- R399 BC fw_version: firmware version of the image in use -/
def bcFwVersion : Fld := ⟨0x1C00010, 0, 1, 0, 32, .ro, 0x0⟩

/-- R399 BC serial_lo: BC_FUSE, 64-bit serial number -/
def bcSerialLo : Fld := ⟨0x1C00100, 0, 1, 0, 32, .ro, 0x0⟩

/-- R399 BC serial_hi:  -/
def bcSerialHi : Fld := ⟨0x1C00104, 0, 1, 0, 32, .ro, 0x0⟩

/-- R399 BC variant: 0 Jujor-L, 1 Jujor-M, 2 Jujor-S -/
def bcVariant : Fld := ⟨0x1C00108, 0, 1, 0, 2, .ro, 0x0⟩

/-- R399 BC stepping:  -/
def bcStepping : Fld := ⟨0x1C00108, 0, 1, 8, 8, .ro, 0x0⟩

/-- R399 BC power_ceiling: fused ceiling in watts -/
def bcPowerCeiling : Fld := ⟨0x1C00108, 0, 1, 16, 10, .ro, 0x0⟩

/-- R399 BC min_security: minimum security version -/
def bcMinSecurity : Fld := ⟨0x1C0010C, 0, 1, 0, 32, .ro, 0x0⟩

/-- R399 BC key_hash: w = 0 to 11: the 48-byte key hash, byte 0 at bits [7:0] of word 0 -/
def bcKeyHash : Fld := ⟨0x1C00120, 4, 12, 0, 32, .ro, 0x0⟩

/-- R399 BC record_ceiling: power ceiling from the record -/
def bcRecordCeiling : Fld := ⟨0x1C00200, 0, 1, 0, 10, .rwlBoot, 0x3FF⟩

/-- R399 BC policy: security policy bits of R385 -/
def bcPolicy : Fld := ⟨0x1C00204, 0, 1, 0, 3, .rwlBoot, 0x0⟩

/-- R399 BC fw_first_page: firmware pages -/
def bcFwFirstPage : Fld := ⟨0x1C00208, 0, 1, 0, 16, .rwlBoot, 0x0⟩

/-- R399 BC fw_pages:  -/
def bcFwPages : Fld := ⟨0x1C00208, 0, 1, 16, 16, .rwlBoot, 0x0⟩

/-- R399 BC entry: BC_SOFT_REPAIR[i], i = 0 to 127: soft-repair map (R395) -/
def bcEntry400 : Fld := ⟨0x1C00400, 4, 128, 0, 32, .rwlRepair, 0x0⟩

/-- R399 BC entry: BC_PENDING[i], i = 0 to 63: pending store -/
def bcEntry600 : Fld := ⟨0x1C00600, 4, 64, 0, 32, .rw, 0x0⟩

/-- R423 HP est_w: HP_PWR_EST: average of the last window, in watts -/
def hpEstW : Fld := ⟨0x1800000, 0, 1, 0, 10, .ro, 0x0⟩

/-- R423 HP idle_w: P_idle, in watts -/
def hpIdleW : Fld := ⟨0x1800000, 0, 1, 16, 10, .ro, 0x0⟩

/-- R423 HP ratio: HP_PWR_RATIO: r in units of 1/4,096 -/
def hpRatio : Fld := ⟨0x1800004, 0, 1, 0, 14, .ro, 0x0⟩

/-- R423 HP backstop: backstop engaged (R419) -/
def hpBackstop : Fld := ⟨0x1800004, 0, 1, 14, 1, .ro, 0x0⟩

/-- R423 HP level: HP_THERM: thermal level (R420) -/
def hpLevel : Fld := ⟨0x1800008, 0, 1, 0, 2, .ro, 0x0⟩

/-- R423 HP over_windows: windows with P > L -/
def hpOverWindows : Fld := ⟨0x180000C, 0, 1, 0, 16, .rc, 0x0⟩

/-- R423 HP backstop_windows: windows gated by the backstop -/
def hpBackstopWindows : Fld := ⟨0x180000C, 0, 1, 16, 16, .rc, 0x0⟩

/-- R423 HP ce_thr: HP_ASH_THR: corrected-error threshold (R408) -/
def hpCeThr : Fld := ⟨0x1800010, 0, 1, 0, 16, .rw, 0x10040⟩

/-- R423 HP auto_ash: place units on ash watch at the threshold -/
def hpAutoAsh : Fld := ⟨0x1800010, 0, 1, 16, 1, .rw, 0x10040⟩

/-- R423 HP unit: HP_ASH_SET: unit identity, kinds 1, 2 and 5 -/
def hpUnit14 : Fld := ⟨0x1800014, 0, 1, 0, 16, .wo, 0x0⟩

/-- R423 HP set: place on ash watch -/
def hpSet : Fld := ⟨0x1800014, 0, 1, 16, 1, .wo, 0x0⟩

/-- R423 HP clear: remove from ash watch -/
def hpClear : Fld := ⟨0x1800014, 0, 1, 17, 1, .wo, 0x0⟩

/-- R423 HP unit: HP_UNIT_OUT: unit identity, kinds 1, 2, 4 and 5 (R415) -/
def hpUnit18 : Fld := ⟨0x1800018, 0, 1, 0, 16, .wo, 0x0⟩

/-- R423 HP go: mark the unit out -/
def hpGo18 : Fld := ⟨0x1800018, 0, 1, 16, 1, .wo, 0x0⟩

/-- R423 HP ash_core_lo: HP_ASH_CORE, 64-bit: bit c for core c under watch -/
def hpAshCoreLo : Fld := ⟨0x1800020, 0, 1, 0, 32, .ro, 0x0⟩

/-- R423 HP ash_core_hi:  -/
def hpAshCoreHi : Fld := ⟨0x1800024, 0, 1, 0, 32, .ro, 0x0⟩

/-- R423 HP ash_port_lo: HP_ASH_PORT, 64-bit: bit q for port q -/
def hpAshPortLo : Fld := ⟨0x1800028, 0, 1, 0, 32, .ro, 0x0⟩

/-- R423 HP ash_port_hi:  -/
def hpAshPortHi : Fld := ⟨0x180002C, 0, 1, 0, 28, .ro, 0x0⟩

/-- R423 HP ash_runs: tests run -/
def hpAshRuns : Fld := ⟨0x1800030, 0, 1, 0, 16, .rc, 0x0⟩

/-- R423 HP ash_fails: tests failed -/
def hpAshFails : Fld := ⟨0x1800030, 0, 1, 16, 16, .rc, 0x0⟩

/-- R423 HP ash_deferred: tests started more than one interval late (R412) -/
def hpAshDeferred : Fld := ⟨0x1800034, 0, 1, 0, 32, .rc, 0x0⟩

/-- R423 HP ash_lane: HP_ASH_LANE[w], w = 0 to 79: bit b for lane 32w + b -/
def hpAshLane : Fld := ⟨0x1800040, 4, 80, 0, 32, .ro, 0x0⟩

/-- R423 HP ctx: HP_DIGEST_CTX (R410) -/
def hpCtx : Fld := ⟨0x1800200, 0, 1, 0, 12, .rw, 0x0⟩

/-- R423 HP handle_lo: HP_DIGEST_HANDLE, 64-bit -/
def hpHandleLo : Fld := ⟨0x1800204, 0, 1, 0, 32, .rw, 0x0⟩

/-- R423 HP handle_hi:  -/
def hpHandleHi : Fld := ⟨0x1800208, 0, 1, 0, 32, .rw, 0x0⟩

/-- R423 HP offset_lo: HP_DIGEST_OFFSET, 64-bit, 32-byte aligned -/
def hpOffsetLo : Fld := ⟨0x180020C, 0, 1, 0, 32, .rw, 0x0⟩

/-- R423 HP offset_hi:  -/
def hpOffsetHi : Fld := ⟨0x1800210, 0, 1, 0, 32, .rw, 0x0⟩

/-- R423 HP len_lo: HP_DIGEST_LEN, 64-bit, a multiple of 32 -/
def hpLenLo : Fld := ⟨0x1800214, 0, 1, 0, 32, .rw, 0x0⟩

/-- R423 HP len_hi:  -/
def hpLenHi : Fld := ⟨0x1800218, 0, 1, 0, 32, .rw, 0x0⟩

/-- R423 HP go: HP_DIGEST_CTL: start -/
def hpGo21C : Fld := ⟨0x180021C, 0, 1, 0, 1, .w1s, 0x0⟩

/-- R423 HP status: 0x0000 or the code that ended the request -/
def hpStatus : Fld := ⟨0x1800220, 0, 1, 0, 16, .ro, 0x0⟩

/-- R423 HP result: HP_DIGEST_RESULT[w], w = 0 to 3: the 128-bit digest, bits [31:0] in word 0 -/
def hpResult : Fld := ⟨0x1800224, 4, 4, 0, 32, .ro, 0x0⟩

/-- R423 HP indigo_fail: HP_INDIGO_FAIL: mismatches at this receiver -/
def hpIndigoFail : Fld := ⟨0x1800240, 0, 1, 0, 32, .rc, 0x0⟩

/-- R423 HP count: HP_CE_CORE[c], c = 0 to 63 (R408) -/
def hpCount400 : Fld := ⟨0x1800400, 4, 64, 0, 16, .ro, 0x0⟩

/-- R423 HP count: HP_CE_SG[s], s = 0 to 19 -/
def hpCount500 : Fld := ⟨0x1800500, 4, 20, 0, 16, .ro, 0x0⟩

/-- R423 HP count: HP_CE_STACK[s], s = 0 to 19 -/
def hpCount580 : Fld := ⟨0x1800580, 4, 20, 0, 16, .ro, 0x0⟩

/-- R423 HP code: HP_ERR_LOG[i], i = 0 to 15 (R405) -/
def hpCode : Fld := ⟨0x1800600, 16, 16, 0, 16, .ro, 0x0⟩

/-- R423 HP unit: unit identity -/
def hpUnit600 : Fld := ⟨0x1800600, 16, 16, 16, 16, .ro, 0x0⟩

/-- R423 HP addr_lo: address, 64-bit -/
def hpAddrLo : Fld := ⟨0x1800604, 16, 16, 0, 32, .ro, 0x0⟩

/-- R423 HP addr_hi:  -/
def hpAddrHi : Fld := ⟨0x1800608, 16, 16, 0, 32, .ro, 0x0⟩

/-- R423 HP tick_lo: tick bits [31:0] -/
def hpTickLo : Fld := ⟨0x180060C, 16, 16, 0, 32, .ro, 0x0⟩

/-- R423 HP log_next: entry written next -/
def hpLogNext : Fld := ⟨0x1800700, 0, 1, 0, 4, .ro, 0x0⟩

/-- R423 HP log_total: entries ever written, saturating -/
def hpLogTotal : Fld := ⟨0x1800700, 0, 1, 16, 16, .ro, 0x0⟩

/-- R423 HP telem_lo: HP_TELEM[i], i = 0 to 23, 64-bit (R421) -/
def hpTelemLo : Fld := ⟨0x1801000, 8, 24, 0, 32, .ro, 0x0⟩

/-- R423 HP telem_hi:  -/
def hpTelemHi : Fld := ⟨0x1801004, 8, 24, 0, 32, .ro, 0x0⟩

/-- R423 HP snap_lo: HP_TELEM_SNAP[i], 64-bit -/
def hpSnapLo : Fld := ⟨0x1801100, 8, 24, 0, 32, .ro, 0x0⟩

/-- R423 HP snap_hi:  -/
def hpSnapHi : Fld := ⟨0x1801104, 8, 24, 0, 32, .ro, 0x0⟩

/-- R423 HP snap_number: HP_SNAP_NUM: number latched with the copies -/
def hpSnapNumber : Fld := ⟨0x1801200, 0, 1, 0, 8, .ro, 0x0⟩

/-- Registers, part 0. -/
def regTable0 : List Fld :=
  [bcFlOctal, bcTestEn, bcThermAlarm, bcTpulseHoldover, bcRootClkLost, bcPwrState, bcPwrAck, bcCapturedW, bcEffectiveW, bcWrstShort, bcTpulseIgnored, bcThermFalls, eeSgCount, eeLanesActive, eeCrimsonPresent, eeCrimsonUnits, eeCbUsedLo, eeCbUsedHi, eeBaseLo, eeBaseHi, eeTableCount, eeDecayLog2, eeSketchEn, eeSketchClear, eeThreshold, eePromoteEn, eeLookupsLo, eeLookupsHi, eeHitsLo, eeHitsHi, eePromotes, eePromoteSkips, eeCrimsonEccMiss, eeSpillLo, eeSpillHi, eeGreyDrop, eeSubstitutions, eeOob, eeQuotaUnits, eeUsedUnits]

/-- Registers, part 1. -/
def regTable1 : List Fld :=
  [eeLaneOut, eeSparesUsed, eeIngestEn, eeRateGbps, eeBytesLo, eeBytesHi, eeRefused, eeCatchupRows, eeMerged, eeFilterPos, eeFilterFalse, eeFlipUnsealed, eeFlipLate, eeEpochUnavail, eeBitsSet, eeActiveEpoch, eeValid, eeRetained, eeStaging, eeFlipArmed, eeCtxId, mfCoresActive, mfClusters, mfDistPresent, mfTopkKMax, mfTopkEntriesDiv4, mfOutLo, mfOutHi, mfZeroGateEn, mfARowEn, mfARow, mfAColEn, mfACol, mfBRowEn, mfBRow, mfBColEn, mfBCol, mfASoft, mfBSoft, mfTilesLo]

/-- Registers, part 2. -/
def regTable2 : List Fld :=
  [mfTilesHi, mfGatedLo, mfGatedHi, mfFeedDry, mfDrainBack, mfTopkBp, mfSaturations, mfNanTiles, tbTickLo, tbTickHi, tbSyncState, tbMaster, tbUnaligned, tbMasterRank, tbUpstream, tbHops, tbOffset, tbFreqPpb, tbDomainB, tbDiameter, tbAlign, tbSlips, tbMarkersMissed, tbHoldovers, tbSnapAtLo, tbSnapAtHi, tbSnapArm, tbSnapDomain, tbSnapRefused, tbSnapNumber, tbSnapTickLo, tbSnapTickHi, tbResetGo, tbResetBusy, tbResetIncomplete, tbResetMissing, tbGroupLead, tbOwner0, tbOwner1, tbOwner2]

/-- Registers, part 3. -/
def regTable3 : List Fld :=
  [tbOwner3, lkTorusPorts, lkExpressPorts, lkExpressSkip, lkX, lkY, lkZ, lkSizeXM1, lkSizeYM1, lkSizeZM1, lkUpLo, lkUpHi, lkOutLo, lkOutHi, lkAllowedLo, lkAllowedHi, lkTimedLost, lkTimedLate, lkBeRetries, lkBeDrop, lkFlight, lkOverBudget, lkFecCorrected, lkFecUncorrectable, lkRetries, lkOwner0, lkOwner1, lkOwner2, lkOwner3, qfAdmqLo, qfAdmqHi, qfAdmqLog2, qfAdmqTail, qfAdmqHead, qfAdmcqLo, qfAdmcqHi, qfAdmcqLog2, qfAdmcqHead, qfAdmcqTail, qfAdmeqLo]

/-- Registers, part 4. -/
def regTable4 : List Fld :=
  [qfAdmeqHi, qfAdmeqLog2, qfAdmeqHead, qfAdmeqTail, qfFenceBaseLo, qfFenceBaseHi, qfObjBaseLo, qfObjBaseHi, qfFenceSel, qfFvalLo, qfFvalHi, qfFstate, qfFctx, qfFerror, qfForigin, qfObjCount, qfFenceCount, qfDestroyWd, qfPartFailed, qfState14000, qfGroup, qfPartition, qfPasid, mpAllocs, mpFrees, mpFails, mpPages, mpQueuePeak, qfInterval, qfPending, qfFetchedLo, qfFetchedHi, qfDispatchedLo, qfDispatchedHi, qfDbBad, qfTimeouts, qfHeld, qfEvtLost, qfRefused, qfSq0Head]

/-- Registers, part 5. -/
def regTable5 : List Fld :=
  [qfSq1Head, qfSq2Head, qfSq3Head, qfCqTail, qfEqTail, qfHoldCount, qfJobs, qfState40000, qfChangePending, qfGroupLoaded, qfHolderValid, qfHolder, qfSliceUnits, qfSlowThr, qfSlices, qfPreempts, qfOverruns, qfOverrunTicks, qfShifts, qfClaimsLate, qfShare, qfSramBase, qfSramCount, qfReady, qfSuspended, qfDebt, qfVtLo, qfVtHi, mpOwner0, mpOwner1, mpOwner2, mpOwner3, mpPagesOwned, mpPagesPresent, tuForerunner, tuFirstPage, tuPages, tuPasidBaseLo, tuPasidBaseHi, tuFqLo]

/-- Registers, part 6. -/
def regTable6 : List Fld :=
  [tuFqHi, tuFqLog2, tuVector, tuFqHead, tuFqTail, tuEntry, tuFail, tuOutstanding, tuInvAddrLo, tuInvAddrHi, tuInvLen, tuScope, tuDomain, tuPasid, tuSubmitted, tuCompleted, tuFull, tuDropped, tuThreshold, tuDecayLog2, tuIndex, tuAll, tuSrcLo, tuSrcHi, tuDstLo, tuDstHi, tuLen, tuGo, tuError, tuPmapUsed, tuUtlbMiss, tuL2Miss, tuWalkReads, tuCtxFaults, tuPageRequests, tuCoalesced, tuFqFull, tuFqLost, tuPrespIgnored, tuAtsRequests]

/-- Registers, part 7. -/
def regTable7 : List Fld :=
  [tuAtsInval, tuValid, tuS2En, tuRootLo, tuRootHi, tuCount, tuNotified, mpKeyData, mpSlot, mpLoad, mpClear, mpBusy, mpLoadedLo, mpLoadedHi, mpRmw, ccCps, ccRomMode, ccHold, ccRunning, ccPeriod, ccKick, ccAdmwinLo, ccAdmwinHi, ccAdmwinSize, ccFlashUnlock, ccDma, ccQueue, ccPower, ccPort, ccRepair, ccFlash, ccMbBad, ccWdogExp0, ccWdogExp1, ccWdogExp2, ccWdogExp3, ccVector, ccNoticeLo, ccNoticeHi, ccLock]

/-- Registers, part 8. -/
def regTable8 : List Fld :=
  [ccDone, ccCode, ccRing, bcState, bcBootLock, bcRepairLock, bcPushed, bcCode, bcGreenMs, bcRecordBytes, bcSecurityVersion, bcFwVersion, bcSerialLo, bcSerialHi, bcVariant, bcStepping, bcPowerCeiling, bcMinSecurity, bcKeyHash, bcRecordCeiling, bcPolicy, bcFwFirstPage, bcFwPages, bcEntry400, bcEntry600, hpEstW, hpIdleW, hpRatio, hpBackstop, hpLevel, hpOverWindows, hpBackstopWindows, hpCeThr, hpAutoAsh, hpUnit14, hpSet, hpClear, hpUnit18, hpGo18, hpAshCoreLo]

/-- Registers, part 9. -/
def regTable9 : List Fld :=
  [hpAshCoreHi, hpAshPortLo, hpAshPortHi, hpAshRuns, hpAshFails, hpAshDeferred, hpAshLane, hpCtx, hpHandleLo, hpHandleHi, hpOffsetLo, hpOffsetHi, hpLenLo, hpLenHi, hpGo21C, hpStatus, hpResult, hpIndigoFail, hpCount400, hpCount500, hpCount580, hpCode, hpUnit600, hpAddrLo, hpAddrHi, hpTickLo, hpLogNext, hpLogTotal, hpTelemLo, hpTelemHi, hpSnapLo, hpSnapHi, hpSnapNumber]

/-- R12: every field of every BAR0 register, as the spec's register tables give them. -/
def regTable : List Fld :=
  regTable0 ++ regTable1 ++ regTable2 ++ regTable3 ++ regTable4 ++ regTable5 ++ regTable6 ++ regTable7 ++ regTable8 ++ regTable9

/-- The offset of copy `i` of a field's word. -/
def Fld.at (f : Fld) (i : Nat) : Nat := f.off + f.stride * i

/-- The word stored at an offset, `rst` while nothing has changed it. -/
def wordD (s : State) (off rst : Nat) : W32 := (mfind s.regs off).getD (BitVec.ofNat 32 rst)

/-- Put a word at an offset; a word at its reset value is not listed. -/
def putWord (s : State) (off rst : Nat) (w : W32) : State :=
  { s with regs := if w = BitVec.ofNat 32 rst then mdel s.regs off else mput s.regs off w }

/-- The value of a field (copy `i`). -/
def getF (s : State) (f : Fld) (i : Nat := 0) : Nat := bits (wordD s (f.at i) f.rst).toNat f.lo f.width

/-- Set a field (copy `i`). -/
def setF (s : State) (f : Fld) (v : Nat) (i : Nat := 0) : State :=
  putWord s (f.at i) f.rst (BitVec.ofNat 32 (setBits (wordD s (f.at i) f.rst).toNat f.lo f.width v))

/-- Count in a field, which saturates at its largest value (R50, log 6). -/
def addF (s : State) (f : Fld) (n : Nat := 1) (i : Nat := 0) : State :=
  setF s f (min (2 ^ f.width - 1) (getF s f i + n)) i

/-- The 64-bit register whose low word holds `f` and whose high word is the next one. -/
def getF64 (s : State) (f : Fld) (i : Nat := 0) : Nat :=
  (wordD s (f.at i) 0).toNat + 2 ^ 32 * (wordD s (f.at i + 4) 0).toNat

/-- Set a 64-bit register. -/
def setF64 (s : State) (f : Fld) (v : Nat) (i : Nat := 0) : State :=
  putWord (putWord s (f.at i) 0 (BitVec.ofNat 32 v)) (f.at i + 4) 0 (BitVec.ofNat 32 (v / 2 ^ 32))

/-- Count in a 64-bit register, which wraps (R148). -/
def addF64 (s : State) (f : Fld) (n : Nat := 1) (i : Nat := 0) : State :=
  setF64 s f ((getF64 s f i + n) % 2 ^ 64) i

/-- The fields whose words include the offset. -/
def fieldsAt (off : Nat) : List Fld :=
  regTable.filter (fun f => decide (f.off ≤ off) && (decide (f.stride = 0 ∧ off = f.off) ||
    (decide (0 < f.stride) && (off - f.off) % f.stride == 0 && decide ((off - f.off) / f.stride < f.count))))

/-- The reset value of the word at an offset. -/
def resetWord (off : Nat) : Nat :=
  match fieldsAt off with
  | [] => 0
  | f :: _ => f.rst

end Sys2Proof.Machine
end

