-- ==== Sys2Proof/Machine/Records.lean ====
section
/-! DEFINITION. MSI-X requests (R294), fault records (R356, R357), access counters (R364, R365). -/

namespace Sys2Proof.Machine

/-- R185: the current tick. -/
def now (s : State) : Nat := s.time.tick

/-- R425: entries between a head and a tail. -/
def ringUsed (depth head tail : Nat) : Nat := (tail + depth - head % depth) % depth

/-- R425: usable entries that are free. -/
def ringFree (depth head tail : Nat) : Nat := depth - 1 - ringUsed depth head tail

/-- R294: request an MSI-X vector: sent at once, merged while its interval runs, dropped when masked (R260) and while the block
is absent (R47). -/
def requestVector (s : State) (v : Nat) : State :=
  if v ∈ s.bound.msixMasked ∨ s.bound.stage = 0 then s
  else
    let x := mget s.front.vectors v
    let gap := 64 * getF s qfInterval v
    let due := match x.lastAt with
      | none => true
      | some t => decide (t + gap ≤ now s)
    if due then
      { s with bound.msixOut := s.bound.msixOut ++ [v],
               front.vectors := mset s.front.vectors v { lastAt := some (now s), pending := false } }
    else { s with front.vectors := mset s.front.vectors v { x with pending := true } }

/-- R425: the fault queue's depth, and whether it is full. -/
def fqDepth (s : State) : Nat := let n := getF s tuFqLog2; if 6 ≤ n ∧ n ≤ 16 then 2 ^ n else 64
def fqFull (s : State) : Bool := decide (ringUsed (fqDepth s) (getF s tuFqHead) (getF s tuFqTail) = fqDepth s - 1)

/-- R357: write a record at the tail. -/
def fqWrite (s : State) (rec : List Byte) : State :=
  let t := getF s tuFqTail
  let s := { s with mem.host := wrBytes s.mem.host (getF64 s tuFqLo / 4096 * 4096 + 32 * t) rec }
  requestVector (setF s tuFqTail ((t + 1) % fqDepth s)) (getF s tuVector)

/-- R356: a fault record. -/
structure FaultRec where
  kind : Nat
  stage : Nat := 0
  code : Code := 0
  pasid : Nat := 0
  ctx : Nat := 0
  va : Nat := 0
  ipa : Nat := 0
  requester : Nat := 0
  write : Bool := false
  entry : Nat := 0
  deriving DecidableEq, Repr, Inhabited

def FaultRec.bytes (r : FaultRec) (seq : Nat) : List Byte :=
  leBytes 4 (r.kind + r.stage * 256 + r.code.toNat * 65536) ++ leBytes 4 (r.pasid + r.ctx * 2 ^ 20) ++ leBytes 8 r.va ++ leBytes 8 r.ipa ++
  leBytes 4 (r.requester + b2n r.write * 65536 + r.entry * 2 ^ 20) ++ leBytes 4 seq

/-- R357: post a record: written, or held while the queue is full; of more than 64 held, kind 3 is dropped and kind 2 is not
posted. -/
def fqPost (s : State) (r : FaultRec) : State :=
  let b := r.bytes s.trans.fqSeq
  let s := { s with trans.fqSeq := s.trans.fqSeq + 1 }
  if s.trans.fqHeld.isEmpty ∧ fqFull s = false then fqWrite s b
  else
    let s := addF s tuFqFull
    if s.trans.fqHeld.length < 64 ∨ r.kind = 1 then { s with trans.fqHeld := s.trans.fqHeld ++ [b] }
    else if r.kind = 3 then addF s tuFqLost else s

/-- R376: requester numbers. -/
def reqFront : Nat := 0x0006
def reqCopy (e : Nat) : Nat := 0x0007 + e
def reqCore (c : Nat) : Nat := 0x0017 + c
def reqLane (l : Nat) : Nat := 0x0057 + l
def reqUpdate : Nat := 0x0A57
def reqGrey : Nat := 0x0A58
def reqPromote : Nat := 0x0A59
def reqLink : Nat := 0x0A5A

/-! ### Access counters (R364, R365) -/

/-- R365: the notification of a counter: a record of kind 2, or one still to be posted where 64 records are held. -/
def acNotify (s : State) (index ctx pasid va requester : Nat) : State :=
  let s := { s with trans.acNotified := mset s.trans.acNotified index true }
  if 64 ≤ s.trans.fqHeld.length then { s with trans.acPending := s.trans.acPending ++ [index] }
  else fqPost s { kind := 2, pasid := pasid, ctx := ctx, va := va, ipa := index, requester := requester }

/-- R364: a request of some bytes to a counted page. -/
def acCount (s : State) (index bytes ctx pasid va requester : Nat) : State :=
  let n := min 0xFFFF (mget s.trans.acs index + cdiv bytes 4096)
  let s := { s with trans.acs := mset s.trans.acs index n }
  if getF s tuThreshold ≤ n ∧ mget s.trans.acNotified index = false then acNotify s index ctx pasid va requester else s

end Sys2Proof.Machine
end

