-- ==== Sys2Proof/Machine/Translate.lean ====
section
/-! DEFINITION. HBM pages (R304), the two-stage walk (R334 to R342), TLB lookups (R347, R348), encrypted granules (R343 to
R345), and reads and writes of bytes at device virtual addresses. -/

namespace Sys2Proof.Machine

/-- R304: the page number of an HBM address. -/
def pageOf (pa : Nat) : Nat := pa / 2 ^ 34 * 512 + pa % 2 ^ 34 / 2 ^ 25

/-- R304: the address of a page. -/
def pageAddr (p : Nat) : Nat := p / 512 * 2 ^ 34 + p % 512 * 2 ^ 25

/-- R22: the capacity in GiB that training found for a stack, 0 while it is down. -/
def stackGiB (s : State) (st : Nat) : Nat :=
  if bit s.bound.stackUp.toNat st then bits (mget s.bound.spCfg st).toNat 0 8 else 0

/-- R304: does a page exist? A quarter of the stack's capacity lies in each lane unit. -/
def pageExists (s : State) (p : Nat) : Bool := decide (p < 40960 ∧ p % 512 < 8 * stackGiB s (p / 2048))

/-- R333: the owner of a page, 0xFF for none. -/
def pageOwner (s : State) (p : Nat) : Nat := mgetD 0xFF s.parts.pageOwn p

/-- R310: the owner of a page for new translations: none once its revocation has been dispatched. -/
def grantedTo (s : State) (p : Nat) : Nat :=
  if s.parts.parts.any (fun e => e.2.revokes.any (fun r => decide (r.2.1 ≤ p ∧ p < r.2.1 + r.2.2.1))) then 0xFF else pageOwner s p

/-- R336: does an HBM address lie in the translation region? -/
def inRegion (s : State) (pa : Nat) : Bool :=
  let f := getF s tuFirstPage
  decide (pa < 80 * 2 ^ 34 ∧ f ≤ pageOf pa ∧ pageOf pa < f + getF s tuPages)

/-- R337: TU_PASID_BASE. -/
def pasidBase (s : State) : Nat := getF s tuPasidBaseLo * 2 ^ 24 + getF s tuPasidBaseHi * 2 ^ 32

/-- R338: the stage-2 root of a domain. -/
def s2Root (s : State) (d : Nat) : Nat := getF s tuRootLo d * 2 ^ 12 + getF s tuRootHi d * 2 ^ 32

/-- R334, R341: a translation, or the code and stage of its fault. -/
structure Xl where
  code : Code := 0
  stage : Nat := 0
  host : Bool := false
  pa : Nat := 0
  enc : Bool := false
  key : Nat := 0
  read : Bool := true
  write : Bool := true
  acEn : Bool := false
  acIndex : Nat := 0
  noSnoop : Bool := false
  relaxed : Bool := false
  hot : Bool := false
  sizeLog2 : Nat := 25
  domain : Nat := 0
  /-- R355: the intermediate address of a stage-2 fault -/
  ipa : Nat := 0
  /-- table entries read by the walk -/
  reads : Nat := 0
  /-- non-leaf entries met, for the walk cache -/
  cached : List WalkCacheEntry := []
  deriving DecidableEq, Repr, Inhabited

/-- What a stage of a walk returns: a code, the address, the leaf entry, its page size, entries read and cached. -/
structure StageRes where
  code : Code := 0
  stage : Nat := 0
  addr : Nat := 0
  leaf : Nat := 0
  sizeLog2 : Nat := 25
  reads : Nat := 0
  cached : List WalkCacheEntry := []
  deriving DecidableEq, Repr, Inhabited

/-- R339: the index of a level. -/
def walkIndex (level a : Nat) : Nat :=
  match level with
  | 0 => bits a 43 13
  | 1 => bits a 30 13
  | _ => bits a 25 5

/-- R339, R340: does an entry break a rule? `final`: the stage supplies the final leaf. -/
def entryBad (final : Bool) (level e : Nat) : Bool :=
  let leaf := bit e 1
  let addr := bits e 8 44 * 256
  if bits e 60 4 != 0 then true
  else if !leaf then bits e 2 6 != 0 || bits e 52 8 != 0 || level == 2
  else if level == 0 then true
  else
    let size := if level = 1 then 30 else 25
    let host := bit e 4
    let attrs := bits e 4 4 != 0 || bits e 52 8 != 0
    if !final then attrs || addr % 2 ^ size != 0
    else if host then
      bit e 58 ||
      (if bit e 5 then bits e 25 27 * 2 ^ 25 % 2 ^ size != 0 || (size == 30 && bits e 8 17 % 32 != 0) else addr % 2 ^ size != 0)
    else bit e 5 || addr % 2 ^ size != 0

/-- R340: the page address of a leaf; with ac_en, bits [24:8] are the counter's index. -/
def leafAddr (e : Nat) : Nat := if bit e 4 && bit e 5 then bits e 25 27 * 2 ^ 25 else bits e 8 44 * 256

/-- R349: an entry of the walk cache. -/
def wcFind (s : State) (stage pasid dom addr : Nat) : Option Nat :=
  (s.trans.wcache.find? (fun x => x.stage == stage && x.addr == addr && x.domain == dom && (stage == 2 || x.pasid == pasid))).map
    (fun x => x.value.toNat)

/-- R341: one stage from a level on; `sub` translates a table address under stage 2, `final` is set where the stage supplies
the final leaf. -/
def stageWalk (s : State) (n pasid dom : Nat) (final : Bool) (sub : Nat → StageRes) (fuel level t a : Nat) : StageRes :=
  match fuel with
  | 0 => { code := 0x0203, stage := n }
  | k + 1 =>
    let p := t + 8 * walkIndex level a
    let q := if n = 1 then sub p else { addr := p }
    if q.code ≠ 0 then { q with stage := 2 }
    else
      match wcFind s n pasid dom q.addr with
      | some e =>
        let r := stageWalk s n pasid dom final sub k (level + 1) (bits e 8 44 * 256) a
        { r with reads := r.reads + q.reads, cached := q.cached ++ r.cached }
      | none =>
        if !inRegion s q.addr then { code := 0x0205, stage := n, reads := q.reads }
        else
          let e := rdLE s.mem.hbm q.addr 8
          let rd := q.reads + 1
          if !bit e 0 then { code := 0x0201, stage := n, reads := rd }
          else if entryBad final level e then { code := 0x0203, stage := n, reads := rd }
          else if bit e 1 then
            let size := if level = 1 then 30 else 25
            { addr := leafAddr e + a % 2 ^ size, leaf := e, sizeLog2 := size, reads := rd, cached := q.cached }
          else
            let r := stageWalk s n pasid dom final sub k (level + 1) (bits e 8 44 * 256) a
            { r with reads := r.reads + rd,
                     cached := q.cached ++ { stage := n, pasid := pasid, domain := dom, addr := q.addr, value := BitVec.ofNat 64 e } :: r.cached }

/-- R341: stage 2 of a domain. -/
def stage2 (s : State) (dom a : Nat) : StageRes :=
  stageWalk s 2 0 dom true (fun p => { addr := p }) 3 0 (s2Root s dom) a

/-- R341: the stage-2 translation of a stage-1 table address, the walk cache first. -/
def tableXl (s : State) (pasid dom : Nat) (s2 : Bool) (p : Nat) : StageRes :=
  if s2 then
    match wcFind s 3 pasid dom (p / 2 ^ 25) with
    | some v => { addr := v + p % 2 ^ 25 }
    | none =>
      if bits p 52 12 ≠ 0 then { code := 0x0204, stage := 2, addr := p }
      else
        let r := stage2 s dom p
        if r.code ≠ 0 then { r with addr := p }
        else { r with cached := { stage := 3, pasid := pasid, domain := dom, addr := p / 2 ^ 25,
                                  value := BitVec.ofNat 64 (r.addr - p % 2 ^ 25) } :: r.cached }
  else { addr := p }

/-- R341, R342: walk a virtual address for a PASID and an access; ownership is checked against a partition. -/
def walk (s : State) (pasid part va : Nat) (write : Bool) : Xl :=
  if va / 2 ^ 56 % 256 ≠ 0 then { code := 0x0204, stage := 1 }
  else
    let q := pasidBase s + 16 * pasid
    let ca := mfind s.trans.pasidCache pasid
    if ca = none ∧ inRegion s q = false then { code := 0x0205 }
    else
      let pe := match ca with
        | some v => v.toNat
        | none => rdLE s.mem.hbm q 16
      let s1 := bit pe 1
      let root := pe / 2 ^ 64
      let dom := bits pe 2 8
      if bit pe 0 = false ∨ bits pe 10 54 ≠ 0 ∨ (s1 = true ∧ root % 65536 ≠ 0) ∨ getF s tuValid dom = 0 then
        { code := 0x0208 }
      else
        let s2 := getF s tuS2En dom == 1
        let r1 : StageRes := if s1 then stageWalk s 1 pasid dom (!s2) (tableXl s pasid dom s2) 3 0 root va else { addr := va, sizeLog2 := 30 }
        if r1.code ≠ 0 then { code := r1.code, stage := r1.stage, ipa := r1.addr, reads := r1.reads }
        else if bits r1.addr 52 4 ≠ 0 then { code := 0x0204, stage := 1, reads := r1.reads }
        else
          let r2 : StageRes := if s2 then stage2 s dom r1.addr else { addr := r1.addr, sizeLog2 := 30 }
          if r2.code ≠ 0 then { code := r2.code, stage := 2, ipa := r1.addr, reads := r1.reads + r2.reads }
          else
            let leaf := if s2 then r2.leaf else r1.leaf
            let mapped := s1 || s2
            let rd := (!s1 || bit r1.leaf 2) && (!s2 || bit r2.leaf 2)
            let wr := (!s1 || bit r1.leaf 3) && (!s2 || bit r2.leaf 3)
            let host := mapped && bit leaf 4
            let own := !s1 || bit r1.leaf (if write then 3 else 2)
            let x : Xl := { stage := if s2 && own then 2 else 1, ipa := r1.addr, host := host, pa := r2.addr, enc := mapped && bit leaf 58,
                            key := if mapped then bits leaf 52 6 else 0, read := rd, write := wr, acEn := mapped && host && bit leaf 5,
                            acIndex := bits leaf 8 17 + (if r2.sizeLog2 = 30 ∧ (s2 ∨ r1.sizeLog2 = 30) then bits va 25 5 else 0),
                            noSnoop := mapped && bit leaf 6,
                            relaxed := mapped && bit leaf 7, hot := mapped && bit leaf 59,
                            sizeLog2 := if mapped then min r1.sizeLog2 r2.sizeLog2 else 25, domain := dom,
                            reads := r1.reads + r2.reads, cached := r1.cached ++ r2.cached }
            if (if write then wr else rd) = false then { x with code := 0x0202 }
            else if host = false ∧ (80 * 2 ^ 34 ≤ r2.addr ∨ pageExists s (pageOf r2.addr) = false ∨ grantedTo s (pageOf r2.addr) ≠ part) then
              { x with code := 0x0206 }
            else x

/-- R347: the engines that have a micro-TLB. -/
def engCore (c : Nat) : Nat := c
def engStack (g : Nat) : Nat := 64 + g
def engCopy (i : Nat) : Nat := 84 + i
def engFront : Nat := 100
def engLink : Nat := 101

/-- R347: does an entry translate the address? -/
def TlbEntry.covers (e : TlbEntry) (pasid va : Nat) : Bool := e.pasid == pasid && va / 2 ^ e.sizeLog2 == e.page

/-- R347: the translation that an entry gives. -/
def TlbEntry.toXl (e : TlbEntry) (va : Nat) : Xl :=
  { host := e.hostPage, pa := e.pa + va % 2 ^ e.sizeLog2, enc := e.enc, key := e.key, read := e.read, write := e.write, acEn := e.acEn,
    acIndex := e.acIndex + (if e.sizeLog2 = 30 then bits va 25 5 else 0), noSnoop := e.noSnoop, relaxed := e.relaxed, hot := e.hot, sizeLog2 := e.sizeLog2, domain := e.domain }

/-- R348: the set of the second-level TLB for a page number. -/
def l2Set (pasid page : Nat) (big : Bool) : Nat :=
  let x := (pasid * 2 ^ 36) % 2 ^ 64 ^^^ page ^^^ (if big then 2 ^ 63 else 0)
  x * 0x9E3779B97F4A7C15 % 2 ^ 64 / 2 ^ 54

/-- R347, R348, R367: a cached translation: micro-TLB, second-level TLB, ATC. -/
def tlbHit (s : State) (eng pasid va : Nat) : Option TlbEntry :=
  match (mget s.trans.utlb eng).find? (fun e => e.covers pasid va) with
  | some e => some e
  | none =>
    match ((mget s.trans.l2 (l2Set pasid (va / 2 ^ 25) false)) ++ (mget s.trans.l2 (l2Set pasid (va / 2 ^ 30) true))).find?
        (fun e => e.covers pasid va) with
    | some e => some e
    | none => if getF s tuForerunner = 1 ∧ bit va 55 = false then s.trans.atc.find? (fun e => e.covers pasid va) else none

/-- R366: in forerunner mode an address with bit 55 clear is a host address. -/
def atsAddress (s : State) (va : Nat) : Bool := getF s tuForerunner == 1 && !bit va 55

/-- Translate an address for an engine of a context. A host address of forerunner mode needs a translation that ATS has
answered (log 15). A cached translation is checked for permission and for the owner of its page (R305), as a walk is. -/
def xlate (s : State) (eng n va : Nat) (write : Bool) : Xl :=
  let c := mget s.front.ctxs n
  match tlbHit s eng c.pasid va with
  | some e =>
    let x := e.toXl va
    if va / 2 ^ 56 % 256 ≠ 0 then { code := 0x0204, stage := 1 }
    else if (if write then x.write else x.read) = false then { x with code := 0x0202 }
    else if x.host = false ∧ pageOwner s (pageOf x.pa) ≠ c.partition then { x with code := 0x0206 }
    else x
  | none => if atsAddress s va then { code := 0x020B } else walk s c.pasid c.partition va write

/-- R343, R346: the keys of a slot that may be used, none for an empty slot and on Jujor-S; an access after a load or clear
was written uses the new state. -/
def keyOf (s : State) (k : Nat) : Option (BitVec 512) :=
  let x : KeySlot := match s.trans.keyPending with
    | some (i, load, data) => if i = k then (if load then { loaded := true, data := data } else {}) else mget s.trans.keys k
    | none => mget s.trans.keys k
  let small := match s.start.shadow with | some f => f.variant == .jujorS | none => false
  if x.loaded && !small then some x.data else none

/-- R343, R344: the plaintext of the granule at a physical address. -/
def granule (s : State) (keys : BitVec 512) (pa : Nat) : List Byte := xtsGranule false keys pa (rdBytes s.mem.hbm pa 32)

/-- Read `n` bytes of one page at a translation. -/
def xlRead (s : State) (x : Xl) (n : Nat) : List Byte :=
  if x.host then rdBytes s.mem.host x.pa n
  else if x.enc then
    match keyOf s x.key with
    | none => List.replicate n 0
    | some keys =>
      let g := x.pa / 32
      let all := (List.range ((x.pa + n - 1) / 32 - g + 1)).flatMap (fun i => granule s keys ((g + i) * 32))
      (all.drop (x.pa % 32)).take n
  else rdBytes s.mem.hbm x.pa n

/-- Write bytes of one page at a translation; a partial granule of an encrypted page is merged and counted (R345). -/
def xlWrite (s : State) (x : Xl) (bs : List Byte) : State :=
  if x.host then { s with mem.host := wrBytes s.mem.host x.pa bs }
  else if x.enc then
    match keyOf s x.key with
    | none => s
    | some keys =>
      let n := bs.length
      let g := x.pa / 32
      let cnt := (x.pa + n - 1) / 32 - g + 1
      let old := (List.range cnt).flatMap (fun i => granule s keys ((g + i) * 32))
      let new := putAt old (x.pa % 32) bs
      let part := b2n (x.pa % 32 != 0) + b2n ((x.pa + n) % 32 != 0 && (cnt != 1 || x.pa % 32 == 0))
      let s := { s with mem.hbm := iter cnt (fun i m =>
        wrBytes m ((g + i) * 32) (xtsGranule true keys ((g + i) * 32) ((new.drop (32 * i)).take 32))) s.mem.hbm }
      if part = 0 then s else addF s mpRmw part
  else { s with mem.hbm := wrBytes s.mem.hbm x.pa bs }

/-- R343: the code of an access with enc to a slot that cannot be used. -/
def xlCode (s : State) (x : Xl) : Code :=
  if x.code ≠ 0 then x.code else if x.host = false ∧ x.enc = true ∧ keyOf s x.key = none then 0x020C else 0

/-- Bytes up to the end of the smallest page that holds an address. -/
def pageRest (s : State) (va : Nat) : Nat := if atsAddress s va then 4096 - va % 4096 else 2 ^ 25 - va % 2 ^ 25

/-- Read bytes at a virtual address, page by page: the code of the first page that fails, and the bytes. -/
def vaReadGo (s : State) (eng n : Nat) (fuel va len : Nat) : Code × List Byte :=
  match fuel with
  | 0 => (0, [])
  | k + 1 =>
    if len = 0 then (0, [])
    else
      let x := xlate s eng n va false
      let c := xlCode s x
      if c ≠ 0 then (c, [])
      else
        let m := min len (pageRest s va)
        let r := vaReadGo s eng n k (va + m) (len - m)
        (r.1, xlRead s x m ++ r.2)

/-- Pages that a range may touch. -/
def pageFuel (s : State) (va len : Nat) : Nat := if atsAddress s va then len / 4096 + 2 else len / 2 ^ 25 + 2

/-- Read bytes at a device virtual address of context `n`, for an engine. -/
def vaReadE (s : State) (eng n va len : Nat) : Code × List Byte := vaReadGo s eng n (pageFuel s va len) va len

/-- The front end's reads. -/
def vaRead (s : State) (n va len : Nat) : Code × List Byte := vaReadE s engFront n va len

/-- The code of a write of `len` bytes at a virtual address. -/
def vaCheckGo (s : State) (eng n : Nat) (write : Bool) (fuel va len : Nat) : Code :=
  match fuel with
  | 0 => 0
  | k + 1 =>
    if len = 0 then 0
    else
      let c := xlCode s (xlate s eng n va write)
      if c ≠ 0 then c
      else
        let m := min len (pageRest s va)
        vaCheckGo s eng n write k (va + m) (len - m)

def vaCheck (s : State) (eng n : Nat) (write : Bool) (va len : Nat) : Code := vaCheckGo s eng n write (pageFuel s va len) va len

/-! ### What an access leaves behind (R347, R348, R364) -/

/-- R376: the requester number of an engine. -/
def engReq (eng : Nat) : Nat :=
  if eng < 64 then reqCore eng else if eng < 84 then reqLane (128 * (eng - 64)) else if eng < 100 then reqCopy (eng - 84)
  else if eng = 100 then reqFront else reqLink

/-- The entry used last goes first. -/
def mru (l : List TlbEntry) (e : TlbEntry) : List TlbEntry := e :: l.erase e

/-- R347: a micro-TLB takes an entry; of more than 32 the least recently used leaves. -/
def utlbPut (s : State) (eng : Nat) (e : TlbEntry) : State :=
  { s with trans.utlb := mset s.trans.utlb eng ((mru (mget s.trans.utlb eng) e).take 32) }

/-- R348: the set of an entry. -/
def l2SetOf (e : TlbEntry) : Nat := l2Set e.pasid e.page (e.sizeLog2 == 30)

/-- R347, R348: an entry that served an access is the most recently used; one found in the second-level TLB is taken into
the micro-TLB. -/
def touchTlb (s : State) (eng pasid va : Nat) : State :=
  match (mget s.trans.utlb eng).find? (fun e => e.covers pasid va) with
  | some e => utlbPut s eng e
  | none =>
    match tlbHit s eng pasid va with
    | none => s
    | some e =>
      let s := addF s tuUtlbMiss
      let k := l2SetOf e
      let s := if (mget s.trans.l2 k).contains e then { s with trans.l2 := mset s.trans.l2 k (mru (mget s.trans.l2 k) e) } else s
      utlbPut s eng e

/-- R347, R364: one request of an engine that was served. -/
def touchPage (s : State) (eng n va len : Nat) (write : Bool) : State :=
  let c := mget s.front.ctxs n
  let x := xlate s eng n va write
  let s := touchTlb s eng c.pasid va
  if x.host && x.acEn then acCount s x.acIndex len n c.pasid va (engReq eng) else s

def touchGo (s : State) (eng n : Nat) (write : Bool) (fuel va len : Nat) : State :=
  match fuel with
  | 0 => s
  | k + 1 =>
    if len = 0 then s
    else
      let m := min len (pageRest s va)
      touchGo (touchPage s eng n va m write) eng n write k (va + m) (len - m)

/-- R364: the requests of a range that was read, one for each page (log 52). -/
def touchRead (s : State) (eng n va len : Nat) : State := touchGo s eng n false (pageFuel s va len) va len

/-- Write bytes page by page. -/
def vaWriteGo (s : State) (eng n : Nat) (fuel va : Nat) (bs : List Byte) : Code × State :=
  match fuel with
  | 0 => (0, s)
  | k + 1 =>
    if bs.isEmpty then (0, s)
    else
      let x := xlate s eng n va true
      let c := xlCode s x
      if c ≠ 0 then (c, s)
      else
        let m := min bs.length (pageRest s va)
        vaWriteGo (xlWrite (touchPage s eng n va m true) x (bs.take m)) eng n k (va + m) (bs.drop m)

/-- Write bytes at a device virtual address of context `n`, for an engine. -/
def vaWriteE (s : State) (eng n va : Nat) (bs : List Byte) : Code × State := vaWriteGo s eng n (pageFuel s va bs.length) va bs

/-- The front end's writes. -/
def vaWrite (s : State) (n va : Nat) (bs : List Byte) : Code × State := vaWriteE s engFront n va bs

end Sys2Proof.Machine
end

