-- ==== Sys2Proof/Machine/Ops.lean ====
section
/-! DEFINITION. The shared operations of the front end: MSI-X requests, event records, fences, objects, descriptors,
retirement and completion entries. -/

namespace Sys2Proof.Machine

/-- A command that has its effect. -/
abbrev Res := Host.Outcome State Fault Refusal

/-- R47, R49: the host port answers in amber and green stage; before, the controller drops the host's writes. -/
def hostWrite (s : State) (f : State → State) : Res := .next (if s.bound.hostAnswers then f s else s)

def ctxOf (s : State) (n : Nat) : Context := mget s.front.ctxs n
def putCtx (s : State) (n : Nat) (c : Context) : State := { s with front.ctxs := mset s.front.ctxs n c }
def updCtx (s : State) (n : Nat) (f : Context → Context) : State := putCtx s n (f (ctxOf s n))
def partOf (s : State) (p : Nat) : Partition := mget s.parts.parts p
def putPart (s : State) (p : Nat) (x : Partition) : State := { s with parts.parts := mset s.parts.parts p x }
def updPart (s : State) (p : Nat) (f : Partition → Partition) : State := putPart s p (f (partOf s p))
def jobOf (s : State) (j : Nat) : Option Job := mfind s.front.jobs j
def putJob (s : State) (j : Nat) (x : Job) : State := { s with front.jobs := mput s.front.jobs j x }
def updJob (s : State) (j : Nat) (f : Job → Job) : State := { s with front.jobs := mupd s.front.jobs j f }

/-- R280: the phase bit after a number of passes. -/
def phaseBit (wraps : Nat) : Nat := (wraps + 1) % 2

/-- An event to be recorded (R295): type, code and the 48 payload bytes. -/
structure Event where
  type : Nat
  code : Code := 0
  payload : List Byte := []
  deriving DecidableEq, Repr, Inhabited

/-- R295: the 64-byte record. -/
def eventBytes (e : Event) (ctx tick wraps : Nat) : List Byte :=
  leBytes 4 (e.type + phaseBit wraps * 2 ^ 16) ++ leBytes 4 (e.code.toNat + ctx % 4096 * 2 ^ 16) ++ leBytes 8 tick ++
  (e.payload ++ List.replicate 48 0).take 48

/-- Advance a ring's tail by one entry. -/
def Ring.push (r : Ring) : Ring :=
  let t := (r.tail + 1) % 2 ^ r.log2
  { r with tail := t, wraps := if t = 0 then r.wraps + 1 else r.wraps }

/-- R296: an event of a context that could not be recorded. -/
def dropCtxEvent (s : State) (n : Nat) : State :=
  addF (updCtx s n (fun c => { c with eq.dropped := satAdd (2 ^ 32 - 1) c.eq.dropped 1 })) qfEvtLost

/-- R377: the front end keeps the final page of every ring page that it has translated. -/
def noteRing (s : State) (n va : Nat) (write : Bool) : State :=
  let x := xlate s engFront n va write
  let k := if atsAddress s va then 12 else 25
  let e : RingPage := { ctx := n, host := x.host, page := x.pa / 2 ^ k, sizeLog2 := k }
  if s.front.ringPages.contains e then s else { s with front.ringPages := s.front.ringPages ++ [e] }

/-- R296: write a record at a context's event-ring tail, or drop it. -/
def writeCtxEvent (s : State) (n : Nat) (e : Event) : State :=
  let c := ctxOf s n
  if ringFree (2 ^ c.eq.log2) c.eq.head c.eq.tail < 2 then dropCtxEvent s n
  else
    let va := c.eq.va.toNat + 64 * c.eq.tail
    let (code, s') := vaWrite s n va (eventBytes e n (now s) c.eq.wraps)
    if code ≠ 0 then dropCtxEvent s n
    else requestVector (updCtx (noteRing s' n va true) n (fun c => { c with eq := c.eq.push })) c.eqVector

/-- R296: after drops, the first record written is events_lost. -/
def flushCtxLost (s : State) (n : Nat) : State :=
  let c := ctxOf s n
  if c.eq.dropped = 0 ∨ ringFree (2 ^ c.eq.log2) c.eq.head c.eq.tail < 2 then s
  else
    let s := updCtx s n (fun c => { c with eq.dropped := 0 })
    let s' := writeCtxEvent s n { type := 1, payload := leBytes 4 c.eq.dropped }
    if (ctxOf s' n).eq.dropped = 0 then s' else updCtx s' n (fun d => { d with eq.dropped := satAdd (2 ^ 32 - 1) c.eq.dropped 1 })

/-- R296: record an event of a context that exists. -/
def eventCtx (s : State) (n : Nat) (e : Event) : State :=
  if (ctxOf s n).state = .free then s
  else
    let s := flushCtxLost s n
    if (ctxOf s n).eq.dropped ≠ 0 then dropCtxEvent s n else writeCtxEvent s n e

/-- R269: depth of an administrator ring. -/
def admDepth (s : State) (f : Fld) (hi : Nat) : Nat :=
  let n := getF s f
  if 6 ≤ n ∧ n ≤ hi then 2 ^ n else 64

/-- R298: write a record at the administrator event ring's tail, or drop it. -/
def writeAdmEvent (s : State) (ctx : Nat) (e : Event) : State :=
  let d := admDepth s qfAdmeqLog2 12
  let t := getF s qfAdmeqTail
  if ringFree d (getF s qfAdmeqHead) t < 2 then
    addF { s with front.admDropped := satAdd (2 ^ 32 - 1) s.front.admDropped 1 } qfEvtLost
  else
    let s' := { s with mem.host := wrBytes s.mem.host (getF64 s qfAdmeqLo + 64 * t) (eventBytes e ctx (now s) s.front.admEqWraps),
                       front.admEqWraps := if t + 1 = d then s.front.admEqWraps + 1 else s.front.admEqWraps }
    requestVector (setF s' qfAdmeqTail ((t + 1) % d)) 0

/-- R296: after drops, the first record written is events_lost. -/
def flushAdmLost (s : State) : State :=
  if s.front.admDropped = 0 ∨ ringFree (admDepth s qfAdmeqLog2 12) (getF s qfAdmeqHead) (getF s qfAdmeqTail) < 2 then s
  else writeAdmEvent { s with front.admDropped := 0 } 0 { type := 1, payload := leBytes 4 s.front.admDropped }

/-- R296: record an event on the administrator event queue; nothing leaves the block while it is absent (R47). -/
def eventAdm (s : State) (ctx : Nat) (e : Event) : State :=
  if s.bound.stage = 0 then s
  else
    let s := flushAdmLost s
    if s.front.admDropped ≠ 0 then
      addF { s with front.admDropped := satAdd (2 ^ 32 - 1) s.front.admDropped 1 } qfEvtLost
    else writeAdmEvent s ctx e

/-! ### Fences -/

def fenceOf (s : State) (f : Nat) : Fence := mget s.front.fences f

/-- R248: the 16-byte record of a fence. -/
def fenceBytes (f : Fence) : List Byte :=
  let st := match f.state with | .free => 0 | .pending => 1 | .signalled => 2 | .error => 3
  leBytes 8 f.value.toNat ++ leBytes 8 (st + f.ctx * 4 + f.error.toNat * 2 ^ 16 + f.ooo * 2 ^ 32)

/-- R269: QF_FENCE_BASE and QF_OBJ_BASE. -/
def fenceBase (s : State) : Nat := getF s qfFenceBaseLo * 2 ^ 24 + getF s qfFenceBaseHi * 2 ^ 32
def objBase (s : State) : Nat := getF s qfObjBaseLo * 2 ^ 25 + getF s qfObjBaseHi * 2 ^ 32

/-- R248: write a fence, through to its record. -/
def putFence (s : State) (i : Nat) (f : Fence) : State :=
  { s with front.fences := mset s.front.fences i f, mem.hbm := wrBytes s.mem.hbm (fenceBase s + 16 * i) (fenceBytes f) }

/-- R248: what updates change of a fence. -/
def Fence.vals (f : Fence) : FenceVals := { value := f.value, state := f.state, error := f.error, ooo := f.ooo, origin := f.origin }

/-- R252, R283: one update of fence `i`: an error is terminal and keeps its first code; a signal raises the value, is counted
where it is lower, and is an error where it is all-ones. -/
def FenceVals.apply (x : FenceVals) (i : Nat) (u : FenceUp) : FenceVals :=
  match x.state with
  | .error => x
  | .free => x
  | _ =>
    if u.fails then { x with state := .error, error := u.code, origin := u.origin }
    else if u.value = BitVec.allOnes 64 then { x with state := .error, error := 0x030A, origin := i }
    else if u.value.toNat < x.value.toNat then { x with ooo := satAdd 0xFFFF x.ooo 1 }
    else { x with value := u.value, state := .signalled }

/-- R254: updates of one tick in ascending requester number, those of one requester in the order in which they came. -/
def insertUp (u : FenceUp) : List FenceUp → List FenceUp
  | [] => [u]
  | x :: l => if u.req < x.req then u :: x :: l else x :: insertUp u l

/-- R254: the fence with one more update in the current tick `t`: all the updates of the tick are settled anew. -/
def Fence.update (f : Fence) (t i : Nat) (u : FenceUp) : Fence :=
  let same := f.upAt == some t
  let base := if same then f.base else f.vals
  let ups := insertUp u (if same then f.ups else [])
  let x := ups.foldl (fun x u => x.apply i u) base
  { f with value := x.value, state := x.state, error := x.error, ooo := x.ooo, origin := x.origin, before := base.value, upAt := some t,
           ups := ups, base := base, valueAt := if x.value = base.value then f.valueAt else t,
           errorAt := if x.state = .error ∧ base.state ≠ .error then t else f.errorAt }

/-- R254: an update of a fence; a free fence and one that was in error before the tick take none. -/
def fenceUpdate (s : State) (i : Nat) (u : FenceUp) : State :=
  let f := fenceOf s i
  if f.state = .free ∨ (f.state = .error ∧ f.upAt ≠ some (now s)) then s else putFence s i (f.update (now s) i u)

/-- R252: put a fence into error; one already in error keeps its first code. A free fence is not touched. -/
def fenceError (s : State) (i : Nat) (code : Code) (origin : Nat) (req : Nat := reqFront) : State :=
  fenceUpdate s i { req := req, fails := true, code := code, origin := origin }

/-- R283: apply a signal. -/
def fenceSignal (s : State) (i : Nat) (v : BitVec 64) (req : Nat := reqFront) : State := fenceUpdate s i { req := req, value := v }

/-- How a wait on a fence stands. -/
inductive WaitResult where
  | held
  | satisfied
  | failed
  deriving DecidableEq, Repr, Inhabited

/-- R249, R253, R254, R284: a wait that has stood since tick `since`, tested in tick `t`: satisfied by the value whatever the
state, and ended by an error; a value reached in the tick of the error does not save a wait that stood in that tick. The test
uses the state at the end of the tick: in a tick that has updated the fence the wait is held over it (log 155). -/
def waitResult (f : Fence) (t since w : Nat) : WaitResult :=
  let late := f.state == .error && f.errorAt == f.valueAt && decide (since ≤ f.errorAt ∧ f.before.toNat < w)
  if f.upAt = some t then .held
  else if w ≤ f.value.toNat ∧ late = false then .satisfied else if f.state = .error then .failed else .held

/-- R250: may a context wait on a fence? -/
def mayWait (s : State) (n i : Nat) : Bool :=
  let f := fenceOf s i
  f.state != .free && (f.ctx == n || (ctxOf s f.ctx).pasid == (ctxOf s n).pasid)

/-- R250: may a context signal a fence? -/
def maySignal (s : State) (n i : Nat) : Bool :=
  let f := fenceOf s i
  f.state != .free && f.ctx == n

/-! ### Objects -/

def objOf (s : State) (i : Nat) : Obj := mget s.front.objs i

/-- R241, R242: the 32-byte record of an object; the generation of a retired index does not pass 0xFF_FFFF. -/
def objBytes (o : Obj) : List Byte :=
  if o.allocated then
    leBytes 8 o.va.toNat ++ leBytes 8 o.size.toNat ++
    leBytes 8 (min o.gen 0xFFFFFF + o.type * 2 ^ 24 + o.ctx * 2 ^ 32 + b2n o.pinned * 2 ^ 44 + b2n o.freed * 2 ^ 45) ++
    leBytes 8 (o.refs + o.bindings * 2 ^ 24)
  else leBytes 16 0 ++ leBytes 8 (min o.gen 0xFFFFFF) ++ leBytes 8 0

/-- R241: write an object record, through to the table. -/
def putObj (s : State) (i : Nat) (o : Obj) : State :=
  { s with front.objs := mset s.front.objs i o, mem.hbm := wrBytes s.mem.hbm (objBase s + 32 * i) (objBytes o) }

def updObj (s : State) (i : Nat) (f : Obj → Obj) : State := putObj s i (f (objOf s i))

/-- R239: the fields of a handle. -/
def hIndex (h : Nat) : Nat := bits h 0 32
def hGen (h : Nat) : Nat := bits h 32 24
def hType (h : Nat) : Nat := bits h 56 8

/-- R239: the handle of an object. -/
def handleOf (i : Nat) (o : Obj) : Nat := i + o.gen * 2 ^ 32 + o.type * 2 ^ 56

/-- R243: the first failing check of a handle for a context, 0 where it passes. -/
def checkHandle (s : State) (n : Nat) (types : List Nat) (h : Nat) : Code :=
  let o := objOf s (hIndex h)
  if hType h ∉ types ∨ 1048576 ≤ hIndex h ∨ o.allocated = false ∨ o.type ≠ hType h then 0x0301
  else if o.ctx ≠ n then 0x0303
  else if o.gen ≠ hGen h then 0x0302
  else 0

/-- R273: an object range as a virtual address: 0x030D where it leaves the object. -/
def objRange (s : State) (h off len : Nat) : Code × Nat :=
  let o := objOf s (hIndex h)
  if o.size.toNat < off + len then (0x030D, 0) else (0, o.va.toNat + off)

/-! ### Descriptors (R272) -/

def dOpcode (d : Desc) : Nat := fieldAt d.raw 0 1
def dFlags (d : Desc) : Nat := fieldAt d.raw 0 4 / 256
def dWaitEn (d : Desc) : Bool := bit (dFlags d) 0
def dIgnoreErr (d : Desc) : Bool := bit (dFlags d) 1
def dSignalEn (d : Desc) : Bool := bit (dFlags d) 2
def dIrq (d : Desc) : Bool := bit (dFlags d) 3
def dSerial (d : Desc) : Bool := bit (dFlags d) 4
def dWaitFence (d : Desc) : Nat := bits (fieldAt d.raw 4 4) 0 20
def dWaitValue (d : Desc) : Nat := fieldAt d.raw 8 8
def dSignalFence (d : Desc) : Nat := bits (fieldAt d.raw 0x10 4) 0 20
def dLen (d : Desc) : Nat := fieldAt d.raw 0x14 4
def dSignalValue (d : Desc) : Nat := fieldAt d.raw 0x18 8
/-- Operand words of a descriptor. -/
def d8 (d : Desc) (off : Nat) : Nat := fieldAt d.raw off 8
def d4 (d : Desc) (off : Nat) : Nat := fieldAt d.raw off 4
/-- R273: a 48-bit offset operand. -/
def dOff (d : Desc) (off : Nat) : Nat := bits (d8 d off) 0 48

/-! ### The life of a dispatched command -/

/-- The command's effect is complete with a code; it may retire. -/
def finishJob (s : State) (j : Nat) (code : Code) : State :=
  updJob s j (fun x => if x.status = .done then x else { x with status := .done, code := code })

/-- The command's effect has begun and awaits its end. -/
def awaitJob (s : State) (j : Nat) : State := updJob s j (fun x => if x.status = .done then x else { x with status := .waiting })

/-- The execution row of a dispatched command: its effect, then the next command may be dispatched. Nothing happens where
the command just dispatched is another (log 13). -/
def runJob (s : State) (j opcode : Nat) (f : Job → State → State) : Res :=
  match jobOf s j with
  | none => .next s
  | some x =>
    if s.front.executing = some j ∧ dOpcode x.desc = opcode ∧ x.status = .dispatched then
      .next (f x { s with front.executing := none })
    else .next s

/-- R245: take and drop the work references of a command. -/
def takeRefs (s : State) (l : List Nat) : State := each l (fun i s => updObj s i (fun o => { o with refs := o.refs + 1 })) s
def dropRefs (s : State) (l : List Nat) : State := each l (fun i s => updObj s i (fun o => { o with refs := o.refs - 1 })) s

/-- R245: take and drop a binding. -/
def bindObj (s : State) (i : Nat) : State := updObj s i (fun o => { o with bindings := o.bindings + 1 })
def unbindObj (s : State) (i : Nat) : State := updObj s i (fun o => { o with bindings := o.bindings - 1 })

/-- R242, R251: hand out an index below a bound: unused ones rising, then the one released longest ago. -/
def IdxAlloc.take (a : IdxAlloc) : Option (Nat × IdxAlloc) :=
  if a.next < 1048576 then some (a.next, { a with next := a.next + 1 })
  else match a.released with
    | [] => none
    | i :: r => some (i, { a with released := r })

/-- R269: QF_OBJ_COUNT and QF_FENCE_COUNT. -/
def objCount (s : State) : Nat := (s.front.objs.filter (fun e => e.2.allocated)).length + s.front.objAlloc.retired
def fenceCount (s : State) : Nat := (s.front.fences.filter (fun e => e.2.state != .free)).length

/-- R244: release the record of a freed object that nothing references; its index is retired where its generation has run
out (R242). -/
def releaseObj (s : State) (i : Nat) : State :=
  let o := objOf s i
  let s := each o.freeJobs (fun j s => finishJob s j 0) s
  let s := putObj s i { gen := o.gen }
  if o.gen ≤ 0xFFFFFF then { s with front.objAlloc.released := s.front.objAlloc.released ++ [i] }
  else { s with front.objAlloc.retired := s.front.objAlloc.retired + 1 }

/-- R255: every queued or dispatched command that names a fence, destroys of it left out. -/
def fenceNamed (s : State) (i : Nat) : Bool :=
  let names := fun (d : Desc) => (dWaitEn d && dWaitFence d == i) || (dSignalEn d && dSignalFence d == i)
  let destroys := fun (d : Desc) => dOpcode d == 0x13 && bits (d4 d 0x20) 0 20 == i
  s.front.jobs.any (fun e => names e.2.desc && !destroys e.2.desc) ||
  s.front.ctxs.any (fun e => e.2.sq.any (fun q => q.2.fetched.any (fun d => names d && !destroys d))) ||
  s.front.admFetched.any names

/-- R280: a completion entry without its phase bit. -/
def entryBytes (j : Job) (sqHead phase fenceValue : Nat) : List Byte :=
  let slips := min 255 j.slips
  let start := j.start.getD j.endAt
  let wait := start - j.desc.submit
  let run := j.endAt - start
  let eng := cdiv j.engine 16384
  leBytes 4 (j.code.toNat + sqHead % 65536 * 2 ^ 16) ++
  leBytes 4 (j.desc.slot % 65536 + j.queue % 4 * 2 ^ 16 + slips * 2 ^ 18 + phase * 2 ^ 26 + b2n (decide (2 ^ 32 - 1 < wait)) * 2 ^ 27 +
    b2n (decide (2 ^ 32 - 1 < run)) * 2 ^ 28 + b2n (decide (2 ^ 24 - 1 < eng)) * 2 ^ 29) ++
  leBytes 8 fenceValue ++ leBytes 8 (j.endAt % 2 ^ 40 + min (2 ^ 24 - 1) eng * 2 ^ 40) ++
  leBytes 4 (min (2 ^ 32 - 1) wait) ++ leBytes 4 (min (2 ^ 32 - 1) run)

/-- The phase bit of an entry that waited in the holding ring is set when it is written (R293). -/
def withPhase (e : List Byte) (wraps : Nat) : List Byte :=
  putAt e 4 (leBytes 4 (setBits (fieldAt e 4 4) 26 1 (phaseBit wraps)))

/-- R279 step 1: the fence of a command: signalled on success, in error on failure. -/
def settleFence (s : State) (j : Job) : State :=
  if dSignalEn j.desc then
    if j.code = 0 then fenceSignal s (dSignalFence j.desc) (BitVec.ofNat 64 (dSignalValue j.desc))
    else fenceError s (dSignalFence j.desc) j.code (j.errOrigin.getD (dSignalFence j.desc))
  else s

end Sys2Proof.Machine
end

