-- ==== Sys2Proof/Machine/StepProg.lean ====
section
/-! DEFINITION. The image of a step program (R177 to R183, R66, R207): its fields, its tables, and the slot ticks of its
streams (R204, R208, R210). -/

namespace Sys2Proof.Machine

/-- The image of a step program. -/
abbrev Img := List Byte

/-! ### Header (R177) -/

def imgBytes (m : Img) : Nat := fieldAt m 0x08 8
def imgBlocks (m : Img) : Nat := fieldAt m 0x06 2
def imgPeriod (m : Img) : Nat := fieldAt m 0x10 4
def imgDeadline (m : Img) : Nat := fieldAt m 0x14 4
def imgQuantum (m : Img) : Nat := let q := fieldAt m 0x18 2; if q = 0 then 1024 else q
def imgMaxSlips (m : Img) : Nat := let q := fieldAt m 0x1A 1; if q = 0 then 16 else q
def imgVariants (m : Img) : Nat := bits (fieldAt m 0x1B 1) 0 4 + 1
def imgGroup (m : Img) : Bool := bit (fieldAt m 0x1B 1) 4
def imgSections (m : Img) : Nat := fieldAt m 0x20 8
def imgShards (m : Img) : Nat := fieldAt m 0x28 8
def imgShardN (m : Img) : Nat := fieldAt m 0x30 2
def imgRegionN (m : Img) : Nat := fieldAt m 0x32 1
def imgRegions (m : Img) : Nat := fieldAt m 0x38 8
def imgGrey (m : Img) : Nat := fieldAt m 0x40 8
def imgCarry (m : Img) (n : Nat) : Nat := fieldAt m (0x48 + 8 * (n % 2)) 8

/-- R178: a variant entry of a section. -/
structure VarEntry where
  ports : Nat
  cores : Nat
  lus : Nat
  tasks : Nat
  streams : Nat
  features : Nat
  taskOff : Nat
  streamOff : Nat
  lookOff : Nat
  budOff : Nat
  budN : Nat
  resOff : Nat
  resN : Nat
  refOff : Nat
  refN : Nat
  deriving DecidableEq, Repr, Inhabited

/-- R178: the section of group-relative block `j`. -/
def imgSection (m : Img) (j : Nat) : Nat := fieldAt m (imgSections m + 16 * j) 8

/-- R178: entry `v` of block `j`'s section. -/
def varEntry (m : Img) (j v : Nat) : VarEntry :=
  let b := imgSection m j + 64 * v
  { ports := bits (fieldAt m b 8) 0 60, cores := fieldAt m (b + 8) 1, lus := fieldAt m (b + 9) 1, tasks := fieldAt m (b + 10) 2,
    streams := fieldAt m (b + 12) 2, features := fieldAt m (b + 14) 2, taskOff := fieldAt m (b + 0x10) 8,
    streamOff := fieldAt m (b + 0x18) 8, lookOff := fieldAt m (b + 0x20) 8, budOff := fieldAt m (b + 0x28) 5,
    budN := fieldAt m (b + 0x2D) 3, resOff := fieldAt m (b + 0x30) 5, resN := fieldAt m (b + 0x35) 3,
    refOff := fieldAt m (b + 0x38) 5, refN := fieldAt m (b + 0x3D) 3 }

/-- R180: the code offsets of a variant's tasks. -/
def taskCode (m : Img) (e : VarEntry) (i : Nat) : Nat := fieldAt m (e.taskOff + 16 * i + 4) 4

/-- R180: a task's code runs to the next task's code or to the end of the image. -/
def taskCodeEnd (m : Img) (e : VarEntry) (i : Nat) : Nat :=
  if i + 1 < e.tasks then taskCode m e (i + 1) else imgBytes m

/-- R180: the tasks of a variant. -/
def imgTasks (m : Img) (e : VarEntry) : List Task :=
  (List.range e.tasks).map (fun i =>
    let b := e.taskOff + 16 * i
    { index := i, entry := bits (fieldAt m b 2) 0 14, core := fieldAt m (b + 2) 1, argument := BitVec.ofNat 64 (fieldAt m (b + 8) 8),
      codeOffset := taskCode m e i, codeBytes := taskCodeEnd m e i - taskCode m e i })

/-- R182: handle `epoch mod 2` of a weight region, and its epoch group. -/
def regionHandle (m : Img) (r epoch : Nat) : Nat := fieldAt m (imgRegions m + 32 * r + 8 * (epoch % 2)) 8
def regionGroup (m : Img) (r : Nat) : Nat := fieldAt m (imgRegions m + 32 * r + 16) 1

/-- R181: the offset of a stream-table entry. -/
def streamEntry (e : VarEntry) (i : Nat) : Nat := e.streamOff + 32 * i

/-- R207: a reservation entry. -/
structure Resv where
  kind : Nat
  use : Nat
  stream : Nat
  a : Nat
  b : Nat
  slotStart : Nat
  slotLen : Nat
  outStart : Nat
  stride : Nat
  first : Nat
  count : Nat
  deriving DecidableEq, Repr, Inhabited

def resvAt (m : Img) (off : Nat) : Resv :=
  let w := fieldAt m off 4
  let x := fieldAt m (off + 4) 4
  let y := fieldAt m (off + 8) 4
  { kind := bits w 0 3, use := bits w 3 2, stream := bits w 5 16, a := bits x 0 8, b := bits x 8 8, slotStart := bits x 16 10,
    slotLen := bits y 0 10, outStart := bits y 10 10, stride := bits y 20 8, first := bits (fieldAt m (off + 0xC) 4) 0 24,
    count := bits (fieldAt m (off + 0x10) 4) 0 24 }

/-- R178: the reservations of a variant. -/
def imgResv (m : Img) (e : VarEntry) : List Resv := (List.range e.resN).map (fun i => resvAt m (e.resOff + 32 * i))

/-- R204: ticks of a NoC frame; R210: of a link frame. -/
def frameTicks (kind : Nat) : Nat := if kind = 0 then 256 else 1024

/-- R204, R210: the tick at which a slot begins within its frame. -/
def slotTick (kind slot : Nat) : Nat := if kind = 0 then slot / 2 else 64 * slot / 35

/-- R207: the slot ticks, from launch, that a reservation holds. -/
def resvTicks (launch : Nat) (r : Resv) : List Nat :=
  let ft := frameTicks r.kind
  let f0 := cdiv launch ft + r.first
  (List.range r.count).flatMap (fun j => (List.range r.slotLen).map (fun i =>
    (f0 + j * r.stride) * ft + slotTick r.kind (r.slotStart + i) - launch))

/-- Insert into a rising list. -/
def insertNat (x : Nat) (l : List Nat) : List Nat :=
  match l with
  | [] => [x]
  | y :: r => if x ≤ y then x :: y :: r else y :: insertNat x r

/-- Sort rising. -/
def sortNat (l : List Nat) : List Nat := l.foldr insertNat []

/-- Every `n`-th element from the first. -/
def everyNth (n : Nat) (l : List Nat) : List Nat :=
  (List.range (l.length / max n 1)).map (fun i => l.getD (i * max n 1) 0)

/-- R208: slots that a delivery takes. -/
def deliverySlots (kind bytes : Nat) : Nat := if kind = 0 then cdiv bytes 1024 else cdiv bytes 240

/-- R208: the slot ticks of a stream's deliveries, from launch. A link stream takes its link slots. -/
def deliveryTicks (rs : List Resv) (launch stream bytes : Nat) (link : Bool) : List Nat :=
  let mine := rs.filter (fun r => r.use == 0 && r.stream == stream && (if link then r.kind != 0 && r.kind != 2 else r.kind == 0))
  everyNth (deliverySlots (if link then 1 else 0) bytes) (sortNat (mine.flatMap (resvTicks launch)))

/-- R82, R84: the ticks, from launch, at which the spill window's slots end; none where the step reserves none. -/
def spillEnd (rs : List Resv) (launch : Nat) : Option Nat :=
  match sortNat ((rs.filter (fun r => r.use == 3)).flatMap (resvTicks launch)) with
  | [] => none
  | l => some (l.getLastD 0 + 2)

/-- R66: the offset of a feature entry. -/
def featureEntry (e : VarEntry) (f : Nat) : Nat := e.lookOff + 64 * f

/-- R66: a feature entry, its output due at `launch + ready_offset`. -/
def imgFeature (m : Img) (e : VarEntry) (launch f : Nat) : FeatureRun :=
  let b := featureEntry e f
  let w := fieldAt m b 4
  let x := fieldAt m (b + 4) 4
  { tableId := bits w 0 16, poolOp := bits w 16 3, latePolicy := bits w 20 2, outFormat := bits w 22 2, maxBag := bits x 0 13,
    srcCore := bits x 16 8, topk := bit x 24, idVa := BitVec.ofNat 64 (fieldAt m (b + 8) 8),
    offsetsVa := BitVec.ofNat 64 (fieldAt m (b + 0x10) 8), weightsVa := BitVec.ofNat 64 (fieldAt m (b + 0x18) 8),
    destCore := fieldAt m (b + 0x20) 1, destOffset := fieldAt m (b + 0x24) 4, destVa := BitVec.ofNat 64 (fieldAt m (b + 0x28) 8),
    slotStream := fieldAt m (b + 0x30) 2, batch := fieldAt m (b + 0x32) 2, readyAt := launch + fieldAt m (b + 0x34) 4 }

/-- R66: the ready offset of a feature. -/
def featureReadyOff (m : Img) (e : VarEntry) (f : Nat) : Nat := fieldAt m (featureEntry e f + 0x34) 4

/-- R181: a stream of a step launched at `launch`, its HBM handle taken for the launch epochs (R108). A lanes-to-core
stream's deliveries are its features' outputs, at their ready ticks (log 17). -/
def imgStream (m : Img) (e : VarEntry) (launch : Nat) (epochs : SMap Nat) (i : Nat) : StreamRun :=
  let b := streamEntry e i
  let kind := bits (fieldAt m (b + 2) 1) 0 4
  let region := fieldAt m (b + 0xF) 1
  let x := fieldAt m (b + 8) 8
  let number := fieldAt m b 2
  let bytes := bits x 0 24
  let feats := (List.range e.features).filter (fun f => fieldAt m (featureEntry e f + 0x30) 2 == number && fieldAt m (featureEntry e f + 0x20) 1 != 0xFF)
  { number := number, kind := kind, srcCore := fieldAt m (b + 4) 1, dstCore := fieldAt m (b + 5) 1, port := fieldAt m (b + 6) 1,
    bytes := bytes, dstAddr := bits x 24 22, dstSpace := bits x 46 2, ring := bits x 48 8,
    handle := BitVec.ofNat 64 (if region = 0xFF then fieldAt m (b + 0x10) 8 else regionHandle m region (mget epochs (regionGroup m region))),
    offset := bits (fieldAt m (b + 0x18) 8) 0 40, peer := bits (fieldAt m (b + 0x18) 8) 40 16,
    slots := if kind = 5 then sortNat (feats.map (featureReadyOff m e))
      else deliveryTicks (imgResv m e) launch number bytes (kind == 3 || kind == 4) }

/-- R183: the exchange budgets of a variant: destination, budget and return flits. -/
def imgBudgets (m : Img) (e : VarEntry) : SMap (Nat × Nat) :=
  (List.range e.budN).foldl (fun a i =>
    let w := fieldAt m (e.budOff + 8 * i) 8
    mput a (bits w 48 16) (bits w 0 24, bits w 24 24)) []

/-- R245: every handle in a variant's tables and in the header. -/
def imgHandles (m : Img) (e : VarEntry) : List Nat :=
  let regions := (List.range (imgRegionN m)).flatMap (fun r => [regionHandle m r 0, regionHandle m r 1])
  let streams := (List.range e.streams).filterMap (fun i =>
    let b := streamEntry e i
    let kind := bits (fieldAt m (b + 2) 1) 0 4
    if (kind == 1 || kind == 2) && fieldAt m (b + 0xF) 1 == 0xFF then some (fieldAt m (b + 0x10) 8) else none)
  ([imgGrey m, imgCarry m 0, imgCarry m 1] ++ regions ++ streams).filter (fun h => h != 0)

/-- R209: the slots of a reservation: NoC offsets, or (port, slot) pairs; those of a forward on both ports. -/
def resvNoc (r : Resv) : List Nat := if r.kind = 0 then (List.range r.slotLen).map (fun i => (r.slotStart + i) % 512) else []
def resvLink (r : Resv) : List (Nat × Nat) :=
  if r.kind = 0 then []
  else (List.range r.slotLen).map (fun i => (r.a, r.slotStart + i)) ++
    (if r.kind = 2 then (List.range r.slotLen).map (fun i => (r.b, r.outStart + i)) else [])

/-- R205: the owner of a NoC offset in force; R210: of a link slot. -/
def nocOwner (s : State) (o : Nat) : Nat := mgetD 0xFF s.links.nocOwn o
def slotOwner (s : State) (q j : Nat) : Nat := mgetD 0xFF s.links.slotOwn (560 * q + j)

/-- R209: does the partition own every slot of a variant's reservations? -/
def resvOwned (s : State) (p : Nat) (rs : List Resv) : Bool :=
  rs.all (fun r => (resvNoc r).all (fun o => nocOwner s o == p) && (resvLink r).all (fun e => slotOwner s e.1 e.2 == p))

end Sys2Proof.Machine
end

