-- ==== Sys2Proof/Machine/Notify.lean ====
section
/-! DEFINITION. What the block reports: telemetry (R421), the error log (R405), health events (R407), the capability
generation (R264, R265), control messages issued (R215, R216), corrected and uncorrectable reads (R401, R402, R408). -/

namespace Sys2Proof.Machine

/-- R421: count in a telemetry counter, which wraps. -/
def telemAdd (s : State) (i n : Nat) : State :=
  { s with health.telem := mset s.health.telem i (mget s.health.telem i + BitVec.ofNat 64 n) }

/-- R2: the variant that the fuse shadows report; L until they are loaded. -/
def variantOf (s : State) : Variant := match s.start.shadow with | some f => f.variant | none => .jujorL

/-- R197, R385: domain membership; Jujor-S has none. -/
def memberBit (s : State) : Bool := s.start.record.domainMember && variantOf s != .jujorS

/-- R197: a domain of more than one block, whose time base and messages this block takes part in. -/
def domainMember (s : State) : Bool :=
  memberBit s && decide (1 < s.start.record.extent.x * s.start.record.extent.y * s.start.record.extent.z)

/-- R229: B and D; 0 without domain membership. -/
def domainB (s : State) : Nat := getF s tbDomainB

/-- R229: TB_GROUP_LEAD. -/
def groupLead (s : State) (p : Nat) : Nat := getF s tbGroupLead p

/-- R406: unit identities. -/
def unitCore (c : Nat) : Nat := 0x1000 + c
def unitLane (l : Nat) : Nat := 0x2000 + l
def unitLaneUnit (g : Nat) : Nat := 0x3000 + g
def unitStack (t : Nat) : Nat := 0x4000 + t
def unitPort (q : Nat) : Nat := 0x5000 + q
def unitCp (c : Nat) : Nat := 0x6000 + c
def unitCopy (e : Nat) : Nat := 0x7000 + e
def unitSg (g : Nat) : Nat := 0x8000 + g

/-- R407: a health event. -/
structure HealthNote where
  source : Nat
  memory : Nat := 0
  unit : Nat := 0
  code : Code := 0
  step : Nat := 0
  addr : Nat := 0
  value : Nat := 0
  deriving DecidableEq, Repr, Inhabited

def healthRecord (h : HealthNote) : Event :=
  { type := 0x000D, code := h.code,
    payload := leBytes 4 (h.source + h.memory * 256 + h.unit * 65536) ++ leBytes 4 h.step ++ leBytes 8 h.addr ++ leBytes 8 h.value }

/-- R407: to the administrator queue, and for sources 2, 3 and 6 to the contexts concerned. -/
def healthEvent (s : State) (h : HealthNote) (ctxs : List Nat := []) : State :=
  let s := eventAdm s 0 (healthRecord h)
  if h.source = 2 ∨ h.source = 3 ∨ h.source = 6 then each ctxs (fun n s => eventCtx s n (healthRecord h)) s else s

/-- R405: write the next entry of HP_ERR_LOG. -/
def errLog (s : State) (code : Code) (unit addr : Nat) : State :=
  let i := getF s hpLogNext
  let s := setF (setF s hpCode code.toNat i) hpUnit600 unit i
  let s := setF (setF s hpAddrLo addr i) hpAddrHi (addr / 2 ^ 32) i
  addF (setF (setF s hpTickLo (now s) i) hpLogNext (i + 1)) hpLogTotal

/-- R264: a rewrite of the table begins. Changes of one tick make one rewrite; a change in a later tick of a running rewrite
makes another. -/
def capRewrite (s : State) : State :=
  if !s.front.capBusy then { s with front.capBusy := true, front.capAt := now s }
  else if !s.front.capMore && s.front.capAt == now s then s
  else { s with front.capMore := true }

/-- R264, R265: the generation advances; `parts` are the partitions whose contexts are told. -/
def capChange (s : State) (parts : List Nat) : State :=
  let one := !s.front.capBusy || (!s.front.capMore && s.front.capAt == now s)
  let e : Event := { type := 0x0008, payload := leBytes 4 (s.front.capGen + (if one then 1 else 2)) }
  let s := capRewrite s
  let told := (s.front.ctxs.filter (fun c => c.2.state != .free && parts.contains c.2.partition)).map (·.1)
  each told (fun n s => eventCtx s n e) (eventAdm s 0 e)

/-- R215, R216: issue a control message; a block without domain membership has no one to send to. -/
def ctlSend (s : State) (type group a b c : Nat) (port : Nat := 0xFF) : State :=
  if domainMember s then
    let m : CtlMsg := { type := type, seq := s.time.nextSeq, group := group, a := a, b := b, c := c, port := port, origin := s.start.record.coord }
    { s with time.ctlOut := s.time.ctlOut ++ [m], time.nextSeq := (s.time.nextSeq + 1) % 65536 }
  else s

/-- R413: a bit of the ash-watch masks. -/
def ashOn (s : State) (unit : Nat) : Bool :=
  let n := unit % 4096
  match unit / 4096 with
  | 1 => bit (getF64 s hpAshCoreLo) n
  | 2 => bit (getF s hpAshLane (n / 32)) (n % 32)
  | 5 => bit (getF64 s hpAshPortLo) n
  | _ => false

def ashPut (s : State) (unit : Nat) (on : Bool) : State :=
  let n := unit % 4096
  match unit / 4096 with
  | 1 => setF64 s hpAshCoreLo (setBits (getF64 s hpAshCoreLo) n 1 (b2n on))
  | 2 => setF s hpAshLane (setBits (getF s hpAshLane (n / 32)) (n % 32) 1 (b2n on)) (n / 32)
  | 5 => setF64 s hpAshPortLo (setBits (getF64 s hpAshPortLo) n 1 (b2n on))
  | _ => s

/-- R413: place a unit on ash watch; entry raises a source-4 event. -/
def ashEnter (s : State) (unit : Nat) : State :=
  if ashOn s unit then s else healthEvent (ashPut s unit true) { source := 4, unit := unit }

/-- R408: the lanes of a stack group, which auto_ash places on watch with it. -/
def sgLanes (g : Nat) : List Nat := (List.range 128).map (fun l => unitLane (128 * g + l))

/-- R401, R403, R408: count a corrected error against a unit (core, stack group SRAM or stack). -/
def ceCount (s : State) (unit : Nat) : State :=
  let f := if unit / 4096 = 1 then hpCount400 else if unit / 4096 = 8 then hpCount500 else hpCount580
  let n := unit % 4096
  let s := telemAdd (addF s f 1 n) (if unit / 4096 = 4 then 16 else 14) 1
  if getF s f n < getF s hpCeThr ∨ unit ∈ s.health.ceRaised then s
  else
    let s := { s with health.ceRaised := s.health.ceRaised ++ [unit] }
    let s := healthEvent s { source := 1, unit := unit, code := if unit / 4096 = 4 then 0x0703 else 0x0701, value := getF s f n }
    if getF s hpAutoAsh = 0 then s
    else if unit / 4096 = 1 then ashEnter s unit
    else if unit / 4096 = 8 then each (sgLanes n) (fun u s => ashEnter s u) s else s

/-- R402, R405: an uncorrectable SRAM read: counted, logged and reported. -/
def sramUe (s : State) (unit memory addr : Nat) (ctxs : List Nat) (code : Code := 0x0702) : State :=
  healthEvent (errLog (telemAdd s 15 1) code unit addr) { source := 2, memory := memory, unit := unit, code := code, addr := addr } ctxs

end Sys2Proof.Machine
end

