-- ==== Sys2Proof/Machine/RowMath.lean ====
section
/-! DEFINITION. Table descriptors (R53, R54, R90), where a row lies (R57 to R61, R96, R99, R351), its decoding (R63 to R65),
pooling (R67, R68) and output (R70). -/

namespace Sys2Proof.Machine

/-! ### Descriptor fields (R54, R90) -/

def tdFormat (d : List Byte) : Nat := bits (fieldAt d 0 4) 28 4
def tdElems (d : List Byte) : Nat := bits (fieldAt d 4 4) 0 11
def tdLog (d : List Byte) : Nat := bits (fieldAt d 4 4) 16 4
def tdStride (d : List Byte) : Nat := 2 ^ tdLog d
def tdHashed (d : List Byte) : Bool := bit (fieldAt d 4 4) 20
def tdSubst (d : List Byte) : Bool := bit (fieldAt d 4 4) 21
def tdCrimson (d : List Byte) : Bool := bit (fieldAt d 4 4) 22
def tdDelta (d : List Byte) : Bool := bit (fieldAt d 4 4) 23
def tdHeat (d : List Byte) : Nat := bits (fieldAt d 4 4) 24 3
def tdPqM (d : List Byte) : Nat := bits (fieldAt d 4 4) 28 4 + 1
def tdHandle (d : List Byte) : Nat := fieldAt d 8 8
def tdRows (d : List Byte) : Nat := fieldAt d 0x10 5
def tdSeed (d : List Byte) : Nat := fieldAt d 0x18 8
def tdCbSlot (d : List Byte) : Nat := bits (fieldAt d 0x20 1) 0 6
def tdCbUnits (d : List Byte) : Nat := fieldAt d 0x21 1
def tdShard (d : List Byte) : Nat := fieldAt d 0x22 2
def tdGroup (d : List Byte) : Nat := fieldAt d 0x28 1
def tdSlots (d : List Byte) : Nat := fieldAt d 0x2A 3

/-- R63: the row bytes of a format; none for a reserved code or elements that break its constraint. -/
def rowBytes (fmt d m : Nat) : Option Nat :=
  match fmt with
  | 0 => some d
  | 1 => some d
  | 2 => some (d + 2)
  | 3 => if d % 2 = 0 then some (d / 2 + 3) else none
  | 4 => if d % 32 = 0 then some (d / 32 + d / 2) else none
  | 5 => if d % m = 0 then some m else none
  | _ => none

/-- A bound table. -/
def tableOf (s : State) (t : Nat) : Option Table := mfind s.emb.tables t

/-- R53: the table in force for a context. -/
def tableFor (s : State) (n t : Nat) : Option Table :=
  match tableOf s t with
  | none => none
  | some x => if x.ctx = n then some x else none

/-- R59: the shard map's entries of a table, none where it is unsharded. -/
def shardOf (s : State) (t : Table) : List Nat := if tdShard t.desc = 0xFFFF then [] else mget (partOf s t.part).shardMaps (tdShard t.desc)

/-- R59: S. -/
def shardCount (s : State) (t : Table) : Nat := max 1 (shardOf s t).length

/-- R61: n_local. -/
def nLocal (s : State) (t : Table) : Nat := cdiv (tdRows t.desc) (shardCount s t)

/-- R59: the owner of a logical row (none for this block) and its local row. -/
def ownerOf (s : State) (t : Table) (r : Nat) : Option Nat × Nat :=
  let m := shardOf s t
  let j := m.getD (r % shardCount s t) 0
  let me := match (partOf s t.part).group with | some g => g.index | none => 0
  (if m.isEmpty || j == me then none else some j, r / shardCount s t)

/-- R59, R100: the logical rows that a local row of this block stands for. -/
def logicalRows (s : State) (t : Table) (loc : Nat) : List Nat :=
  let m := shardOf s t
  let me := match (partOf s t.part).group with | some g => g.index | none => 0
  if m.isEmpty then [loc] else ((List.range m.length).filter (fun j => m.getD j 0 == me)).map (fun j => loc * m.length + j)

/-- R58: the hash. -/
def hashRow (id seed n : Nat) : Nat :=
  let x := id ^^^ (id / 2 ^ 29)
  let h := x * (seed ||| 1) % 2 ^ 64
  h * n / 2 ^ 64

/-- R57, R58: the logical row of an ID; none out of range. -/
def rowOfId (d : List Byte) (id : Nat) : Option Nat :=
  if tdHashed d then some (hashRow id (tdSeed d) (tdRows d)) else if id < tdRows d then some id else none

/-! ### The table's memory object -/

/-- R351: the translation of a byte of a table's object through its page map. -/
def tabXl (s : State) (t : Table) (off : Nat) : Option Xl :=
  let va := (objOf s t.obj).va.toNat
  match t.pages[(va + off) / 2 ^ 25 - va / 2 ^ 25]? with
  | none => none
  | some i =>
    match mfind s.emb.pmap i with
    | none => none
    | some e => some { pa := pageAddr e.page + (va + off) % 2 ^ 25, enc := e.enc, key := e.key }

/-- R52: the lane unit whose pseudo-channels hold an HBM byte, and the pseudo-channel of its stack: 2 KiB chunks of a page rotate
over the unit's 16. -/
def unitAt (pa : Nat) : Nat := pa / 2 ^ 34
def channelAt (pa : Nat) : Nat := 16 * (unitAt pa % 4) + pa % 2 ^ 25 / 2048 % 16

/-- R52: the even lane of the pair that serves the byte's pseudo-channel; which of the two fetches a row shows nowhere. -/
def laneAt (pa : Nat) : Nat := 128 * (unitAt pa / 4) + 2 * channelAt pa

/-- Read bytes of a table's object that lie in one page. -/
def tabRead (s : State) (t : Table) (off n : Nat) : List Byte :=
  match tabXl s t off with
  | none => List.replicate n 0
  | some x => xlRead s x n

/-- Write bytes of a table's object that lie in one page. -/
def tabWrite (s : State) (t : Table) (off : Nat) (bs : List Byte) : State :=
  match tabXl s t off with
  | none => s
  | some x => xlWrite s x bs

/-- R98, R351: write bytes of a table's object, page by page. -/
def tabWriteN (fuel : Nat) (s : State) (t : Table) (off : Nat) (bs : List Byte) : State :=
  match fuel with
  | 0 => s
  | k + 1 =>
    let n := 2 ^ 25 - ((objOf s t.obj).va.toNat + off) % 2 ^ 25
    if bs.isEmpty then s else tabWriteN k (tabWrite s t off (bs.take n)) t (off + n) (bs.drop n)

/-- The next 4 KiB boundary. -/
def up4k (n : Nat) : Nat := cdiv n 4096 * 4096

/-- R96: the bytes of one slot of a twin table; R99: of a delta table's main rows. -/
def mainBytes (s : State) (t : Table) : Nat := (nLocal s t + 1) * tdStride t.desc

/-- R96: where dirty bitmap `p` lies. -/
def dirtyBytes (s : State) (t : Table) : Nat := up4k (cdiv (nLocal s t + 1) 8)
def dirtyAt (s : State) (t : Table) (p : Nat) : Nat := up4k (2 * mainBytes s t) + p % 2 * dirtyBytes s t

/-- R99: where the delta index and the delta rows lie. -/
def deltaIndexAt (s : State) (t : Table) : Nat := up4k (mainBytes s t)
def deltaRowsAt (s : State) (t : Table) : Nat := up4k (deltaIndexAt s t + tdSlots t.desc / 2 * 64)

/-- R55, R96, R99: the bytes that a table's object must hold. -/
def tableBytes (s : State) (t : Table) : Nat :=
  if tdDelta t.desc then deltaRowsAt s t + tdSlots t.desc * tdStride t.desc else dirtyAt s t 0 + 2 * dirtyBytes s t

/-- R72: the constants. -/
def heatConst (k : Nat) : Nat :=
  match k with
  | 0 => 0x9E3779B97F4A7C15
  | 1 => 0xA24BAED4963EE407
  | 2 => 0xD1B54A32D192ED03
  | _ => 0xE7037ED1A0B428DB

/-- R72: the key of a row. -/
def heatKey (t r : Nat) : Nat := (t * 2 ^ 40 % 2 ^ 64) ^^^ r

/-- R72: h_k. -/
def heatHash (t r k : Nat) : Nat := heatKey t r * heatConst k % 2 ^ 64 / 2 ^ 48

/-! ### The delta index (R99 to R101) -/

/-- An entry of a bucket. -/
structure DeltaEntry where
  row : Nat
  slotA : Nat
  slotB : Nat
  epochA : Nat
  epochB : Nat
  validA : Bool
  validB : Bool
  deriving DecidableEq, Repr, Inhabited

def deltaBuckets (t : Table) : Nat := tdSlots t.desc / 2

/-- R99: where entry `i` of a bucket lies. -/
def deltaEntryAt (s : State) (t : Table) (b i : Nat) : Nat := deltaIndexAt s t + 64 * b + 16 * i

def deltaEntry (s : State) (t : Table) (b i : Nat) : DeltaEntry :=
  let v := leNat (tabRead s t (deltaEntryAt s t b i) 16)
  { row := bits v 0 40, slotA := bits v 40 24, slotB := bits v 64 24, epochA := bits v 88 16, epochB := bits v 104 16,
    validA := bit v 120, validB := bit v 121 }

def deltaEntryBytes (e : DeltaEntry) : List Byte :=
  leBytes 16 (e.row + e.slotA * 2 ^ 40 + e.slotB * 2 ^ 64 + e.epochA * 2 ^ 88 + e.epochB * 2 ^ 104 + b2n e.validA * 2 ^ 120 +
    b2n e.validB * 2 ^ 121)

/-- R99: an entry with no valid version is free. -/
def DeltaEntry.isFree (e : DeltaEntry) : Bool := !e.validA && !e.validB

/-- R99: the home bucket of a row, and the eight buckets an entry of it may live in. -/
def deltaHome (t : Table) (row : Nat) : Nat := (row * heatConst 0 % 2 ^ 64 / 2 ^ 32) % max 1 (deltaBuckets t)
def deltaChain (t : Table) (row : Nat) : List Nat := (List.range 8).map (fun i => (deltaHome t row + i) % max 1 (deltaBuckets t))

/-- R101: the entry of a row, reading buckets until one with a free entry. -/
def deltaSeek (s : State) (t : Table) (row : Nat) (chain : List Nat) : Option (Nat × Nat) :=
  match chain with
  | [] => none
  | b :: rest =>
    match firstBelow 4 (fun i => let e := deltaEntry s t b i; !e.isFree && e.row == row) with
    | some i => some (b, i)
    | none => if (List.range 4).any (fun i => (deltaEntry s t b i).isFree) then none else deltaSeek s t row rest

def deltaFind (s : State) (t : Table) (row : Nat) : Option (Nat × Nat) := deltaSeek s t row (deltaChain t row)

/-- R99: how many epochs a version lies behind `e`, by the low 16 bits; a later one lies 32,768 or more behind. -/
def epochAge (e x : Nat) : Nat := (e % 65536 + 65536 - x % 65536) % 65536

/-- R101: the slot of the newest version whose epoch is at most `e`. -/
def deltaSlot (x : DeltaEntry) (e : Nat) : Option Nat :=
  let a := x.validA && decide (epochAge e x.epochA < 32768)
  let b := x.validB && decide (epochAge e x.epochB < 32768)
  if a && (!b || decide (epochAge e x.epochA ≤ epochAge e x.epochB)) then some x.slotA else if b then some x.slotB else none

/-- R100: the filter bits of a row of a table. -/
def filterBits (tid r heat : Nat) : List Nat :=
  (List.range 4).map (fun k => heat * 4194304 + heatKey tid r * heatConst k % 2 ^ 64 / 2 ^ 42)

/-- R100: does the active filter say that the row may have an entry? -/
def filterHit (s : State) (t : Table) (tid r : Nat) : Bool := (filterBits tid r (tdHeat t.desc)).all (fun b => mget s.upd.filterActive b)

/-- Where a row of the main copy (or of the epoch's twin slot) lies. -/
def mainRowAt (s : State) (t : Table) (local' epoch : Nat) : Nat :=
  local' * tdStride t.desc + (if tdDelta t.desc then 0 else epoch % 2 * mainBytes s t)

/-- R96, R101: where the row of an epoch lies; `pos` is the filter's answer. -/
def rowAt (s : State) (t : Table) (local' epoch : Nat) (pos : Bool) : Nat :=
  if tdDelta t.desc && pos then
    match deltaFind s t local' with
    | none => mainRowAt s t local' epoch
    | some (b, i) =>
      match deltaSlot (deltaEntry s t b i) epoch with
      | none => mainRowAt s t local' epoch
      | some k => deltaRowsAt s t + k * tdStride t.desc
  else mainRowAt s t local' epoch

/-- R62 steps 2 and 3: the stored row of an epoch on this block. -/
def rowStored (s : State) (t : Table) (local' epoch : Nat) (pos : Bool) : List Byte :=
  tabRead s t (rowAt s t local' epoch pos) (tdStride t.desc)

/-- R61: this block's default row at an epoch. -/
def defaultRow (s : State) (t : Table) (epoch : Nat) : List Byte := rowStored s t (nLocal s t) epoch true

/-! ### Decoding (R64, R65) -/

def byteAt (bs : List Byte) (i : Nat) : Nat := (bs.getD i 0).toNat

/-- A nibble of packed elements: even in the low half. -/
def nibble (bs : List Byte) (i : Nat) : Nat := if i % 2 = 0 then byteAt bs (i / 2) % 16 else byteAt bs (i / 2) / 16

/-- R64: the elements of a stored row. -/
def decodeRow (s : State) (t : Table) (bs : List Byte) : List (BitVec 32) :=
  let d := tdElems t.desc
  (List.range d).map (fun i =>
    match tdFormat t.desc with
    | 0 => toF32 (fmtE4M3.decode (byteAt bs i))
    | 1 => toF32 (fmtE5M2.decode (byteAt bs i))
    | 2 => toF32 ((fmtF16.decode (fieldAt bs 0 2)).mul (dyadic (sx 8 (byteAt bs (2 + i))) 0))
    | 3 => toF32 ((fmtF16.decode (fieldAt bs 0 2)).mul (dyadic (sx 4 (nibble (bs.drop 3) i) - sx 4 (byteAt bs 2)) 0))
    | 4 =>
      let x := byteAt bs (i / 32)
      if x = 0xFF then nan32 else toF32 ((fmtE2M1.decode (nibble (bs.drop (d / 32)) i)).scale ((x : Int) - 127))
    | _ =>
      let w := d / tdPqM t.desc
      let k := i / w
      let a := tdCbSlot t.desc * 65536 + (k * 256 + byteAt bs k) * w * 2 + 2 * (i % w)
      toF32 (fmtBF16.decode (rdLE s.mem.codebook a 2)))

/-! ### Pooling (R67, R68) -/

/-- Correctly rounded FP32 division by a positive count. -/
def divF32 (x : BitVec 32) (n : Nat) : BitVec 32 :=
  match ofF32 x with
  | .fin neg m e =>
    let q := m * 2 ^ 64 / max n 1
    let r := m * 2 ^ 64 % max n 1
    toF32 (.fin neg (2 * q + b2n (r != 0)) (e - 65))
  | v => toF32 v

/-- Elementwise combination of two vectors. -/
def zipVec (f : BitVec 32 → BitVec 32 → BitVec 32) (a b : List (BitVec 32)) : List (BitVec 32) := List.zipWith f a b

/-- R67: the combination of two partials of a pool operation. -/
def combine (op : Nat) : BitVec 32 → BitVec 32 → BitVec 32 := if op = 2 then maxF32 else addF32

/-- R67: the first row of a partial. A sum begins with its first row; a weighted sum with its product, rounded once. -/
def firstTerm (op : Nat) (c : Contribution) : List (BitVec 32) :=
  if op = 3 ∧ c.owner = none then c.values.map (fun x => toF32 ((ofF32 c.weight).mul (ofF32 x))) else c.values

/-- R67: add a row, or another partial, to a partial. -/
def nextTerm (op : Nat) (acc : List (BitVec 32)) (c : Contribution) : List (BitVec 32) :=
  if op = 3 ∧ c.owner = none then
    List.zipWith (fun a x => toF32 (((ofF32 c.weight).mul (ofF32 x)).add (ofF32 a))) acc c.values
  else zipVec (combine op) acc c.values

def foldTerms (op : Nat) (l : List Contribution) : Option (List (BitVec 32)) :=
  match l with
  | [] => none
  | c :: rest => some (rest.foldl (nextTerm op) (firstTerm op c))

/-- Insert into a list that rises by a key. -/
def insertBy {α : Type} (key : α → Nat) (x : α) (l : List α) : List α :=
  match l with
  | [] => [x]
  | y :: r => if key x < key y then x :: y :: r else y :: insertBy key x r

/-- A stable sort by a key. -/
def sortBy {α : Type} (key : α → Nat) (l : List α) : List α := l.foldl (fun a x => insertBy key x a) []

/-- R68: a bag's contributions in order: local rows by position into one partial, then the remote partials by block. -/
def poolOrder (op : Nat) (l : List Contribution) : List Contribution :=
  let own := sortBy (fun c => c.pos) (l.filter (fun c => c.owner.isNone))
  let far := sortBy (fun c => c.owner.getD 0) (l.filter (fun c => c.owner.isSome))
  match foldTerms op own with
  | none => far
  | some v => { pos := 0, owner := some 0, count := own.foldl (fun a c => a + c.count) 0, values := v, weight := 0 } :: far

/-- R67: the partial of a bag before mean's division, zeros for an empty one, and the IDs it covers. -/
def poolBag (op d : Nat) (l : List Contribution) : List (BitVec 32) × Nat :=
  ((foldTerms op (poolOrder op l)).getD (List.replicate d 0), l.foldl (fun a c => a + c.count) 0)

/-- R67: mean divides by the IDs of the bag. -/
def finishPool (op n : Nat) (v : List (BitVec 32)) : List (BitVec 32) :=
  if op = 1 ∧ n ≠ 0 then v.map (fun x => divF32 x n) else v

/-- R70: bytes of an output element, and an element as written. -/
def outBytes (fmt : Nat) : Nat := match fmt with | 0 => 4 | 1 => 2 | _ => 1
def outElem (fmt : Nat) (x : BitVec 32) : List Byte :=
  match fmt with
  | 0 => leBytes 4 x.toNat
  | 1 => leBytes 2 (convF 7 (ofF32 x) x).1
  | _ => leBytes 1 (convF 0 (ofF32 x) x).1

def outVector (fmt : Nat) (v : List (BitVec 32)) : List Byte := v.flatMap (outElem fmt)

end Sys2Proof.Machine
end

