-- ==== Sys2Proof/Machine/Grey.lean ====
section
/-! DEFINITION. The grey lane (R82, R83, R86) and the carry areas (R84). -/

namespace Sys2Proof.Machine

/-- R83: write in a grey or carry area of a context; a walk that fails is a context fault (R353). -/
def greyPut (s : State) (ctx handle off : Nat) (bs : List Byte) : State :=
  let (code, s') := vaWriteE s (engStack 0) ctx ((objOf s (hIndex handle)).va.toNat + off) bs
  if code = 0 then s' else { s' with emb.greyFaults := s'.emb.greyFaults ++ [(ctx, (objOf s (hIndex handle)).va.toNat + off, code)] }

/-- R83: partial slots of a grey area. -/
def greySlots (s : State) (handle : Nat) : Nat := min 65536 (((objOf s (hIndex handle)).size.toNat - 0x801000) / 4160)

/-- R83: the header. -/
def greyHeader (s : State) (ctx handle : Nat) : State :=
  let held := s.emb.greyHeld.filter (fun g => g.handle == handle)
  let used := (s.emb.greyParts.filter (fun x => x.handle == handle)).length
  let oldest := held.foldl (fun m g => min m g.step) (2 ^ 64 - 1)
  greyPut s ctx handle 0 (leBytes 4 held.length ++ leBytes 4 (greySlots s handle) ++ leBytes 4 used ++ leBytes 4 0 ++ leBytes 8 oldest)

/-- R83: a held record's 32 bytes. -/
def heldBytes (g : GreyHeld) (valid : Bool) : List Byte :=
  leBytes 8 (g.row % 2 ^ 40 + g.feature * 2 ^ 40 + g.bag * 2 ^ 50) ++
  leBytes 8 (g.weight.toNat + g.pos * 2 ^ 32 + g.partialSlot * 2 ^ 44) ++
  leBytes 8 (g.epoch % 2 ^ 32 + g.owner * 2 ^ 32 + b2n valid * 2 ^ 48 + b2n g.sentBe * 2 ^ 49) ++ leBytes 8 g.step

/-- R83: a partial slot's tag and value. -/
def slotBytes (x : GreyPartial) : List Byte :=
  leBytes 4 (x.feature + x.bag * 2 ^ 10) ++ leBytes 4 x.outstanding ++ leBytes 8 x.step ++ leBytes 4 x.count ++ leBytes 44 0 ++
  (x.values.flatMap (fun (v : BitVec 32) => leBytes 4 v.toNat) ++ List.replicate 4096 0).take 4096

def putHeld (s : State) (g : GreyHeld) (valid : Bool) : State := greyPut s g.ctx g.handle (0x1000 + 32 * g.slot) (heldBytes g valid)
def putSlot (s : State) (x : GreyPartial) : State := greyPut s x.ctx x.handle (0x801000 + 4160 * x.slot) (slotBytes x)

/-- The partial slot of a bag. -/
def greyPartOf (s : State) (ctx step f bag : Nat) : Option GreyPartial :=
  s.emb.greyParts.find? (fun x => x.ctx == ctx && x.step == step && x.feature == f && x.bag == bag)

/-- Is it the same partial slot? -/
def samePart (x y : GreyPartial) : Bool := x.handle == y.handle && x.slot == y.slot

def updPartial (s : State) (x : GreyPartial) : State :=
  putSlot { s with emb.greyParts := s.emb.greyParts.map (fun y => if samePart x y then x else y) } x

def dropPartial (s : State) (x : GreyPartial) : State :=
  greyHeader { s with emb.greyParts := s.emb.greyParts.filter (fun y => !samePart x y) } x.ctx x.handle

/-- A late-record slot of an object that holds no record. -/
def freeHeldSlot (s : State) (handle : Nat) : Option Nat :=
  firstBelow 262144 (fun i => !s.emb.greyHeld.any (fun h => h.handle == handle && h.slot == i))

/-- A partial slot of an object that holds no partial. -/
def freePartSlot (s : State) (handle : Nat) : Option Nat :=
  firstBelow (greySlots s handle) (fun k => !s.emb.greyParts.any (fun x => x.handle == handle && x.slot == k))

/-- R83: hold a spilled ID: the free record with the lowest index, and a partial slot at a pooled bag's first spill; none
where either is not to be had. -/
def greyHold (s : State) (g : GreyHeld) (pooled : Bool) : Option State :=
  match freeHeldSlot s g.handle with
  | none => none
  | some i =>
    if pooled then
      match greyPartOf s g.ctx g.step g.feature g.bag with
      | some x =>
        let g := { g with slot := i, partialSlot := x.slot }
        let s := updPartial { s with emb.greyHeld := s.emb.greyHeld ++ [g] } { x with outstanding := x.outstanding + 1 }
        some (greyHeader (putHeld s g true) g.ctx g.handle)
      | none =>
        match freePartSlot s g.handle with
        | none => none
        | some k =>
          let g := { g with slot := i, partialSlot := k }
          let x : GreyPartial := { part := g.part, ctx := g.ctx, handle := g.handle, slot := k, step := g.step, feature := g.feature,
                                   bag := g.bag, outstanding := 1, outFormat := g.outFormat, poolOp := g.poolOp }
          let s := putSlot { s with emb.greyHeld := s.emb.greyHeld ++ [g], emb.greyParts := s.emb.greyParts ++ [x] } x
          some (greyHeader (putHeld s g true) g.ctx g.handle)
    else
      let g := { g with slot := i, partialSlot := 0xFFFF }
      some (greyHeader (putHeld { s with emb.greyHeld := s.emb.greyHeld ++ [g] } g true) g.ctx g.handle)

/-! ### Carry areas (R84) -/

/-- R84: the header and directory of a carry area are zeroed at the launch of the step before its reader. -/
def carryOpen (s : State) (part ctx handle reader : Nat) : State :=
  if handle = 0 then s
  else
    let s := { s with emb.carries := s.emb.carries.filter (fun a => !(a.ctx == ctx && (a.handle == handle || a.reader % 2 == reader % 2))) ++
      [{ part := part, ctx := ctx, handle := handle, reader := reader }] }
    greyPut s ctx handle 0 (leBytes 0x4040 0)

/-- R84: the carry area to which late work of a step goes: that of the step after it, or the next that is not final. -/
def carryOpenFor (s : State) (ctx step : Nat) : Option CarryArea :=
  (s.emb.carries.filter (fun a => a.ctx == ctx && !a.final && decide (step < a.reader))).foldl (fun b a => match b with
    | none => some a
    | some x => if a.reader < x.reader then some a else some x) none

def carryHeader (s : State) (a : CarryArea) : State :=
  greyPut s a.ctx a.handle 0 (leBytes 8 a.reader ++ leBytes 4 a.used ++ leBytes 4 a.overflow ++ leBytes 8 (b2n a.final))

def updCarry (s : State) (a : CarryArea) : State :=
  carryHeader { s with emb.carries := s.emb.carries.map (fun b => if b.ctx = a.ctx ∧ b.reader = a.reader then a else b) } a

/-- R84: append an entry for late work of a step; one that does not fit is counted and not written. -/
def carryAppend (s : State) (ctx step f bag pos : Nat) (subst seq : Bool) (data : List Byte) : State :=
  match carryOpenFor s ctx step with
  | none => addF s eeGreyDrop
  | some a =>
    let off := 0x4040 + a.used
    let n := 64 + cdiv data.length 64 * 64
    if (objOf s (hIndex a.handle)).size.toNat < off + n then addF (updCarry s { a with overflow := a.overflow + 1 }) eeGreyDrop
    else
      let tag := leBytes 8 (f + bag * 2 ^ 10 + pos * 2 ^ 24 + b2n subst * 2 ^ 36 + b2n seq * 2 ^ 37) ++ leBytes 4 data.length ++ leBytes 52 0
      let s := greyPut s ctx a.handle off (tag ++ data ++ List.replicate (n - 64 - data.length) 0)
      updCarry s { a with used := a.used + n, entries := a.entries ++ [{ feature := f, bag := bag, pos := pos, subst := subst, offset := off }] }

/-- R84: write the lists and the directory, then final. -/
def carryFinal (s : State) (a : CarryArea) : State :=
  let p := iter 1024 (fun f (p : State × CarryArea) =>
    let (s, a) := p
    let l := sortBy (fun e => e.bag * 4096 + e.pos) (a.entries.filter (fun e => e.feature == f))
    if l.isEmpty then p
    else
      let off := 0x4040 + a.used
      if (objOf s (hIndex a.handle)).size.toNat < off + 8 * l.length then (addF s eeGreyDrop l.length, { a with overflow := a.overflow + l.length })
      else
        let s := greyPut s a.ctx a.handle off (l.flatMap (fun e => leBytes 8 (e.bag + e.pos * 2 ^ 16 + b2n e.subst * 2 ^ 28 + e.offset * 2 ^ 32)))
        let s := greyPut s a.ctx a.handle (0x40 + 16 * f) (leBytes 4 (l.length + b2n (l.any (fun e => e.subst)) * 2 ^ 24) ++ leBytes 4 off ++ leBytes 8 0)
        (s, { a with used := a.used + 8 * l.length })) (s, a)
  updCarry p.1 { p.2 with final := true }

/-! ### Late rows and partials -/

/-- R83: free a record. -/
def freeHeld (s : State) (g : GreyHeld) : State :=
  let s := { s with emb.greyHeld := s.emb.greyHeld.filter (fun h => !(h.handle == g.handle && h.slot == g.slot)) }
  greyHeader (putHeld s g false) g.ctx g.handle

/-- R83: the held records of a bag. -/
def bagHeld (s : State) (handle step f bag : Nat) : List GreyHeld :=
  s.emb.greyHeld.filter (fun h => h.handle == handle && h.step == step && h.feature == f && h.bag == bag)

/-- R83: a bag whose every record has returned after its ready tick: the late partials are added by owner, its records are free,
and the vector goes to the carry area. -/
def completePartial (s : State) (x : GreyPartial) : State :=
  if x.outstanding = 0 ∧ x.filled = true then
    let own : List Contribution := if x.count = 0 then [] else [{ owner := none, count := x.count, values := x.values }]
    let far := sortBy (fun c => c.owner.getD 0) x.returned
    let all := (own ++ far).map (fun c => { c with owner := some (c.owner.getD 0) })
    let n := all.foldl (fun a c => a + c.count) 0
    let v := finishPool x.poolOp n ((foldTerms x.poolOp all).getD x.values)
    let s := each (bagHeld s x.handle x.step x.feature x.bag) (fun h s => freeHeld s h) s
    dropPartial (carryAppend s x.ctx x.step x.feature x.bag 0 x.subst false (outVector x.outFormat v)) x
  else updPartial s x

/-- R83: a late result of a held record's bag: a row of a sequence feature goes to the carry area; a pooled partial that
covers `count` records waits in its slot. -/
def greyResult (s : State) (g : GreyHeld) (count : Nat) (values : List (BitVec 32)) (subst : Bool) : State :=
  if g.poolOp = 4 then freeHeld (carryAppend s g.ctx g.step g.feature g.bag g.pos subst true (outVector g.outFormat values)) g
  else
    let mine := ((bagHeld s g.handle g.step g.feature g.bag).filter (fun h => h.owner == g.owner && !h.back)).take (max count 1)
    let s := { s with emb.greyHeld := s.emb.greyHeld.map (fun h => if h ∈ mine then { h with back := true } else h) }
    match greyPartOf s g.ctx g.step g.feature g.bag with
    | none => s
    | some x =>
      completePartial s { x with outstanding := x.outstanding - mine.length, subst := x.subst || subst,
                                 returned := x.returned ++ [{ owner := some g.owner, count := mine.length, values := values }] }

/-- R245: work references of ended steps whose grey records are gone. -/
def greyUnref (s : State) : State :=
  let gone := s.emb.greyRefs.filter (fun e => !s.emb.greyHeld.any (fun g => g.ctx == e.1 && g.step == e.2.1))
  let s := { s with emb.greyRefs := s.emb.greyRefs.filter (fun e => s.emb.greyHeld.any (fun g => g.ctx == e.1 && g.step == e.2.1)) }
  each gone (fun e s => dropRefs s e.2.2) s

/-- R86: serve a held record from the default row. -/
def greyDefault (s : State) (g : GreyHeld) : State :=
  let v := match tableOf s g.table with | some t => decodeRow s t (defaultRow s t g.epoch) | none => []
  let v := if g.poolOp = 3 then v.map (fun x => toF32 ((ofF32 g.weight).mul (ofF32 x))) else v
  addF (greyResult s g 1 v true) eeSubstitutions

/-- R86, R245: what the end of a step does to the grey lane: records two steps old are served from the default row, and the
step's references stay while it has left records held. -/
def greyStepEnd (s : State) (r : StepRun) : State :=
  let s := { s with emb.greyRefs := s.emb.greyRefs ++ [(r.ctx, r.number, r.refs)] }
  let old := s.emb.greyHeld.filter (fun g => g.ctx == r.ctx && !g.back && decide (g.step + 2 ≤ r.number))
  greyUnref (each old (fun g s => greyDefault s g) s)

/-- R86: a context's held records are discarded and counted. -/
def greyDiscard (s : State) (n : Nat) : State :=
  let mine := s.emb.greyHeld.filter (fun g => g.ctx == n)
  let s := { s with emb.greyHeld := s.emb.greyHeld.filter (fun g => g.ctx != n), emb.greyParts := s.emb.greyParts.filter (fun x => x.ctx != n) }
  let s := each mine (fun g s => greyHeader (putHeld s g false) g.ctx g.handle) s
  greyUnref (addF s eeGreyDrop mine.length)

end Sys2Proof.Machine
end

