-- ==== Sys2Proof/Machine/TileMath.lean ====
section
/-! DEFINITION. What the arrays and the drains compute: tile results (R114 to R138), accumulation, conversion and statistics
(R130 to R134), zero gating (R145). -/

namespace Sys2Proof.Machine

/-- R125: the taps and cube rows per tap of a convolution. -/
structure ConvGeo where
  taps : Nat
  rows : Nat
  deriving DecidableEq, Repr, Inhabited

/-- R125, R162: the geometry that g[xg] gives, where it obeys R125. -/
def convGeo (g : BitVec 64) : Option ConvGeo :=
  let w := bits g.toNat 0 5
  let c := bits g.toNat 5 5
  if 2 ≤ w ∧ 1 ≤ c ∧ w * c ≤ 32 then some ⟨w, c⟩ else none

/-- R114, R125: input channels of a convolution: a cube row carries K_t / 32 positions, so that C = 4c at K_t = 128 and 8c at
K_t = 256 (DEDUCED, log 70). -/
def convC (kt : Nat) (g : ConvGeo) : Nat := g.rows * (kt / 32)

/-- The operands of one tile on one array, all captured at issue (R122). -/
structure TileOps where
  f : TileFields
  mode : TileMode
  geo : Option ConvGeo
  kt : Nat
  core : Core
  win : Win
  actBase : Nat
  unit : Nat
  deriving DecidableEq, Repr, Inhabited

/-- Rows of the result: M, less the priming blocks of a convolution (R125). -/
def TileOps.rows (t : TileOps) : Nat :=
  match t.geo with
  | none => tileM t.f
  | some g => tileM t.f - 4 * (g.taps - 1)

/-- K positions that take part: K_active (R116, R138), or the window's w × C of a convolution (R133). -/
def TileOps.ks (t : TileOps) : Nat :=
  match t.geo with
  | none => tileK t.f
  | some g => g.taps * convC t.kt g

/-- The activation row and K position that meet weight position `i` in result row `m` (R125: row 4t + s of the input is
position t of sequence s, and the new positions enter at tap w - 1). -/
def TileOps.place (t : TileOps) (m i : Nat) : Nat × Nat :=
  match t.geo with
  | none => (m, i)
  | some g =>
    let c := convC t.kt g
    (m + 4 * (i / c), (g.taps - 1) * c + i % c)

def TileOps.aCode (t : TileOps) (m i : Nat) : Nat :=
  let p := t.place m i
  actCode t.core t.win t.f.fmtA (storeBits t.kt t.f.fmtA) t.actBase p.1 p.2

def TileOps.wCode (t : TileOps) (i n : Nat) : Nat :=
  weightCode t.core t.win t.f.fmtW (storeBits t.kt t.f.fmtW) t.unit i n

def TileOps.aScale (t : TileOps) (m i : Nat) : Nat :=
  let p := t.place m i
  actScale t.core t.win t.f.fmtA t.actBase (tileM t.f) p.1 p.2

def TileOps.wScale (t : TileOps) (i n : Nat) : Nat := weightScale t.core t.win t.f.fmtW t.unit i n

def TileOps.aVal (t : TileOps) (m i : Nat) : FVal := elemVal t.f.fmtA (t.aCode m i)
def TileOps.wVal (t : TileOps) (i n : Nat) : FVal := elemVal t.f.fmtW (t.wCode i n)
def TileOps.aInt (t : TileOps) (m i : Nat) : Int := intVal t.f.fmtA (t.aCode m i)
def TileOps.wInt (t : TileOps) (i n : Nat) : Int := intVal t.f.fmtW (t.wCode i n)

/-- R128, R129: the term of one K position, none for a product with a zero operand. -/
def floatTerm (mode : TileMode) (a w : FVal) (sa sw : Nat) : Option FVal :=
  match mode with
  | .l1 => some (a.add w.neg).abs
  | .l2 => some ((a.add w.neg).mul (a.add w.neg))
  | _ =>
    if a.isZero || w.isZero then none
    else if sa == 255 || sw == 255 then some .nan
    else some ((a.mul w).scale ((sa : Int) + sw - 254))

/-- R128: the exact sum of a group, rounded once. -/
def groupSum (ts : List FVal) : BitVec 32 := toF32 (ts.foldl FVal.add (.fin false 0 0))

/-- R128: positions of a K group: 32, or one cube row of 4 in BF16. -/
def groupSize (f : TileFields) : Nat := if tileBf16 f then 4 else 32

/-- R128: the sum over the K groups in ascending order. -/
def floatSum (t : TileOps) (m n : Nat) : BitVec 32 :=
  let g := groupSize t.f
  let v := fun q => groupSum (((List.range g).map (fun j => q * g + j)).filterMap (fun i =>
    if i < t.ks then floatTerm t.mode (t.aVal m i) (t.wVal i n) (t.aScale m i) (t.wScale i n) else none))
  (List.range (t.kt / g - 1)).foldl (fun p q => addArr p (v (q + 1))) (v 0)

/-- R136: max or min over k of a + w, each rounded once. -/
def floatPlus (t : TileOps) (m n : Nat) : BitVec 32 :=
  let v := fun i => toF32 ((t.aVal m i).add (t.wVal i n))
  (List.range (t.ks - 1)).foldl (fun p i => if t.mode = .maxPlus then maxF32 p (v (i + 1)) else minF32 p (v (i + 1))) (v 0)

/-- Sum over the positions that take part. -/
def sumK (ks : Nat) (f : Nat → Int) : Int := (List.range ks).foldl (fun p i => p + f i) 0

/-- R135: popcount of the difference of two 4-bit codes. -/
def hamming4 (a w : Nat) : Int := (popc 4 (a ^^^ w) : Int)

/-- R130: saturate to INT32. -/
def sat32 (v : Int) : Int × Bool :=
  (clampInt (-2147483648) 2147483647 v, decide (v < -2147483648 ∨ 2147483647 < v))

/-- R130, R133, R135, R136: the integer result and whether the correction saturated. -/
def intResult (t : TileOps) (m n : Nat) : Int × Bool :=
  match t.mode with
  | .l1 => (sumK t.ks (fun i => ((t.aInt m i - t.wInt i n).natAbs : Int)), false)
  | .l2 => (sumK t.ks (fun i => (t.aInt m i - t.wInt i n) * (t.aInt m i - t.wInt i n)), false)
  | .hamming => (sumK t.ks (fun i => hamming4 (t.aCode m i) (t.wCode i n)), false)
  | .maxPlus => ((List.range (t.ks - 1)).foldl (fun p i => max p (t.aInt m (i + 1) + t.wInt (i + 1) n)) (t.aInt m 0 + t.wInt 0 n), false)
  | .minPlus => ((List.range (t.ks - 1)).foldl (fun p i => min p (t.aInt m (i + 1) + t.wInt (i + 1) n)) (t.aInt m 0 + t.wInt 0 n), false)
  | _ =>
    let raw := sumK t.ks (fun i => t.aInt m i * t.wInt i n)
    if t.f.asym then
      let zw := paramZw t.core t.win t.f.fmtW t.unit n
      let za := sx 8 t.f.imm8
      sat32 (raw - zw * sumK t.ks (fun i => t.aInt m i) - za * sumK t.ks (fun i => t.wInt i n) + t.ks * za * zw)
    else (raw, false)

/-- R137: the comparison of one position. -/
def compareOp (mode : TileMode) (a w : FVal) : Bool :=
  match mode with
  | .eq => a.eqv w
  | .ne => !a.eqv w
  | .lt => a.lt w
  | .le => a.lt w || a.eqv w
  | .gt => w.lt a
  | .ge => w.lt a || a.eqv w
  | _ => false

def isCompare (m : TileMode) : Bool :=
  match m with
  | .eq => true | .ne => true | .lt => true | .le => true | .gt => true | .ge => true
  | _ => false

/-- R4: the modes of the distance and compare hardware. -/
def isDistance (m : TileMode) : Bool :=
  match m with
  | .matrix => false
  | .convolution => false
  | _ => true

/-- R137: how many positions compare true. -/
def compareCount (t : TileOps) (m n : Nat) : Nat :=
  ((List.range t.ks).filter (fun i => compareOp t.mode (t.aVal m i) (t.wVal i n))).length

/-- The result of output (m, n) before accumulation, and whether its correction saturated. -/
def tileResult (t : TileOps) (m n : Nat) : BitVec 32 × Bool :=
  if isCompare t.mode then (BitVec.ofNat 32 (compareCount t m n), false)
  else if tileInt t.f then
    let r := intResult t m n
    (BitVec.ofInt 32 r.1, r.2)
  else if t.mode = .maxPlus ∨ t.mode = .minPlus then (floatPlus t m n, false)
  else (floatSum t m n, false)

/-- R145: does an element encode zero (an MX scale is ignored)? -/
def codeZero (fmt c : Nat) : Bool := (elemVal fmt c).isZero

/-- R145: cube-ticks gated: for each block and cube, the activation block or the weight block is all zero. -/
def gatedTicks (t : TileOps) : Nat :=
  let per := t.kt / 32
  let aZero := fun b r => (List.range (4 * per)).all (fun j =>
    decide (t.ks ≤ r * per + j % per) || codeZero t.f.fmtA (t.aCode (4 * b + j / per) (r * per + j % per)))
  let wZero := fun r j => (List.range (4 * per)).all (fun i =>
    decide (t.ks ≤ r * per + i % per) || codeZero t.f.fmtW (t.wCode (r * per + i % per) (4 * j + i / per)))
  let blocks := List.range (tileM t.f / 4)
  let cubes := List.range 32
  let n := (blocks.map (fun b => (cubes.map (fun r => (cubes.filter (fun j => aZero b r || wZero r j)).length)).sum)).sum
  n * (if tileBf16 t.f then 4 else 1)

/-- R116, R127, R132, R138, R163: what a load refuses in a tile instruction (R184); moved code that breaks it is a program
fault (R154, log 12). -/
def tileLegal (mode : TileMode) (f : TileFields) : Bool :=
  let fp8 := fun x => elemFmt x == x && (x == 0 || x == 1)
  let pair := isIntFmt f.fmtA == isIntFmt f.fmtW
  let sizes := decide (tileK f ≤ tileKt f) && (!tileBf16 f || decide (tileM f ≤ 4096))
  let ops := match mode with
    | .matrix => true
    | .dot => true
    | .convolution => decide (f.dest ≠ 4 ∧ f.dest ≠ 5)
    | .hamming => f.fmtA == 3 && f.fmtW == 3
    | _ => (f.fmtA == 2 && f.fmtW == 2) || (fp8 f.fmtA && fp8 f.fmtW)
  let asymOk := !f.asym || mode == .matrix || mode == .dot || mode == .convolution
  let cmpOk := !isCompare mode || f.dest == 3
  let outOk := isCompare mode || !(f.dest == 2 || f.dest == 3) ||
    (if tileInt f then f.fmtOut == 0 || f.fmtOut == 1 || f.fmtOut == 2 || f.fmtOut == 3 || f.fmtOut == 7 || f.fmtOut == 0xF
     else f.fmtOut == 0 || f.fmtOut == 1 || f.fmtOut == 2 || f.fmtOut == 3 || f.fmtOut == 7 || f.fmtOut == 0xE)
  pair && sizes && ops && asymOk && cmpOk && outOk

/-- R117: the active weight plane of an array. -/
def planeOf (k : Core) (x : Nat) : List Host.Cell := if x = 0 then k.planeA else k.planeB

/-- R117: the core as array `x` sees it: its weights are those of its active plane. -/
def arrayCore (k : Core) (x : Nat) : Core := { k with weight := planeOf k x }

/-- R117, R119: the weight-buffer bytes of the tile at unit `u` and of its parameter block. -/
def tileCells (k : Core) (w : Win) (fmt u : Nat) : List Host.Cell :=
  let lo := u / 2048 % 2 * 2097152 + w.base * 131072
  let size := w.count * 131072
  k.weight.filter (fun e => decide (lo ≤ e.1 ∧ e.1 < lo + size ∧ (e.1 - lo + size - u % 2048 * 1024 % size) % size < weightBytes fmt + 1792))

/-- R117: the loader writes a tile into an array's shadow plane. -/
def loadShadow (k : Core) (x : Nat) (l : List Host.Cell) : Core := if x = 0 then { k with shadowA := l } else { k with shadowB := l }

/-- R117: an array's planes swap. -/
def swapPlanes (k : Core) (x : Nat) : Core :=
  if x = 0 then { k with planeA := k.shadowA, shadowA := k.planeA } else { k with planeB := k.shadowB, shadowB := k.planeB }

/-- R117: the tile of each of its arrays is loaded and swapped in; the ticks this takes are left out (log 73). -/
def loadWeights (k : Core) (w : Win) (f : TileFields) : Core :=
  (tileArrays f).foldl (fun k x => swapPlanes (loadShadow k x (tileCells k w f.fmtW (tileWUnit f (gReg k f.ab).toNat x))) x) k

/-- R115, R122: the record of a tile at issue, its weights in the active planes: its operands' results before accumulation. -/
def tileRecord (k : Core) (w : Win) (mode : TileMode) (f : TileFields) (geo : Option ConvGeo) : Tile :=
  let off := (gReg k f.ab).toNat
  let cols := (gReg k f.xg).toNat
  let kt := tileKt f
  let ops := fun x => ({ f := f, mode := mode, geo := geo, kt := kt, core := arrayCore k x, win := w, actBase := tileActBase f off,
                         unit := tileWUnit f off x } : TileOps)
  let rows := (ops 0).rows
  let cells := (List.range rows).flatMap (fun m => (List.range (tileN f)).map (fun n => (m, n)))
  let res := fun x => cells.map (fun c => (256 * c.1 + 128 * x + c.2, tileResult (ops x) c.1 c.2))
  let all := (tileArrays f).flatMap res
  let satOf := fun x => (all.filter (fun e => e.2.2 && e.1 / 128 % 2 == x)).length
  { fields := f, mode := mode, m := tileM f, rows := rows, accRow := tileAccRow f off, outAddr := tileOutBase f off,
    colBaseA := BitVec.ofNat 32 cols, colBaseB := BitVec.ofNat 32 (cols / 2 ^ 32), intResult := tileInt f,
    raw := all.foldl (fun r e => mput r e.1 e.2.1) [], satA := satOf 0, satB := satOf 1,
    scales := (tileArrays f).flatMap (fun x => (List.range (tileN f)).map (fun n =>
      (128 * x + n, paramScale (arrayCore k x) w f.fmtW (tileWUnit f off x) n))),
    zouts := (tileArrays f).flatMap (fun x => (List.range (tileN f)).map (fun n =>
      (128 * x + n, paramZout (arrayCore k x) w f.fmtW (tileWUnit f off x) n))) }

/-- R145: gated cube-ticks of a tile on the arrays it names, in matrix and dot modes. -/
def tileGated (k : Core) (w : Win) (mode : TileMode) (f : TileFields) : Nat :=
  if mode = .matrix ∨ mode = .dot then
    let off := (gReg k f.ab).toNat
    let ops := fun x => ({ f := f, mode := mode, geo := none, kt := tileKt f, core := arrayCore k x, win := w,
                           actBase := tileActBase f off, unit := tileWUnit f off x } : TileOps)
    ((tileArrays f).map (fun x => gatedTicks (ops x))).sum
  else 0

/-- R140: does a candidate rank before another in a selection? -/
def ranksBefore (sel : Selection) (a b : BitVec 32 × BitVec 32) : Bool :=
  let less := fun (p q : BitVec 32) => if sel.int32 then decide (p.toInt < q.toInt) else (ofF32 p).lt (ofF32 q)
  if less a.1 b.1 then !sel.largest else if less b.1 a.1 then sel.largest else decide (a.2.toNat < b.2.toNat)

/-- R140: insert a candidate; the list keeps the k best. -/
def offerList (sel : Selection) (l : List (BitVec 32 × BitVec 32)) (c : BitVec 32 × BitVec 32) : List (BitVec 32 × BitVec 32) :=
  (l.takeWhile (fun e => !ranksBefore sel c e) ++ c :: l.dropWhile (fun e => !ranksBefore sel c e)).take sel.k

/-- R139, R140: offer a value of list `l`; a NaN is never selected. -/
def offer (sel : Selection) (l : Nat) (c : BitVec 32 × BitVec 32) : Selection :=
  if sel.rows ≤ l ∨ (!sel.int32 && isNan32 c.1) = true then sel
  else { sel with lists := mput sel.lists l (offerList sel (mget sel.lists l) c) }

/-- R139: row m feeds list m - row_base. -/
def offerRow (sel : Selection) (m : Nat) (c : BitVec 32 × BitVec 32) : Selection :=
  if m < sel.rowBase then sel else offer sel (m - sel.rowBase) c

/-- What a tile's drain has done so far: the core, saturations, and whether an output held a NaN. -/
structure Drain where
  core : Core
  sats : Nat
  nan : Bool
  deriving DecidableEq, Repr, Inhabited

/-- R131, R136: the new total. -/
def accumulate (t : Tile) (old new : BitVec 32) : BitVec 32 × Bool :=
  if t.intResult then
    match t.mode with
    | .maxPlus => (if old.toInt < new.toInt then new else old, false)
    | .minPlus => (if new.toInt < old.toInt then new else old, false)
    | _ =>
      let r := sat32 (old.toInt + new.toInt)
      (BitVec.ofInt 32 r.1, r.2)
  else
    match t.mode with
    | .maxPlus => (maxF32 old new, false)
    | .minPlus => (minF32 old new, false)
    | _ => (addArr old new, false)

/-- The value of a result word. -/
def wordVal (int : Bool) (v : BitVec 32) : FVal := if int then dyadic v.toInt 0 else ofF32 v

/-- R132 step 1. -/
def clampZero (int : Bool) (v : BitVec 32) : BitVec 32 :=
  if int then (if v.toInt < 0 then 0 else v) else if (ofF32 v).lt (.fin false 0 0) then 0 else v

/-- R132 step 2: the code in the output format, and whether it was clamped to a limit. -/
def convertOut (int : Bool) (fmt : Nat) (v scale : BitVec 32) (z : Int) : Nat × Bool :=
  match fmt with
  | 0xE => (v.toNat, false)
  | 0xF => (v.toNat, false)
  | 2 => let q := quant (wordVal int v) (ofF32 scale) z (-128) 127; (low 8 q.1, q.2)
  | 3 => let q := quant (wordVal int v) (ofF32 scale) z (-8) 7; (low 4 q.1, q.2)
  | g => convF g (wordVal int v) v

/-- R157: write an output element of array x at row m, column n. -/
def writeOut (k : Core) (w : Win) (t : Tile) (x m n code : Nat) : Core :=
  match t.fields.fmtOut with
  | 0xE => coreWrLE k w 0 (t.outAddr + 1024 * m + 4 * (128 * x + n)) 4 code
  | 0xF => coreWrLE k w 0 (t.outAddr + 1024 * m + 4 * (128 * x + n)) 4 code
  | 3 =>
    let a := t.outAddr + actOff 4 m (128 * x + n)
    let b := (coreRd k w 0 a).toNat
    coreWr k w 0 a (BitVec.ofNat 8 (if n % 2 = 0 then b / 16 * 16 + code else b % 16 + 16 * code))
  | 7 => coreWrLE k w 0 (t.outAddr + x * (1024 * cdiv t.m 4) + actOff 16 m n) 2 code
  | _ => coreWr k w 0 (t.outAddr + x * (1024 * cdiv t.m 8) + actOff 8 m n) (BitVec.ofNat 8 code)

/-- R134: measure a value: the flag bits seen, and col_max raised. -/
def measure (k : Core) (int : Bool) (x n : Nat) (v : BitVec 32) : Core :=
  let col := 256 * x + n
  let tm := 256 * x + 128
  let fl := 256 * x + 129
  let raise := fun (k : Core) (i : Nat) (a : BitVec 32) =>
    if decide ((statReg k i).toNat < a.toNat) then setStat k i a else k
  if int then
    let a := BitVec.ofNat 32 (min v.toInt.natAbs 2147483647)
    raise (raise k col a) tm a
  else if isNan32 v then setStat k fl (statReg k fl ||| 1)
  else
    let a := v &&& 0x7FFFFFFF
    let k := raise (raise k col a) tm a
    if a = 0x7F800000 then setStat k fl (statReg k fl ||| 2) else k

/-- R134: set the saturated flag. -/
def flagSat (k : Core) (x : Nat) (b : Bool) : Core :=
  if b then setStat k (256 * x + 129) (statReg k (256 * x + 129) ||| 4) else k

/-- R131: does a tile add to the accumulator? -/
def tileAdds (t : Tile) : Bool := decide (t.fields.dest = 1 ∨ t.fields.dest = 2 ∨ t.fields.dest = 5)

/-- R131: does a tile write its outputs to the activation buffer? -/
def tileOuts (t : Tile) : Bool := decide (t.fields.dest = 2 ∨ t.fields.dest = 3)

/-- R131: the accumulator byte address of an output. -/
def drainAddr (w : Win) (t : Tile) (x m n : Nat) : Nat := x * 524288 + winRow w ((t.accRow + m) % 1024) * 512 + 4 * n

/-- R131: the value of an output, accumulated where the tile adds, and whether it saturated. -/
def drainValue (w : Win) (t : Tile) (x m n : Nat) (k : Core) : BitVec 32 × Bool :=
  let raw := mget t.raw (256 * m + 128 * x + n)
  if tileAdds t then accumulate t (BitVec.ofNat 32 (rdLE k.acc (drainAddr w t x m n) 4)) raw else (raw, false)

/-- R131: put a value in the accumulator where the tile writes it. -/
def drainAcc (t : Tile) (addr : Nat) (v : BitVec 32) (k : Core) : Core :=
  if tileAdds t || t.fields.dest == 0 then { k with acc := wrLE k.acc addr 4 v.toNat } else k

/-- R132: the code of an output, and whether it was clamped to a limit. -/
def drainCode (t : Tile) (x n : Nat) (v : BitVec 32) : Nat × Bool :=
  if tileOuts t then
    convertOut t.intResult t.fields.fmtOut (if t.fields.clamp then clampZero t.intResult v else v) (mget t.scales (128 * x + n))
      (mget t.zouts (128 * x + n))
  else (0, false)

/-- R157: write an output where the tile writes its outputs. -/
def drainOut (w : Win) (t : Tile) (x m n code : Nat) (k : Core) : Core := if tileOuts t then writeOut k w t x m n code else k

/-- R139: offer an output to the selection where the tile selects. -/
def drainSelect (t : Tile) (x m n : Nat) (v : BitVec 32) (k : Core) : Core :=
  if t.fields.dest = 4 ∨ t.fields.dest = 5 then
    { k with sel := k.sel.map (fun sel =>
        offerRow sel m (v, (if x = 0 then t.colBaseA else t.colBaseB) + BitVec.ofNat 32 n)) }
  else k

/-- The drain of one output (R131): accumulate, measure, convert and write, select. -/
def drainOne (w : Win) (t : Tile) (x m n : Nat) (d : Drain) : Drain :=
  let v := drainValue w t x m n d.core
  let c := drainCode t x n v.1
  let k := drainOut w t x m n c.1 (measure (drainAcc t (drainAddr w t x m n) v.1 d.core) t.intResult x n v.1)
  { core := drainSelect t x m n v.1 (flagSat (flagSat k x v.2) x c.2), sats := d.sats + b2n v.2 + b2n c.2,
    nan := d.nan || (!t.intResult && isNan32 v.1) }

/-- R137: write the masks of a compare tile. -/
def drainMasks (w : Win) (t : Tile) (k : Core) : Core :=
  let thr := t.fields.imm8 + 1
  each (tileArrays t.fields) (fun x k => iter t.rows (fun m k =>
    let mask := (List.range (tileN t.fields)).foldl (fun a n =>
      if thr ≤ (mget t.raw (256 * m + 128 * x + n)).toNat then a + 2 ^ n else a) 0
    coreWrLE k w 0 (t.outAddr + 32 * m + 16 * x) 16 mask) k) k

/-- R156: rows of a partial final word that the drain writes as zero. -/
def drainPad (w : Win) (t : Tile) (k : Core) : Core :=
  let f := t.fields.fmtOut
  if (t.fields.dest = 2 ∨ t.fields.dest = 3) ∧ (f = 0 ∨ f = 1 ∨ f = 2 ∨ f = 3) then
    each (tileArrays t.fields) (fun x k => iter (8 * cdiv t.rows 8 - t.rows) (fun i k =>
      iter (tileN t.fields) (fun n k => writeOut k w t x (t.rows + i) n 0) k) k) k
  else k

/-- R134: a tile with stat_clear zeroes the registers of its arrays. -/
def clearStats (t : Tile) (k : Core) : Core :=
  if t.fields.statClear then
    each (tileArrays t.fields) (fun x k => iter 130 (fun i k => setStat k (256 * x + i) 0) k) k
  else k

/-- R131 to R137: everything the drains do for a tile. -/
def drainTile (w : Win) (t : Tile) (k : Core) : Drain :=
  let k := clearStats t k
  if isCompare t.mode then { core := drainMasks w t k, sats := 0, nan := false }
  else
    let k := flagSat (flagSat k 0 (decide (0 < t.satA))) 1 (decide (0 < t.satB))
    let d := each (tileArrays t.fields) (fun x d => iter t.rows (fun m d =>
      iter (tileN t.fields) (fun n d => drainOne w t x m n d) d) d) ({ core := k, sats := t.satA + t.satB, nan := false } : Drain)
    { d with core := drainPad w t d.core }

end Sys2Proof.Machine
end

