-- ==== Sys2Proof/Machine/Units.lean ====
section
/-! DEFINITION. The units of a block: what the variant, the fuses and the record leave present (R2, R13, R385, R394), and what is
in service (R415). -/

namespace Sys2Proof.Machine

/-- R2: what a variant has. -/
def variantCores (v : Variant) : Nat := match v with | .jujorL => 64 | .jujorM => 32 | .jujorS => 16
def variantStacks (v : Variant) : Nat := match v with | .jujorL => 20 | .jujorM => 12 | .jujorS => 4

/-- R230: the ports that a variant has: T0 to T47 as 0 to 47, E0 to E11 as 48 to 59. -/
def variantPort (v : Variant) (q : Nat) : Bool :=
  match v with
  | .jujorL => decide (q < 60)
  | .jujorM => decide (q < 48 ∧ q % 8 < 4)
  | .jujorS => false

/-- R394: the fuse shadows; all units present until they are loaded. -/
def shadowOf (s : State) : Fuses := s.start.shadow.getD {}

/-- R385: a clock domain that the record's off mask names: 0 to 7 clusters, 8 to 27 stack groups, then NoC, crimson tier, front
end, translation, control complex, boot, time base, torus half, express half, health, host port, memory ports. -/
def domainOff (s : State) (k : Nat) : Bool := bit s.start.record.domainOff.toNat k

def corePresent (s : State) (c : Nat) : Bool :=
  decide (c < variantCores (variantOf s)) && bit (shadowOf s).coresPresent.toNat c && !domainOff s (c / 8)
def stackPresent (s : State) (t : Nat) : Bool := decide (t < variantStacks (variantOf s)) && bit (shadowOf s).stacksPresent.toNat t && !domainOff s (8 + t)
def portPresent (s : State) (q : Nat) : Bool := variantPort (variantOf s) q && bit (shadowOf s).portsPresent.toNat q && !domainOff s (if q < 48 then 35 else 36)

/-- R13: the direction that a port faces. -/
def portDir (q : Nat) : Nat := if q < 48 then q / 8 else (q - 48) / 2

/-- R415: MF_CORE_OUT. -/
def coreOut (s : State) (c : Nat) : Bool := bit (getF64 s mfOutLo) c

/-- A core in service. -/
def coreActive (s : State) (c : Nat) : Bool := corePresent s c && !coreOut s c

def countBelow (n : Nat) (p : Nat → Bool) : Nat := ((List.range n).filter p).length

/-- The number whose bits below `n` satisfy a property. -/
def maskOf (n : Nat) (p : Nat → Bool) : Nat := ((List.range n).filter p).foldl (fun m i => m + 2 ^ i) 0

/-- R203: the units that attach to the routers of the NoC. -/
inductive NocUnit where
  | core (c : Nat)
  | stackGroup (g : Nat)
  | port (q : Nat)
  | frontEnd
  | translation
  | copyEngines
  | updateEngine
  | control
  deriving DecidableEq, Repr, Inhabited

/-- R203: the router of a unit; router (x, y) has number 16 y + x. -/
def NocUnit.router : NocUnit → Nat
  | .core c => 16 * (4 + c / 8) + (4 + c % 8)
  | .stackGroup g => if g < 10 then 3 + g else 16 * 15 + (g - 7)
  | .port q => if q < 30 then 16 * (q / 2) else 16 * ((q - 30) / 2) + 15
  | .frontEnd => 16 * 15
  | .translation => 16 * 15 + 1
  | .copyEngines => 16 * 15 + 2
  | .updateEngine => 16 * 15 + 13
  | .control => 16 * 15 + 15

def portOf (s : State) (q : Nat) : Port := mget s.links.ports q
def updPort (s : State) (q : Nat) (f : Port → Port) : State := { s with links.ports := mmod s.links.ports q f }

/-- R51, R88: active lanes. -/
def lanesActive (s : State) : Nat := countBelow 20 (stackPresent s) * 128 - (s.emb.lanesOut.filter (fun l => stackPresent s (l / 128))).length

end Sys2Proof.Machine
end

