-- ==== Sys2Proof/Machine/Steps.lean ====
section
/-! DEFINITION. Steps and holders: which context holds a partition (R317 to R325), placing tasks (R149 to R151), how a step
ends, suspends and resumes (R287, R320, R321, R404), slip notices (R219 to R222), changes that await a step boundary (R306). -/

namespace Sys2Proof.Machine

/-! ### Partitions and their parts -/

def runOf (s : State) (p : Nat) : Option StepRun := mfind s.steps.running p
def putRun (s : State) (p : Nat) (r : StepRun) : State := { s with steps.running := mput s.steps.running p r }
def updRun (s : State) (p : Nat) (f : StepRun → StepRun) : State := { s with steps.running := mupd s.steps.running p f }

/-- R150: the cores of a partition, by partition-relative number. -/
def partCores (s : State) (p : Nat) : List Nat := maskList 64 (partOf s p).coreMask.toNat

/-- R150: the core of a partition-relative number, and the number of a core. -/
def coreAt (s : State) (p n : Nat) : Option Nat := (partCores s p)[n]?
def relOf (s : State) (p c : Nat) : Nat := ((partCores s p).filter (fun x => decide (x < c))).length

/-- R303, R415: a lane unit that is marked out or whose stack is lost. -/
def laneUnitOut (s : State) (g : Nat) : Bool := s.emb.laneUnitsOut.contains g || bit s.bound.stackLost.toNat (g / 4)

/-- R179, R303: the lane units of a partition that are in service. -/
def partLus (s : State) (p : Nat) : List Nat := (maskList 80 (partOf s p).luMask.toNat).filter (fun g => !laneUnitOut s g)

/-- Contexts of a partition, rising. -/
def ctxsOf (s : State) (p : Nat) : List Nat :=
  (s.front.ctxs.filter (fun e => e.2.state != .free && e.2.partition == p)).map (·.1)

/-- R320: the suspended step of a context. -/
def suspendedOf (s : State) (p n : Nat) : Option StepRun := (s.steps.suspended.find? (fun e => e.1 == p && e.2.ctx == n)).map (·.2)

/-- R306: no step of the partition runs and none is suspended. -/
def atBoundary (s : State) (p : Nat) : Bool := (runOf s p).isNone && s.steps.suspended.all (fun e => e.1 != p)

/-- Change the submissions. -/
def updSubs (s : State) (f : Submission → Submission) : State := { s with steps.subs := s.steps.subs.map f }
def subOf (s : State) (j : Nat) : Option Submission := s.steps.subs.find? (fun u => u.job == j)
def putSub (s : State) (u : Submission) : State := updSubs s (fun x => if x.job = u.job then u else x)
def dropSub (s : State) (j : Nat) : State := { s with steps.subs := s.steps.subs.filter (fun u => u.job != j) }

/-- R287: a launch of the submission has fallen due. -/
def subDue (s : State) (u : Submission) : Bool := decide (u.index < u.count ∧ u.next ≤ now s)

/-- R317: a context is ready when it has a launch due or a suspended step. -/
def ctxReady (s : State) (p n : Nat) : Bool :=
  (suspendedOf s p n).isSome || s.steps.subs.any (fun u => u.ctx == n && u.part == p && subDue s u)

/-- R205: a write of ownership awaits the partition's boundary: it owns what another is to have, or is to have what no one owns. -/
def ownerPending (p old new : Nat) : Bool := (old == p && new != p) || (new == p && old == 0xFF)

/-- R306: a change awaits a step boundary of the partition. -/
def changePending (s : State) (p : Nat) : Bool :=
  let x := partOf s p
  x.resize.isSome || x.destroyJob.isSome || !x.revokes.isEmpty || x.coresOut != 0 || !x.filterSwap.isEmpty || x.quotaDrop ||
  !x.rewalk.isEmpty ||
  s.emb.tables.any (fun t => t.2.part == p && t.2.unbinding) || s.emb.binds.any (fun t => t.2.part == p) ||
  s.emb.crimson.any (fun c => c.part == p && !c.visible) ||
  s.links.nocNext.any (fun e => ownerPending p (mgetD 0xFF s.links.nocOwn e.1) e.2) ||
  s.links.slotNext.any (fun e => ownerPending p (mgetD 0xFF s.links.slotOwn e.1) e.2)

/-- R309, R261: launches are held while code is copied and while the partition resets. -/
def launchesHeld (s : State) (p : Nat) : Bool :=
  decide (now s < (partOf s p).copyUntil) || (partOf s p).resetUntil.isSome || (partOf s p).state == .failed

/-! ### The holder (R317 to R322) -/

/-- The first multiple of 1,024 ticks at or after a tick. -/
def up1024 (t : Nat) : Nat := cdiv t 1024 * 1024

/-- R318, R322: start a slice of the holder, shortened by its debt. -/
def startSlice (s : State) (p n : Nat) : State :=
  let x := partOf s p
  let full := x.sliceUnits * 1024
  let take := min (ctxOf s n).debt full
  let s := updCtx s n (fun c => { c with debt := c.debt - take })
  addF (updPart s p (fun x => { x with sliceEnd := now s + full - take, sliceOver := false, claimed := false })) qfSlices 1 p

/-- R319: the slice shift of a held launch. -/
def shiftSub (s : State) (u : Submission) : State :=
  let d := up1024 (now s) - u.next
  let s := putSub s { u with next := u.next + d, held := false, shifted := u.shifted + d }
  addF (updCtx s u.ctx (fun c => { c with account.shifts := satAdd (2 ^ 32 - 1) c.account.shifts 1,
                                          account.shiftTicks := (c.account.shiftTicks + d) % 2 ^ 64 })) qfShifts 1 u.part

/-- R319: the held launches of a context shift when it takes the partition. -/
def shiftHeld (s : State) (p n : Nat) : State :=
  each (s.steps.subs.filter (fun u => u.ctx == n && u.part == p && u.held)) (fun u s => shiftSub s u) s

/-- R151: the state of a core at the start of a task; a resumed task takes back what its yield saved (R172). -/
def startTask (s : State) (p : Nat) (r : StepRun) (t : Task) (c : Nat) : State :=
  let k := coreOf s c
  let fresh : Core := { k with task := some t.index, part := p, pc := t.entry, v := [], vseed := s.freeCount,
                               z := false, n := false, late := false, subst := false, fail := false, gWait := [], allocs := 0, waitAt := none,
                               g := mset (mset (mset [] 1 t.argument) 2 (BitVec.ofNat 64 (relOf s p c))) 3 (BitVec.ofNat 64 r.number) }
  let k' := match t.saved with
    | [] => fresh
    | pc :: rest =>
      let fl := (rest.getD 15 0).toNat
      { fresh with pc := pc.toNat, g := (List.range 15).foldl (fun g i => mset g (i + 1) (rest.getD i 0)) [],
                   z := bit fl 0, n := bit fl 1, late := bit fl 2, subst := bit fl 3, fail := bit fl 4,
                   stats := k.stats.filter (fun e => decide (130 ≤ e.1 ∧ e.1 < 256) || decide (386 ≤ e.1)), statLost := some s.freeCount }
  { (putCore s c k') with freeCount := s.freeCount + 1 }

/-- R172, R314: where a context's save record lies on a core: the last 9 instruction slots of its window. -/
def saveAt (w : Win) : Nat := w.base * 16384 + w.count * 16384 - 144

/-- R172, R315: the save record of a task that resumes is moved to its new core. -/
def moveRecord (s : State) (w : Win) (src dst : Nat) : State :=
  if src = dst then s
  else putCore s dst { coreOf s dst with prog := wrBytes (coreOf s dst).prog (saveAt w) (rdBytes (coreOf s src).prog (saveAt w) 136) }

/-- R149: is a core free for a placement? -/
def coreFree (s : State) (c : Nat) : Bool := (coreOf s c).task.isNone

/-- R149: where a task may be placed now. -/
def placeFor (s : State) (p : Nat) (t : Task) : Option Nat :=
  if t.core = 0xFF then (partCores s p).find? (coreFree s)
  else match coreAt s p t.core with
    | none => none
    | some c => if coreFree s c then some c else none

/-- R149: place waiting tasks in table order; one that finds no free core holds back those behind it. -/
def placeGo (fuel : Nat) (s : State) (p : Nat) : State :=
  match fuel with
  | 0 => s
  | k + 1 =>
    match runOf s p with
    | none => s
    | some r =>
      match r.tasks.find? (fun t => t.state == .waiting) with
      | none => s
      | some t =>
        match placeFor s p t with
        | none => s
        | some c =>
          let w := winOf (putCore s c { coreOf s c with part := p }) c
          let s := if t.saved.isEmpty then s else moveRecord s w t.on c
          let s := startTask s p r t c
          placeGo k (updRun s p (fun r => { r with tasks := r.tasks.map (fun x =>
            if x.index = t.index then { x with state := .running, on := c, placedAt := now s } else x) })) p

def placeTasks (s : State) (p : Nat) : State :=
  placeGo (match runOf s p with | some r => r.tasks.length | none => 0) s p

/-- R321: the suspended step of a context resumes; what is still to come moves by the suspension, rounded up. -/
def resumeStep (s : State) (p n : Nat) : State :=
  match suspendedOf s p n with
  | none => s
  | some r =>
    let shift := up1024 (now s - r.suspended.getD (now s))
    let r := { r with base := r.base + shift, suspended := none,
                      features := r.features.map (fun f => if f.ready then f else { f with readyAt := f.readyAt + shift }),
                      tasks := r.tasks.map (fun t => if t.state = .saved then { t with state := .waiting } else t) }
    placeTasks (putRun { s with steps.suspended := s.steps.suspended.filter (fun e => !(e.1 == p && e.2.ctx == n)) } p r) p

/-- R318, R319, R321: a context takes the partition: its slice starts, its suspended step resumes, its held launches shift. -/
def takeHolder (s : State) (p n : Nat) : State :=
  let s := updPart s p (fun x => { x with holder := some n, heldSince := now s })
  shiftHeld (resumeStep (startSlice s p n) p n) p n

/-- R318: the holder releases the partition and is charged for its hold. -/
def releaseHolder (s : State) (p : Nat) : State :=
  match (partOf s p).holder with
  | none => s
  | some n =>
    let hold := now s - (partOf s p).heldSince
    let s := updCtx s n (fun c => { c with vt := c.vt + BitVec.ofNat 64 (hold * (1048576 / max c.share 1)),
                                           account.hold := (c.account.hold + hold) % 2 ^ 64 })
    updPart s p (fun x => { x with holder := none, sliceOver := false })

/-- R318: the ready context with the lowest virtual time; ties to the lower ID. -/
def lowestVt (s : State) (l : List Nat) : Option Nat :=
  l.foldl (fun b n => match b with
    | none => some n
    | some m => if (ctxOf s n).vt.toNat < (ctxOf s m).vt.toNat then some n else some m) none

/-- R318: contexts that may take the partition; while a change awaits a boundary only suspended steps (R306). -/
def holderCands (s : State) (p : Nat) : List Nat :=
  (ctxsOf s p).filter (fun n =>
    (suspendedOf s p n).isSome || (!changePending s p && s.steps.subs.any (fun u => u.ctx == n && u.part == p && subDue s u)))

/-- R323: a group launch has claimed the partition and is still to come. -/
def groupClaimed (s : State) (p : Nat) : Bool :=
  (partOf s p).claimed && s.steps.subs.any (fun u => u.part == p && u.group && u.claimDone)

/-- R318: choose the next holder of a partition that no context holds; one that a group launch has claimed waits for it
(R323, log 18), unless a change awaits the end of suspended steps (R306). -/
def chooseHolder (s : State) (p : Nat) : State :=
  let x := partOf s p
  if x.holder.isSome || (groupClaimed s p && !changePending s p) || launchesHeld s p then s
  else match lowestVt s (holderCands s p) with
    | none => s
    | some n => takeHolder s p n

/-- R318: forget readiness that has passed. -/
def refreshReady (s : State) (p : Nat) : State :=
  each (ctxsOf s p) (fun n s => updCtx s n (fun c => { c with wasReady := c.wasReady && ctxReady s p n })) s

/-- R318: a holder with no step and no submission left releases the partition (log 19). -/
def earlyRelease (s : State) (p : Nat) : State :=
  match (partOf s p).holder with
  | none => s
  | some n =>
    let busy := (suspendedOf s p n).isSome || s.steps.subs.any (fun u => u.ctx == n && u.part == p) ||
      (match runOf s p with | some r => r.ctx == n | none => false)
    if busy then s else releaseHolder s p

/-! ### How a step ends -/

/-- R115, R134, R148: the oldest tile of a core writes its last output. -/
def completeTile (s : State) (c : Nat) : State :=
  let k := coreOf s c
  match k.tiles with
  | [] => s
  | t :: rest =>
    let d := drainTile (winOf s c) t { k with tiles := rest }
    let n := (tileArrays t.fields).length
    let s := telemAdd (addF64 (putCore s c d.core) mfTilesLo n) 2 n
    let s := if d.sats = 0 then s else addF s mfSaturations d.sats
    if d.nan then addF s mfNanTiles else s

def completeTiles (s : State) (c : Nat) : State := iter (coreOf s c).tiles.length (fun _ s => completeTile s c) s

/-- R281, R421: the ticks from a task's placement to its end. -/
def chargeTask (s : State) (p i : Nat) : State :=
  match runOf s p with
  | none => s
  | some r =>
    match r.tasks.find? (fun t => t.index == i) with
    | none => s
    | some t => telemAdd (updRun s p (fun r => { r with engine := r.engine + (now s - t.placedAt) })) 1 (now s - t.placedAt)

/-- The task of a core leaves it, in a new state. -/
def leaveCore (s : State) (p c : Nat) (st : TaskState) (saved : List (BitVec 64)) : State :=
  match (coreOf s c).task with
  | none => s
  | some i =>
    let s := chargeTask s p i
    let s := putCore s c { coreOf s c with task := none, sel := none, gWait := [], allocs := 0, waitAt := none }
    updRun s p (fun r => { r with tasks := r.tasks.map (fun t => if t.index = i then { t with state := st, saved := saved } else t) })

/-- R260 phase 2: sequencers stop, issued tiles complete, selections are abandoned; allocations under way complete and
their results go nowhere. -/
def stopCore (s : State) (p c : Nat) : State :=
  if (coreOf s c).part = p ∧ (coreOf s c).task.isSome then
    let s := leaveCore (completeTiles s c) p c .halted []
    { s with front.slab := s.front.slab.map (fun q => if q.core = c then { q with core := 64 } else q) }
  else s

def stopCores (s : State) (p : Nat) : State := iter 64 (fun c s => stopCore s p c) s

/-- R60: maps that no loaded program defines and no descriptor names, bound or on its way to its boundary, leave the store. -/
def trimMaps (s : State) (p : Nat) : State :=
  let named := fun m => s.steps.programs.any (fun e => e.2.part == p && e.2.maps.contains m) ||
    (s.emb.tables ++ s.emb.binds).any (fun t => t.2.part == p && fieldAt t.2.desc 0x22 2 == m)
  updPart s p (fun x => { x with shardMaps := x.shardMaps.filter (fun e => named e.1) })

/-- R247: a program whose unload was dispatched leaves when no step of it runs or is to launch; with its last program a
context's step stream ends, and its held grey records are discarded (R86, log 27). -/
def unloadDone (s : State) (i : Nat) : State :=
  match mfind s.steps.programs i with
  | none => s
  | some g =>
    let live := s.steps.subs.any (fun u => u.program == i) || s.steps.running.any (fun e => e.2.program == i) ||
      s.steps.suspended.any (fun e => e.2.program == i)
    if g.unloading && !live then
      let s := { s with steps.programs := mdel s.steps.programs i }
      let s := each g.bound (fun o s => unbindObj s o) s
      let s := trimMaps (updPart s g.part (fun x => { x with programs := x.programs.filter (· != i) })) g.part
      let s := if s.steps.programs.any (fun e => e.2.ctx == g.ctx) then s else greyDiscard s g.ctx
      each g.unloadJobs (fun j s => finishJob s j 0) s
    else s

/-- The descriptor of a job. -/
def jobDesc (s : State) (j : Nat) : Desc := match jobOf s j with | some x => x.desc | none => {}

/-- R287: the fence and the command of a step that has ended. -/
def settleStep (s : State) (r : StepRun) (code : Code) : State :=
  let s := telemAdd (updCtx s r.ctx (fun c => { c with account.steps := satAdd (2 ^ 32 - 1) c.account.steps 1 })) 9 1
  let s := updJob s r.job (fun j => { j with slips := j.slips + r.slips, engine := j.engine + r.engine })
  let d := jobDesc s r.job
  let last := match subOf s r.job with | some u => decide (u.count ≤ u.index) | none => true
  if code = 0 then
    let s := if dSignalEn d then fenceSignal s (dSignalFence d) (BitVec.ofNat 64 (dSignalValue d + r.seqNo)) else s
    if last then finishJob (dropSub s r.job) r.job 0 else s
  else
    let s := if dSignalEn d then fenceError s (dSignalFence d) code (dSignalFence d) else s
    finishJob (dropSub s r.job) r.job code

/-- R297: the late_features event of a step that succeeded with late or substituted features, spills or drops (log 20). -/
def lateEvent (s : State) (r : StepRun) : State :=
  let lates := (r.features.filter (fun f => f.lateBit)).length
  let subs := (r.features.filter (fun f => f.substBit)).length
  if lates = 0 ∧ subs = 0 ∧ r.lateCount = 0 ∧ r.greyDrops = 0 then s
  else eventCtx s r.ctx { type := 0x000B, payload := leBytes 8 r.number ++ leBytes 2 lates ++ leBytes 2 subs ++ leBytes 4 0 ++
                                                    leBytes 4 r.lateCount ++ leBytes 4 r.greyDrops }

/-- R328, R329: the calibration and the slowdown window of a step's program. -/
def slowdown (s : State) (p : Nat) (r : StepRun) (code : Code) (overrun : Nat) : State :=
  let c := ctxOf s r.ctx
  let wants := c.calibWanted.contains r.program && r.preempts == 0 && r.shiftTicks == 0 && code == 0
  match mfind c.calib r.program with
  | none =>
    if wants then updCtx s r.ctx (fun c => { c with calib := mput c.calib r.program (now s - r.launch),
                                                    calibWanted := c.calibWanted.filter (· != r.program) })
    else s
  | some k =>
    let x := min 65535 ((now s - r.due) * 1000 / max k 1)
    let w := mget c.windows r.program
    let w : SlowWindow := { count := w.count + 1, sum := w.sum + x, largest := max w.largest x, preempts := w.preempts + r.preempts,
                            slips := w.slips + r.slips, shiftTicks := w.shiftTicks + r.shiftTicks, overrun := w.overrun + overrun }
    let s := if wants then updCtx s r.ctx (fun c => { c with calib := mput c.calib r.program (now s - r.launch),
                                                             calibWanted := c.calibWanted.filter (· != r.program) }) else s
    if w.count < 16 then updCtx s r.ctx (fun c => { c with windows := mset c.windows r.program w })
    else
      let s := updCtx s r.ctx (fun c => { c with windows := mdel c.windows r.program })
      if 1000 < (partOf s p).slowThr ∧ w.sum / 16 < (partOf s p).slowThr then s
      else eventCtx s r.ctx { type := 0x000E, payload := leBytes 4 r.program ++ leBytes 4 k ++ leBytes 2 (w.sum / 16) ++ leBytes 2 w.largest ++
                                                        leBytes 2 w.preempts ++ leBytes 2 w.slips ++ leBytes 8 w.shiftTicks ++ leBytes 8 w.overrun }

/-- R322: a step that ran to its end past its slice's: the overrun. -/
def chargeOverrun (s : State) (p n extra : Nat) : State :=
  let s := updCtx s n (fun c => { c with debt := c.debt + extra, account.overrun := (c.account.overrun + extra) % 2 ^ 64 })
  addF (addF s qfOverruns 1 p) qfOverrunTicks extra p

/-- R322, R323: what the end of the holder's step does to the hold: where its slice has ended or a group claim has asked for
the partition, the holder releases it, and the ticks past the slice are an overrun. -/
def endHold (s : State) (p n : Nat) : Nat × State :=
  let x := partOf s p
  if x.holder = some n ∧ (x.claimed ∨ x.sliceOver) then
    let extra := now s - x.sliceEnd
    (extra, releaseHolder (if x.sliceOver ∨ x.sliceEnd < now s then chargeOverrun s p n extra else s) p)
  else (0, s)

/-- R287, R404: the running step of a partition ends with a code. -/
def stepEnd (s : State) (p : Nat) (code : Code) : State :=
  match runOf s p with
  | none => s
  | some _ =>
    let s := stopCores s p
    match runOf s p with
    | none => s
    | some r =>
      let s := { s with steps.running := mdel s.steps.running p }
      let s := greyStepEnd (settleStep s r code) r
      let s := if code = 0 then lateEvent s r else s
      let s := updPart s p (fun x => { x with lastRun := now s - r.base })
      let (extra, s) := endHold s p r.ctx
      let s := unloadDone (slowdown s p r code extra) r.program
      chooseHolder (earlyRelease (refreshReady s p) p) p

/-- R226: a block that does not run its section of a group step tells the group. -/
def abandon (s : State) (p number : Nat) (code : Code) : State :=
  match (partOf s p).group with
  | none => s
  | some g => ctlSend s 9 g.number number (code.toNat + g.index * 65536) 0

/-- R404, R290: the running step ends with a code, and a group's peers are told. -/
def stepFail (s : State) (p : Nat) (code : Code) : State :=
  match runOf s p with
  | none => s
  | some r => stepEnd (if r.group then abandon s p r.number code else s) p code

/-- Is a delivery of the step pending (R320, log 21)? -/
def deliveryPending (r : StepRun) : Bool :=
  r.streams.any (fun t => !t.sends.isEmpty || !t.landing.isEmpty || (t.kind == 1 && !t.arms.isEmpty))

/-- A step ends when its tasks have halted, its features are ready and no delivery is pending (log 21). -/
def stepProgress (s : State) (p : Nat) : State :=
  match runOf s p with
  | none => s
  | some r =>
    if r.tasks.all (fun t => t.state == .halted) && r.features.all (fun f => f.ready) && !deliveryPending r then stepEnd s p 0 else s

/-- R177: the quantum and the slip limit of a loaded program. -/
def progQuantum (s : State) (i : Nat) : Nat := match mfind s.steps.programs i with | some g => imgQuantum g.image | none => 1024

/-- R219: a slip notice of this block. A notice with the t_eff of one held is the same slip (R222). -/
def issueSlip (s : State) (p : Nat) (n : SlipNotice) : State :=
  let x := partOf s p
  if x.slips.any (fun m => m.tEff == n.tEff && m.group == n.group) then s
  else
    let s := updPart s p (fun x => { x with slips := x.slips ++ [n] })
    match x.group with
    | some g => if n.group then ctlSend s 7 g.number n.tEff n.step (n.origin + n.cause * 65536) else s
    | none => s

/-- R218: the lead of a step or launch. -/
def leadOf (s : State) (p : Nat) (group : Bool) : Nat := if group then groupLead s p else 0

/-- This block's group-relative number. -/
def blockIndex (s : State) (p : Nat) : Nat := match (partOf s p).group with | some g => g.index | none => 0

end Sys2Proof.Machine
end

