-- ==== Sys2Proof/Machine/Tables.lean ====
section
/-! DEFINITION. Epoch groups as the table descriptors show them (R89, R90), and the release of a table (R56). -/

namespace Sys2Proof.Machine

def groupOf (s : State) (g : Nat) : EpochGroup := mget s.upd.groups g

/-- R90: the epoch_state word of a table. -/
def epochWord (g : EpochGroup) (busy : Bool) : Nat :=
  g.active % 2 ^ 32 + b2n g.retained * 2 ^ 32 +
  (match g.staging with | .closed => 0 | .opened => 1 | .sealed => 2) * 2 ^ 33 + b2n busy * 2 ^ 35 + b2n g.armed.isSome * 2 ^ 36

/-- R53: EE_TABLE_BASE. -/
def tableBase (s : State) : Nat := getF s eeBaseLo * 2 ^ 22 + getF s eeBaseHi * 2 ^ 32

/-- R53, R90: put a table, its descriptor written through with the group's epoch state. -/
def putTable (s : State) (t : Nat) (x : Table) : State :=
  let d := putAt x.desc 0x30 (leBytes 8 (epochWord (groupOf s (tdGroup x.desc)) x.busy))
  { s with emb.tables := mput s.emb.tables t { x with desc := d }, mem.hbm := wrBytes s.mem.hbm (tableBase s + 64 * t) d }

/-- R90: put a group; the descriptors of its tables show it. -/
def putGroup (s : State) (g : Nat) (x : EpochGroup) : State :=
  let s := { s with upd.groups := mset s.upd.groups g x }
  each (s.emb.tables.filter (fun e => tdGroup e.2.desc == g)) (fun e s => putTable s e.1 e.2) s

def updGroup (s : State) (g : Nat) (f : EpochGroup → EpochGroup) : State := putGroup s g (f (groupOf s g))

/-- R89: a group whose last table is unbound ends; seals and flips that wait on it fail (log 26). -/
def endGroup (s : State) (g : Nat) : State :=
  let x := groupOf s g
  if x.valid && !s.emb.tables.any (fun e => tdGroup e.2.desc == g) then
    let s := each (x.sealJobs ++ x.flipJobs) (fun j s => finishJob s j 0x0A06) s
    { s with upd.groups := mdel s.upd.groups g }
  else s

/-- R351: release page-map entries. -/
def freePmap (s : State) (l : List Nat) : State := each l (fun i s => { s with emb.pmap := mdel s.emb.pmap i }) s

/-- R75: the crimson entries that satisfy a condition leave the tier. -/
def removeCrimson (s : State) (f : Crimson → Bool) : State := { s with emb.crimson := s.emb.crimson.filter (fun c => !f c) }

/-- R76: the entries that satisfy a condition are invalidated: no copy of them is installed in the same tick. -/
def dropCrimson (s : State) (f : Crimson → Bool) : State :=
  removeCrimson { s with emb.invalidated := s.emb.invalidated ++ (s.emb.crimson.filter f).map (fun c => (c.table, c.row, c.epoch)) } f

/-- R56, R260: a table leaves the descriptor table. -/
def releaseTable (s : State) (t : Nat) : State :=
  match tableOf s t with
  | none => s
  | some x =>
    let s := freePmap s x.pages
    let s := { s with emb.tables := mdel s.emb.tables t, mem.hbm := wrBytes s.mem.hbm (tableBase s + 64 * t) (leBytes 64 0),
                      upd.catchup := s.upd.catchup.filter (· != t), emb.promos := s.emb.promos.filter (fun q => q.table != t) }
    let s := dropCrimson s (fun c => c.table == t)
    let s := unbindObj s x.obj
    let s := each x.unbindJobs (fun j s => finishJob s j 0) s
    trimMaps (endGroup s (tdGroup x.desc)) x.part

end Sys2Proof.Machine
end

