-- ==== Sys2Proof/Machine/Arena.lean ====
section
/-! DEFINITION. Arenas: the buddy rules (R257, R259), and what serving a request of the slab unit does (R170, R257, R259, R270). -/

namespace Sys2Proof.Machine

/-- R257: the first free block of order `j` in page order, then address order. -/
def firstBlock (arena : List ArenaPage) (j : Nat) : Option (Nat × Nat) :=
  (firstBelow arena.length (fun i => ((arena.getD i default).free.any (fun b => b.1 == j)))).map (fun i =>
    let l := ((arena.getD i default).free.filter (fun b => b.1 == j)).map (·.2)
    (i, l.foldl min (l.headD 0)))

/-- R257: the smallest order that has a block. -/
def findBlock (arena : List ArenaPage) (k : Nat) : Option (Nat × Nat × Nat) :=
  match firstBelow 26 (fun j => decide (k ≤ j) && (firstBlock arena j).isSome) with
  | none => none
  | some j => (firstBlock arena j).map (fun x => (j, x.1, x.2))

/-- R257: split a block of order `j` down to `k`, keeping the lower half. -/
def splitTo (k j off : Nat) (free : List (Nat × Nat)) : List (Nat × Nat) :=
  iter (j - k) (fun i l => (j - i - 1, off + 2 ^ (j - i - 1)) :: l) (free.filter (· != (j, off)))

/-- R257: allocate from an arena: the block's device address. -/
def buddyAlloc (arena : List ArenaPage) (k : Nat) : Option (Nat × List ArenaPage) :=
  (findBlock arena k).map (fun x =>
    let (j, i, off) := x
    let p := arena.getD i default
    (p.va.toNat + off, arena.set i { p with free := splitTo k j off p.free, used := (k, off) :: p.used }))

/-- R257: return a block and merge it with its buddy, repeatedly. -/
def mergeBlock (fuel k off : Nat) (free : List (Nat × Nat)) : List (Nat × Nat) :=
  match fuel with
  | 0 => (k, off) :: free
  | n + 1 =>
    let b := off ^^^ 2 ^ k
    if k < 25 ∧ (k, b) ∈ free then mergeBlock n (k + 1) (min off b) (free.filter (· != (k, b))) else (k, off) :: free

/-- R257, R259: free an outstanding block by its address. -/
def buddyFree (arena : List ArenaPage) (addr : Nat) : Option (List ArenaPage) :=
  match firstBelow arena.length (fun i => let p := arena.getD i default; p.used.any (fun b => p.va.toNat + b.2 == addr)) with
  | none => none
  | some i =>
    let p := arena.getD i default
    match p.used.find? (fun b => p.va.toNat + b.2 == addr) with
    | none => none
    | some b => some (arena.set i { p with free := mergeBlock 14 b.1 b.2 p.free, used := p.used.filter (· != b) })

/-- R170: a core's request has been served: its g register, where it has one, and its outstanding count. -/
def slabReturn (s : State) (q : SlabReq) (v : BitVec 64) (none' : Bool) : State :=
  if q.core < 64 then
    let k := coreOf s q.core
    let k := { k with allocs := k.allocs - 1, gWait := if q.isAlloc then k.gWait.erase q.dest else k.gWait }
    let k := if q.isAlloc then setG k q.dest v else k
    putCore s q.core (if none' then failFlag k else k)
  else s

/-- R257, R259, R270: serve a request. -/
def serveSlab (s : State) (q : SlabReq) : State :=
  let c := ctxOf s q.ctx
  if q.isAlloc then
    match buddyAlloc c.arena q.order with
    | some (a, arena) => slabReturn (addF (updCtx s q.ctx (fun c => { c with arena := arena })) mpAllocs) q (BitVec.ofNat 64 a) false
    | none =>
      let s := addF s mpFails
      if q.must ∧ q.core < 64 then stepFail (slabReturn s q 0 false) q.part 0x0304 else slabReturn s q 0 true
  else
    let s := addF s mpFrees
    match buddyFree c.arena q.addr.toNat with
    | some arena => slabReturn (updCtx s q.ctx (fun c => { c with arena := arena })) q 0 false
    | none => if q.core < 64 then stepFail (slabReturn s q 0 false) q.part 0x0305 else s

end Sys2Proof.Machine
end

