-- ==== Sys2Proof/Machine/Abort.lean ====
section
/-! DEFINITION. Job faults (R236), forced abort (R260 to R262) and the release of a context. -/

namespace Sys2Proof.Machine

/-! ### Forced abort -/

/-- R260 phase 1: fetched commands are dropped and the holding ring is discarded. -/
def abortFetch (s : State) (n : Nat) : State :=
  updCtx s n (fun c => { c with holding := [], sq := c.sq.map (fun q => (q.1, { q.2 with fetched := [], buffer := none })) })

/-- R260 phases 2 to 4, R325: the context's steps end; its submissions are dropped; it leaves the partition. -/
def abortSteps (s : State) (n : Nat) (code : Code) : State :=
  let p := (ctxOf s n).partition
  let mine := s.steps.suspended.filter (fun e => e.2.ctx == n)
  let s := { s with steps.suspended := s.steps.suspended.filter (fun e => e.2.ctx != n), steps.subs := s.steps.subs.filter (fun u => u.ctx != n) }
  let s := each mine (fun e s => greyStepEnd (settleStep s e.2 code) e.2) s
  let s := updPart s p (fun x => { x with slips := x.slips.filter (fun m => m.job.isNone) })
  let s := match runOf s p with
    | some r => if r.ctx = n then stepFail s p code else s
    | none => s
  let s := greyDiscard s n
  chooseHolder (if (partOf s p).holder = some n then releaseHolder s p else s) p

/-- R359: a command's engine leaves its page request; the request is withdrawn when no engine remains. -/
def detachPage (s : State) (j : Nat) : State :=
  { s with trans.preqs := (s.trans.preqs.map (fun e => (e.1, { e.2 with jobs := e.2.jobs.filter (· != j) }))).filter (fun e => !e.2.jobs.isEmpty) }

/-- R260 phase 5: transfers are squashed, page requests withdrawn, update records not yet applied discarded. -/
def abortCopies (s : State) (n : Nat) (code : Code) : State :=
  let mine := (s.front.jobs.filter (fun e => e.2.ctx == n && !e.2.admin && e.2.status != .done)).map (·.1)
  let s := each mine (fun j s => detachPage (finishJob s j code) j) s
  { s with upd.held := s.upd.held.filter (fun r => r.ctx != n),
           front.executing := match s.front.executing with | some j => if j ∈ mine then none else some j | none => none }

/-- R260 phase 2: the allocations and frees under way complete; their results go nowhere. -/
def finishSlab (s : State) (n : Nat) : State :=
  let mine := s.front.slab.filter (fun q => q.ctx == n)
  each mine (fun q s => serveSlab s { q with core := 64 }) { s with front.slab := s.front.slab.filter (fun q => q.ctx != n) }

/-- R236, R260: binds that await their boundary are undone, and unbinds that await it are forgotten. -/
def dropBinds (s : State) (n : Nat) : State :=
  let s := each (s.emb.binds.filter (fun e => e.2.ctx == n)) (fun e s => unbindObj (freePmap s e.2.pages) e.2.obj) s
  { s with emb.binds := s.emb.binds.filter (fun e => e.2.ctx != n),
           emb.tables := s.emb.tables.map (fun e => if e.2.ctx = n then (e.1, { e.2 with unbinding := false, unbindJobs := [] }) else e) }

/-- R260 phase 6: the arena, update streams, codebook units and step programs; with `all`, the table descriptors and epoch
groups too, which a job fault leaves allocated (R236). -/
def abortUnbind (s : State) (n : Nat) (code : Code) (all : Bool) : State :=
  let s := dropBinds (finishSlab s n) n
  let objs := (ctxOf s n).arena.foldl (fun l a => if a.obj ∈ l then l else l ++ [a.obj]) []
  let s := each objs (fun o s => unbindObj s o) (updCtx s n (fun c => { c with arena := [] }))
  let s := { s with upd.streams := s.upd.streams.filter (fun e => e.2.ctx != n),
                    emb.cbLoaded := (s.emb.cbOwner.filter (fun e => e.2 == n)).foldl (fun m e => m &&& ~~~(1#64 <<< e.1)) s.emb.cbLoaded,
                    emb.cbOwner := s.emb.cbOwner.filter (fun e => e.2 != n) }
  let groups := (s.upd.groups.filter (fun e => e.2.ctx == n && e.2.valid)).map (·.1)
  let s := each groups (fun g s =>
    let x := groupOf s g
    let s := each (x.sealJobs ++ x.flipJobs) (fun j s => finishJob s j code) s
    putGroup s g { x with armed := none, announced := none, flipJobs := [], sealJobs := [] }) s
  let s := if all then each ((s.emb.tables.filter (fun e => e.2.ctx == n)).map (·.1)) (fun t s => releaseTable s t) s else s
  let progs := (s.steps.programs.filter (fun e => e.2.ctx == n)).map (·.1)
  each progs (fun i s => unloadDone { s with steps.programs := mupd s.steps.programs i (fun g => { g with unloading := true }) } i) s

/-- R260: the abort's place in a tick: what retires in its first tick is treated as retired before it. -/
def reqAbort : Nat := 65536

/-- R260 phase 7: every owned fence enters error. -/
def abortFences (s : State) (n : Nat) (code : Code) (free : Bool) : State :=
  let mine := (s.front.fences.filter (fun e => e.2.ctx == n && e.2.state != .free)).map (·.1)
  each mine (fun i s =>
    let s := fenceError s i code i reqAbort
    if free then putFence s i { fenceOf s i with destroying := true } else s) s

/-- R260 phase 8: every memory object is freed under R244. -/
def abortObjects (s : State) (n : Nat) : State :=
  let mine := (s.front.objs.filter (fun e => e.2.ctx == n && e.2.allocated)).map (·.1)
  each mine (fun i s =>
    let o := objOf s i
    let o := if o.freed then o else { o with freed := true, gen := o.gen + 1 }
    let s := putObj s i o
    if o.refs = 0 then releaseObj s i else s) s

/-- R236: a job fault of a context; one that is destroying or faulted keeps its state (R262). -/
def ctxFault (s : State) (n : Nat) (code : Code) : State :=
  let c := ctxOf s n
  if c.state = .active ∨ c.state = .broken then
    let s := updCtx s n (fun c => { c with state := .faulted, fault := code })
    let e : Event := { type := 5, code := code }
    let s := eventCtx (eventAdm s n e) n e
    abortFences (abortUnbind (abortCopies (abortSteps (abortFetch s n) n 0x0803) n 0x0803) n 0x0803 false) n 0x0803 false
  else s

/-- R353: a walk that fails for an engine of a context: a record of kind 3, and a job fault. The step that a partition runs
for it ends with the walk's code first (R236). -/
def xlateFault (s : State) (requester n va : Nat) (write : Bool) (code : Code) : State :=
  let c := ctxOf s n
  let w := walk s c.pasid c.partition va write
  let s := addF (fqPost s { kind := 3, stage := if w.code = code then w.stage else 0, code := code, pasid := c.pasid, ctx := n, va := va,
                              ipa := if w.code = code ∧ w.stage = 2 then w.ipa else 0, requester := requester, write := write }) tuCtxFaults
  let s := match runOf s c.partition with
    | some r => if r.ctx = n then stepFail s c.partition code else s
    | none => s
  ctxFault s n code

/-- R353: the context faults that the grey lane's walks have left due. -/
def greyFaultsDue (s : State) : State :=
  let l := s.emb.greyFaults
  each l (fun e s => xlateFault s reqGrey e.1 e.2.1 true e.2.2) { s with emb.greyFaults := [] }

/-- R260: the forced abort of a context, with the code of its cause. -/
def forceAbort (s : State) (n : Nat) (code : Code) (job : Option Nat) : State :=
  let s := updCtx s n (fun c => { c with state := .destroying, abort := some { code := code, since := now s, job := job } })
  abortObjects (abortFences (abortUnbind (abortCopies (abortSteps (abortFetch s n) n code) n code) n code true) n code true) n

/-- R260 phase 8: has every reference of a destroyed context dropped? -/
def ctxReleased (s : State) (n : Nat) : Bool :=
  !s.front.objs.any (fun e => e.2.ctx == n && e.2.allocated) && !s.front.fences.any (fun e => e.2.ctx == n && e.2.state != .free) &&
  !s.front.jobs.any (fun e => e.2.ctx == n && !e.2.admin)

end Sys2Proof.Machine
end

