-- ==== Sys2Proof/Machine/Crc.lean ====
section
/-! DEFINITION. The cyclic redundancy checks of R409 (CRC-64) and R211 (CRC-32C). -/

namespace Sys2Proof.Machine

/-- R409: one bit, most significant first. -/
def crc64Bit (poly c : BitVec 64) : BitVec 64 := if c.msb then (c <<< 1) ^^^ poly else c <<< 1

/-- R409: one byte. -/
def crc64Byte (poly c : BitVec 64) (b : Byte) : BitVec 64 :=
  iter 8 (fun _ c => crc64Bit poly c) (c ^^^ (b.setWidth 64 <<< 56))

/-- R409: unreflected, initial value and final XOR all ones. -/
def crc64 (poly : BitVec 64) (bs : List Byte) : BitVec 64 := (bs.foldl (crc64Byte poly) (BitVec.allOnes 64)) ^^^ BitVec.allOnes 64

/-- R409: CRC A and CRC B. -/
def crcA (bs : List Byte) : BitVec 64 := crc64 0x42F0E1EBA9EA3693 bs
def crcB (bs : List Byte) : BitVec 64 := crc64 0xAD93D23594C935A9 bs

/-- CRC-32C of the Castagnoli polynomial, reflected, initial value and final XOR all ones (PRESUMED, log 24). -/
def crc32cBit (c : BitVec 32) : BitVec 32 := if c.getLsbD 0 then (c >>> 1) ^^^ 0x82F63B78 else c >>> 1
def crc32cByte (c : BitVec 32) (b : Byte) : BitVec 32 := iter 8 (fun _ c => crc32cBit c) (c ^^^ b.setWidth 32)
def crc32c (bs : List Byte) : BitVec 32 := (bs.foldl crc32cByte (BitVec.allOnes 32)) ^^^ BitVec.allOnes 32

end Sys2Proof.Machine
end

