-- ==== Sys2Proof/Machine/Fabric.lean ====
section
/-! DEFINITION. Coordinates (R211, R217), flits (R211), the route and the sending of best-effort packets (R214). -/

namespace Sys2Proof.Machine

/-- R211: packed coordinates. -/
def packCoord (c : Coord) : Nat := c.x % 64 + c.y % 32 * 64 + c.z % 32 * 2048
def unpackCoord (v : Nat) : Coord := { x := bits v 0 6, y := bits v 6 5, z := bits v 11 5 }

/-- R312: the coordinates of a group-relative block. -/
def blockCoord (s : State) (p j : Nat) : Option Coord :=
  match (partOf s p).group with
  | none => none
  | some g => g.blocks[j]?

/-- R312: the group-relative number of a block. -/
def blockOf (s : State) (p : Nat) (c : Coord) : Option Nat :=
  match (partOf s p).group with
  | none => none
  | some g => firstBelow g.blocks.length (fun i => g.blocks[i]? == some c)

/-- R214: a flow's key. -/
def flowKey (c : Coord) (kind flow : Nat) : Nat := packCoord c * 65536 + kind % 256 * 256 + flow % 256

/-- R211: a flit: its header, payload and CRC. -/
def flit (w0 w1 w2 : Nat) (payload : List Byte) : List Byte :=
  let h := leBytes 4 w0 ++ leBytes 4 w1 ++ leBytes 4 w2
  let d := (payload ++ List.replicate 240 0).take 240
  h ++ leBytes 4 (crc32c (h ++ d)).toNat ++ d

/-- R210: the slot that starts at a tick of its frame; at tick 1,023, where none starts, the first of the next frame. -/
def slotAt (tick : Nat) : Nat := cdiv (35 * (tick % 1024)) 64 % 560

/-- R210: does a slot start at a tick? -/
def slotStarts (tick : Nat) : Bool := decide (slotTick 1 (slotAt tick) = tick % 1024)

/-- R28, R211: a flit is good: 256 bytes and a good CRC, and the PCS has marked neither of its words uncorrectable. -/
def flitGood (fec : RxMark) (bs : List Byte) : Bool :=
  fec.word0 != 2 && fec.word1 != 2 && bs.length == 256 && (crc32c (bs.take 12 ++ bs.drop 16)).toNat == fieldAt bs 12 4

/-- R230: the words of a flit that were lost: those that the PCS marked, or both where the CRC alone fails (log 158). -/
def lostWords (fec : RxMark) (good : Bool) : Nat :=
  if good then 0 else if fec.word0 = 2 ∨ fec.word1 = 2 then b2n (fec.word0 == 2) + b2n (fec.word1 == 2) else 2

/-- R28, R230, R421: the symbols that the PCS corrected in a flit's words, and the words that were lost. -/
def countFec (s : State) (q : Nat) (fec : RxMark) (good : Bool) : State :=
  let s := if fec.symbols = 0 then s else telemAdd (addF s lkFecCorrected fec.symbols q) 18 fec.symbols
  let n := lostWords fec good
  if n = 0 then s else telemAdd (addF s lkFecUncorrectable n q) 19 n

/-! ### Routes (R214, R217) -/

/-- R214: the direction and remaining distance of a dimension: the shorter way round the ring, upward on a tie. -/
def dimStep (n d a b : Nat) : Option (Nat × Nat) :=
  let up := (b + n - a % n) % n
  if up = 0 then none else if up ≤ n - up then some (2 * d, up) else some (2 * d + 1, n - up)

/-- R214: the directions still to go, X first. -/
def wayTo (s : State) (dst : Coord) : List (Nat × Nat) :=
  let c := s.start.record.coord
  let e := s.start.record.extent
  [dimStep (max 1 e.x) 0 c.x dst.x, dimStep (max 1 e.y) 1 c.y dst.y, dimStep (max 1 e.z) 2 c.z dst.z].filterMap id

/-- R217: ports of a direction that are up, express or torus. -/
def dirUp (s : State) (express : Bool) (d : Nat) : List Nat :=
  let l := if express then [48 + 2 * d, 49 + 2 * d] else (List.range 8).map (fun i => 8 * d + i)
  l.filter (fun q => (mget s.links.ports q).up)

/-- R214: the next port of a packet: express while the remaining distance exceeds s/2, else torus; another up port of the
direction where those are out; the next dimension where the whole direction is out. -/
def routePort (s : State) (dst : Coord) : Option Nat :=
  (wayTo s dst).findSome? (fun w =>
    let far := decide (s.start.record.skip < 2 * w.2)
    (dirUp s far w.1 ++ dirUp s (!far) w.1).head?)

/-! ### Sending (R214) -/

/-- R192, R208, R212, R213: put a timed flit on a port for the slot at tick `t`; a port that is not up, or is over budget, carries
none. -/
def putTimed (s : State) (q t : Nat) (f : List Byte) : State :=
  let x := portOf s q
  if x.up && !x.overBudget then
    telemAdd (updPort { s with links.flitsOut := s.links.flitsOut ++ [(q, f)] } q (fun x => { x with txBusy := x.txBusy ++ [t] })) 7 1
  else s

/-- R214: the 16-byte packet header and the payload. -/
def packetBytes (p : BePacket) : List Byte :=
  leBytes 4 (packCoord p.src + packCoord p.dst * 65536) ++ leBytes 4 (p.kind % 256 + p.flow % 256 * 256 + p.flits % 65536 * 65536) ++
  leBytes 4 p.seq ++ leBytes 4 0 ++ p.data

/-- R211: a best-effort flit of a port in the slot that starts now: link sequence, the NAK flag and the last sequence accepted on
the port. -/
def beFlit (s : State) (q : Nat) (f : BeFlit) : List Byte :=
  let x := portOf s q
  flit (1 + b2n f.last * 16 + slotAt (now s) * 32 + now s / 1024 % 64 * 32768) (f.dst % 65536 + f.seq % 4096 * 65536 + b2n x.nak * 2 ^ 28)
    ((x.rxSeq + 4095) % 4096) f.data

/-- R214: put a packet's flits in the retry buffer of the port of its route, from where free slots take them (R210); it waits where
no port leads on or the buffer is full. -/
def emitPacket (s : State) (p : BePacket) : State × BePacket :=
  match routePort s p.dst with
  | none => (s, { p with via := none })
  | some q =>
    let x := mget s.links.ports q
    if 256 < x.retry.length + p.flits then (s, { p with via := none })
    else
      let bs := packetBytes p
      let fl := (List.range p.flits).map (fun i =>
        ({ seq := (x.txSeq + i) % 4096, dst := packCoord p.dst, last := i + 1 == p.flits, data := (bs.drop (240 * i)).take 240 } : BeFlit))
      let s := { s with links.ports := mset s.links.ports q { x with txSeq := (x.txSeq + p.flits) % 4096, retry := x.retry ++ fl } }
      (s, { p with via := some (q, (x.txSeq + p.flits + 4095) % 4096) })

/-- R214: send or route onward: the packet is held until its flits are acknowledged. -/
def beRoute (s : State) (p : BePacket) : State :=
  let x := emitPacket s p
  { x.1 with links.beOut := x.1.links.beOut ++ [x.2] }

/-- R214: packets that wait for a port, or whose port satisfies a condition, are put on their way again. -/
def beAgain (s : State) (redo : Nat → Bool) : State :=
  let l := s.links.beOut
  each l (fun p s => match p.via with
    | some (q, _) => if redo q then beRoute s p else { s with links.beOut := s.links.beOut ++ [p] }
    | none => beRoute s p) { s with links.beOut := [] }

/-- R214: send a best-effort packet. -/
def beSend (s : State) (dst : Coord) (kind flow ctx : Nat) (data : List Byte) : State :=
  let k := flowKey dst kind flow
  let q := mget s.links.flowTx k
  beRoute { s with links.flowTx := mset s.links.flowTx k ((q + 1) % 2 ^ 32) }
    { src := s.start.record.coord, dst := dst, kind := kind, flow := flow, flits := cdiv (16 + data.length) 240, seq := q, data := data,
      born := now s, ctx := ctx }

end Sys2Proof.Machine
end

