-- ==== Sys2Proof/Machine/CoreDecode.lean ====
section
/-! DEFINITION. The 128-bit core instructions of R159 to R173: from a word of program memory to the command that
executes it, or none for a reserved class, operation, field value or bit (R154). -/

namespace Sys2Proof.Machine

/-- R161: the fields of a tile instruction. -/
def tileFieldsOf (w : Nat) : TileFields :=
  { arrays := bits w 13 2, fmtA := bits w 15 4, fmtW := bits w 19 4, fmtOut := bits w 23 4, dest := bits w 27 3,
    asym := bit w 30, clamp := bit w 31, statClear := bit w 32, mBlk := bits w 33 12, kAct := bits w 45 8,
    nAct := bits w 53 7, actAddr := bits w 60 15, wAddr := bits w 75 12, accRow := bits w 87 10, outAddr := bits w 97 15,
    xg := bits w 112 4, imm8 := bits w 116 8, ab := bits w 124 4 }

/-- R165: the fields of a vector instruction. -/
def vecFieldsOf (w : Nat) : VecFields :=
  { vd := bits w 13 5, va := bits w 18 5, vb := bits w 23 5, vc := bits w 28 5, fmt := bits w 33 4, tiled := bit w 37,
    acc := bit w 38, addr := bits w 39 15, ab := bits w 54 4, ga := bits w 58 4, imm32 := BitVec.ofNat 32 (bits w 62 32) }

/-- R160: control instructions. -/
def decodeControl (c w : Nat) : Option Instr :=
  let dw := bit w 12
  let d := bits w 13 4
  let a := bits w 17 4
  let b := bits w 21 4
  let target := bits w 32 14
  let imm := BitVec.ofNat 64 (bits w 64 64)
  if bits w 28 4 ≠ 0 ∨ bits w 46 18 ≠ 0 then none
  else match bits w 4 8 with
    | 0x00 => some (.controlNop c dw)
    | 0x01 => some (.li c dw d imm)
    | 0x02 => some (.addi c dw d a imm)
    | 0x03 => some (.add c dw d a b)
    | 0x04 => some (.sub c dw d a b)
    | 0x05 => some (.cmp c dw a b)
    | 0x06 => some (.br c dw (bits w 25 3) target)
    | 0x07 => some (.loop c dw a target)
    | 0x08 => some (.sync c dw)
    | 0x09 => some (.twait c dw imm)
    | 0x0A => some (.rdtick c dw d)
    | 0x0B => some (.halt c dw)
    | _ => none

/-- R161: tile instructions. -/
def decodeTile (c w : Nat) : Option Instr :=
  let dw := bit w 12
  let f := tileFieldsOf w
  if f.arrays = 0 ∨ 5 < f.dest ∨ 0xD < f.fmtA ∨ 0xD < f.fmtW then none
  else match bits w 4 8 with
    | 0x00 => some (.tileMatrix c dw f .good)
    | 0x01 => some (.tileL1 c dw f .good)
    | 0x02 => some (.tileL2 c dw f .good)
    | 0x03 => some (.tileDot c dw f .good)
    | 0x04 => some (.tileHamming c dw f .good)
    | 0x05 => some (.tileMaxPlus c dw f .good)
    | 0x06 => some (.tileMinPlus c dw f .good)
    | 0x07 => some (.tileConvolution c dw f .good)
    | 0x08 => some (.tileEq c dw f .good)
    | 0x09 => some (.tileNe c dw f .good)
    | 0x0A => some (.tileLt c dw f .good)
    | 0x0B => some (.tileLe c dw f .good)
    | 0x0C => some (.tileGt c dw f .good)
    | 0x0D => some (.tileGe c dw f .good)
    | _ => none

/-- R164: select, select-end and merge. -/
def decodeSelect (c w : Nat) : Option Instr :=
  let dw := bit w 12
  match bits w 4 8 with
  | 0x00 =>
    let f : SelectFields := { largest := bit w 13, int32 := bit w 14, k := bits w 15 9, rows := bits w 24 17,
                              rowBase := bits w 41 14, a := bits w 55 4, b := bits w 59 4 }
    if w / 2 ^ 63 ≠ 0 ∨ f.k = 0 ∨ 256 < f.k ∨ f.rows = 0 ∨ 65536 < f.rows then none else some (.selectBegin c dw f)
  | 0x01 => if w / 2 ^ 46 ≠ 0 then none else some (.selectEnd c dw (bit w 13) (bit w 14) (bits w 15 15) (bits w 30 16) .good)
  | 0x02 => if w / 2 ^ 44 ≠ 0 then none else some (.merge c dw (bits w 13 15) (bits w 28 16) .good)
  | _ => none

/-- R424, R167: combinations of fmt, space and layout that vld, vst and mxst reserve. -/
def vecLegal (op : Nat) (f : VecFields) : Bool :=
  if op == 0x00 || op == 0x01 then !f.acc || ((f.fmt == 0xE || f.fmt == 0xF) && !f.tiled)
  else if op == 0x50 then f.tiled && !f.acc && decide (8 ≤ f.fmt ∧ f.fmt ≤ 0xD)
  else true

/-- R166: vector instructions. -/
def decodeVector (c w : Nat) : Option Instr :=
  let dw := bit w 12
  let f := vecFieldsOf w
  let op := bits w 4 8
  if w / 2 ^ 94 ≠ 0 ∨ vecLegal op f = false then none
  else match op with
    | 0x00 => some (.vld c dw f .good)
    | 0x01 => some (.vst c dw f)
    | 0x02 => some (.vimm c dw f)
    | 0x03 => some (.vidx c dw f)
    | 0x10 => some (.fadd c dw f)
    | 0x11 => some (.fsub c dw f)
    | 0x12 => some (.fmul c dw f)
    | 0x13 => some (.ffma c dw f)
    | 0x14 => some (.fmax c dw f)
    | 0x15 => some (.fmin c dw f)
    | 0x16 => some (.fabs c dw f)
    | 0x17 => some (.fneg c dw f)
    | 0x18 => some (.frelu c dw f)
    | 0x19 => some (.fsel c dw f)
    | 0x1A => some (.flt c dw f)
    | 0x1B => some (.feq c dw f)
    | 0x1C => some (.fmuls c dw f)
    | 0x1D => some (.fadds c dw f)
    | 0x20 => some (.fexp2 c dw f)
    | 0x21 => some (.flog2 c dw f)
    | 0x22 => some (.frecip c dw f)
    | 0x23 => some (.frsqrt c dw f)
    | 0x24 => some (.fexp c dw f)
    | 0x25 => some (.fsigmoid c dw f)
    | 0x26 => some (.ftanh c dw f)
    | 0x30 => some (.fsum c dw f)
    | 0x31 => some (.fmaxr c dw f)
    | 0x32 => some (.fminr c dw f)
    | 0x40 => some (.iadd c dw f)
    | 0x41 => some (.isub c dw f)
    | 0x42 => some (.imul c dw f)
    | 0x43 => some (.imax c dw f)
    | 0x44 => some (.imin c dw f)
    | 0x45 => some (.ishl c dw f)
    | 0x46 => some (.ishr c dw f)
    | 0x48 => some (.cvtif c dw f)
    | 0x49 => some (.cvtfi c dw f)
    | 0x50 => some (.mxst c dw f)
    | _ => none

/-- R168: local moves. -/
def decodeMove (c w : Nat) : Option Instr :=
  let f : MoveFields := { srcSpace := bits w 13 3, dstSpace := bits w 16 3, srcAddr := bits w 19 22, dstAddr := bits w 41 22,
                          length := bits w 63 22, ab := bits w 85 4 }
  if bits w 4 8 ≠ 0 ∨ w / 2 ^ 89 ≠ 0 ∨ f.srcSpace = 3 ∨ 4 < f.srcSpace ∨ 3 < f.dstSpace ∨ f.length = 0 ∨ 131072 < f.length
      ∨ f.srcAddr % 32 ≠ 0 ∨ f.dstAddr % 32 ≠ 0 then none
  else some (.localMove c (bit w 12) f .good)

/-- R169: timed instructions. -/
def decodeTimed (c w : Nat) : Option Instr :=
  let dw := bit w 12
  match bits w 4 8 with
  | 0x00 =>
    if w / 2 ^ 57 ≠ 0 ∨ 1 < bits w 29 2 ∨ bits w 31 22 % 32 ≠ 0 then none
    else some (.tsend c dw (bits w 13 16) (bits w 29 2) (bits w 31 22) (bits w 53 4))
  | 0x01 => if w / 2 ^ 29 ≠ 0 then none else some (.rarm c dw (bits w 13 16))
  | 0x02 => if w / 2 ^ 29 ≠ 0 then none else some (.rwait c dw (bits w 13 16))
  | _ => none

/-- R170 to R173: allocate and free, fences, yield and the late-feature test. -/
def decodeRest (c w : Nat) : Option Instr :=
  let dw := bit w 12
  match bits w 0 4, bits w 4 8 with
  | 0x6, 0x00 =>
    if w / 2 ^ 23 ≠ 0 ∨ bits w 17 5 < 12 ∨ 24 < bits w 17 5 then none else some (.alloc c dw (bits w 13 4) (bits w 17 5) (bit w 22))
  | 0x6, 0x01 => if w / 2 ^ 21 ≠ 0 ∨ bits w 13 4 ≠ 0 then none else some (.free c dw (bits w 17 4))
  | 0x7, 0x00 => if w / 2 ^ 37 ≠ 0 then none else some (.fsig c dw (bits w 13 20) (bits w 33 4))
  | 0x7, 0x01 => if w / 2 ^ 38 ≠ 0 then none else some (.fwait c dw (bits w 13 20) (bits w 33 4) (bit w 37))
  | 0x8, 0x00 => if w / 2 ^ 13 ≠ 0 then none else some (.yield c dw)
  | 0x9, 0x00 =>
    if w / 2 ^ 43 ≠ 0 then none else some (.lateFeatureTest c dw (bits w 13 10) (bit w 23) (bits w 24 15) (bits w 39 4))
  | _, _ => none

/-- R159: the instruction that a 128-bit word encodes, for core `c`; none where it is reserved. -/
def decodeCore (c w : Nat) : Option Instr :=
  match bits w 0 4 with
  | 0x0 => decodeControl c w
  | 0x1 => decodeTile c w
  | 0x2 => decodeSelect c w
  | 0x3 => decodeVector c w
  | 0x4 => decodeMove c w
  | 0x5 => decodeTimed c w
  | _ => decodeRest c w

end Sys2Proof.Machine
end

