-- ==== Sys2Proof/Machine/Issue.lean ====
section
/-! DEFINITION. Issuing a core instruction: the fetch (R151, R315), what holds it (R153), the advance of the pc and the
program fault of R154. -/

namespace Sys2Proof.Machine

/-- The word at instruction index `pc` of a core's window. -/
def wordAt (s : State) (c pc : Nat) : Nat := rdLE (coreOf s c).prog (16 * winProg (winOf s c) pc) 16

/-- The partition whose step a core runs. -/
def partOfCore (s : State) (c : Nat) : Nat := (coreOf s c).part

/-- R154: the task ends, and the step ends with program_fault. -/
def programFault (s : State) (c : Nat) : State := stepFail s (partOfCore s c) 0x0103

/-- The context whose task a core runs. -/
def ctxOfCore (s : State) (c : Nat) : Nat := match runOf s (partOfCore s c) with | some r => r.ctx | none => 0

/-- R151, R154: go on at an instruction; fetching a reserved one is a program fault. -/
def goTo (s : State) (c pc : Nat) : State :=
  let s := putCore s c { coreOf s c with pc := pc % 16384, waitAt := none }
  match decodeCore c (wordAt s c (pc % 16384)) with
  | none => programFault s c
  | some _ => s

/-- Go on at the next instruction. -/
def advance (s : State) (c : Nat) : State := goTo s c ((coreOf s c).pc + 1)

/-- Is a core's task at the instruction? -/
def atInstr (s : State) (c : Nat) (i : Instr) : Bool :=
  (coreOf s c).task.isSome && decide (decodeCore c (wordAt s c (coreOf s c).pc) = some i)

/-- R153: is issue held: by dw until every issued tile has completed, or by a g register that an alloc has yet to write? -/
def issueHeld (s : State) (c : Nat) (dw : Bool) (reads : List Nat) : Bool :=
  (dw && !(coreOf s c).tiles.isEmpty) || reads.any (fun r => (coreOf s c).gWait.contains r)

/-- A core instruction: its effect where the core's task is at it and nothing holds it; no change where it is held or the
task is elsewhere (log 13). -/
def issue (i : Instr) (c : Nat) (dw : Bool) (reads : List Nat) (s : State) (eff : State → State) : Res :=
  if 64 ≤ c then .fault .noSuchUnit
  else if atInstr s c i && !issueHeld s c dw reads then .next (eff s) else .next s

/-- R169: the tsends of a stream; what select-end hands to the lanes (kind 6) is none of them. -/
def StreamRun.tsends (t : StreamRun) : List (Nat × Nat × Nat × Nat) := if t.kind = 6 then [] else t.sends

/-- R152, R153: the tsends that wait in the timed unit of a core for their slot ticks. -/
def coreSends (s : State) (c : Nat) : Nat :=
  match runOf s (partOfCore s c) with
  | none => 0
  | some r => r.streams.foldl (fun n t => if t.srcCore = relOf s (partOfCore s c) c then n + t.tsends.length else n) 0

/-- R153: is every unit of a core idle, with no allocation outstanding? -/
def coreIdle (s : State) (c : Nat) : Bool := (coreOf s c).tiles.isEmpty && (coreOf s c).allocs == 0 && coreSends s c == 0

/-- Change a core's registers and go on. -/
def updCoreNext (s : State) (c : Nat) (f : Core → Core) : State := advance (putCore s c (f (coreOf s c))) c

/-- R401, R402: the outcome of an instruction's reads of core memory. -/
def coreEcc (s : State) (c : Nat) (ecc : SramEcc) (memory : Nat) (eff : State → State) : State :=
  match ecc with
  | .good => eff s
  | .corrected => eff (ceCount s (unitCore c))
  | .uncorrectable => stepFail (sramUe s (unitCore c) memory 0 [ctxOfCore s c]) (partOfCore s c) 0x0702

end Sys2Proof.Machine
end

