-- ==== Sys2Proof/Machine/Select.lean ====
section
/-! DEFINITION. The top-k unit's instructions (R139 to R143, R164). -/

namespace Sys2Proof.Machine

/-- R139, R164: open a selection; one open already, or lists that exceed the unit, are a program fault. -/
def execSelectBegin (core : Nat) (dw : Bool) (f : SelectFields) (s : State) : Res :=
  issue (.selectBegin core dw f) core dw [f.a, f.b] s (fun s =>
    let k := coreOf s core
    if k.sel.isSome || decide (65536 < f.rows * f.k) then programFault s core
    else updCoreNext s core (fun k => { k with sel := some { largest := f.largest, int32 := f.int32, k := f.k, rows := f.rows,
                                                             rowBase := f.rowBase, idOffset := gReg k f.a, padId := gReg k f.b } }))

/-- R141: the entries of list `l`, padded to k. -/
def listEntries (sel : Selection) (l : Nat) : List (BitVec 32 × BitVec 32) :=
  let pad : BitVec 32 := if sel.int32 then (if sel.largest then 0x80000000 else 0x7FFFFFFF)
    else (if sel.largest then 0xFF800000 else 0x7F800000)
  let e := mget sel.lists l
  e ++ List.replicate (sel.k - e.length) (pad, 0xFFFFFFFF)

/-- R141: the IDs of list `l`; a pad gives pad_id. -/
def listIds (sel : Selection) (l : Nat) : List (BitVec 64) :=
  let e := mget sel.lists l
  e.map (fun x => sel.idOffset + x.2.setWidth 64) ++ List.replicate (sel.k - e.length) sel.padId

/-- R141: write the pairs of every list, 8 bytes an entry, value first. -/
def emitPairsTo (k : Core) (w : Win) (sel : Selection) (base : Nat) : Core :=
  iter sel.rows (fun l k =>
    coreWrN k w 0 (base + 8 * sel.k * l) ((listEntries sel l).flatMap (fun x => leBytes 4 x.1.toNat ++ leBytes 4 x.2.toNat))) k

/-- A stream of the running step of a partition. -/
def updStream (s : State) (p n : Nat) (f : StreamRun → StreamRun) : State :=
  updRun s p (fun r => { r with streams := r.streams.map (fun t => if t.number = n then f t else t) })

/-- R141, R181: the IDs that a select-end emits leave as deliveries of the stream's size. -/
def idSends (bytes n t : Nat) : List (Nat × Nat × Nat × Nat) :=
  let m := bytes / 8
  if m = 0 then [(5, n, t, 0)] else (List.range (cdiv n m)).map (fun i => (5, min m (n - i * m), t, 0))

/-- R141, R164: close the selection, after the insertions of the tiles issued before, and emit its lists. -/
def selectClose (core : Nat) (emitPairs emitIds : Bool) (outAddr stream : Nat) (s : State) : State :=
  let k := coreOf s core
  match k.sel with
  | none => programFault s core
  | some sel =>
    let w := winOf s core
    let k' := if emitPairs then emitPairsTo k w sel (64 * outAddr) else k
    let s := putCore s core { k' with sel := none }
    let s := if emitIds then updStream s (partOfCore s core) stream (fun t =>
        { t with ids := t.ids ++ (List.range sel.rows).flatMap (listIds sel), sends := t.sends ++ idSends t.bytes (sel.rows * sel.k) (now s) }) else s
    advance s core

/-- R141: select-end waits for the select tiles issued before it. -/
def execSelectEnd (core : Nat) (dw emitPairs emitIds : Bool) (outAddr stream : Nat) (ecc : SramEcc) (s : State) : Res :=
  issue (.selectEnd core dw emitPairs emitIds outAddr stream .good) core dw [] s (fun s =>
    if (coreOf s core).tiles.any (fun t => t.fields.dest == 4 || t.fields.dest == 5) then s
    else coreEcc s core ecc 5 (selectClose core emitPairs emitIds outAddr stream))

/-- R143, R164: offer the pairs of every list in the activation buffer. -/
def mergePairs (k : Core) (w : Win) (sel : Selection) (base nIn : Nat) : Selection :=
  iter sel.rows (fun l sel => iter nIn (fun i sel =>
    let a := base + 8 * (l * nIn + i)
    offer sel l (BitVec.ofNat 32 (coreRdLE k w 0 a 4), BitVec.ofNat 32 (coreRdLE k w 0 (a + 4) 4))) sel) sel

/-- R143: merge. -/
def execMerge (core : Nat) (dw : Bool) (srcAddr nInM1 : Nat) (ecc : SramEcc) (s : State) : Res :=
  issue (.merge core dw srcAddr nInM1 .good) core dw [] s (fun s =>
    coreEcc s core ecc 2 (fun s =>
      let k := coreOf s core
      match k.sel with
      | none => programFault s core
      | some sel => updCoreNext s core (fun k => { k with sel := some (mergePairs k (winOf s core) sel (64 * srcAddr) (nInM1 + 1)) })))

end Sys2Proof.Machine
end

