-- ==== Sys2Proof/Machine/Timed.lean ====
section
/-! DEFINITION. Timed send and receive (R169), the streams' deliveries (R181, R208, R213, R411), timed points and slips (R174
to R176, R219 to R222). -/

namespace Sys2Proof.Machine

/-- A stream of a running step. -/
def streamOf (r : StepRun) (n : Nat) : Option StreamRun := r.streams.find? (fun t => t.number == n)

/-- The stream that a timed instruction of a core names. -/
def coreStream (s : State) (c n : Nat) : Option StreamRun :=
  match runOf s (partOfCore s c) with
  | none => none
  | some r => streamOf r n

/-- R152: the timed unit's queue of 8 is full of tsends that wait for their slot ticks (log 73). -/
def timedQueueFull (s : State) (c : Nat) : Bool := decide (8 ≤ coreSends s c)

/-- The task that a core runs. -/
def taskOf (s : State) (c : Nat) : Nat := (coreOf s c).task.getD 0

/-- R169: tsend queues the next delivery; its bytes are read at the slot tick. -/
def execTsend (core : Nat) (dw : Bool) (stream space srcAddr ab : Nat) (s : State) : Res :=
  issue (.tsend core dw stream space srcAddr ab) core dw [ab] s (fun s =>
    match coreStream s core stream with
    | none => programFault s core
    | some _ =>
      let a := srcAddr + bits (gReg (coreOf s core) ab).toNat 0 22
      if timedQueueFull s core then s
      else advance (updStream s (partOfCore s core) stream (fun t => { t with sends := t.sends ++ [(space, a, now s, taskOf s core)] })) core)

/-- R169: rarm for delivery i is held until the task has waited for delivery i less the ring size. -/
def execRarm (core : Nat) (dw : Bool) (stream : Nat) (s : State) : Res :=
  issue (.rarm core dw stream) core dw [] s (fun s =>
    match coreStream s core stream with
    | none => programFault s core
    | some t =>
      if t.waited + t.ring ≤ t.armed then s
      else advance (updStream s (partOfCore s core) stream (fun t =>
        { t with armed := t.armed + 1, arms := t.arms ++ [now s], armTasks := t.armTasks ++ [taskOf s core] })) core)

/-- R213, R411: the code of a delivery that is waited for: 1 and 3 lost, 2 late, 4 an indigo mismatch. -/
def deliveryCode (status : Nat) : Code := if status = 2 then 0x0605 else if status = 4 then 0x0706 else 0x0603

/-- R169: rwait is held until the oldest unwaited delivery has landed; a lost or mismatched one ends the step. -/
def execRwait (core : Nat) (dw : Bool) (stream : Nat) (s : State) : Res :=
  issue (.rwait core dw stream) core dw [] s (fun s =>
    match coreStream s core stream with
    | none => programFault s core
    | some t =>
      match mfind t.landed t.waited with
      | none => s
      | some status =>
        if status = 0 then
          advance (updStream s (partOfCore s core) stream (fun t =>
            { t with landed := mdel t.landed t.waited, waited := t.waited + 1, armTasks := t.armTasks.drop 1 })) core
        else stepFail s (partOfCore s core) (deliveryCode status))

/-! ### Deliveries -/

/-- R411: the digest of a delivery. -/
def indigo (block stream delivery number : Nat) (bs : List Byte) : BitVec 64 :=
  crcA (leBytes 2 block ++ leBytes 2 stream ++ leBytes 4 delivery ++ leBytes 8 number ++ bs.take (bs.length - 8))

/-- R411: the bytes that the link engine sends. -/
def withIndigo (s : State) (p : Nat) (r : StepRun) (t : StreamRun) (bs : List Byte) : List Byte :=
  if bit t.number 15 then
    bs.take (bs.length - 8) ++ leBytes 8 (indigo (blockIndex s p) t.number t.sent r.number bs).toNat
  else bs

/-- R211: a timed flit in the slot at a tick; its stream number is the sender's (log 25). -/
def timedFlit (lost : Nat) (last : Bool) (frame slot stream index delivery : Nat) (payload : List Byte) : List Byte :=
  flit (lost * 4 + b2n last * 16 + slot % 1024 * 32 + frame % 64 * 32768) (stream % 65536)
    (index % 2 ^ 17 + delivery % 2 ^ 15 * 2 ^ 17) payload

/-- R178: the variant entry of a running step's program. -/
def runEntry (s : State) (p : Nat) (r : StepRun) : Img × VarEntry :=
  let m := match mfind s.steps.programs r.program with | some g => g.image | none => []
  (m, varEntry m (blockIndex s p) r.variant)

/-- R208: the slot ticks that the next delivery of a link stream takes. -/
def flitTicks (s : State) (p : Nat) (r : StepRun) (t : StreamRun) : List Nat :=
  let (m, e) := runEntry s p r
  let mine := (imgResv m e).filter (fun x => x.use == 0 && x.stream == t.number && x.kind != 0 && x.kind != 2)
  let n := deliverySlots 1 t.bytes
  (((sortNat (mine.flatMap (resvTicks r.launch))).drop (t.sent * n)).take n).map (fun x => x + r.base)

/-- R208, R211: put a delivery's flits on its port, each for its own slot. -/
def sendFlits (s : State) (p : Nat) (r : StepRun) (t : StreamRun) (bs : List Byte) : State :=
  let ticks := flitTicks s p r t
  let n := deliverySlots 1 t.bytes
  iter n (fun i s =>
    let x := ticks.getD i 0
    putTimed s t.port x (timedFlit 0 (i + 1 == n) (x / 1024) (slotAt x) t.number i t.sent ((bs.drop (240 * i)).take 240))) s

/-- The core memory that a core-side space names, for R407. -/
def memOfSpace (sp : Nat) : Nat := if sp = 0 then 2 else if sp = 1 then 3 else 1

/-- R169: is the stream's next delivery due, its sender's tsend and, on this block, its receiver's rarm issued in time
(R174: 16 ticks before the slot tick)? -/
def sendDue (s : State) (r : StepRun) (t : StreamRun) : Bool :=
  match t.slots with
  | [] => false
  | d :: _ =>
    decide (r.base + d ≤ now s) &&
    (t.kind == 1 || (match t.sends with | [] => false | x :: _ => decide (x.2.2.1 + 16 ≤ r.base + d))) &&
    (if t.kind = 0 ∨ t.kind = 1 then (match t.arms with | [] => false | x :: _ => decide (x + 16 ≤ r.base + d)) else true)

/-- The stream after its next delivery was sent. -/
def StreamRun.pop (t : StreamRun) : StreamRun :=
  { t with slots := t.slots.drop 1, sends := t.sends.drop 1, arms := t.arms.drop 1, sent := t.sent + 1 }

/-- R181: the bytes of the HBM side of a delivery. -/
def hbmAddr (s : State) (t : StreamRun) : Nat := (objOf s (hIndex t.handle.toNat)).va.toNat + t.offset + t.bytes * t.sent

/-- R208: the stream's next delivery is sent at its slot tick. -/
def sendDelivery (s : State) (p : Nat) (r : StepRun) (t : StreamRun) (ecc : SramEcc) : State :=
  let c := (coreAt s p t.srcCore).getD 0
  let d := (coreAt s p t.dstCore).getD 0
  let (sp, a, _) := t.sends.headD (0, 0, 0, 0)
  let src := fun (s : State) => coreRdN (coreOf s c) (winOf s c) sp a t.bytes
  let put := fun (s : State) (f : StreamRun → StreamRun) => updStream s p t.number (fun t => f t.pop)
  let ends := fun (s : State) => stepProgress s p
  if t.kind = 1 then
    let (code, bs) := vaReadE s (engCore d) r.ctx (hbmAddr s t) t.bytes
    if code ≠ 0 then xlateFault s (reqCore d) r.ctx (hbmAddr s t) false code else put (touchRead s (engCore d) r.ctx (hbmAddr s t) t.bytes) (fun t => { t with landing := t.landing ++ [(t.sent - 1, bs, 0)] })
  else
    match ecc with
    | .uncorrectable => stepFail (sramUe s (unitCore c) (memOfSpace sp) 0 [r.ctx]) p 0x0702
    | _ =>
      let s := if ecc = .corrected then ceCount s (unitCore c) else s
      if t.kind = 0 then put s (fun x => { x with landing := x.landing ++ [(t.sent, src s, 0)] })
      else if t.kind = 2 then
        let (code, s') := vaWriteE s (engCore c) r.ctx (hbmAddr s t) (src s)
        if code ≠ 0 then xlateFault s (reqCore c) r.ctx (hbmAddr s t) true code else ends (put s' id)
      else if t.kind = 3 then ends (put (sendFlits s p r t (withIndigo s p r t (src s))) id)
      else put s (fun x => { x with ids := x.ids.drop a, landing := x.landing ++ [(t.sent, (x.ids.take a).flatMap (fun i => leBytes 8 i.toNat), 0)] })

/-- R78: an exchange record: standard, or wide for weighted sums and sequences. -/
def recordBytes (op row feature bag : Nat) (weight : BitVec 32) (pos : Nat) : List Byte :=
  leBytes 8 (row % 2 ^ 40 + feature * 2 ^ 40 + bag * 2 ^ 50) ++
  (if op = 3 ∨ op = 4 then leBytes 8 (weight.toNat + (if op = 4 then pos else 0) * 2 ^ 32) else [])

/-! ### Exchange and spill slots (R78 to R82, R207, R208) -/

/-- R207: the uses of a reservation: 1 exchange request, 2 exchange return, 3 spill window; with the peer's block number. -/
def exKey (use block : Nat) : Nat := 1024 * use + block

/-- R207, R208: the slots, from launch, in which a step sends for a use toward a block, in tick order, and their ports. -/
def exSlots (s : State) (p : Nat) (r : StepRun) (use block : Nat) : List (Nat × Nat) :=
  let (m, e) := runEntry s p r
  sortBy (fun x => x.1) (((imgResv m e).filter (fun x => x.kind == 1 && x.use == use && x.stream % 1024 == block)).flatMap (fun x =>
    (resvTicks r.launch x).map (fun t => (t, x.a))))

/-- R78: the whole records that a flit carries, and those that are left. -/
def packRecords (room : Nat) (l : List (List Byte)) : List (List Byte) × List (List Byte) :=
  match l with
  | [] => ([], [])
  | b :: rest => if b.length ≤ room then ((b :: (packRecords (room - b.length) rest).1), (packRecords (room - b.length) rest).2) else ([], l)

/-- R82, R83: the held records of earlier steps that wait for the spill window to a block. -/
def spillDue (s : State) (r : StepRun) (block : Nat) : List GreyHeld :=
  s.emb.greyHeld.filter (fun g => g.ctx == r.ctx && g.owner == block && !g.sent && !g.back && decide (g.step < r.number))

/-- R82: the held records that one flit carries, 32 bytes each, and the state in which they are sent. -/
def spillTake (s : State) (r : StepRun) (block : Nat) : List (List Byte) × State :=
  let l := (spillDue s r block).take 7
  (l.map (fun g => heldBytes g true), { s with emb.greyHeld := s.emb.greyHeld.map (fun g => if g ∈ l then { g with sent := true } else g) })

/-- R78, R81, R82: what the next slot of a use toward a block carries: its bytes, the number of records (of bytes, for a return),
and the state without them. -/
def exTake (s : State) (p : Nat) (r : StepRun) (use block : Nat) : List Byte × Nat × State :=
  if use = 2 then
    let b := (mget r.retOut block).take 240
    (b, b.length, updRun s p (fun r => { r with retOut := mset r.retOut block ((mget r.retOut block).drop 240) }))
  else if use = 3 then
    let x := spillTake s r block
    (x.1.flatten, x.1.length, x.2)
  else
    let x := packRecords 240 (mget r.outRecords (exKey use block))
    (x.1.flatten, x.1.length, updRun s p (fun r => { r with outRecords := mset r.outRecords (exKey use block) x.2 }))

/-- R208: one slot passes: it carries what waits for it, and nothing where nothing waits. The flit's header gives the number in
the step of the use's slot and the number of records (log 154). -/
def exSlot (s : State) (p use block : Nat) (x : Nat × Nat) : State :=
  match runOf s p with
  | none => s
  | some r =>
    let k := exKey use block
    let t := r.base + x.1
    let (b, n, s) := exTake s p r use block
    let i := mget r.slotsUsed k
    let s := updRun s p (fun r => { r with slotsUsed := mset r.slotsUsed k (i + 1) })
    if b.isEmpty then s else putTimed s x.2 t (timedFlit 0 true (t / 1024) (slotAt t) 0 i n b)

/-- R208: the slots of a use toward a block whose ticks have come. -/
def exchangeSlots (s : State) (p : Nat) (r : StepRun) (use block : Nat) : State :=
  each (((exSlots s p r use block).drop (mget r.slotsUsed (exKey use block))).filter (fun x => decide (r.base + x.1 ≤ now s)))
    (fun x s => exSlot s p use block x) s

/-- R208: what a stream, or the slots of an exchange use, sends in this tick. A stream number of 65,536 and above stands for an
exchange use: 65,536 + 1,024 x use + block (log 154). -/
def sendsDue (s : State) (p stream : Nat) (ecc : SramEcc) : State :=
  match runOf s p with
  | none => s
  | some r =>
    if 65536 ≤ stream then exchangeSlots s p r ((stream - 65536) / 1024 % 4) ((stream - 65536) % 1024)
    else match streamOf r stream with
    | none => s
    | some t => if (t.kind ≤ 3 ∨ t.kind = 6) ∧ sendDue s r t = true then sendDelivery s p r t ecc else s

/-- R181, R207: what a running step may send in a tick: its streams, and the exchange uses that it has slots for. -/
def sendNames (s : State) (p : Nat) : List Nat :=
  match runOf s p with
  | none => []
  | some r =>
    let (m, e) := runEntry s p r
    r.streams.map (fun t => t.number) ++
      (((imgResv m e).filter (fun x => x.kind == 1 && x.use != 0)).map (fun x => 65536 + exKey x.use (x.stream % 1024))).eraseDups

/-- R411: the block whose section sends to a stream, and its stream number. -/
def peerOf (s : State) (r : StepRun) (t : StreamRun) : Nat :=
  let m := match mfind s.steps.programs r.program with | some g => g.image | none => []
  let sends := fun (j : Nat) =>
    let e := varEntry m j r.variant
    (List.range e.streams).any (fun i =>
      let b := streamEntry e i
      bits (fieldAt m (b + 2) 1) 0 4 == 3 && fieldAt m b 2 == t.peer && bits (fieldAt m (b + 0x18) 8) 40 16 == t.number)
  (firstBelow (imgBlocks m) sends).getD 0

/-- R213, R411: the status of a landed delivery: its lost value, or 4 where its digest does not match. -/
def landStatus (s : State) (r : StepRun) (t : StreamRun) (i lost : Nat) (bs : List Byte) : Nat :=
  if lost ≠ 0 then lost
  else if t.kind = 4 ∧ bit t.number 15 = true then
    if (indigo (peerOf s r t) t.peer i r.number bs).toNat = fieldAt bs (bs.length - 8) 8 then 0 else 4
  else 0

/-- R169, R181: the oldest delivery on its way has landed. -/
def landDelivery (s : State) (p : Nat) (r : StepRun) (t : StreamRun) : State :=
  match t.landing with
  | [] => s
  | (i, bs, lost) :: rest =>
    if bs.length < t.bytes ∧ t.kind = 4 then s
    else if t.kind = 6 then
      updStream s p t.number (fun t => { t with landing := rest, laneIds := t.laneIds ++ (List.range (bs.length / 8)).map (fun k =>
        BitVec.ofNat 64 (fieldAt bs (8 * k) 8)) })
    else
      let c := (coreAt s p t.dstCore).getD 0
      let st := landStatus s r t i lost bs
      let s := putCore s c (coreWrN (coreOf s c) (winOf s c) t.dstSpace (t.dstAddr + i % max t.ring 1 * t.bytes) bs)
      let s := updStream s p t.number (fun t =>
        let t := if t.kind = 4 then t.pop else t
        { t with landing := rest, landed := mput t.landed i st })
      if st = 4 then
        healthEvent (telemAdd (addF s hpIndigoFail) 23 1)
          { source := 3, code := 0x0706, unit := 0, step := r.number % 2 ^ 32, addr := peerOf s r t, value := t.number } [r.ctx]
      else s

/-- R169: DELIVERY_LANDED. -/
def execDeliveryLanded (part stream : Nat) (s : State) : Res :=
  if 64 ≤ part then .fault .noSuchUnit
  else match runOf s part with
    | none => .next s
    | some r =>
      match streamOf r stream with
      | none => .next s
      | some t => .next (stepProgress (landDelivery s part r t) part)

/-! ### Timed points -/

/-- R174: the deadline ticks of the timed points that a core's task has not reached. -/
def corePoints (s : State) (p : Nat) (r : StepRun) (c : Nat) : List Nat :=
  let rel := relOf s p c
  if (coreOf s c).part = p ∧ (coreOf s c).task.isSome then
    (r.base + r.deadline) :: r.streams.flatMap (fun t =>
      (if t.srcCore = rel ∧ (t.kind = 0 ∨ t.kind = 2 ∨ t.kind = 3 ∨ t.kind = 6) then
        ((t.slots.drop t.sends.length).take 1).map (fun x => r.base + x - 16) else []) ++
      (if t.dstCore = rel ∧ t.kind ≠ 2 ∧ t.kind ≠ 3 ∧ t.kind ≠ 6 then
        ((t.slots.drop (t.armed - t.sent)).take 1).map (fun x => r.base + x - 16) else []))
  else []

/-- R222: a point whose deadline falls before a pending notice's effective tick is not missed until it has moved. -/
def notMissed (s : State) (p : Nat) (r : StepRun) (d : Nat) : Bool :=
  (partOf s p).slips.any (fun n => n.group == r.group && n.job.isNone && decide (d < n.tEff))

/-- R174 to R176, R219: a core has missed a timed point. -/
def missPoint (s : State) (p c : Nat) : State :=
  match runOf s p with
  | none => s
  | some r =>
    match (corePoints s p r c).filter (fun d => decide (d ≤ now s) && !notMissed s p r d) with
    | [] => s
    | d :: rest =>
      let d := rest.foldl min d
      if r.maxSlips ≤ r.slips then stepFail s p 0x0402
      else issueSlip s p { tEff := d + leadOf s p r.group, step := r.number, origin := blockIndex s p, cause := 1, group := r.group }

/-- R174: TIMED_POINT_MISS. -/
def execTimedPointMiss (part core : Nat) (s : State) : Res :=
  if 64 ≤ part ∨ 64 ≤ core then .fault .noSuchUnit else .next (missPoint s part core)

/-- R220: a submission of the slip's scope takes the quantum on its next launch. -/
def slipSub (n : SlipNotice) (q : Nat) (u : Submission) : Submission :=
  { u with next := u.next + q, deferred := if n.job = some u.job then u.deferred + 1 else u.deferred, held := u.held && n.job != some u.job }

/-- R297: the slip event. -/
def slipEvent (n : SlipNotice) : Event :=
  { type := 6, payload := leBytes 8 n.tEff ++ leBytes 8 n.step ++ leBytes 4 (n.origin % 65536 + n.cause * 65536) }

/-- R220, R222: one slip takes effect. A slip without a launch of its own moves the running step; every slip moves the later
launches of its scope. -/
def applySlip (s : State) (p : Nat) (n : SlipNotice) : State :=
  let mine := fun (r : StepRun) => r.group == n.group && n.job.isNone && (!n.group || r.number == n.step)
  let q := match runOf s p with
    | some r => if mine r then r.quantum else (s.steps.subs.find? (fun u => u.part == p && u.group == n.group)).elim 1024 (fun u => progQuantum s u.program)
    | none => (match n.job with
      | some j => (subOf s j).elim 1024 (fun u => progQuantum s u.program)
      | none => (s.steps.subs.find? (fun u => u.part == p && u.group == n.group)).elim 1024 (fun u => progQuantum s u.program))
  let s := updRun s p (fun r =>
    if mine r then
      { r with base := r.base + q, slips := r.slips + 1,
               features := r.features.map (fun f => if f.ready then f else { f with readyAt := f.readyAt + q }) }
    else r)
  let s := updSubs s (fun u => if u.part = p ∧ u.group = n.group then slipSub n q u else u)
  let ctx := match n.job with
    | some j => (subOf s j).map (fun u => u.ctx)
    | none => (runOf s p).map (fun r => r.ctx)
  let s := telemAdd (addF s tbSlips) 10 1
  match ctx with
  | none => s
  | some k =>
    eventCtx s k (slipEvent n)

/-- R186, R220: every slip of a partition whose effective tick has come. -/
def slipsDue (s : State) (p : Nat) : State :=
  let due := (partOf s p).slips.filter (fun n => decide (n.tEff ≤ now s))
  each due (fun n s => applySlip s p n) (updPart s p (fun x => { x with slips := x.slips.filter (fun n => !decide (n.tEff ≤ now s)) }))

end Sys2Proof.Machine
end

