-- ==== Sys2Proof/Machine/FenceInstr.lean ====
section
/-! DEFINITION. Fence instructions (R171), yield (R172) and the late-feature test (R173). -/

namespace Sys2Proof.Machine

/-- R171, R283: fsig syncs, then signals; a fence that the context does not own ends the step. -/
def execFsig (core : Nat) (dw : Bool) (fence a : Nat) (s : State) : Res :=
  issue (.fsig core dw fence a) core dw [a] s (fun s =>
    if coreIdle s core then
      if maySignal s (ctxOfCore s core) fence then advance (fenceSignal s fence (gReg (coreOf s core) a) (reqCore core)) core
      else stepFail s (partOfCore s core) 0x0307
    else s)

/-- R171, R284: fwait is held until the value is reached, or the fence is in error; a fence that the context does not own ends
the step. -/
def execFwait (core : Nat) (dw : Bool) (fence a : Nat) (ignoreErr : Bool) (s : State) : Res :=
  issue (.fwait core dw fence a ignoreErr) core dw [a] s (fun s =>
    let k := coreOf s core
    let f := fenceOf s fence
    if maySignal s (ctxOfCore s core) fence = false then stepFail s (partOfCore s core) 0x0307
    else match waitResult f (now s) (k.waitAt.getD (now s)) (gReg k a).toNat with
      | .satisfied => advance s core
      | .failed => if ignoreErr then updCoreNext s core failFlag else stepFail s (partOfCore s core) f.error
      | .held => putCore s core { k with waitAt := some (k.waitAt.getD (now s)) })

/-- R172: is a yield ignored: in a group step, with a delivery that the task armed unwaited, or with a tsend of the task whose
slot tick has not passed? -/
def yieldIgnored (s : State) (c : Nat) : Bool :=
  match runOf s (partOfCore s c) with
  | none => true
  | some r => r.group || r.streams.any (fun t => t.armTasks.any (fun i => (coreOf s c).task == some i) || t.tsends.any (fun x => (coreOf s c).task == some x.2.2.2))

/-- R172: the registers that a yield does not preserve become undefined (log 4). -/
def yieldLost (s : State) (c : Nat) : State :=
  let k := coreOf s c
  { putCore s c { k with v := [], vseed := s.freeCount, statLost := some s.freeCount,
                         stats := k.stats.filter (fun e => decide (130 ≤ e.1 ∧ e.1 < 256) || decide (386 ≤ e.1)) } with
    freeCount := s.freeCount + 1 }

/-- R172: the saved pc, g1 to g15 and flags. -/
def saveWords (k : Core) : List (BitVec 64) :=
  BitVec.ofNat 64 ((k.pc + 1) % 16384) :: ((List.range 15).map (fun i => gReg k (i + 1)) ++ [BitVec.ofNat 64 (flagBits k)])

/-- R172: save the task into the context's record and free the core. -/
def yieldSave (s : State) (c : Nat) : State :=
  let p := partOfCore s c
  let k := coreOf s c
  let w := saveWords k
  let s := putCore s c { k with prog := wrBytes k.prog (saveAt (winOf s c)) (w.flatMap (fun (x : BitVec 64) => leBytes 8 x.toNat)) }
  placeTasks (leaveCore s p c .saved w) p

/-- R306, R320, R323: a pre-emption request is out for the partition's local step; none while a change awaits its boundary. -/
def preemptWanted (s : State) (p : Nat) : Bool :=
  let x := partOf s p
  (x.sliceOver || x.claimed) && !changePending s p && (match runOf s p with | some r => !r.group | none => false)

/-- R172: yield; with a selection open it is a program fault (R164). -/
def execYield (core : Nat) (dw : Bool) (s : State) : Res :=
  issue (.yield core dw) core dw [] s (fun s =>
    if (coreOf s core).sel.isSome then programFault s core
    else if yieldIgnored s core then advance s core
    else if coreIdle s core = false then s
    else
      let s := yieldLost s core
      if preemptWanted s (partOfCore s core) then yieldSave s core else advance s core)

/-- R173: bag `b`'s bit is set when it is incomplete. -/
def bagMask (f : FeatureRun) : List Byte :=
  (List.range 2048).map (fun i => BitVec.ofNat 8 ((List.range 8).foldl (fun v k => v + b2n (f.lateBags.contains (8 * i + k)) * 2 ^ k) 0))

/-- R173: the late-feature test is held until the feature is ready. -/
def execLateFeatureTest (core : Nat) (dw : Bool) (feature : Nat) (writeMask : Bool) (maskAddr ab : Nat) (s : State) : Res :=
  issue (.lateFeatureTest core dw feature writeMask maskAddr ab) core dw [ab] s (fun s =>
    match runOf s (partOfCore s core) with
    | none => s
    | some r =>
      match r.features[feature]? with
      | none => programFault s core
      | some f =>
        if f.ready then
          let a := 64 * ((maskAddr + bits (gReg (coreOf s core) ab).toNat 0 15) % 32768)
          updCoreNext s core (fun k =>
            let k := lateFlags k f.lateBit f.substBit
            if writeMask then coreWrN k (winOf s core) 0 a (bagMask f) else k)
        else s)

end Sys2Proof.Machine
end

