-- ==== Sys2Proof/Machine/Heat.lean ====
section
/-! DEFINITION. The crimson tier (R71, R75 to R77), the row-heat sketch (R72, R73) and promotions (R74). -/

namespace Sys2Proof.Machine

/-- R2, R55: does the variant have a crimson tier, and of how many sets and 64 KiB units? -/
def hasCrimson (s : State) : Bool := variantOf s != .jujorS
def crimsonSets (s : State) : Nat := match variantOf s with | .jujorL => 196608 | .jujorM => 98304 | .jujorS => 1
def crimsonUnits (s : State) : Nat := match variantOf s with | .jujorL => 0x0C00 | .jujorM => 0x0600 | .jujorS => 0

/-- R71: the set of a row; R75: bytes of an entry. -/
def crimsonSet (s : State) (t r : Nat) : Nat := heatKey t r * heatConst 0 % 2 ^ 64 / 2 ^ 32 % crimsonSets s
def crimsonBytes (d : List Byte) : Nat := cdiv (tdStride d) 64 * 64

/-- R71: the entry that a lookup of a step hits. -/
def crimsonHit (s : State) (t r epoch : Nat) : Option Crimson :=
  s.emb.crimson.find? (fun c => c.table == t && c.row == r && c.epoch == epoch && c.visible)

/-- R72: the active stack groups, G of them. -/
def activeGroups (s : State) : Nat := countBelow 20 (fun t => stackPresent s t && !bit s.bound.stackLost.toNat t)

/-- R72: the stack group that counts a row, and a counter. -/
def sketchAt (s : State) (t r heat k : Nat) : Nat :=
  (((heatHash t r 0 % activeGroups s) * 8 + heat) * 4 + k) * 65536 + heatHash t r k

/-- R72: the row's estimate. -/
def estimate (s : State) (t r heat : Nat) : Nat :=
  (List.range 4).foldl (fun m k => min m (mget s.emb.sketch (sketchAt s t r heat k))) 0xFFFF

/-- R72: count a row. -/
def countRow (s : State) (t r heat : Nat) : State :=
  { s with emb.sketch := (List.range 4).foldl (fun m k => mmod m (sketchAt s t r heat k) (fun x => satAdd 0xFFFF x 1)) s.emb.sketch }

/-- R74: is an entry of the row and epoch in the tier or queued? -/
def promoted (s : State) (t r epoch : Nat) : Bool :=
  s.emb.crimson.any (fun c => c.table == t && c.row == r && c.epoch == epoch && !c.evicted) ||
  s.emb.promos.any (fun q => q.table == t && q.row == r && q.epoch == epoch)

/-- R76: a promotion that may be served: one of a refresh pass, or any once no pass has rows left. -/
def promoTurn (s : State) (q : Promotion) : Bool := q.refresh || !s.emb.promos.any (fun x => x.refresh)

/-- R74: ask the owner of a remote row for it. -/
def askOwner (s : State) (q : Promotion) : State :=
  match tableOf s q.table with
  | none => s
  | some t =>
    match ownerOf s t q.row with
    | (none, _) => s
    | (some j, loc) =>
      match blockCoord s q.part j with
      | none => s
      | some c => beSend s c 3 0 t.ctx (leBytes 8 (q.table + q.epoch * 2 ^ 32) ++ leBytes 8 loc)

/-- R74, R76: the remote rows of the promotions whose turn it is are asked for, once each. -/
def askPromos (s : State) : State :=
  let new := s.emb.promos.filter (fun q => promoTurn s q && !q.asked)
  each new (fun q s => askOwner s q) { s with emb.promos := s.emb.promos.map (fun q => if q ∈ new then { q with asked := true } else q) }

/-- R74: queue a promotion; a refresh pass goes before ordinary ones, outside their 1,024 entries (R76, log 29). -/
def queuePromotion (s : State) (q : Promotion) : State :=
  if q.refresh = false ∧ 1024 ≤ (s.emb.promos.filter (fun x => !x.refresh)).length then addF s eePromoteSkips
  else
    askPromos { s with emb.promos := if q.refresh then s.emb.promos.filter (fun x => x.refresh) ++ [q] ++ s.emb.promos.filter (fun x => !x.refresh)
                                     else s.emb.promos ++ [q] }

/-- R72, R74: count a resolved ID of a crimson-enabled table; its estimate may queue a promotion. -/
def heatId (s : State) (part tid : Nat) (t : Table) (r : Nat) : State :=
  if hasCrimson s && tdCrimson t.desc && getF s eeSketchEn == 1 then
    let g := tdHeat t.desc
    let s := countRow s tid r g
    let e := (groupOf s (tdGroup t.desc)).active
    if getF s eePromoteEn g = 1 ∧ getF s eeThreshold g ≤ estimate s tid r g ∧ promoted s tid r e = false then
      queuePromotion s { table := tid, row := r, epoch := e, part := part }
    else s
  else s

/-- R75: space that a partition holds; its quota in bytes. -/
def crimsonUsed (s : State) (part : Nat) : Nat :=
  (s.emb.crimson.filter (fun c => c.part == part && !c.evicted)).foldl (fun n c => n + c.data.length) 0
def crimsonQuota (s : State) (part : Nat) : Nat := getF s eeQuotaUnits part * 65536

/-- R75: the entry with the lowest estimate, the lower way among equals. -/
def coldest (s : State) (l : List Crimson) : Option Crimson :=
  let est := fun (c : Crimson) => match tableOf s c.table with | some t => estimate s c.table c.row (tdHeat t.desc) | none => 0
  l.foldl (fun b c => match b with
    | none => some c
    | some x => if est c < est x ∨ (est c = est x ∧ c.way < x.way) then some c else some x) none

/-- R71, R75: an entry is evicted: its space is free, and it hits only until its partition's next step boundary. -/
def evict (s : State) (c : Crimson) : State :=
  if c.visible && !atBoundary s c.part then { s with emb.crimson := s.emb.crimson.map (fun x => if x = c then { x with evicted := true } else x) }
  else removeCrimson s (fun x => x == c)

/-- R75: the ways of a set in use. -/
def setWays (s : State) (set : Nat) : List Nat := (s.emb.crimson.filter (fun c => c.set == set && !c.evicted)).map (fun c => c.way)

/-- R75: make room for a candidate of a set: evict colder entries of the same partition and set while it does not fit. -/
def makeRoom (fuel : Nat) (s : State) (part set size est : Nat) : Option State :=
  let fits := decide (crimsonUsed s part + size ≤ crimsonQuota s part ∧ (setWays s set).length < 16)
  match fuel with
  | 0 => if fits then some s else none
  | k + 1 =>
    if fits then some s
    else
      match coldest s (s.emb.crimson.filter (fun c => c.part == part && c.set == set && !c.evicted)) with
      | none => none
      | some v =>
        let ev := match tableOf s v.table with | some t => estimate s v.table v.row (tdHeat t.desc) | none => 0
        if ev < est then makeRoom k (evict s v) part set size est else none

/-- R71, R75, R76: install a row's copy: it is dropped where its row has changed epoch, where its key has been invalidated in this
tick, and where it finds no room. -/
def putCrimson (s : State) (q : Promotion) (data : List Byte) : State :=
  match tableOf s q.table with
  | none => addF s eePromoteSkips
  | some t =>
    if (groupOf s (tdGroup t.desc)).active ≠ q.epoch ∨ (q.table, q.row, q.epoch) ∈ s.emb.invalidated then s
    else
      let n := crimsonBytes t.desc
      let set := crimsonSet s q.table q.row
      match makeRoom 16 s q.part set n (estimate s q.table q.row (tdHeat t.desc)) with
      | none => addF s eePromoteSkips
      | some s =>
        let way := (firstBelow 16 (fun w => !(setWays s set).contains w)).getD 0
        let row := (data ++ List.replicate n 0).take n
        addF { s with emb.crimson := s.emb.crimson ++
          [{ table := q.table, row := q.row, epoch := q.epoch, part := q.part, set := set, way := way, data := row,
             visible := atBoundary s q.part }] } eePromotes

/-- R75, R76: a copy of a row arrives for a queued promotion. -/
def installRow (s : State) (q : Promotion) (data : List Byte) : State :=
  askPromos (putCrimson { s with emb.promos := s.emb.promos.erase q } q data)

/-- R74, R76: PROMOTION_COPY_DONE: a local row's copy, read as stored, in its turn. -/
def execPromotionCopyDone (table row : Nat) (s : State) : Res :=
  match s.emb.promos.find? (fun q => q.table == table && q.row == row && promoTurn s q) with
  | none => .next s
  | some q =>
    match tableOf s table with
    | none => .next s
    | some t =>
      match ownerOf s t row with
      | (none, loc) => .next (installRow s q (rowStored s t loc q.epoch true))
      | (some _, _) => .next s

/-- R73: SKETCH_HALVING: every 2^decay_log2 ticks. -/
def execSketchHalving (s : State) : Res :=
  if now s % 2 ^ max 16 (getF s eeDecayLog2) = 0 then
    .next { s with emb.sketch := (s.emb.sketch.map (fun e => (e.1, e.2 / 2))).filter (fun e => e.2 != 0) }
  else .next s

/-- R88: SKETCH_CLEAR: a write of 1 to sketch_clear, which reads 1 until the next tick zeroes the counters. -/
def execSketchClear (s : State) : Res := .next (setF s eeSketchClear 1)

/-- R88: the tick after a write of sketch_clear. -/
def sketchTick (s : State) : State := if getF s eeSketchClear = 1 then setF { s with emb.sketch := [] } eeSketchClear 0 else s

/-- R75: reduce a partition to its quota: its coldest entries go. -/
def fitQuota (fuel : Nat) (s : State) (part : Nat) : State :=
  match fuel with
  | 0 => s
  | k + 1 =>
    if crimsonUsed s part ≤ crimsonQuota s part then s
    else match coldest s (s.emb.crimson.filter (fun c => c.part == part && !c.evicted)) with
      | none => s
      | some c => fitQuota k (evict s c) part

/-- R75, R88: CRIMSON_QUOTA_WRITE: ignored where the quotas would exceed the tier. -/
def execCrimsonQuotaWrite (part : Nat) (value : W32) (s : State) : Res :=
  if 64 ≤ part then .fault .noSuchUnit
  else
    let q := bits value.toNat 0 12
    let others := (List.range 64).foldl (fun n p => if p = part then n else n + getF s eeQuotaUnits p) 0
    if hasCrimson s && decide (others + q ≤ crimsonUnits s) then
      let s := setF s eeQuotaUnits q part
      if crimsonUsed s part ≤ crimsonQuota s part then .next s
      else if atBoundary s part then .next (fitQuota s.emb.crimson.length s part)
      else .next (updPart s part (fun x => { x with quotaDrop := true }))
    else .next s

end Sys2Proof.Machine
end

