-- ==== Sys2Proof/Machine/Ctl.lean ====
section
/-! DEFINITION. Control messages: their bytes (R211, R216), where they go (R215), and their arrival (R216, R230). -/

namespace Sys2Proof.Machine

/-! ### The bytes of a message (R216) -/

/-- R216: the 240-byte payload of a message. -/
def ctlPayload (m : CtlMsg) : List Byte :=
  let body := if m.type = 10 then leBytes 8 m.a ++ m.data else leBytes 8 m.a ++ leBytes 8 m.b ++ leBytes 8 m.c
  (leBytes 4 (packCoord m.origin + m.seq % 65536 * 65536) ++ leBytes 4 (m.group % 65536) ++ body ++ List.replicate 240 0).take 240

/-- R211, R216: the control flit of a message in the slot at a tick; a marker's header carries hop count 0. -/
def ctlFlit (m : CtlMsg) (tick : Nat) : List Byte :=
  flit (2 + 16 + slotAt tick * 32 + tick / 1024 % 64 * 32768) (m.type % 256 + m.hops % 256 * 256) 0 (ctlPayload m)

/-- R216: the bytes of a type's fields at 0x08, 0x10 and 0x18. -/
def ctlWidths (type : Nat) : Nat × Nat × Nat :=
  match type with
  | 1 => (8, 2, 0)
  | 2 => (8, 8, 4)
  | 3 => (8, 1, 0)
  | 5 => (8, 2, 0)
  | 6 => (8, 4, 0)
  | 7 => (8, 8, 3)
  | 8 => (8, 1, 0)
  | 9 => (8, 4, 0)
  | _ => (8, 0, 0)

/-- R216: the reserved fields of a message are zero. -/
def ctlReserved (m : CtlMsg) : Bool :=
  match m.type with
  | 1 => bits m.b 2 6 == 0
  | 2 => bits m.a 8 24 == 0
  | 7 => bits m.c 20 4 == 0
  | 10 => decide (bits m.a 16 16 ≤ 224)
  | _ => true

/-- R211, R216: the message of a control flit; none for a reserved type or a non-zero reserved field. -/
def ctlRead (bs : List Byte) : Option CtlMsg :=
  let w1 := fieldAt bs 4 4
  let type := bits w1 0 8
  let n := ctlWidths type
  let a := fieldAt bs 0x18 n.1
  let m : CtlMsg := { type := type, seq := fieldAt bs 0x12 2, group := fieldAt bs 0x14 2, a := a, b := fieldAt bs 0x20 n.2.1,
                      c := fieldAt bs 0x28 n.2.2, origin := unpackCoord (fieldAt bs 0x10 2), hops := bits w1 8 8,
                      data := if type = 10 then (bs.drop 0x20).take (bits a 16 16) else [] }
  if 1 ≤ type ∧ type ≤ 10 ∧ fieldAt bs 0x16 2 = 0 ∧ ctlReserved m = true then some m else none

/-! ### Where a message goes (R214, R215) -/

/-- R215: ports toward the next blocks of a direction: two of the torus and two of the express ports, where they are up. -/
def ctlWays (s : State) (d : Nat) : List Nat := (dirUp s false d).take 2 ++ (dirUp s true d).take 2

/-- R214, R215: the directions in which a broadcast goes on: outward in every direction from its origin (port 0xFF), and from a
block that heard it on port `q` straight on and into the dimensions after that one. -/
def ctlDirs (q : Nat) : List Nat :=
  if 60 ≤ q then List.range 6
  else (List.range 6).filter (fun d => d / 2 == portDir q / 2 && d != portDir q || decide (portDir q / 2 < d / 2))

/-- R214, R215: two ports of the route to a block. -/
def ctlRoute (s : State) (dst : Coord) : List Nat :=
  ((wayTo s dst).findSome? (fun w =>
    let far := decide (s.start.record.skip < 2 * w.2)
    let l := if (dirUp s far w.1).isEmpty then dirUp s (!far) w.1 else dirUp s far w.1
    if l.isEmpty then none else some (l.take 2))).getD []

/-- R216: the block that an addressed message is for. -/
def ctlDest (m : CtlMsg) : Option Coord :=
  match m.type with
  | 5 => some (unpackCoord m.b)
  | 10 => some (unpackCoord (bits m.a 0 16))
  | _ => none

/-- R215, R216: the ports on which a message leaves: a marker on its own. -/
def ctlPorts (s : State) (m : CtlMsg) : List Nat :=
  if m.type = 1 then (if (portOf s m.port).up then [m.port] else [])
  else match ctlDest m with
    | some c => ctlRoute s c
    | none => (ctlDirs m.port).flatMap (ctlWays s)

/-- R189, R215: put a message in the queue of a port; a marker, which goes in slot 0, goes first. -/
def ctlQueue (s : State) (m : CtlMsg) (q : Nat) : State :=
  updPort s q (fun x => { x with ctlQ := if m.type = 1 then m :: x.ctlQ else x.ctlQ ++ [m] })

/-- R215: the messages issued and forwarded in this tick go to their ports. -/
def ctlDrain (s : State) : State :=
  let l := s.time.ctlOut ++ s.time.forwarded
  each l (fun m s => each (ctlPorts s m) (fun q s => ctlQueue s m q) s) { s with time.ctlOut := [], time.forwarded := [] }

/-! ### Arrival -/

/-- R216: messages seen in the last 1,048,576 ticks. -/
def ctlRecent (s : State) : List (Coord × Nat × Nat) := s.time.seen.filter (fun e => decide (now s ≤ e.2.2 + 1048576))

/-- R216: was the message seen before, or issued by this block? -/
def ctlSeen (s : State) (m : CtlMsg) : Bool :=
  decide (m.origin = s.start.record.coord) || (ctlRecent s).any (fun e => e.1 == m.origin && e.2.1 == m.seq)

/-- R216: remember a message heard on port `q`; one that is not for this block alone is forwarded once, with one hop more. -/
def ctlForward (s : State) (q : Nat) (m : CtlMsg) : State :=
  let s := { s with time.seen := ctlRecent s ++ [(m.origin, m.seq, now s)] }
  if ctlDest m = some s.start.record.coord then s
  else { s with time.forwarded := s.time.forwarded ++ [{ m with port := q, hops := m.hops + 1 }] }

/-- R216: the first copy of a message heard on port `q` is forwarded and acted on, the others are discarded; an addressed message is
acted on at its destination. A block without domain membership receives none (R197). -/
def ctlFirst (q : Nat) (m : CtlMsg) (eff : CtlMsg → State → State) (s : State) : State :=
  if domainMember s && !ctlSeen s m then
    let s := ctlForward s q m
    match ctlDest m with
    | none => eff m s
    | some c => if c = s.start.record.coord then eff m s else s
  else s

/-- R211, R216, R230: a control flit on port `q`, which is to carry a message of type `want`: one that fails is lost, and a reserved
type or field is counted. -/
def ctlFlitIn (q : Nat) (fec : RxMark) (bs : List Byte) (want : Nat) (eff : CtlMsg → State → State) (s : State) : Res :=
  if 60 ≤ q then .fault .noSuchUnit
  else if (portOf s q).up = false then .next s
  else
    let good := flitGood fec bs
    let s := countFec s q fec good
    if good = false ∨ bits (fieldAt bs 0 4) 0 2 ≠ 2 then .next s
    else match ctlRead bs with
      | none => .next (addF s lkBeDrop)
      | some m => if m.type = want then .next (eff m s) else .next s

/-- R216: a broadcast, group or addressed message on port `q`. -/
def ctlArrive (q : Nat) (fec : RxMark) (bs : List Byte) (want : Nat) (eff : CtlMsg → State → State) (s : State) : Res :=
  ctlFlitIn q fec bs want (fun m s => ctlFirst q m eff s) s

end Sys2Proof.Machine
end

