-- ==== Sys2Proof/Machine/Updates.lean ====
section
/-! DEFINITION. Update records (R91 to R94), twin catch-up (R97), the delta index (R99 to R102), seals (R95), the teal flip
(R103 to R106). -/

namespace Sys2Proof.Machine

/-! ### Records (R91) -/

def urTable (b : List Byte) : Nat := fieldAt b 0 2
def urFormat (b : List Byte) : Nat := bits (fieldAt b 0 4) 16 4
def urById (b : List Byte) : Bool := bit (fieldAt b 0 4) 20
def urLast (b : List Byte) : Bool := bit (fieldAt b 0 4) 21
def urEpoch (b : List Byte) : Nat := fieldAt b 4 4
def urRow (b : List Byte) : Nat := fieldAt b 8 8
def urLength (b : List Byte) : Nat := bits (fieldAt b 0x10 4) 0 12
def urSeq (b : List Byte) : Nat := fieldAt b 0x14 4
def urStream (b : List Byte) : Nat := fieldAt b 0x18 1
def urReserved (b : List Byte) : Bool := bits (fieldAt b 0 4) 22 10 == 0 && bits (fieldAt b 0x10 4) 12 20 == 0 && fieldAt b 0x19 7 == 0

/-- R91: bytes that a record takes. -/
def urBytes (b : List Byte) : Nat := 32 + cdiv (urLength b) 32 * 32

/-- R91: the whole records of a byte list; one that runs past its end is kept short and ends the list. -/
def splitRecords (fuel : Nat) (b : List Byte) : List (List Byte) :=
  match fuel with
  | 0 => []
  | k + 1 => if b.isEmpty then [] else b.take (urBytes b) :: splitRecords k (b.drop (urBytes b))

/-- R91: a record that updates no row. -/
def urEmpty (b : List Byte) : Bool := urLast b && urLength b == 0

/-- R91, R57, R58: the local row that a record names: a code, or none for another block's row. -/
def urLocal (s : State) (t : Table) (b : List Byte) : Except Code (Option Nat) :=
  let me := match (partOf s t.part).group with | some g => g.index | none => 0
  let m := shardOf s t
  if urById b = false ∧ urRow b = 2 ^ 64 - 1 then .ok (if m.isEmpty || m.contains me then some (nLocal s t) else none)
  else
    let row := if urById b then rowOfId t.desc (urRow b) else if urRow b < tdRows t.desc then some (urRow b) else none
    match row with
    | none => .error 0x0A09
    | some r =>
      match ownerOf s t r with
      | (none, loc) => .ok (some loc)
      | (some _, _) => .ok none

/-! ### The delta region (R99 to R102) -/

/-- The entries of a table's index. -/
def deltaPlaces (t : Table) : List (Nat × Nat) := (List.range (deltaBuckets t)).flatMap (fun b => (List.range 4).map (fun i => (b, i)))

/-- R99: slots that hold a valid version, or may not be reused yet (R102). -/
def deltaUsed (s : State) (t : Table) : List Nat :=
  t.deltaFree ++ (deltaPlaces t).flatMap (fun p =>
    let e := deltaEntry s t p.1 p.2
    (if e.validA then [e.slotA] else []) ++ (if e.validB then [e.slotB] else []))

def deltaFreeSlot (s : State) (t : Table) : Option Nat :=
  let used := deltaUsed s t
  firstBelow (tdSlots t.desc) (fun k => !used.contains k)

/-- Write an entry. -/
def putDelta (s : State) (t : Table) (p : Nat × Nat) (e : DeltaEntry) : State := tabWrite s t (deltaEntryAt s t p.1 p.2) (deltaEntryBytes e)

/-- R99: the entry of a row among its eight buckets, or the first free one. -/
def deltaOf (s : State) (t : Table) (row : Nat) (free : Bool) : Option (Nat × Nat) :=
  ((deltaChain t row).flatMap (fun b => (List.range 4).map (fun i => (b, i)))).find? (fun p =>
    let e := deltaEntry s t p.1 p.2
    if free then e.isFree else !e.isFree && e.row == row)

/-- R100: the filter bits of an entry. -/
def entryBits (s : State) (tid : Nat) (t : Table) (loc : Nat) : List Nat :=
  (logicalRows s t loc).flatMap (fun r => filterBits tid r (tdHeat t.desc))

/-- R99: where a record for an epoch goes: the slot, and the state with its entry written; none where there is no room. -/
def deltaPlace (s : State) (tid : Nat) (t : Table) (row epoch : Nat) : Option (Nat × State) :=
  let x := epoch % 65536
  match deltaOf s t row false with
  | some p =>
    let e := deltaEntry s t p.1 p.2
    if e.validA ∧ e.epochA = x then some (e.slotA, s)
    else if e.validB ∧ e.epochB = x then some (e.slotB, s)
    else if e.validA ∧ e.validB then none
    else match deltaFreeSlot s t with
      | none => none
      | some k => some (k, putDelta s t p (if e.validA then { e with slotB := k, epochB := x, validB := true } else { e with slotA := k, epochA := x, validA := true }))
  | none =>
    match deltaOf s t row true, deltaFreeSlot s t with
    | some p, some k =>
      let s := putDelta s t p { row := row, slotA := k, slotB := 0, epochA := x, epochB := 0, validA := true, validB := false }
      let marks := fun (m : SMap Bool) => (entryBits s tid t row).foldl (fun m b => mset m b true) m
      some (k, { s with upd.filterActive := marks s.upd.filterActive, upd.filterShadow := marks s.upd.filterShadow })
    | _, _ => none

/-! ### Applying records (R92) -/

/-- R96: set the dirty bit of a row. -/
def setDirty (s : State) (t : Table) (p row : Nat) (on : Bool) : State :=
  let a := dirtyAt s t p + row / 8
  let v := leNat (tabRead s t a 1)
  tabWrite s t a (leBytes 1 (setBits v (row % 8) 1 (b2n on)))

/-- R92: a record's row is written. -/
def writeRecord (s : State) (tid : Nat) (t : Table) (row epoch : Nat) (payload : List Byte) : Option State :=
  if tdDelta t.desc then
    match deltaPlace s tid t row epoch with
    | none => none
    | some (k, s) => some (tabWrite s t (deltaRowsAt s t + k * tdStride t.desc) payload)
  else some (setDirty (tabWrite s t (mainRowAt s t row epoch) payload) t epoch row true)

/-- What the engine does with a record: hold it, refuse it, or the state after it. -/
inductive Applied where
  | held
  | refused (code : Code)
  | done (s : State)
  deriving DecidableEq, Repr, Inhabited

/-- R92: the checks, in order. A record whose table is not bound to the context fails the first, with 0x0A09; R53 and R87 give
0x0B02 for an update that names such a table, without saying where it would show (DEDUCED, log 160). -/
def applyRecord (s : State) (r : UpdRec) : Applied :=
  let b := r.bytes
  match tableFor s r.ctx (urTable b) with
  | none => .refused 0x0A09
  | some t =>
    let fmtOk := urFormat b == tdFormat t.desc && (urEmpty b || rowBytes (tdFormat t.desc) (tdElems t.desc) (tdPqM t.desc) == some (urLength b))
    if fmtOk && urReserved b && decide (urBytes b ≤ b.length) then
      match (if urEmpty b then .ok (some 0) else urLocal s t b) with
      | .error c => .refused c
      | .ok none => .refused 0x0A0A
      | .ok (some row) =>
        let g := groupOf s (tdGroup t.desc)
        if urEpoch b < g.active + 1 then .refused 0x0A02
        else if g.active + 1 < urEpoch b then .refused 0x0A03
        else if g.staging = .closed ∨ t.busy then .held
        else if g.staging = .sealed then .refused 0x0A0C
        else if urEmpty b then .done s
        else match writeRecord s (urTable b) t row (urEpoch b) ((b.drop 32).take (urLength b)) with
          | none => .refused 0x0A04
          | some s => .done s
    else .refused 0x0A09

/-- R93: a refusal: on the host path the command keeps the first code; on the link path an event. -/
def refuseRecord (s : State) (r : UpdRec) (code : Code) : State :=
  let s := addF s eeRefused
  match r.job with
  | some j => updJob s j (fun x => if x.code = 0 then { x with code := code } else x)
  | none => eventCtx s r.ctx { type := 0x000A, code := code, payload := leBytes 4 (urStream r.bytes) ++ leBytes 4 (urSeq r.bytes) }

/-- R95: a stream's last record for the staging epoch; one that was refused does not count (DESIGN CHOICE, log 161). -/
def noteLast (s : State) (r : UpdRec) : State :=
  if r.job.isNone && urLast r.bytes then
    match tableOf s (urTable r.bytes) with
    | none => s
    | some t => { s with upd.groups := mmod s.upd.groups (tdGroup t.desc) (fun g =>
        { g with lastSeen := if urStream r.bytes ∈ g.lastSeen then g.lastSeen else g.lastSeen ++ [urStream r.bytes] }) }
  else s

/-- R93: the path that carries a record, host or link: a held record holds back those behind it on its path (log 30). -/
def recordPath (r : UpdRec) : Bool := r.job.isSome

/-- R92: the records that wait, in arrival order: those that stay held, and the state. -/
def drainGo (l : List UpdRec) (stopped : List Bool) (s : State) : List UpdRec × State :=
  match l with
  | [] => ([], s)
  | r :: rest =>
    if recordPath r ∈ stopped then
      let x := drainGo rest stopped s
      (r :: x.1, x.2)
    else match applyRecord s r with
      | .held =>
        let x := drainGo rest (recordPath r :: stopped) s
        (r :: x.1, x.2)
      | .refused c => drainGo rest stopped (refuseRecord s r c)
      | .done s => drainGo rest stopped (noteLast (telemAdd (addF64 s eeBytesLo r.bytes.length) 21 r.bytes.length) r)

/-- R93: an update command whose every record has been applied or refused is complete. -/
def updatesDone (s : State) (jobs : List Nat) : State :=
  each jobs (fun j s =>
    if s.upd.held.any (fun r => r.job == some j) then s
    else match jobOf s j with
      | some x => finishJob s j x.code
      | none => s) s

/-- R92, R110: apply what may be applied of the ingest queue. -/
def drainHeld (s : State) : State :=
  if getF s eeIngestEn = 1 then
    let jobs := s.upd.held.filterMap (fun r => r.job)
    let x := drainGo s.upd.held [] { s with upd.held := [] }
    updatesDone { x.2 with upd.held := x.1 } (jobs.eraseDups)
  else s

/-- R92: records arrive. -/
def ingest (s : State) (l : List UpdRec) : State := drainHeld { s with upd.held := s.upd.held ++ l }

/-! ### Twin catch-up (R97) -/

/-- R97, R403: copy the rows marked in dirty[e mod 2] to the other slot and clear their marks; a row that could not be read
keeps its mark. -/
def catchUp (s : State) (tid : Nat) (t : Table) (e : Nat) : State :=
  iter (nLocal s t + 1) (fun i s =>
    if bit (leNat (tabRead s t (dirtyAt s t e + i / 8) 1)) (i % 8) && !s.upd.unread.contains (tid, i, false) then
      let s := tabWrite s t (mainRowAt s t i (e + 1)) (tabRead s t (mainRowAt s t i e) (tdStride t.desc))
      addF (setDirty s t e i false) eeCatchupRows
    else s) s

/-- R97: the epoch whose rows a catch-up copies: the one that was active when staging opened; a flip has closed staging since. -/
def catchEpoch (x : EpochGroup) : Nat := if x.staging = .closed then x.active - 1 else x.active

/-- R97, R106: staging opens: the twin tables of the group start a catch-up; one that still ran has ended before. -/
def openStaging (s : State) (g : Nat) : State :=
  let twins := s.emb.tables.filter (fun e => tdGroup e.2.desc == g && !tdDelta e.2.desc)
  let s := each (twins.filter (fun e => s.upd.catchup.contains e.1)) (fun e s => catchUp s e.1 e.2 (catchEpoch (groupOf s g))) s
  let s := updGroup s g (fun x => { x with staging := .opened, lastSeen := [] })
  let tids := twins.map (·.1)
  let s := each tids (fun t s => match tableOf s t with | some x => putTable s t { x with busy := true } | none => s) s
  drainHeld { s with upd.catchup := s.upd.catchup.filter (fun t => t ∉ tids) ++ tids }

/-- R97: TWIN_CATCHUP_DONE. -/
def execTwinCatchupDone (table : Nat) (s : State) : Res :=
  match tableOf s table with
  | none => .next s
  | some t =>
    if table ∈ s.upd.catchup then
      let s := catchUp s table t (catchEpoch (groupOf s (tdGroup t.desc)))
      let s := { s with upd.catchup := s.upd.catchup.filter (· != table), upd.unread := s.upd.unread.filter (fun x => !(x.1 == table && !x.2.2)) }
      .next (drainHeld (match tableOf s table with | some t => putTable s table { t with busy := false } | none => s))
    else .next s

/-! ### Delta merge (R102) -/

/-- R102: a version that is cleared; its slot waits for the steps that launched before (log 31). -/
def releaseSlot (s : State) (tid slot : Nat) : State :=
  if s.steps.running.isEmpty && s.steps.suspended.isEmpty then s
  else { s with emb.tables := mupd s.emb.tables tid (fun t => { t with deltaFree := t.deltaFree ++ [slot] }) }

/-- R102: merge one version of an entry into the main row. -/
def mergeVersion (s : State) (tid : Nat) (t : Table) (p : Nat × Nat) (second : Bool) : State :=
  let e := deltaEntry s t p.1 p.2
  let slot := if second then e.slotB else e.slotA
  let s := tabWrite s t (e.row * tdStride t.desc) (tabRead s t (deltaRowsAt s t + slot * tdStride t.desc) (tdStride t.desc))
  let s := putDelta s t p (if second then { e with validB := false } else { e with validA := false })
  addF (releaseSlot s tid slot) eeMerged

/-- R102: merge what may be merged of an entry, the older version first. -/
def mergeEntry (s : State) (tid : Nat) (t : Table) (oldest : Nat) (p : Nat × Nat) : State :=
  let e := deltaEntry s t p.1 p.2
  let a := e.validA && decide (epochAge oldest e.epochA < 32768)
  let b := e.validB && decide (epochAge oldest e.epochB < 32768)
  if s.upd.unread.contains (tid, e.row, true) then s
  else
  let aFirst := decide (epochAge oldest e.epochB ≤ epochAge oldest e.epochA)
  if a && b then
    if aFirst then mergeVersion (mergeVersion s tid t p false) tid t p true else mergeVersion (mergeVersion s tid t p true) tid t p false
  else if a then mergeVersion s tid t p false else if b then mergeVersion s tid t p true else s

/-- The delta tables of a table group. -/
def deltaTables (s : State) (tg : Nat) : List Nat := (s.emb.tables.filter (fun e => tdDelta e.2.desc && tdHeat e.2.desc == tg)).map (·.1)

/-- R102: the filter bits of the entries that remain. -/
def rebuiltFilter (s : State) (tg : Nat) : List Nat :=
  (deltaTables s tg).flatMap (fun tid => match tableOf s tid with
    | none => []
    | some t => (deltaPlaces t).flatMap (fun p =>
        let e := deltaEntry s t p.1 p.2
        if e.isFree then [] else entryBits s tid t e.row))

/-- R102: DELTA_MERGE_PASS_END: a pass over the delta indexes of a table group; the rebuilt shadow filter awaits the step
boundaries of the partitions that use the group. -/
def execDeltaMergePassEnd (tableGroup : Nat) (s : State) : Res :=
  if 8 ≤ tableGroup then .fault .noSuchUnit
  else
    let tids := deltaTables s tableGroup
    let s := each tids (fun tid s => match tableOf s tid with
      | none => s
      | some t =>
        let g := groupOf s (tdGroup t.desc)
        each (deltaPlaces t) (fun p s => mergeEntry s tid t (if g.retained then g.active - 1 else g.active) p) s) s
    let s := { s with upd.unread := s.upd.unread.filter (fun x => !(x.2.2 && tids.contains x.1)) }
    let old := s.upd.filterShadow.filter (fun e => e.1 / 4194304 != tableGroup)
    let s := { s with upd.filterShadow := (rebuiltFilter s tableGroup).foldl (fun m b => mset m b true) old }
    let parts := (tids.filterMap (fun t => (tableOf s t).map (·.part))).eraseDups
    .next (each parts (fun p s => updPart s p (fun x =>
      { x with filterSwap := if tableGroup ∈ x.filterSwap then x.filterSwap else x.filterSwap ++ [tableGroup] })) s)

/-- R102: at a step boundary the rebuilt filter of a table group becomes active. -/
def swapFilter (s : State) (tg : Nat) : State :=
  { s with upd.filterActive := (s.upd.filterShadow.filter (fun e => e.1 / 4194304 == tg)).foldl (fun m e => mset m e.1 e.2)
             (s.upd.filterActive.filter (fun e => e.1 / 4194304 != tg)) }

/-! ### Seals (R95) -/

/-- R90: the staging epoch's group, where the context owns it. -/
def ownGroup (s : State) (n g : Nat) : Bool := (groupOf s g).valid && (groupOf s g).ctx == n

/-- R95: SEAL. A group that the context does not own is refused with 0x0A06 (DESIGN CHOICE, log 161). -/
def execSeal (job : Nat) (s : State) : Res :=
  runJob s job 0x36 (fun x s =>
    let g := bits (d8 x.desc 0x20) 0 8
    if ownGroup s x.ctx g && d4 x.desc 0x24 == (groupOf s g).active + 1 then
      awaitJob (updGroup s g (fun y => { y with sealJobs := y.sealJobs ++ [job] })) job
    else finishJob s job 0x0A06)

/-- The group of a held record. -/
def recordGroup (s : State) (r : UpdRec) : Option Nat := (tableOf s (urTable r.bytes)).map (fun t => tdGroup t.desc)

/-- R93, R95: does an update command bring records for a group? One whose data cannot be read yet may. -/
def updateFor (s : State) (g : Nat) (x : Job) : Bool :=
  let r := vaReadE s engFront x.ctx (d8 x.desc 0x20) (dLen x.desc)
  r.1 != 0 || (splitRecords (dLen x.desc / 32) r.2).any (fun b => (tableOf s (urTable b)).map (fun t => tdGroup t.desc) == some g)

/-- R95: an update command for the group that precedes the seal in its queue is not complete. -/
def updatesBefore (s : State) (g job : Nat) : Bool :=
  match jobOf s job with
  | none => false
  | some m => s.front.jobs.any (fun e => decide (e.1 < job) && e.2.ctx == m.ctx && e.2.queue == m.queue && dOpcode e.2.desc == 0x33 &&
      e.2.status != .done && updateFor s g e.2)

/-- R95: the conditions of a seal. -/
def sealReady (s : State) (g job : Nat) : Bool :=
  let x := groupOf s g
  x.staging != .closed && !updatesBefore s g job &&
  (s.upd.streams.filter (fun e => e.2.bound && e.2.group == g)).all (fun e => x.lastSeen.contains e.1) &&
  s.upd.held.all (fun r => recordGroup s r != some g)

/-- R104: a flip that has been announced is armed once staging is sealed, before its tick. -/
def armFlip (s : State) (g : Nat) : State :=
  let x := groupOf s g
  match x.announced with
  | some (_, tf, delay) =>
    if x.armed.isNone && x.staging == .sealed && decide (now s < tf) then updGroup s g (fun x => { x with armed := some (tf, delay) }) else s
  | none => s

/-- R95: SEAL_COMPLETE. -/
def execSealComplete (group : Nat) (s : State) : Res :=
  let x := groupOf s group
  let ready := x.sealJobs.filter (sealReady s group)
  if ready.isEmpty then .next s
  else
    let s := updGroup s group (fun x => { x with staging := .sealed, sealJobs := x.sealJobs.filter (fun j => j ∉ ready) })
    .next (each ready (fun j s => finishJob s j 0) (armFlip s group))

/-! ### Update streams (R93) -/

/-- R93: BIND_STREAM. A bind that cannot be made is refused with 0x0101 (log 32); the stream's first record has seq 0 (DESIGN
CHOICE, log 161). -/
def execBindStream (job : Nat) (s : State) : Res :=
  runJob s job 0x34 (fun x s =>
    let n := bits (d8 x.desc 0x20) 0 8
    let g := bits (d8 x.desc 0x20) 8 8
    if (mget s.upd.streams n).bound || !ownGroup s x.ctx g then finishJob s job 0x0101
    else finishJob { s with upd.streams := mset s.upd.streams n { ctx := x.ctx, group := g, bound := true } } job 0)

/-- R93: UNBIND_STREAM. -/
def execUnbindStream (job : Nat) (s : State) : Res :=
  runJob s job 0x35 (fun x s =>
    let n := bits (d8 x.desc 0x20) 0 8
    let t := mget s.upd.streams n
    if t.bound && t.ctx == x.ctx then finishJob { s with upd.streams := mdel s.upd.streams n } job 0 else finishJob s job 0x0101)

/-! ### The teal flip (R103 to R106) -/

/-- R76: the refresh pass: every row that had an entry of the old epoch. -/
def refreshPass (s : State) (g old : Nat) : State :=
  let rows := s.emb.crimson.filter (fun c => c.epoch == old && !c.evicted &&
    (match tableOf s c.table with | some t => tdGroup t.desc == g | none => false))
  each rows (fun c s => queuePromotion s { table := c.table, row := c.row, epoch := old + 1, part := c.part, refresh := true }) s

/-- R104: the group switches to the next epoch. -/
def switchGroup (s : State) (g : Nat) : State :=
  let x := groupOf s g
  let (tf, delay) := match x.armed with
    | some a => a
    | none => match x.announced with | some (_, t, d) => (t, d) | none => (now s, 0)
  let s := updGroup s g (fun x => { x with active := x.active + 1, retained := true, staging := .closed, armed := none, announced := none,
                                           releaseAt := tf + delay, missed := false })
  let s := each x.flipJobs (fun j s => finishJob s j 0) (updGroup s g (fun x => { x with flipJobs := [] }))
  refreshPass s g x.active

/-- R105: a flip missed: reported, counted, and on the coordinator the fence carries the code. -/
def missFlip (s : State) (g epoch : Nat) (code : Code) : State :=
  let x := groupOf s g
  let s := addF s (if code = 0x0A05 then eeFlipUnsealed else eeFlipLate)
  let e : Event := { type := 9, code := code, payload := leBytes 4 g ++ leBytes 4 epoch }
  let s := eventCtx (eventAdm s x.ctx e) x.ctx e
  each x.flipJobs (fun j s => finishJob s j code) (updGroup s g (fun x => { x with missed := true, flipJobs := [] }))

/-- R103, R104: an announcement reaches this block; a group that does not exist here, or another epoch, ignores it. It takes the
place of an earlier one that is not armed (log 162). -/
def announceFlip (s : State) (g epoch tf delay : Nat) : State :=
  let x := groupOf s g
  if x.valid && epoch == x.active + 1 && x.armed.isNone then
    let s := updGroup s g (fun x => { x with announced := some (epoch, tf, delay), missed := false })
    if tf ≤ now s then missFlip s g epoch 0x0A07 else armFlip s g
  else s

/-- R103: FLIP, on the coordinator. A group that the context does not own is refused with 0x0A06, and the announcement carries the
low 32 bits of the release delay (DESIGN CHOICE, logs 161, 156). -/
def execFlip (job : Nat) (s : State) : Res :=
  runJob s job 0x37 (fun x s =>
    let g := bits (d8 x.desc 0x20) 0 8
    let epoch := d4 x.desc 0x24
    let tf := d8 x.desc 0x28
    let delay := let d := d8 x.desc 0x30; if d = 0 then 1048576 else d
    let y := groupOf s g
    if tf < x.start.getD (now s) + domainB s then finishJob s job 0x0A01
    else if !ownGroup s x.ctx g || y.armed.isSome || epoch != y.active + 1 || decide (2 ^ 32 ≤ y.active + 1) ||
        decide (delay < 2 * domainB s) then finishJob s job 0x0A06
    else
      let s := ctlSend s 2 0xFFFF (g + epoch * 2 ^ 32) tf (delay % 2 ^ 32)
      announceFlip (awaitJob (updGroup s g (fun y => { y with flipJobs := y.flipJobs ++ [job] })) job) g epoch tf delay)

/-- R104: FLIP_ANNOUNCEMENT. -/
def execFlipFlit (port : Nat) (fec : RxMark) (bytes : List Byte) (s : State) : Res :=
  ctlArrive port fec bytes 2 (fun m s => announceFlip s (bits m.a 0 8) (bits m.a 32 32) m.b m.c) s

/-- R104, R105: the tick-launched action of a group at T_f. -/
def tealFlip (s : State) (group : Nat) : State :=
  let x := groupOf s group
  match x.armed, x.announced with
  | some (tf, _), _ => if tf ≤ now s then switchGroup s group else s
  | none, some (epoch, tf, _) => if tf ≤ now s ∧ x.missed = false then missFlip s group epoch 0x0A05 else s
  | none, none => s

/-- R105: the late switch of a group at a step boundary. -/
def lateSwitch (s : State) (g : Nat) : State :=
  let x := groupOf s g
  if x.missed && x.announced.isSome && x.staging == .sealed then switchGroup s g else s

/-- R106: versions of the released epoch that a newer version replaces are freed (log 33). -/
def dropOldVersions (s : State) (tid : Nat) (t : Table) (e : Nat) : State :=
  each (deltaPlaces t) (fun p s =>
    let x := deltaEntry s t p.1 p.2
    if x.validA && x.validB && x.epochA == e % 65536 && x.epochB == (e + 1) % 65536 then
      releaseSlot (putDelta s t p { x with validA := false }) tid x.slotA
    else if x.validA && x.validB && x.epochB == e % 65536 && x.epochA == (e + 1) % 65536 then
      releaseSlot (putDelta s t p { x with validB := false }) tid x.slotB
    else s) s

/-- R106: release the retained epoch of a group at a step boundary, where its conditions hold. -/
def releaseEpoch (s : State) (g : Nat) : State :=
  let x := groupOf s g
  let e := x.active - 1
  let tables := s.emb.tables.filter (fun t => tdGroup t.2.desc == g)
  let uses := fun (r : StepRun) => r.ctx == x.ctx && mfind r.epochs g == some e
  let busy := s.steps.running.any (fun r => uses r.2) || s.steps.suspended.any (fun r => uses r.2) ||
    s.emb.greyHeld.any (fun h => h.epoch == e && tables.any (fun t => t.1 == h.table))
  if x.retained && decide (x.releaseAt ≤ now s) && !busy then
    let s := dropCrimson s (fun c => c.epoch == e && tables.any (fun t => t.1 == c.table))
    let s := each tables (fun t s => if tdDelta t.2.desc then dropOldVersions s t.1 t.2 e else s) s
    openStaging (updGroup s g (fun x => { x with retained := false })) g
  else s

/-- R105, R106: what a step boundary of the owning partition does to its groups. -/
def groupsAtBoundary (s : State) (p : Nat) : State :=
  let mine := (s.upd.groups.filter (fun e => e.2.valid && (ctxOf s e.2.ctx).partition == p)).map (·.1)
  each mine (fun g s => releaseEpoch (lateSwitch s g) g) s

end Sys2Proof.Machine
end

