-- ==== Sys2Proof/Machine/Cqi.lean ====
section
/-! DEFINITION. The commands of the front end as R273 lists them, and the checks at a queue's head (R274). -/

namespace Sys2Proof.Machine

/-- R273: where a command is accepted. -/
inductive AcceptOn where
  | any
  | localOnly
  | context
  | contextAdmin
  | admin
  deriving DecidableEq, Repr, Inhabited

/-- R273, R307: the queue and the profile (bit of the context's profiles, 0 core) of an opcode; none where it is reserved. -/
def opInfo (op : Nat) : Option (AcceptOn × Nat) :=
  if op = 0 then some (.any, 0)
  else if op ≤ 3 then some (.localOnly, 0)
  else if op = 4 then some (.context, 1)
  else if 0x10 ≤ op ∧ op ≤ 0x13 then some (.context, 0)
  else if op = 0x14 then some (.contextAdmin, 0)
  else if op = 0x20 ∨ op = 0x21 then some (.context, 1)
  else if op = 0x22 ∨ op = 0x23 then some (.context, 5)
  else if 0x30 ≤ op ∧ op ≤ 0x32 then some (.context, 2)
  else if op = 0x33 then some (.localOnly, 3)
  else if 0x34 ≤ op ∧ op ≤ 0x37 then some (.context, 3)
  else if op = 0x40 ∨ op = 0x41 then some (.context, 4)
  else if 0x80 ≤ op ∧ op ≤ 0x8C then some (.admin, 0)
  else if op = 0x90 ∨ op = 0x91 then some (.admin, 0)
  else none

/-- R273: len is in its range. -/
def lenOk (op len first : Nat) : Bool :=
  match op with
  | 1 => decide (4 ≤ len ∧ len % 4 = 0)
  | 2 => decide (8 ≤ len ∧ len % 8 = 0)
  | 3 => decide (1 ≤ len ∧ len ≤ 65536)
  | 4 => decide (1 ≤ len)
  | 0x14 => true
  | 0x32 => true
  | 0x33 => decide (32 ≤ len ∧ len % 32 = 0)
  | 0x41 => true
  | 0x89 => decide (1 ≤ len ∧ first + len ≤ 4096)
  | 0x8A => decide (1 ≤ len ∧ len ≤ 512)
  | 0x8B => decide (1 ≤ len ∧ len ≤ 512)
  | _ => decide (len = 0)

/-- R273: the operand fields: byte offset, lowest bit, width. Every other operand bit is reserved. -/
def opFields (op : Nat) : List (Nat × Nat × Nat) :=
  let q := fun (o : Nat) => (o, 0, 64)
  match op with
  | 1 => [q 0x20, q 0x28, (0x30, 0, 48), (0x38, 0, 48)]
  | 2 => [q 0x20, (0x28, 0, 48), q 0x30]
  | 3 => [q 0x20, (0x28, 0, 48)]
  | 4 => [q 0x20, q 0x28, (0x30, 0, 4)]
  | 0x10 => [q 0x20, q 0x28, (0x30, 0, 9), q 0x38]
  | 0x11 => [q 0x20]
  | 0x12 => [q 0x20, q 0x38]
  | 0x13 => [(0x20, 0, 20)]
  | 0x14 => [q 0x20, (0x28, 0, 48)]
  | 0x20 => [q 0x20]
  | 0x21 => [q 0x20]
  | 0x22 => [q 0x20]
  | 0x23 => [q 0x20]
  | 0x30 => [q 0x20, (0x28, 0, 48)]
  | 0x31 => [(0x20, 0, 16)]
  | 0x32 => [q 0x20, (0x28, 0, 48), (0x30, 0, 6), (0x30, 8, 8)]
  | 0x33 => [q 0x20]
  | 0x34 => [(0x20, 0, 16)]
  | 0x35 => [(0x20, 0, 8)]
  | 0x36 => [(0x20, 0, 8), (0x24, 0, 32)]
  | 0x37 => [(0x20, 0, 8), (0x24, 0, 32), q 0x28, q 0x30]
  | 0x40 => [q 0x38]
  | 0x41 => [q 0x20, (0x28, 0, 48)]
  | 0x80 => [q 0x20]
  | 0x81 => [(0x20, 0, 12)]
  | 0x82 => [q 0x20]
  | 0x83 => [q 0x20]
  | 0x84 => [(0x20, 0, 6)]
  | 0x85 => [(0x20, 0, 6), q 0x28]
  | 0x86 => [(0x20, 0, 6)]
  | 0x87 => [(0x20, 0, 12), (0x24, 0, 10), (0x28, 0, 10)]
  | 0x88 => [(0x20, 0, 12), (0x24, 0, 32), (0x28, 0, 32)]
  | 0x89 => [(0x20, 0, 12), q 0x28]
  | 0x8A => [(0x20, 0, 6), (0x28, 0, 16)]
  | 0x8B => [(0x20, 0, 6), (0x28, 0, 16)]
  | 0x8C => [(0x20, 0, 4)]
  | 0x90 => [(0x20, 0, 12)]
  | 0x91 => [(0x20, 0, 14), (0x24, 0, 26), (0x28, 0, 8)]
  | _ => []

/-- The operand bits that R273 defines. -/
def opMask (op : Nat) : Nat :=
  (opFields op).foldl (fun m f => m ||| ((2 ^ f.2.2 - 1) * 2 ^ (8 * (f.1 - 0x20) + f.2.1))) 0

/-- R274: field values that a command does not admit. -/
def opValueOk (d : Desc) : Bool :=
  match dOpcode d with
  | 3 => d8 d 0x28 % 64 == 0
  | 0x10 => let t := bits (d8 d 0x30) 0 8; decide (1 ≤ t ∧ t ≤ 3)
  | 0x12 => d8 d 0x20 != 2 ^ 64 - 1
  | _ => true

/-- R274: opcode, header, len and operands. -/
def formatOk (d : Desc) : Bool :=
  let v := fieldAt d.raw 0x20 32
  (opInfo (dOpcode d)).isSome && bits (fieldAt d.raw 0 4) 13 19 == 0 && bits (fieldAt d.raw 4 4) 20 12 == 0 &&
  bits (fieldAt d.raw 0x10 4) 20 12 == 0 && lenOk (dOpcode d) (dLen d) (bits (d8 d 0x20) 0 12) && v &&& opMask (dOpcode d) == v && opValueOk d

/-- R273, R274, R288: is the command accepted from a context? -/
def acceptedCtx (c : Context) (op : Nat) : Bool :=
  match opInfo op with
  | none => false
  | some (on, prof) =>
    bit c.profiles.toNat prof &&
    (match on with
    | .any => true
    | .localOnly => !c.group
    | .context => true
    | .contextAdmin => true
    | .admin => false)

/-- R273: is the command accepted on the administrator queue? -/
def acceptedAdm (op : Nat) : Bool :=
  match opInfo op with
  | none => false
  | some (on, _) => on == .any || on == .contextAdmin || on == .admin

/-- R274, R298: the checks at the head of a queue of a context, or of the administrator queue, which may name any fence that
exists. -/
def headCheck (s : State) (n : Option Nat) (d : Desc) : Code :=
  let live := fun i => decide ((fenceOf s i).state ≠ .free)
  if formatOk d = false then 0x0101
  else match n with
    | some n =>
      if acceptedCtx (ctxOf s n) (dOpcode d) = false then 0x0102
      else if (dWaitEn d && !mayWait s n (dWaitFence d)) || (dSignalEn d && !maySignal s n (dSignalFence d)) then 0x0307 else 0
    | none =>
      if acceptedAdm (dOpcode d) = false then 0x0102
      else if (dWaitEn d && !live (dWaitFence d)) || (dSignalEn d && !live (dSignalFence d)) then 0x0307 else 0

/-- R289: a queue's timeout in ticks. -/
def queueTimeout (q : SubQ) : Nat := (if q.timeoutUs = 0 then 2000000 else q.timeoutUs) * 700

def subqOf (s : State) (n q : Nat) : SubQ := mget (ctxOf s n).sq q
def updSubq (s : State) (n q : Nat) (f : SubQ → SubQ) : State := updCtx s n (fun c => { c with sq := mmod c.sq q f })

/-- R274, R289: the first fetched descriptor of a queue reaches its head: it is checked, and its timer starts. -/
def toHead (s : State) (n q : Nat) : State :=
  let x := subqOf s n q
  match x.fetched, x.buffer with
  | d :: rest, none =>
    if d.headAt.isSome then s
    else updSubq s n q (fun x => { x with fetched := { d with headAt := some (now s), limit := queueTimeout x, headCode := headCheck s (some n) d } :: rest })
  | _, _ => s

/-- R243, R273: the handles that a command names: operand offset and the types it accepts. -/
def opHandles (admin : Bool) (op : Nat) : List (Nat × List Nat) :=
  match op with
  | 1 => [(0x20, [1, 2]), (0x28, [1, 2])]
  | 2 => [(0x20, [1, 2])]
  | 3 => [(0x20, [1])]
  | 4 => [(0x20, [3])]
  | 0x11 => [(0x20, [1, 2, 3])]
  | 0x14 => if admin then [] else [(0x20, [1, 2])]
  | 0x20 => [(0x20, [3])]
  | 0x21 => [(0x20, [3])]
  | 0x22 => [(0x20, [1])]
  | 0x23 => [(0x20, [1])]
  | 0x30 => [(0x20, [1, 2])]
  | 0x32 => [(0x20, [1, 2])]
  | 0x41 => [(0x20, [1, 2])]
  | _ => []

/-- R243: launch-step and unload-program name a loaded program; one whose unload has been dispatched takes no launch (R247). -/
def programLoaded (s : State) (op i : Nat) : Bool :=
  match mfind s.steps.programs i with
  | none => false
  | some g => op != 4 || !g.unloading

/-- R243: the first failing handle check of a context's command. -/
def handleCheck (s : State) (n : Nat) (d : Desc) : Code :=
  let op := dOpcode d
  (opHandles false op).foldl (fun c x =>
    if c ≠ 0 then c
    else
      let h := d8 d x.1
      if (op = 4 ∨ op = 0x21) ∧ programLoaded s op (hIndex h) = false then 0x0301 else checkHandle s n x.2 h) 0

/-- R245: the work references that a command takes at dispatch; free-object takes none on what it frees (log 34). -/
def descRefs (admin : Bool) (d : Desc) : List Nat :=
  if dOpcode d = 0x11 then [] else (opHandles admin (dOpcode d)).map (fun x => hIndex (d8 d x.1))

end Sys2Proof.Machine
end

