-- ==== Sys2Proof/Machine/Copies.lean ====
section
/-! DEFINITION. The copy engines: copy, fill, update and load-codebook (R273, R65, R93), and the page requests that stall
them (R354, R355, R359, R368). -/

namespace Sys2Proof.Machine

/-! ### Transfers that a walk stops -/

/-- The first page of a range whose translation fails for an engine: its address and what the walk says. -/
def firstBad (s : State) (eng n : Nat) (write : Bool) (fuel va len : Nat) : Option (Nat × Xl) :=
  match fuel with
  | 0 => none
  | k + 1 =>
    if len = 0 then none
    else
      let x := xlate s eng n va write
      let c := xlCode s x
      if c ≠ 0 then some (va, { x with code := c })
      else
        let m := min len (pageRest s va)
        firstBad s eng n write k (va + m) (len - m)

/-- A range of a transfer: address, bytes, and the access. -/
structure Span where
  va : Nat
  len : Nat
  write : Bool
  deriving DecidableEq, Repr, Inhabited

def Span.bad (s : State) (eng n : Nat) (p : Span) : Option (Nat × Xl) := firstBad s eng n p.write (pageFuel s p.va p.len) p.va p.len

/-- R355: the stage and page by which page requests coalesce. In forerunner mode a host address counts as stage 0. -/
def faultPage (s : State) (va : Nat) (x : Xl) : Nat × Nat :=
  if atsAddress s va then (0, bits va 25 31) else if x.stage = 2 then (2, bits x.ipa 25 31) else (1, bits va 25 31)

/-- R368: page requests that may be outstanding. -/
def preqLimit (s : State) (va : Nat) : Nat := if atsAddress s va then min 16 Config.priAllocation else 16

def preqLive (s : State) : SMap PageReq := s.trans.preqs.filter (fun e => e.2.used)

/-- R355: does a command wait for the answer to a page request? -/
def attached (s : State) (j : Nat) : Bool := s.trans.preqs.any (fun e => e.2.used && e.2.jobs.contains j)

/-- R355, R356: a stalled transfer joins the entry of its page, or takes the lowest free one and posts its record; forerunner
mode writes none (R368). -/
def requestPage (s : State) (j e n va : Nat) (write : Bool) (x : Xl) : State :=
  let c := ctxOf s n
  let (stage, page) := faultPage s va x
  match (preqLive s).find? (fun q => q.2.pasid == c.pasid && q.2.stage == stage && q.2.page == page) with
  | some (i, q) => addF { s with trans.preqs := mset s.trans.preqs i { q with jobs := q.jobs ++ [j] } } tuCoalesced
  | none =>
    let free := firstBelow 16 (fun i => !(mget s.trans.preqs i).used)
    match free, decide ((preqLive s).length < preqLimit s va) with
    | some i, true =>
      let s := { s with trans.preqs := mset s.trans.preqs i { used := true, pasid := c.pasid, stage := stage, page := page, jobs := [j],
                                                              va := BitVec.ofNat 64 va, write := write } }
      let s := addF s tuPageRequests
      if getF s tuForerunner = 1 then s
      else fqPost s { kind := 1, stage := stage, code := x.code, pasid := c.pasid, ctx := n, va := va, ipa := if stage = 2 then x.ipa else 0,
                      requester := reqCopy e, write := write, entry := i }
    | _, _ => s

/-- R354: a walk that fails for another reason fails the command, with a record of kind 3. -/
def copyFault (s : State) (j e n va : Nat) (write : Bool) (x : Xl) : State :=
  let c := ctxOf s n
  finishJob (fqPost s { kind := 3, stage := x.stage, code := x.code, pasid := c.pasid, ctx := n, va := va, requester := reqCopy e, write := write }) j x.code

/-- R354, R368: what a failing page does to a transfer: not present and permission stall it with a page request; a host
address of forerunner mode without a translation waits for the ATS completion; any other code fails it. -/
def stallCopy (s : State) (j e n va : Nat) (write : Bool) (x : Xl) : State :=
  if atsAddress s va then s
  else if x.code = 0x0201 ∨ x.code = 0x0202 then
    let x := if x.stage = 0 then let w := walk s (ctxOf s n).pasid (ctxOf s n).partition va write; { x with stage := w.stage, ipa := w.ipa } else x
    requestPage s j e n va write x
  else copyFault s j e n va write x

/-! ### The effects -/

/-- R273: the ranges of a transfer, its source first, or the code of a range that leaves its object. -/
def copySpans (s : State) (x : Job) : Code × List Span :=
  let d := x.desc
  let n := dLen d
  match dOpcode d with
  | 1 =>
    let a := objRange s (d8 d 0x20) (dOff d 0x30) n
    let b := objRange s (d8 d 0x28) (dOff d 0x38) n
    if a.1 ≠ 0 then (a.1, []) else if b.1 ≠ 0 then (b.1, []) else (0, [⟨a.2, n, false⟩, ⟨b.2, n, true⟩])
  | 2 =>
    let b := objRange s (d8 d 0x20) (dOff d 0x28) n
    if b.1 ≠ 0 then (b.1, []) else (0, [⟨b.2, n, true⟩])
  | _ => (0, [⟨d8 d 0x20, n, false⟩])

/-- R273, R93: the transfer once every page of it translates: all of it (log 39). -/
def copyEffect (s : State) (j e : Nat) (x : Job) (l : List Span) : State :=
  let eng := engCopy e
  let a := l.headD ⟨0, 0, false⟩
  match dOpcode x.desc with
  | 1 =>
    let b := l.getD 1 ⟨0, 0, true⟩
    finishJob (vaWriteE (touchRead s eng x.ctx a.va a.len) eng x.ctx b.va (vaReadE s eng x.ctx a.va a.len).2).2 j 0
  | 2 => finishJob (vaWriteE s eng x.ctx a.va ((List.range (a.len / 8)).flatMap (fun _ => leBytes 8 (d8 x.desc 0x30)))).2 j 0
  | _ =>
    let bs := (vaReadE s eng x.ctx a.va a.len).2
    ingest (updJob (touchRead s eng x.ctx a.va a.len) j (fun x => { x with copyEngine := none }))
      ((splitRecords (a.len / 32) bs).map (fun r => { bytes := r, ctx := x.ctx, job := some j }))

/-- R281: an engine takes a transfer: its busy ticks begin. -/
def takeTransfer (s : State) (j : Nat) : State := updJob s j (fun x => { x with servedAt := some (x.servedAt.getD (now s)) })

/-- A copy engine tries its oldest transfer. -/
def attemptCopy (s : State) (j e : Nat) (x : Job) : State :=
  let (code, l) := copySpans s x
  if code ≠ 0 then finishJob s j code
  else
    let s := takeTransfer s j
    match l.findSome? (fun p => (p.bad s (engCopy e) x.ctx).map (fun b => (p, b))) with
    | some (p, va, y) => stallCopy s j e x.ctx va p.write y
    | none => copyEffect s j e x l

/-- Does a command hold a copy engine? -/
def onEngine (e : Nat) (x : Job) : Bool := x.copyEngine == some e && x.status == .waiting

/-- R354: an engine serves its transfers in order; one that is stalled holds back the later ones. -/
def serveEngine (fuel : Nat) (s : State) (e : Nat) : State :=
  match fuel with
  | 0 => s
  | k + 1 =>
    match s.front.jobs.find? (fun y => onEngine e y.2) with
    | none => s
    | some (j, x) =>
      if attached s j then s
      else
        let s' := attemptCopy s j e x
        match jobOf s' j with
        | some y => if onEngine e y then s' else serveEngine k s' e
        | none => serveEngine k s' e

def runEngine (s : State) (e : Nat) : State := serveEngine s.front.jobs.length s e

/-- The copy engine that takes a transfer: the one that holds fewest, the lowest number among equals (log 40). -/
def pickEngine (s : State) : Nat :=
  let load := fun e => (s.front.jobs.filter (fun y => onEngine e y.2)).length
  (List.range 16).foldl (fun b e => if load e < load b then e else b) 0

/-- A transfer begins. -/
def startCopy (s : State) (j : Nat) : State :=
  let e := pickEngine s
  runEngine (updJob (awaitJob s j) j (fun x => { x with copyEngine := some e })) e

/-- R273: COPY. -/
def execCopy (job : Nat) (s : State) : Res := runJob s job 1 (fun _ s => startCopy s job)

/-- R273: FILL. -/
def execFill (job : Nat) (s : State) : Res := runJob s job 2 (fun _ s => startCopy s job)

/-- R93: UPDATE. -/
def execUpdate (job : Nat) (s : State) : Res := runJob s job 0x33 (fun _ s => startCopy s job)

/-- R65: does a bound table, or one that awaits its boundary, use a codebook unit of a range? -/
def codebookUsed (s : State) (first count : Nat) : Bool :=
  let uses := fun (d : List Byte) => tdFormat d == 5 && decide (tdCbSlot d < first + count ∧ first < tdCbSlot d + tdCbUnits d)
  s.emb.tables.any (fun t => uses t.2.desc) || s.emb.binds.any (fun t => uses t.2.desc)

/-- R65: LOAD_CODEBOOK: the bytes go into the same units of every stack group. Units that do not exist, or that the bytes
overrun, fail as a conflict does (log 41). -/
def execLoadCodebook (job : Nat) (s : State) : Res :=
  runJob s job 0x32 (fun x s =>
    let n := dLen x.desc
    let slot := bits (d8 x.desc 0x30) 0 6
    let units := bits (d8 x.desc 0x30) 8 8
    let (code, va) := objRange s (d8 x.desc 0x20) (dOff x.desc 0x28) n
    if code ≠ 0 then finishJob s job code
    else if 64 < slot + units ∨ units * 65536 < n ∨ codebookUsed s slot units = true then finishJob s job 0x0B04
    else
      let (c, bs) := vaRead s x.ctx va n
      if c ≠ 0 then finishJob s job c
      else
        let us := (List.range units).map (fun i => slot + i)
        let s := touchRead s engFront x.ctx va n
        let s := { s with mem.codebook := wrBytes s.mem.codebook (slot * 65536) bs,
                          emb.cbLoaded := us.foldl (fun m u => m ||| (1#64 <<< u)) s.emb.cbLoaded,
                          emb.cbOwner := us.foldl (fun m u => mput m u x.ctx) s.emb.cbOwner }
        finishJob s job 0)

end Sys2Proof.Machine
end

