-- ==== Sys2Proof/Machine/Front.lean ====
section
/-! DEFINITION. The queue front end (R275 to R298): doorbells, fetch, dispatch, retirement, timeouts and interrupts. -/

namespace Sys2Proof.Machine

/-! ### Doorbells (R275, R276) -/

/-- R276: at most one doorbell_invalid event in any 1,048,576 ticks. -/
def dbEventDue (s : State) (last : Option Nat) : Bool := match last with | none => true | some t => decide (t + 1048576 ≤ now s)

/-- R297: the doorbell_invalid event. -/
def dbEvent (word : Nat) (v : W32) : Event := { type := 2, code := 0x0106, payload := leBytes 4 word ++ leBytes 4 v.toNat }

/-- R276: a value out of range is ignored, counted and reported. -/
def badDoorbell (s : State) (n word : Nat) (v : W32) : State :=
  let s := addF s qfDbBad
  if dbEventDue s (ctxOf s n).dbEventAt then eventCtx (updCtx s n (fun c => { c with dbEventAt := some (now s) })) n (dbEvent word v) else s

/-- R11, R275: an access acts only on one aligned word, or one aligned pair of words, with every byte enabled. -/
def wholeWords (offset : Nat) (enables : BitVec 8) : Bool :=
  (enables == 0x0F#8 && decide (offset % 4 = 0)) || (enables == 0xFF#8 && decide (offset % 8 = 0))

/-- R16, R275: the context whose page a BAR2 offset lies in, and the place in the page. -/
def pageCtx (offset : Nat) : Nat := offset / 0x1000
def pagePlace (offset : Nat) : Nat := offset % 0x1000

/-- R275, R276: a doorbell write at a BAR2 offset, through a function, to a context that takes doorbells. Of a pair of words the
upper one is at an offset that the page does not assign, so that it is ignored. -/
def doorbell (s : State) (function offset : Nat) (enables : BitVec 8) (eff : Nat → Context → State → State) : Res :=
  if 0x1000000 ≤ offset then .fault .noSuchUnit
  else
    let c := ctxOf s (pageCtx offset)
    if wholeWords offset enables = true ∧ c.function = function ∧ (c.state = .active ∨ c.state = .broken) then .next (eff (pageCtx offset) c s)
    else .next s

/-- R275: the queue whose sq_tail stands at a place of the page. -/
def tailQueue (place : Nat) : Option Nat := if place < 0x20 ∧ place % 8 = 0 then some (place / 8) else none

/-- R276: DOORBELL_SQ_TAIL. -/
def execDoorbellSqTail (function offset : Nat) (value : BitVec 64) (enables : BitVec 8) (s : State) : Res :=
  doorbell s function offset enables (fun n c s =>
    match tailQueue (pagePlace offset) with
    | none => s
    | some queue =>
      let v := bits value.toNat 0 16
      let q := mget c.sq queue
      if q.log2 = 0 ∨ 2 ^ q.log2 ≤ v then badDoorbell s n queue (value.setWidth 32) else updSubq s n queue (fun q => { q with tail := v }))

/-- R276: DOORBELL_CQ_HEAD. -/
def execDoorbellCq (function offset : Nat) (value : BitVec 64) (enables : BitVec 8) (s : State) : Res :=
  doorbell s function offset enables (fun n c s =>
    let v := bits value.toNat 0 16
    if pagePlace offset ≠ 0x20 then s
    else if 2 ^ c.cq.log2 ≤ v then badDoorbell s n 4 (value.setWidth 32) else updCtx s n (fun c => { c with cq.head := v }))

/-- R296: DOORBELL_EQ_HEAD; drops since the last record are told first. In a broken context the value only merges into the
register (R235). -/
def execDoorbellEq (function offset : Nat) (value : BitVec 64) (enables : BitVec 8) (s : State) : Res :=
  doorbell s function offset enables (fun n c s =>
    let v := bits value.toNat 0 16
    if pagePlace offset ≠ 0x28 then s
    else if 2 ^ c.eq.log2 ≤ v then badDoorbell s n 5 (value.setWidth 32)
    else
      let s := updCtx s n (fun c => { c with eq.head := v })
      if c.state = .active then flushCtxLost s n else s)

/-- R298: a bad administrator index. -/
def badAdmDoorbell (s : State) (word : Nat) (v : W32) : State :=
  let s := addF s qfDbBad
  if dbEventDue s s.front.admDbEventAt then eventAdm { s with front.admDbEventAt := some (now s) } 0 (dbEvent word v) else s

/-- R298: ADMQ_TAIL_WRITE. -/
def execAdmqTailWrite (value : W32) (s : State) : Res :=
  let v := bits value.toNat 0 16
  hostWrite s (fun s => if admDepth s qfAdmqLog2 16 ≤ v then badAdmDoorbell s 6 value else setF s qfAdmqTail v)

/-- R298: ADMCQ_HEAD_WRITE. -/
def execAdmcqHeadWrite (value : W32) (s : State) : Res :=
  let v := bits value.toNat 0 16
  hostWrite s (fun s => if admDepth s qfAdmcqLog2 16 ≤ v then badAdmDoorbell s 7 value else setF s qfAdmcqHead v)

/-- R298: ADMEQ_HEAD_WRITE. -/
def execAdmeqHeadWrite (value : W32) (s : State) : Res :=
  let v := bits value.toNat 0 16
  hostWrite s (fun s => if admDepth s qfAdmeqLog2 12 ≤ v then badAdmDoorbell s 8 value else flushAdmLost (setF s qfAdmeqHead v))

/-! ### Fetch (R277, R316) -/

/-- R277: completion entries reserved or in use of a context. -/
def cqReserved (s : State) (n : Nat) : Nat :=
  let c := ctxOf s n
  c.sq.foldl (fun a q => a + q.2.fetched.length) 0 +
  (s.front.jobs.filter (fun e => !e.2.admin && e.2.ctx == n && e.2.parent.isNone)).length +
  c.holding.length + ringUsed (2 ^ c.cq.log2) c.cq.head c.cq.tail

/-- R40: does the front end fetch and dispatch? -/
def frontRuns (s : State) : Bool := !s.bound.fetchStopped && !s.bound.noAction

/-- R277: may a queue fetch its next descriptor? Fetch waits for the end of a partition reset (R261). -/
def mayFetch (s : State) (n q : Nat) : Bool :=
  let c := ctxOf s n
  let x := mget c.sq q
  let window := x.recent.filter (fun t => decide (now s < t + 1024))
  c.state == .active && frontRuns s && x.log2 != 0 && !x.stopped && x.tail != x.head && decide (x.fetched.length < 8) &&
  decide (window.length < (if x.fetchLimit = 0 then 64 else x.fetchLimit)) && decide (cqReserved s n < 2 ^ c.cq.log2 - 1) &&
  (partOf s c.partition).resetUntil.isNone

/-- The lowest queue of a context with a property. -/
def lowestQueue (p : Nat → Bool) : Option Nat := firstBelow 4 p

/-- R316: round robin: the next of a rising list after the one served last. -/
def nextTurn (turn : Nat) (l : List Nat) : Option Nat :=
  match l.find? (fun n => decide (turn < n)) with
  | some n => some n
  | none => l.head?

/-- R277, R236: a slot that does not translate is a job fault of the context. -/
def fetchFault (s : State) (n q va : Nat) (code : Code) : State :=
  let c := ctxOf s n
  let s := updSubq s n q (fun x => { x with stopped := true })
  ctxFault (addF (fqPost s { kind := 3, code := code, pasid := c.pasid, ctx := n, va := va, requester := reqFront }) tuCtxFaults) n code

/-- R277: fetch one descriptor of a queue. -/
def fetchOne (s : State) (n q : Nat) : State :=
  let x := subqOf s n q
  let va := x.va.toNat + 64 * x.head
  let s := { s with front.fetchTurn := n }
  let (code, bs) := vaRead s n va 64
  if code ≠ 0 then fetchFault s n q va code
  else
    let s := updSubq (noteRing (touchRead s engFront n va 64) n va false) n q (fun x =>
      { x with
        head := (x.head + 1) % 2 ^ x.log2
        fetched := x.fetched ++ [{ raw := bs, slot := x.head, submit := now s }]
        recent := x.recent.filter (fun t => decide (now s < t + 1024)) ++ [now s] })
    toHead (addF64 s qfFetchedLo) n q

/-- R298: completion entries reserved or in use of the administrator queue. -/
def admReserved (s : State) : Nat :=
  s.front.admFetched.length + (s.front.jobs.filter (fun e => e.2.admin)).length +
  ringUsed (admDepth s qfAdmcqLog2 16) (getF s qfAdmcqHead) (getF s qfAdmcqTail)

/-- R298: the first administrator descriptor reaches the head of its queue. -/
def admHead (s : State) : State :=
  match s.front.admFetched with
  | [] => s
  | d :: rest =>
    if d.headAt.isSome then s
    else { s with front.admFetched := { d with headAt := some (now s), headCode := headCheck s none d } :: rest }

/-- R298: fetch one administrator descriptor from host memory. -/
def fetchAdm (s : State) : State :=
  let depth := admDepth s qfAdmqLog2 16
  let h := getF s qfAdmqHead
  if frontRuns s && getF s qfAdmqTail != h && decide (s.front.admFetched.length < 8) && decide (admReserved s < admDepth s qfAdmcqLog2 16 - 1) then
    let bs := rdBytes s.mem.host (getF64 s qfAdmqLo + 64 * h) 64
    let s := setF s qfAdmqHead ((h + 1) % depth)
    admHead (addF64 { s with front.admFetched := s.front.admFetched ++ [{ raw := bs, slot := h, submit := now s }] } qfFetchedLo)
  else s

/-- R277: DESCRIPTOR_FETCH. -/
def execDescriptorFetch (admin : Bool) (s : State) : Res :=
  if admin then .next (if s.bound.stage = 2 then fetchAdm s else s)
  else
    let l := (mkeys s.front.ctxs).filter (fun n => (lowestQueue (mayFetch s n)).isSome)
    match nextTurn s.front.fetchTurn l with
    | none => .next s
    | some n => match lowestQueue (mayFetch s n) with
      | none => .next s
      | some q => .next (fetchOne s n q)

/-! ### Dispatch (R278, R284, R316) -/

/-- R278: is the block's dispatch slot free? A dispatched command whose effect is still to come holds the next one back. -/
def slotFree (s : State) : Bool :=
  s.front.executing.isNone && frontRuns s && (match s.front.lastDispatch with | none => true | some t => decide (t + 4 ≤ now s))

/-- What stands at the head of a queue. -/
inductive HeadItem where
  /-- the queue is empty. -/
  | nothing
  /-- an operation of an exec-buffer that cannot be read (R286). -/
  | unreadable (job : Nat) (code : Code)
  /-- a descriptor, and the exec-buffer it is an operation of. -/
  | item (d : Desc) (parent : Option Nat)
  deriving DecidableEq, Repr, Inhabited

/-- R286: where an operation of an exec-buffer lies. -/
def opAddr (s : State) (j : Job) (k : Nat) : Nat := (objOf s (hIndex (d8 j.desc 0x20))).va.toNat + dOff j.desc 0x28 + 64 * k

/-- The head of a queue: the next operation of the buffer being dispatched, else the first fetched descriptor. -/
def headItem (s : State) (n q : Nat) : HeadItem :=
  let x := subqOf s n q
  match x.buffer with
  | some j =>
    match jobOf s j with
    | none => .nothing
    | some b =>
      let (code, bs) := vaRead s n (opAddr s b b.opNext) 64
      if code ≠ 0 then .unreadable j code
      else
        let d : Desc := { raw := bs, slot := b.desc.slot, submit := b.desc.submit }
        .item { d with headCode := headCheck s (some n) d } (some j)
  | none =>
    match x.fetched with
    | [] => .nothing
    | d :: _ => .item d none

/-- How the descriptor at a head stands. -/
inductive HeadState where
  | held
  | refused (code : Code)
  | waitFailed (code : Code) (origin : Nat)
  | ready
  deriving DecidableEq, Repr, Inhabited

/-- R278: has an earlier command of the queue, or an earlier operation of the buffer, not retired? -/
def earlierLive (s : State) (admin : Bool) (n q : Nat) (parent : Option Nat) : Bool :=
  s.front.jobs.any (fun e => e.2.admin == admin && e.2.ctx == n && e.2.queue == q && e.2.parent == parent)

/-- R284: the wait of a descriptor that has stood at its head since `headAt`. -/
def headWait (s : State) (d : Desc) : WaitResult := waitResult (fenceOf s (dWaitFence d)) (now s) (d.headAt.getD (now s)) (dWaitValue d)

/-- R274, R278, R284: does the command at a head go, wait or end? -/
def headState (s : State) (admin : Bool) (n q : Nat) (parent : Option Nat) (d : Desc) : HeadState :=
  let f := fenceOf s (dWaitFence d)
  let w := if dWaitEn d then headWait s d else .satisfied
  if d.headCode ≠ 0 then .refused d.headCode
  else if w = .held then .held
  else if w = .failed ∧ dIgnoreErr d = false then .waitFailed f.error f.origin
  else if dSerial d && earlierLive s admin n q parent then .held
  else .ready

/-- R278: can a queue use a dispatch slot? -/
def mayDispatch (s : State) (n q : Nat) : Bool :=
  (ctxOf s n).state == .active &&
  (match headItem s n q with
  | .nothing => false
  | .unreadable _ _ => true
  | .item d parent => headState s false n q parent d != .held)

/-- R286: an exec-buffer whose every operation has retired and of which none is to be dispatched is complete. -/
def bufferDone (s : State) (j : Nat) : State :=
  match jobOf s j with
  | none => s
  | some b => if b.opLive = 0 ∧ (subqOf s b.ctx b.queue).buffer ≠ some j then finishJob s j b.code else s

/-- R286: the buffer at a queue's head dispatches nothing more; the queue's next command reaches the head. -/
def closeBuffer (s : State) (n q : Nat) : State := toHead (updSubq s n q (fun x => { x with buffer := none })) n q

/-- R278: the item at a queue's head leaves it. -/
def takeHead (s : State) (n q : Nat) (parent : Option Nat) : State :=
  match parent with
  | none => updSubq s n q (fun x => { x with fetched := x.fetched.drop 1 })
  | some j =>
    let s := updJob s j (fun b => { b with opNext := b.opNext + 1, opLive := b.opLive + 1 })
    match jobOf s j with
    | none => s
    | some b => if dLen b.desc ≤ b.opNext then closeBuffer s n q else s

/-- A command takes a dispatch slot: its record. -/
def newJob (s : State) (j : Job) : State := { (putJob s s.front.jobNext j) with front.jobNext := s.front.jobNext + 1, front.lastDispatch := some (now s) }

/-- R278: a command that retires without dispatching. -/
def retireUndispatched (s : State) (j : Job) (code : Code) (origin : Option Nat) : State :=
  newJob s { j with status := .done, code := code, errOrigin := origin }

/-- R274, R287, R288: why a launch-step is refused at dispatch: the wrong kind of program for the context (0x0102); a variant that
the program does not have (log 43), a count without a period, or no launch tick for a group program (0x0101). -/
def launchRefusal (s : State) (n : Nat) (d : Desc) : Code :=
  if dOpcode d ≠ 4 then 0
  else match mfind s.steps.programs (hIndex (d8 d 0x20)) with
    | none => 0x0301
    | some g =>
      if imgGroup g.image ≠ (ctxOf s n).group then 0x0102
      else if imgVariants g.image ≤ bits (d8 d 0x30) 0 4 ∨ (1 < dLen d ∧ imgPeriod g.image = 0) ∨
          (imgGroup g.image = true ∧ d8 d 0x28 = 0) then 0x0101
      else 0

/-- The first of two codes that refuses. -/
def firstCode (a b : Code) : Code := if a ≠ 0 then a else b

/-- R243, R245, R278: dispatch a command: its handles are checked, its references taken. -/
def dispatchJob (s : State) (j : Job) : State :=
  let k := if j.admin then 0 else firstCode (handleCheck s j.ctx j.desc) (launchRefusal s j.ctx j.desc)
  if k ≠ 0 then addF (retireUndispatched s j k none) qfRefused
  else
    let refs := descRefs j.admin j.desc
    let n := s.front.jobNext
    let s := newJob s { j with start := if dOpcode j.desc = 4 then none else some (now s), refs := refs }
    takeRefs (addF64 { s with front.executing := some n } qfDispatchedLo) refs

/-- R278: the item at a head uses a dispatch slot. -/
def dispatchItem (s : State) (j : Job) (h : HeadState) : State :=
  match h with
  | .held => s
  | .refused c => if c = 0x0401 then retireUndispatched s j c none else addF (retireUndispatched s j c none) qfRefused
  | .waitFailed c o => retireUndispatched s j c (some o)
  | .ready => dispatchJob s j

/-- R278: serve a queue of a context. -/
def dispatchQueue (s : State) (n q : Nat) : State :=
  let s := { s with front.dispatchTurn := n }
  match headItem s n q with
  | .nothing => s
  | .unreadable j code =>
    bufferDone (closeBuffer { (updJob s j (fun b => { b with code := code })) with front.lastDispatch := some (now s) } n q) j
  | .item d parent =>
    let j : Job := { admin := false, ctx := n, queue := q, desc := d, parent := parent, timerAt := d.headAt.getD 0 + d.paused, limit := d.limit }
    let h := headState s false n q parent d
    let s' := dispatchItem (takeHead s n q parent) j h
    if dOpcode d = 3 ∧ s'.front.executing.isSome then s' else toHead s' n q

/-- R298: serve the administrator queue. -/
def dispatchAdm (s : State) : State :=
  match s.front.admFetched with
  | [] => s
  | d :: rest =>
    match headState s true 0 0 none d with
    | .held => s
    | h => dispatchItem (admHead { s with front.admFetched := rest }) { admin := true, ctx := 0, queue := 0, desc := d } h

/-- R278: DISPATCH: the block's next dispatch slot. -/
def execDispatch (admin : Bool) (s : State) : Res :=
  if slotFree s then
    if admin then .next (dispatchAdm s)
    else
      let l := (mkeys s.front.ctxs).filter (fun n => (lowestQueue (mayDispatch s n)).isSome)
      match nextTurn s.front.dispatchTurn l with
      | none => .next s
      | some n => match lowestQueue (mayDispatch s n) with
        | none => .next s
        | some q => .next (dispatchQueue s n q)
  else .next s

/-! ### Retirement (R279 to R281, R292) -/

/-- R292: place an entry in the holding ring, or lose it to the overflow fault. -/
def holdEntry (s : State) (n : Nat) (e : Bool × List Byte) : State :=
  if 8 ≤ (ctxOf s n).holding.length then ctxFault s n 0x0108
  else addF (updCtx s n (fun c => { c with holding := c.holding ++ [e] })) qfHeld

/-- R292: the context breaks. -/
def breakCtx (s : State) (n va : Nat) (code : Code) : State :=
  let s := updCtx s n (fun c => { c with state := .broken, brokenAt := now s })
  eventAdm s n { type := 4, code := code, payload := leBytes 8 va }

/-- R279, R292: write a completion entry of a context. -/
def writeEntry (s : State) (n : Nat) (e : List Byte) (irq : Bool) : State :=
  let c := ctxOf s n
  if c.state = .free then s
  else if c.state = .broken then holdEntry s n (irq, e)
  else
    let va := c.cq.va.toNat + 32 * c.cq.tail
    let (code, s') := vaWrite s n va e
    if code ≠ 0 then (if c.state = .active then holdEntry (breakCtx s n va code) n (irq, e) else s)
    else
      let s' := updCtx (noteRing s' n va true) n (fun c => { c with cq := c.cq.push })
      if irq then requestVector s' c.cqVector else s'

/-- R298: write a completion entry of the administrator queue. -/
def writeAdmEntry (s : State) (e : List Byte) (irq : Bool) : State :=
  let d := admDepth s qfAdmcqLog2 16
  let t := getF s qfAdmcqTail
  let s := { s with mem.host := wrBytes s.mem.host (getF64 s qfAdmcqLo + 32 * t) e,
                    front.admCqWraps := if t + 1 = d then s.front.admCqWraps + 1 else s.front.admCqWraps }
  let s := setF s qfAdmcqTail ((t + 1) % d)
  if irq then requestVector s 0 else s

/-- R327: the accounting of a retired command. -/
def accountJob (s : State) (j : Job) : State :=
  if j.admin || j.parent.isSome then s
  else updCtx s j.ctx (fun c => { c with account.engine := (c.account.engine + j.engine) % 2 ^ 64,
                                         account.wait := (c.account.wait + (j.start.getD j.endAt - j.desc.submit)) % 2 ^ 64,
                                         account.slips := satAdd (2 ^ 32 - 1) c.account.slips (min 255 j.slips),
                                         sq := mmod c.sq j.queue (fun q => { q with retired := q.retired + 1 }) })

/-- R286: an operation of an exec-buffer has retired. -/
def retireOp (s : State) (j : Job) (parent : Nat) : State :=
  bufferDone (updJob s parent (fun b => { b with opLive := b.opLive - 1, code := if b.code = 0 then j.code else b.code,
                                                 engine := b.engine + j.engine, slips := b.slips + j.slips })) parent

/-- R402: an SRAM read of the front end: a held entry is lost with a job fault; a fence record is read again. -/
def frontEcc (s : State) (j : Job) (ecc : SramEcc) : State :=
  match ecc with
  | .good => s
  | .corrected => telemAdd s 14 1
  | .uncorrectable =>
    let c := ctxOf s j.ctx
    if j.admin = false ∧ c.state = .broken ∧ c.holding.isEmpty = false then
      ctxFault (sramUe (updCtx s j.ctx (fun c => { c with holding := c.holding.drop 1 })) 0 11 0 [j.ctx]) j.ctx 0x0702
    else sramUe s 0 11 0 []

/-- R279: retire a command: its fence, its completion entry, its interrupt. -/
def retire (s : State) (n : Nat) (j : Job) : State :=
  let j := { j with endAt := now s, engine := match j.servedAt with | some t => now s - t | none => j.engine }
  let s := if dOpcode j.desc = 4 ∧ j.code = 0 then s else settleFence s j
  let fv := if dSignalEn j.desc then (fenceOf s (dSignalFence j.desc)).value.toNat else 0
  let irq := dIrq j.desc || j.code != 0
  let s := match j.parent with
    | some p => retireOp s j p
    | none =>
      if j.admin then writeAdmEntry s (entryBytes j (getF s qfAdmqHead) (phaseBit s.front.admCqWraps) fv) irq
      else writeEntry s j.ctx (entryBytes j (subqOf s j.ctx j.queue).head (phaseBit (ctxOf s j.ctx).cq.wraps) fv) irq
  let s := accountJob (dropRefs s j.refs) j
  let s := { s with front.jobs := mdel s.front.jobs n }
  match j.copyEngine with
  | some e => runEngine s e
  | none => s

/-- R279: COMMAND_RETIRE. -/
def execCommandRetire (job : Nat) (ecc : SramEcc) (s : State) : Res :=
  match jobOf s job with
  | none => .next s
  | some j => if j.status = .done then .next (retire (frontEcc s j ecc) job j) else .next s

/-! ### Timeouts (R289 to R291) -/

/-- R291: the wait on which the command at a queue's head is held. -/
def heldWait (s : State) (n q : Nat) : Option (Nat × Nat × Nat) :=
  match headItem s n q with
  | .item d parent =>
    if dWaitEn d ∧ d.headCode = 0 ∧ headState s false n q parent d = .held ∧ headWait s d = .held then
      some (dWaitFence d, dWaitValue d, if dSignalEn d then dSignalFence d else 2 ^ 32)
    else none
  | _ => none

/-- R291: the wait of a queue-head command that signals a fence. -/
def waitBehind (s : State) (fence : Nat) : Option (Nat × Nat) :=
  (((mkeys s.front.ctxs).flatMap (fun n => (List.range 4).map (fun q => (n, q)))).filterMap (fun p => heldWait s p.1 p.2)).findSome?
    (fun w => if w.2.2 = fence then some (w.1, w.2.1) else none)

/-- R291: the chain of waits, up to four pairs, no fence twice. -/
def waitChain (s : State) (fuel : Nat) (acc : List (Nat × Nat)) (fence : Nat) : List (Nat × Nat) :=
  match fuel with
  | 0 => acc
  | k + 1 =>
    match waitBehind s fence with
    | none => acc
    | some w => if acc.any (fun x => x.1 == w.1) then acc else waitChain s k (acc ++ [w]) w.1

/-- R291, R297: the stalled_wait event. -/
def stalledEvent (s : State) (w : Nat × Nat) : Event :=
  let l := waitChain s 3 [w] w.1
  { type := 3, code := 0x0401,
    payload := (l ++ List.replicate (4 - l.length) (0xFFFFFFFF, 0)).flatMap (fun (p : Nat × Nat) => leBytes 4 p.1 ++ leBytes 8 p.2) }

/-- R290: a command held at the head of its queue expires: it retires in the next free dispatch slot. -/
def expireHead (s : State) (n q : Nat) : State :=
  match (subqOf s n q).fetched, (subqOf s n q).buffer with
  | d :: rest, none =>
    match d.headAt with
    | none => s
    | some t =>
      if d.headCode = 0 ∧ t + d.paused + d.limit ≤ now s then
        let s := match heldWait s n q with | some w => eventCtx s n (stalledEvent s (w.1, w.2.1)) | none => s
        addF (updSubq s n q (fun x => { x with fetched := { d with headCode := 0x0401 } :: rest })) qfTimeouts
      else s
  | _, _ => s

/-- R290: end the step of a launch-step, running or suspended, and its submission. -/
def cutLaunch (s : State) (n j : Nat) (code : Code) : State :=
  let p := (ctxOf s n).partition
  let mine := s.steps.suspended.filter (fun e => e.2.job == j)
  let progs := (s.steps.subs.filter (fun u => u.job == j)).map (fun u => u.program)
  let s := { s with steps.suspended := s.steps.suspended.filter (fun e => e.2.job != j) }
  let s := each mine (fun e s => greyStepEnd (settleStep s e.2 code) e.2) s
  let s := match runOf s p with
    | some r => if r.job = j then stepFail s p code else s
    | none => s
  let s := updPart (dropSub s j) p (fun x => { x with slips := x.slips.filter (fun m => m.job != some j) })
  each progs (fun i s => unloadDone s i) (earlyRelease (finishJob s j code) p)

/-- R290: a running copy, fill or update is cut short. -/
def cutCopy (s : State) (j : Nat) (code : Code) : State :=
  finishJob (detachPage { s with upd.held := s.upd.held.filter (fun r => r.job != some j) } j) j code

/-- R290: end one command with a code. -/
def cutJob (s : State) (j : Nat) (x : Job) (code : Code) : State :=
  match dOpcode x.desc with
  | 4 => cutLaunch s x.ctx j code
  | _ => cutCopy s j code

/-- R290: end an exec-buffer: the running operations are cut short, later ones do not dispatch. -/
def cutBuffer (s : State) (j : Nat) (x : Job) (code : Code) : State :=
  let s := updJob s j (fun b => { b with code := code, limit := 0 })
  let s := if (subqOf s x.ctx x.queue).buffer = some j then closeBuffer s x.ctx x.queue else s
  let ops := s.front.jobs.filter (fun e => e.2.parent == some j && e.2.status != .done)
  bufferDone (each ops (fun e s => cutJob s e.1 e.2 code) s) j

/-- R290: the timer of a dispatched command has expired. -/
def expireJob (s : State) (j : Nat) : State :=
  match jobOf s j with
  | none => s
  | some x =>
    if x.admin = false ∧ x.parent = none ∧ x.limit ≠ 0 ∧ x.status = .waiting ∧ x.timerAt + x.limit ≤ now s then
      let s := addF s qfTimeouts
      if dOpcode x.desc = 3 then cutBuffer s j x 0x0401 else cutJob s j x 0x0401
    else s

/-- R289, R290: QUEUE_TIMEOUT_CHECK: at every multiple of 1,024 ticks. The timers of a broken context's held descriptors
stand still. -/
def execQueueTimeoutCheck (s : State) : Res :=
  if now s % 1024 = 0 then
    let heads := ((s.front.ctxs.filter (fun e => e.2.state == .active)).map (·.1)).flatMap (fun n => (List.range 4).map (fun q => (n, q)))
    let s := each heads (fun (p : Nat × Nat) s => expireHead s p.1 p.2) s
    .next (each (mkeys s.front.jobs) (fun j s => expireJob s j) s)
  else .next s

/-- R294: MSIX_MODERATION_EXPIRE. -/
def execMsixModerationExpire (vector : Nat) (s : State) : Res :=
  if 2048 ≤ vector then .fault .noSuchUnit
  else
    let x := mget s.front.vectors vector
    let due := match x.lastAt with | none => true | some t => decide (t + 64 * getF s qfInterval vector ≤ now s)
    if x.pending && due then
      let s := { s with front.vectors := mset s.front.vectors vector { x with pending := false, lastAt := none } }
      .next (requestVector s vector)
    else .next s

end Sys2Proof.Machine
end

