-- ==== Sys2Proof/Machine/Cap.lean ====
section
/-! DEFINITION. The units of a variant, and the capability table (R263 to R266). -/

namespace Sys2Proof.Machine

/-! ### Units present and out (R2, R13, R394) -/

/-! ### Entries (R266) -/

/-- R263: an entry: its type, its length and its value. -/
def capEntry (type : Nat) (value : List Byte) : List Byte := leBytes 2 type ++ leBytes 2 (4 + value.length) ++ value

/-- R217: LK_COORD. -/
def coordWord (s : State) : Nat :=
  let r := s.start.record
  if variantOf s = .jujorS then 0
  else packCoord r.coord + (r.extent.x - 1) % 64 * 2 ^ 16 + (r.extent.y - 1) % 32 * 2 ^ 22 + (r.extent.z - 1) % 32 * 2 ^ 27

def capUnits (s : State) : List Byte :=
  let v := variantOf s
  leBytes 1 (variantCores v / 8) ++ leBytes 1 (countBelow 64 (corePresent s)) ++ leBytes 1 (countBelow 64 (coreActive s)) ++
  leBytes 1 (countBelow 20 (stackPresent s)) ++ leBytes 2 (lanesActive s) ++ leBytes 1 (countBelow 48 (portPresent s)) ++
  leBytes 1 (countBelow 60 (portPresent s) - countBelow 48 (portPresent s)) ++ leBytes 2 (crimsonUnits s) ++
  leBytes 1 (countBelow 64 (corePresent s)) ++ leBytes 1 16 ++ leBytes 1 4 ++ leBytes 1 (if v = .jujorS then 0 else 64) ++ leBytes 2 0

def capOut (s : State) : List Byte :=
  leBytes 8 (maskOf 64 (coreOut s)) ++ leBytes 8 (maskOf 60 (fun q => (portOf s q).out)) ++ leBytes 4 s.bound.stackLost.toNat ++
  (List.range 20).map (fun g => BitVec.ofNat 8 (mget (shadowOf s).sparesUsed g)) ++
  (List.range 320).map (fun i => BitVec.ofNat 8 (maskOf 8 (fun b => s.emb.lanesOut.contains (8 * i + b))))

/-- R161, R63, R66: the formats; Jujor-S has the matrix and convolution modes only (R2, R4). -/
def capFormats (s : State) : List Byte :=
  leBytes 2 0xFFFF ++ leBytes 2 (if variantOf s = .jujorS then 0x0081 else 0x3FFF) ++ leBytes 2 0x3F ++ leBytes 1 0x1F ++ leBytes 1 0

def capTopology (s : State) : List Byte :=
  leBytes 4 (b2n (memberBit s) + s.start.record.skip % 32 * 2) ++ leBytes 4 (coordWord s) ++
  leBytes 4 (getF s tbDomainB + getF s tbDiameter * 2 ^ 16) ++
  (List.range 4).flatMap (fun k => leBytes 2 (match s.start.record.ranks.getD k none with | some c => packCoord c | none => 0xFFFF))

def capPort (s : State) (q : Nat) : List Byte :=
  let x := portOf s q
  let st := if portPresent s q = false then 0 else if x.out then 3 else if x.up then 2 else 1
  let (c, k) := x.peer.getD ({}, 0)
  leBytes 8 (st + b2n (bit s.start.record.allowed.toNat q) * 4 + b2n x.overBudget * 8 + x.flight * 2 ^ 8 + packCoord c * 2 ^ 16 + k * 2 ^ 32)

/-- R266: the partitions that exist, rising; their blocks begin after one word. -/
def capPartition (s : State) (p : Nat) : List Byte :=
  let x := partOf s p
  leBytes 8 x.coreMask.toNat ++ leBytes 12 x.luMask.toNat ++ leBytes 4 ((s.parts.pageOwn.filter (fun e => e.2 == p)).length) ++
  (match x.group with
    | some g => leBytes 2 g.number ++ leBytes 2 g.blocks.length ++ leBytes 2 g.index ++ leBytes 2 (groupLead s p)
    | none => leBytes 2 0xFFFF ++ leBytes 6 0) ++
  leBytes 8 (b2n (x.state == .failed))

def partsPresent (s : State) : List Nat := (List.range 64).filter (fun p => (partOf s p).state != .absent)

def capTranslation (s : State) : List Byte :=
  let f := getF s tuForerunner
  leBytes 4 (56 + 52 * 2 ^ 8 + f * 2 ^ 16) ++ leBytes 4 (2 ^ 25 + 2 ^ 30 + f * 2 ^ 12)

def capLimits : List Byte :=
  [4096, 4, 64, 65536, 4096, 1048576, 65536, 1048576, 65536, 65536, 4096, 256, 256, 16, 4096].flatMap (leBytes 4)

/-- R231: the profiles of the variant. -/
def capProfiles (s : State) : List Byte :=
  let ids := [0x0101, 0x0102, 0x0103, 0x0104, 0x0105] ++ (if variantOf s = .jujorS then [] else [0x0106]) ++ [0x0107]
  leBytes 4 (2 * 2 ^ 16 + 1 * 2 ^ 24) ++ ids.flatMap (fun i => leBytes 4 (i + 2 ^ 16))

def capLatencies : List Byte := [8, 134, 480, 48, 105, 40, 200, 64].flatMap (leBytes 2)

def capStack (s : State) (t : Nat) : List Byte :=
  if stackPresent s t = false then leBytes 4 0
  else if bit s.bound.stackLost.toNat t then leBytes 4 (2 * 2 ^ 16)
  else leBytes 4 (stackGiB s t + bits (mget s.bound.spCfg t).toNat 8 8 * 2 ^ 8 + b2n (bit s.bound.stackUp.toNat t) * 2 ^ 16)

def capPower (s : State) : List Byte :=
  leBytes 4 ((shadowOf s).powerCeiling + getF s bcRecordCeiling * 2 ^ 16) ++ leBytes 4 (getF s bcEffectiveW)

/-- R266: the entries, and the one that ends the list. -/
def capEntries (s : State) : List Byte :=
  let f := shadowOf s
  capEntry 0x0001 (leBytes 2 0x0117 ++ leBytes 2 0x4A4A ++ leBytes 4 (f.stepping.toNat + s.start.record.fwVersion % 2 ^ 24 * 2 ^ 8) ++ leBytes 8 f.serial.toNat) ++
  capEntry 0x0002 (leBytes 4 (match variantOf s with | .jujorL => 0 | .jujorM => 1 | .jujorS => 2)) ++
  capEntry 0x0003 (capUnits s) ++ capEntry 0x0004 (capOut s) ++ capEntry 0x0005 (capFormats s) ++ capEntry 0x0006 (capTopology s) ++
  capEntry 0x0007 ((List.range 60).flatMap (capPort s)) ++
  capEntry 0x0008 (leBytes 4 (partsPresent s).length ++ (partsPresent s).flatMap (capPartition s)) ++
  capEntry 0x0009 (capTranslation s) ++ capEntry 0x000A capLimits ++ capEntry 0x000B (capProfiles s) ++ capEntry 0x000C capLatencies ++
  capEntry 0x000D ((List.range 20).flatMap (capStack s)) ++ capEntry 0x000E (capPower s) ++ capEntry 0x0000 []

/-- R264: the entries as the last rewrite left them; before the first rewrite, as the block stands (log 157). -/
def capShown (s : State) : List Byte := if s.front.capImage.isEmpty then capEntries s else s.front.capImage

/-- R263: the table with its header. -/
def capTable (s : State) : List Byte :=
  let e := capShown s
  leBytes 4 0x4A434150 ++ leBytes 4 0x0001 ++ leBytes 4 s.front.capGen ++ leBytes 4 (b2n s.front.capBusy) ++ leBytes 4 e.length ++ leBytes 12 0 ++ e

/-! ### Copies of the table (R263, R264) -/

/-- R263, R273: a query-capabilities command writes min(len, table size) bytes. -/
def serveCap (s : State) (j : Nat) : State :=
  match jobOf s j with
  | none => s
  | some x =>
    let bs := (capTable s).take (dLen x.desc)
    if x.admin then finishJob { s with mem.host := wrBytes s.mem.host (d8 x.desc 0x20 + dOff x.desc 0x28) bs } j 0
    else
      let (code, va) := objRange s (d8 x.desc 0x20) (dOff x.desc 0x28) bs.length
      if code ≠ 0 then finishJob s j code
      else
        let w := vaWrite s x.ctx va bs
        finishJob (if w.1 = 0 then w.2 else s) j w.1

/-- R263, R264: QUERY_CAPABILITIES: a busy table is waited for. -/
def execQueryCapabilities (job : Nat) (s : State) : Res :=
  runJob s job 0x14 (fun _ s =>
    if s.front.capBusy then awaitJob { s with front.capJobs := s.front.capJobs ++ [job] } job else serveCap s job)

/-- R264, R307: a command that waits for the rewrite: a query copies the table, a load-group is complete. -/
def capJobDone (s : State) (j : Nat) : State :=
  if dOpcode (jobDesc s j) = 0x85 then finishJob s j 0 else serveCap s j

/-- R264: CAPABILITY_REWRITE_DONE: the generation rises and busy clears; changes of a later tick make another rewrite. -/
def execCapabilityRewriteDone (s : State) : Res :=
  if s.front.capBusy then
    let s := { s with front.capGen := (s.front.capGen + 1) % 2 ^ 32, front.capImage := capEntries s }
    if s.front.capMore then .next { s with front.capMore := false, front.capAt := now s }
    else .next (each s.front.capJobs (fun j s => capJobDone s j) { s with front.capBusy := false, front.capJobs := [] })
  else .next s

end Sys2Proof.Machine
end

