-- ==== Sys2Proof/Machine/Boundary.lean ====
section
/-! DEFINITION. What applies at a step boundary (R306): cores and resizes (R303, R309), revocations (R310), destroyed
partitions (R311), binds and unbinds (R56), quota and crimson visibility (R71, R75), slot ownership (R205, R210), filters
(R102), page-map walks (R352), epochs (R105, R106). -/

namespace Sys2Proof.Machine

/-! ### Code in program memory (R180, R309) -/

/-- The section of this block in a program of a partition. -/
def progBlock (s : State) (p : Nat) (m : Img) : Nat := if imgGroup m then blockIndex s p else 0

/-- R180: the tasks of every variant of this block's section, a code segment counted once. -/
def progTasks (s : State) (p : Nat) (m : Img) : List Task :=
  ((List.range (imgVariants m)).flatMap (fun v => imgTasks m (varEntry m (progBlock s p m) v))).foldl
    (fun l t => if l.any (fun x => x.entry == t.entry && x.core == t.core && x.codeOffset == t.codeOffset && x.codeBytes == t.codeBytes) then l else l ++ [t]) []

/-- R180: the cores that receive a task's code. -/
def codeCores (s : State) (p : Nat) (t : Task) : List Nat := if t.core = 0xFF then partCores s p else (coreAt s p t.core).toList

/-- R180, R315: copy a program's code into program memory, within the context's window. -/
def copyCode (s : State) (p n : Nat) (m : Img) : State :=
  let base := (ctxOf s n).sramBase * 16384
  each (progTasks s p m) (fun t s => each (codeCores s p t) (fun c s =>
    putCore s c { coreOf s c with prog := wrBytes (coreOf s c).prog (base + 16 * t.entry) ((m.drop t.codeOffset).take t.codeBytes) }) s) s

/-- The loaded programs of a partition. -/
def partPrograms (s : State) (p : Nat) : List Program := (s.steps.programs.filter (fun e => e.2.part == p)).map (·.2)

/-- R309: the code bytes that a core receives. -/
def coreCodeBytes (s : State) (p c : Nat) : Nat :=
  (partPrograms s p).foldl (fun n g => n + ((progTasks s p g.image).filter (fun t => (codeCores s p t).contains c)).foldl (fun k t => k + t.codeBytes) 0) 0

/-- R309: copy the code of every loaded program for the new numbering; launches are held while it lasts. -/
def recopy (s : State) (p : Nat) : State :=
  let most := (partCores s p).foldl (fun n c => max n (coreCodeBytes s p c)) 0
  let s := each (partPrograms s p) (fun g s => copyCode s p g.ctx g.image) s
  updPart s p (fun x => { x with copyUntil := now s + cdiv most 64 })

/-! ### Masks (R303, R308, R309) -/

/-- A unit of another partition. -/
def coreTaken (s : State) (p c : Nat) : Bool := s.parts.parts.any (fun e => e.1 != p && bit e.2.coreMask.toNat c)
def luTaken (s : State) (p g : Nat) : Bool :=
  s.parts.parts.any (fun e => e.1 != p && (bit e.2.luMask.toNat g || (match e.2.resizeRest with | some (b, _) => bit b.luMask.toNat g | none => false)))

/-- R303, R308: the checks of a partition block's masks; a lane unit that is marked out cannot be added. -/
def masksOk (s : State) (b : PartBlock) : Bool :=
  let p := b.partition
  b.coreMask != 0 && (maskList 64 b.coreMask.toNat).all (fun c => coreActive s c && !coreTaken s p c) &&
  (maskList 80 b.luMask.toNat).all (fun g => stackPresent s (g / 4) && !bit s.bound.stackLost.toNat (g / 4) && !luTaken s p g &&
    (!s.emb.laneUnitsOut.contains g || bit (partOf s p).luMask.toNat g))

/-- R309: a lane unit leaves while a page in it is granted to the partition. -/
def luLeavesPages (s : State) (b : PartBlock) : Bool :=
  (maskList 80 (partOf s b.partition).luMask.toNat).any (fun g => !bit b.luMask.toNat g && s.parts.pageOwn.any (fun e => e.2 == b.partition && e.1 / 512 == g))

def resizeOk (s : State) (b : PartBlock) : Bool := masksOk s b && !luLeavesPages s b

/-- R328: a resize clears the calibrations of a partition. -/
def clearCalib (s : State) (p : Nat) : State := each (ctxsOf s p) (fun n s => updCtx s n (fun c => { c with calib := [], windows := [] })) s

/-- R309: the masks, slice length and threshold of a block. -/
def setMasks (s : State) (b : PartBlock) : State :=
  updPart s b.partition (fun x => { x with coreMask := b.coreMask, luMask := b.luMask, sliceUnits := if b.sliceUnits = 0 then 684 else b.sliceUnits,
                                           slowThr := if b.slowThr = 0 then 1250 else b.slowThr })

/-- R309 steps 3 and 4: once the code is copied, the lane units change owner, the generation advances and the command signals. -/
def finishResize (s : State) (p : Nat) : State :=
  match (partOf s p).resizeRest with
  | none => s
  | some (b, j) =>
    if now s < (partOf s p).copyUntil then s
    else finishJob (capChange (updPart s p (fun x => { x with luMask := b.luMask, resizeRest := none })) [p]) j 0

/-- R309: a resize at the boundary, checked again: cores change, and code is copied for the new numbering. -/
def applyResize (s : State) (p : Nat) : State :=
  match (partOf s p).resize with
  | none => s
  | some (b, j) =>
    let s := updPart s p (fun x => { x with resize := none })
    if resizeOk s b then
      let s := recopy (clearCalib (setMasks s { b with luMask := (partOf s p).luMask }) p) p
      finishResize (updPart s p (fun x => { x with resizeRest := some (b, j) })) p
    else finishJob s j 0x0101

/-- R303: cores marked out while owned leave; numbers are reassigned, and code is placed for them (log 36). -/
def applyCoresOut (s : State) (p : Nat) : State :=
  let x := partOf s p
  if x.coresOut = 0 then s
  else recopy (updPart s p (fun x => { x with coreMask := x.coreMask &&& ~~~x.coresOut, coresOut := 0 })) p

/-! ### Revocations and destroyed partitions (R310, R311) -/

/-- An address range of pages that a cached translation reaches. -/
def TlbEntry.inPages (e : TlbEntry) (first count : Nat) : Bool :=
  !e.hostPage && (List.range count).any (fun i => let a := pageAddr (first + i); decide (e.pa < a + 2 ^ 25 ∧ a < e.pa + 2 ^ e.sizeLog2))

/-- R310: every cached translation to the pages is invalidated (log 35). -/
def dropPages (s : State) (first count : Nat) : State :=
  let keep := fun (l : List TlbEntry) => l.filter (fun e => !e.inPages first count)
  { s with trans.utlb := (s.trans.utlb.map (fun e => (e.1, keep e.2))).filter (fun e => !e.2.isEmpty),
           trans.l2 := (s.trans.l2.map (fun e => (e.1, keep e.2))).filter (fun e => !e.2.isEmpty), trans.atc := keep s.trans.atc }

/-- R310: the pages of the revocations are free. -/
def applyRevokes (s : State) (p : Nat) : State :=
  let l := (partOf s p).revokes
  let s := updPart s p (fun x => { x with revokes := [] })
  each l (fun r s =>
    let s := dropPages { s with parts.pageOwn := s.parts.pageOwn.filter (fun e => !decide (r.2.1 ≤ e.1 ∧ e.1 < r.2.1 + r.2.2.1)) } r.2.1 r.2.2.1
    let hit := (s.emb.pmap.filter (fun e => decide (r.2.1 ≤ e.2.page ∧ e.2.page < r.2.1 + r.2.2.1) && (ctxOf s e.2.ctx).partition == p)).map (·.1)
    finishJob (updPart s p (fun x => { x with rewalk := x.rewalk ++ hit.filter (fun i => i ∉ x.rewalk) })) r.1 0) s

/-- R311, R332: a partition's resources are released, and its registers read 0. -/
def applyDestroy (s : State) (p : Nat) : State :=
  match (partOf s p).destroyJob with
  | none => s
  | some j =>
    let s := { (putPart s p {}) with parts.pageOwn := s.parts.pageOwn.filter (fun e => e.2 != p),
                                     links.nocOwn := s.links.nocOwn.filter (fun e => e.2 != p), links.nocNext := s.links.nocNext.filter (fun e => e.2 != p),
                                     links.slotOwn := s.links.slotOwn.filter (fun e => e.2 != p), links.slotNext := s.links.slotNext.filter (fun e => e.2 != p) }
    let s := setF (setF (dropCrimson s (fun c => c.part == p)) eeQuotaUnits 0 p) tbGroupLead 0 p
    let s := each [qfSlices, qfPreempts, qfOverruns, qfOverrunTicks, qfShifts, qfClaimsLate] (fun f s => setF s f 0 p) s
    finishJob (capChange s []) j 0

/-! ### Tables (R56, R97, R98) -/

/-- R98: a twin table's bitmaps at its bind; with staging open the first catch-up is due. The bits past the last row are cleared
(DESIGN CHOICE, log 161). -/
def startTwin (s : State) (tid : Nat) (t : Table) : State :=
  let g := groupOf s (tdGroup t.desc)
  let n := dirtyBytes s t
  let ones := (List.range n).map (fun i => BitVec.ofNat 8 (maskOf 8 (fun b => decide (8 * i + b ≤ nLocal s t))))
  let k := n / 2 ^ 25 + 2
  let s := tabWriteN k (tabWriteN k s t (dirtyAt s t g.active) ones) t (dirtyAt s t (g.active + 1)) (List.replicate n 0)
  if g.staging = .opened then putTable { s with upd.catchup := s.upd.catchup ++ [tid] } tid { t with busy := true } else s

/-- R56: what a rebind leaves behind of the table bound before. -/
def dropOldTable (s : State) (tid : Nat) : State :=
  match tableOf s tid with
  | none => s
  | some x =>
    let s := unbindObj (freePmap s x.pages) x.obj
    let s := dropCrimson { s with emb.tables := mdel s.emb.tables tid, upd.catchup := s.upd.catchup.filter (· != tid),
                                  emb.promos := s.emb.promos.filter (fun q => q.table != tid) } (fun c => c.table == tid)
    each x.unbindJobs (fun j s => finishJob s j 0) s

/-- R98: the group of a bind that waited has been sealed, or has become another context's. -/
def bindStale (s : State) (t : Table) : Bool :=
  let x := groupOf s (tdGroup t.desc)
  x.valid && (x.ctx != t.ctx || x.staging == .sealed)

/-- R98: a bind that fails at its boundary leaves nothing behind. -/
def failBind (s : State) (t : Table) : State :=
  let s := trimMaps (unbindObj (freePmap s t.pages) t.obj) t.part
  match t.bindJob with
  | some j => finishJob s j 0x0A0B
  | none => s

/-- R56, R89: a bind takes effect; the first table of a group brings the group into being, its staging open. -/
def installTable (s : State) (tid : Nat) (t : Table) : State :=
  let old := tableOf s tid
  let s := dropOldTable s tid
  let g := tdGroup t.desc
  let s := if (groupOf s g).valid then s else { s with upd.groups := mset s.upd.groups g { valid := true, ctx := t.ctx, staging := .opened } }
  let s := putTable s tid { t with bindJob := none }
  let s := if tdDelta t.desc then s else startTwin s tid t
  let s := match old with | some o => if tdGroup o.desc = g then s else endGroup s (tdGroup o.desc) | none => s
  let s := trimMaps s t.part
  match t.bindJob with
  | some j => finishJob s j 0
  | none => s

/-- R56, R98: a bind at its boundary. -/
def installBind (s : State) (tid : Nat) (t : Table) : State := if bindStale s t then failBind s t else installTable s tid t

/-- R56: the binds and unbinds of a partition, the unbinds first (DESIGN CHOICE, log 161). -/
def applyTables (s : State) (p : Nat) : State :=
  let gone := (s.emb.tables.filter (fun e => e.2.part == p && e.2.unbinding)).map (·.1)
  let s := each gone (fun t s => releaseTable s t) s
  let mine := s.emb.binds.filter (fun e => e.2.part == p)
  each mine (fun e s => installBind s e.1 e.2) { s with emb.binds := s.emb.binds.filter (fun e => e.2.part != p) }

/-! ### Crimson tier, filters, slots, page map -/

/-- R71, R75: entries become visible, evicted ones leave, a reduced quota is applied. -/
def applyCrimson (s : State) (p : Nat) : State :=
  let s := dropCrimson s (fun c => c.part == p && c.evicted)
  let s := { s with emb.crimson := s.emb.crimson.map (fun c => if c.part = p then { c with visible := true } else c) }
  if (partOf s p).quotaDrop then fitQuota s.emb.crimson.length (updPart s p (fun x => { x with quotaDrop := false })) p else s

/-- R102: rebuilt filters of the table groups that no other partition still waits for; freed delta slots may be used again. -/
def applyFilters (s : State) (p : Nat) : State :=
  let l := (partOf s p).filterSwap
  let s := updPart s p (fun x => { x with filterSwap := [] })
  let s := each l (fun g s => if s.parts.parts.any (fun e => e.2.filterSwap.contains g) then s else swapFilter s g) s
  { s with emb.tables := s.emb.tables.map (fun e => if e.2.part = p then (e.1, { e.2 with deltaFree := [] }) else e) }

/-- R205: a write of ownership at a boundary of partition `p`: the owner loses the offset at its boundary, and the new one has it from
its own boundary on, once it is free. The owner now, and whether the write has taken its full effect. -/
def ownerStep (s : State) (p old new : Nat) : Nat × Bool :=
  let cur := if old = p ∧ new ≠ p then 0xFF else old
  if cur = new then (new, true)
  else if cur = 0xFF ∧ (new = p ∨ atBoundary s new = true) then (new, true)
  else (cur, false)

/-- R205, R210: the ownership after a boundary of a partition, and the writes that still wait. -/
def ownersAt (s : State) (p : Nat) (own next : SMap Nat) : SMap Nat × SMap Nat :=
  next.foldl (fun m e =>
    let x := ownerStep s p (mgetD 0xFF m.1 e.1) e.2
    (msetD 0xFF m.1 e.1 x.1, if x.2 then mdel m.2 e.1 else m.2)) (own, next)

/-- R205, R210: writes of ownership that concern the partition take effect at its boundary. -/
def applyOwners (s : State) (p : Nat) : State :=
  let noc := ownersAt s p s.links.nocOwn s.links.nocNext
  let slot := ownersAt s p s.links.slotOwn s.links.slotNext
  { s with links.nocOwn := noc.1, links.nocNext := noc.2, links.slotOwn := slot.1, links.slotNext := slot.2 }

/-- R351: the walk of a table's page: its code and what a page-map entry holds. -/
def pmapWalk (s : State) (n va : Nat) : Code × PmapEntry :=
  let c := ctxOf s n
  let x := walk s c.pasid c.partition va false
  if x.code ≠ 0 then (x.code, {})
  else if x.host then (0x0206, {})
  else if x.read = false ∨ x.write = false then (0x0202, {})
  else (0, { page := pageOf x.pa, write := x.write, enc := x.enc, key := x.key, va := BitVec.ofNat 64 va, ctx := n, used := true })

/-- R352: page-map entries that await a walk are walked again; a walk that fails faults the owning context. -/
def applyRewalk (s : State) (p : Nat) : State :=
  let l := (partOf s p).rewalk
  each l (fun i s => match mfind s.emb.pmap i with
    | none => s
    | some e =>
      let (code, e') := pmapWalk s e.ctx e.va.toNat
      if code = 0 then { s with emb.pmap := mput s.emb.pmap i e' } else xlateFault s (reqLane 0) e.ctx e.va.toNat false code)
    (updPart s p (fun x => { x with rewalk := [] }))

/-! ### The re-acquiring step (R193, R194) -/

/-- A tick moved by a number of ticks. -/
def moveTick (d : Int) (t : Nat) : Nat := ((t : Int) + d).toNat

/-- R193: every partition with a group step program loaded is at a boundary. -/
def groupPartsIdle (s : State) : Bool :=
  s.steps.programs.all (fun e => !imgGroup e.2.image || atBoundary s e.2.part)

/-- R194: a running or suspended partition step keeps its place relative to its launch. -/
def moveStep (d : Int) (r : StepRun) : StepRun :=
  let m := moveTick d
  if r.group then r
  else { r with launch := m r.launch, due := m r.due, base := m r.base, suspended := r.suspended.map m,
                features := r.features.map (fun f => if f.ready then f else { f with readyAt := m f.readyAt }),
                streams := r.streams.map (fun t => { t with sends := t.sends.map (fun x => (x.1, x.2.1, m x.2.2.1, x.2.2.2)), arms := t.arms.map m }),
                tasks := r.tasks.map (fun t => { t with placedAt := m t.placedAt }) }

/-- R194: durations are counted in clock edges across the step: the ticks at which they began move with it. -/
def moveTimers (d : Int) (s : State) : State :=
  let m := moveTick d
  let desc := fun (x : Desc) => { x with headAt := x.headAt.map m }
  { s with front.jobs := s.front.jobs.map (fun e => (e.1, { e.2 with timerAt := m e.2.timerAt })),
           front.ctxs := s.front.ctxs.map (fun e => (e.1, { e.2 with brokenAt := m e.2.brokenAt, sq := e.2.sq.map (fun q =>
             (q.1, { q.2 with fetched := q.2.fetched.map desc })) })),
           time.lastMarker := m s.time.lastMarker, time.holdoverAt := m s.time.holdoverAt, start.startTick := m s.start.startTick,
           time.ports := s.time.ports.map (fun e => (e.1, { e.2 with heard := e.2.heard.map m })),
           time.rankHeard := s.time.rankHeard.map (fun e => (e.1, m e.2)), health.windowAt := m s.health.windowAt }

/-- R194: the slip notices and the slice of a partition. -/
def movePart (d : Int) (x : Partition) : Partition :=
  let slips := (x.slips.filter (fun n => !n.group)).map (fun n => { n with tEff := moveTick d n.tEff })
  { x with slips := slips, heldSince := moveTick d x.heldSince, sliceEnd := moveTick d x.sliceEnd }

/-- R194: the counter steps; partition schedules move with it, what is pending for groups is discarded, and the block is
no longer unaligned. Acquiring goes on until the filtered offset has settled (R190). -/
def stepCounter (s : State) (d : Int) : State :=
  let m := moveTick d
  let s := moveTimers d s
  let s : State := { s with time.tick := m s.time.tick, time.reacquire := none,
                            time.armed := (s.time.armed.filter (fun (a : ArmedAction) => !(a.kind == .idleInsertion && a.domainWide))).map (fun (a : ArmedAction) =>
                              if a.kind = .idleInsertion then { a with tick := m a.tick } else a),
                            steps.subs := s.steps.subs.map (fun u => if u.group then u else { u with next := m u.next, dueNext := m u.dueNext }),
                            steps.running := s.steps.running.map (fun e => (e.1, moveStep d e.2)),
                            steps.suspended := s.steps.suspended.map (fun e => (e.1, moveStep d e.2)),
                            parts.parts := s.parts.parts.map (fun e => (e.1, movePart d e.2)) }
  setF { s with time.phase := [], time.inLock := 0,
                time.ports := s.time.ports.map (fun e => (e.1, { e.2 with offsets := [], overMarks := 0, within := 0 })) } tbUnaligned 0

/-- R193: the step waits for a boundary of every partition that has a group step loaded. -/
def reacquireDue (s : State) : State :=
  match s.time.reacquire with
  | none => s
  | some d => if groupPartsIdle s then stepCounter s d else s

/-- R306: the changes that await the boundary, in one order; a partition that is destroyed takes the rest with it. -/
def applyChanges (s : State) (p : Nat) : State :=
  let s := applyResize (applyCoresOut s p) p
  let s := applyRewalk (applyRevokes s p) p
  let s := applyFilters (applyCrimson (applyTables s p) p) p
  applyDestroy (groupsAtBoundary (applyOwners s p) p) p

/-- R306: a tick at which no step of the partition runs or is suspended is a boundary: its changes apply, and the partition
may be taken. -/
def boundary (s : State) (p : Nat) : State := if atBoundary s p then chooseHolder (applyChanges s p) p else s

/-- R306: PARTITION_STEP_BOUNDARY. -/
def execPartitionStepBoundary (part : Nat) (s : State) : Res :=
  if 64 ≤ part then .fault .noSuchUnit else .next (boundary s part)

end Sys2Proof.Machine
end

