-- ==== Sys2Proof/Machine/Objects.lean ====
section
/-! DEFINITION. Commands on objects, fences and arenas (R240 to R259), nop, read-tick and read-snapshot (R273, R421). -/

namespace Sys2Proof.Machine

/-- R273: NOP. -/
def execNop (job : Nat) (s : State) : Res := runJob s job 0 (fun _ s => finishJob s job 0)

/-! ### Objects (R240 to R244) -/

/-- R240: base and size of an object of a type. A size of 0 breaks the rule (log 37). -/
def objPlaceOk (s : State) (type va size : Nat) : Bool :=
  let unit := if type = 2 ∧ getF s tuForerunner = 1 then 4096 else 2 ^ 25
  decide (0 < size ∧ va % unit = 0 ∧ size % unit = 0 ∧ va + size ≤ 2 ^ 56) && (type == 2 || decide (size ≤ 1280 * 2 ^ 30))

/-- R240: the range overlaps an allocated object of the context. -/
def objOverlaps (s : State) (n va size : Nat) : Bool :=
  s.front.objs.any (fun e => e.2.allocated && e.2.ctx == n && decide (va < e.2.va.toNat + e.2.size.toNat ∧ e.2.va.toNat < va + size))

/-- R242: the next object index; retired indices count toward the limit. -/
def objQuotaOk (s : State) (n : Nat) : Bool :=
  decide ((s.front.objs.filter (fun e => e.2.allocated && e.2.ctx == n)).length < (ctxOf s n).objQuota)

/-- R240, R273: the object is created and its handle written; a result address that does not translate undoes it. -/
def createObj (s : State) (job : Nat) (x : Job) : State :=
  let d := x.desc
  let va := d8 d 0x20
  let size := d8 d 0x28
  let type := bits (d8 d 0x30) 0 8
  if objPlaceOk s type va size = false ∨ objOverlaps s x.ctx va size then finishJob s job 0x030D
  else if objQuotaOk s x.ctx = false then finishJob s job 0x0306
  else match s.front.objAlloc.take with
    | none => finishJob s job 0x0306
    | some (i, a) =>
      let o : Obj := { objOf s i with va := BitVec.ofNat 64 va, size := BitVec.ofNat 64 size, type := type, ctx := x.ctx,
                                      pinned := bit (d8 d 0x30) 8, freed := false, refs := 0, bindings := 0, allocated := true, freeJobs := [] }
      let t := putObj { s with front.objAlloc := a } i o
      let w := vaWrite t x.ctx (d8 d 0x38) (leBytes 8 (handleOf i o))
      if w.1 = 0 then finishJob w.2 job 0 else finishJob s job w.1

/-- R240: CREATE_OBJECT. -/
def execCreateObject (job : Nat) (s : State) : Res := runJob s job 0x10 (fun x s => createObj s job x)

/-- R244: FREE_OBJECT. -/
def execFreeObject (job : Nat) (s : State) : Res :=
  runJob s job 0x11 (fun x s =>
    let i := hIndex (d8 x.desc 0x20)
    let o := objOf s i
    if o.bindings ≠ 0 then finishJob s job 0x0309
    else awaitJob (putObj s i { o with gen := o.gen + 1, freed := true, freeJobs := o.freeJobs ++ [job] }) job)

/-- R244: OBJECT_RELEASE. -/
def execObjectRelease (index : Nat) (s : State) : Res :=
  if 1048576 ≤ index then .fault .noSuchUnit
  else
    let o := objOf s index
    if o.allocated && o.freed && o.refs == 0 then .next (releaseObj s index) else .next s

/-! ### Fences (R249, R251, R255) -/

/-- R251: fences that a context owns. -/
def fenceQuotaOk (s : State) (n : Nat) : Bool :=
  decide ((s.front.fences.filter (fun e => e.2.state != .free && e.2.ctx == n)).length < (ctxOf s n).fenceQuota)

/-- R249, R273: the fence is created and its ID written; a result address that does not translate undoes it. -/
def makeFence (s : State) (job : Nat) (x : Job) : State :=
  if fenceQuotaOk s x.ctx = false then finishJob s job 0x0308
  else match s.front.fenceAlloc.take with
    | none => finishJob s job 0x0308
    | some (i, a) =>
      let t := putFence { s with front.fenceAlloc := a } i { value := BitVec.ofNat 64 (d8 x.desc 0x20), state := .pending, ctx := x.ctx }
      let w := vaWrite t x.ctx (d8 x.desc 0x38) (leBytes 8 i)
      if w.1 = 0 then finishJob w.2 job 0 else finishJob s job w.1

/-- R249: CREATE_FENCE. -/
def execCreateFence (job : Nat) (s : State) : Res := runJob s job 0x12 (fun x s => makeFence s job x)

/-- R255: DESTROY_FENCE. -/
def execDestroyFence (job : Nat) (s : State) : Res :=
  runJob s job 0x13 (fun x s =>
    let i := bits (d4 x.desc 0x20) 0 20
    if maySignal s x.ctx i = false then finishJob s job 0x0307
    else
      let s := fenceError s i 0x030B i
      awaitJob (putFence s i { fenceOf s i with destroying := true, destroyJobs := (fenceOf s i).destroyJobs ++ [job] }) job)

/-- R255: FENCE_FREE. -/
def execFenceFree (fence : Nat) (s : State) : Res :=
  if 1048576 ≤ fence then .fault .noSuchUnit
  else
    let f := fenceOf s fence
    if f.destroying && f.state != .free && !fenceNamed s fence then
      let s := putFence s fence {}
      .next (each f.destroyJobs (fun j s => finishJob s j 0) { s with front.fenceAlloc.released := s.front.fenceAlloc.released ++ [fence] })
    else .next s

/-! ### Arenas (R256) -/

/-- R256: GRANT_ARENA. -/
def execGrantArena (job : Nat) (s : State) : Res :=
  runJob s job 0x22 (fun x s =>
    let i := hIndex (d8 x.desc 0x20)
    let o := objOf s i
    let c := ctxOf s x.ctx
    let n := o.size.toNat / 2 ^ 25
    if c.arena.any (fun a => a.obj == i) then finishJob s job 0x030D
    else if 4096 < c.arena.length + n then finishJob s job 0x0306
    else
      let pages := (List.range n).map (fun k => ({ obj := i, va := BitVec.ofNat 64 (o.va.toNat + k * 2 ^ 25), free := [(25, 0)] } : ArenaPage))
      finishJob (bindObj (updCtx s x.ctx (fun c => { c with arena := c.arena ++ pages })) i) job 0)

/-- R256: REVOKE_ARENA. -/
def execRevokeArena (job : Nat) (s : State) : Res :=
  runJob s job 0x23 (fun x s =>
    let i := hIndex (d8 x.desc 0x20)
    let mine := (ctxOf s x.ctx).arena.filter (fun a => a.obj == i)
    if mine.isEmpty then finishJob s job 0x0301
    else if mine.any (fun a => !a.used.isEmpty) then finishJob s job 0x030C
    else finishJob (unbindObj (updCtx s x.ctx (fun c => { c with arena := c.arena.filter (fun a => a.obj != i) })) i) job 0)

/-! ### Time and telemetry -/

/-- A result at a device virtual address of the command's context. -/
def writeResult (s : State) (job n va : Nat) (bs : List Byte) : State :=
  let w := vaWrite s n va bs
  if w.1 = 0 then finishJob w.2 job 0 else finishJob s job w.1

/-- R273: READ_TICK: TB_TICK as read at dispatch. -/
def execReadTick (job : Nat) (s : State) : Res :=
  runJob s job 0x40 (fun x s => writeResult s job x.ctx (d8 x.desc 0x38) (leBytes 8 (x.start.getD (now s))))

/-- R421: the snapshot number, TB_SNAP_TICK and the 24 snapshot copies. -/
def snapshotBytes (s : State) : List Byte :=
  leBytes 8 (getF s hpSnapNumber) ++ leBytes 8 (getF64 s tbSnapTickLo) ++
  (List.range 24).flatMap (fun i => leBytes 8 (mget s.health.snap i).toNat)

/-- R421: READ_SNAPSHOT. -/
def execReadSnapshot (job : Nat) (s : State) : Res :=
  runJob s job 0x41 (fun x s =>
    let bs := (snapshotBytes s).take (dLen x.desc)
    let (code, va) := objRange s (d8 x.desc 0x20) (dOff x.desc 0x28) bs.length
    if code ≠ 0 then finishJob s job code else writeResult s job x.ctx va bs)

end Sys2Proof.Machine
end

