-- ==== Sys2Proof/Machine/Launch.lean ====
section
/-! DEFINITION. Exec-buffers (R286), launch-steps (R287), step launches (R5, R179, R209, R306, R317 to R319, R323), idle insertions
(R202), slices and suspension (R318, R320, R322). -/

namespace Sys2Proof.Machine

/-! ### Exec-buffers -/

/-- R286: the opcodes that an exec-buffer may hold. -/
def bufferOp (op : Nat) : Bool := op == 0 || op == 1 || op == 2 || op == 0x33 || op == 4

/-- R286: a launch-step of a buffer names a partition step program. -/
def bufferItemOk (s : State) (bs : List Byte) : Bool :=
  let op := fieldAt bs 0 1
  bufferOp op && (op != 4 || (match mfind s.steps.programs (hIndex (fieldAt bs 0x20 8)) with | some g => !imgGroup g.image | none => true))

/-- R286: EXEC_BUFFER: the array is checked, and its operations are dispatched in order from the queue's head. An operation
that cannot be read ends the buffer when its turn comes. -/
def execExecBuffer (job : Nat) (s : State) : Res :=
  runJob s job 3 (fun x s =>
    let n := dLen x.desc
    let (code, va) := objRange s (d8 x.desc 0x20) (dOff x.desc 0x28) (64 * n)
    let bad := (List.range n).any (fun k =>
      let r := vaRead s x.ctx (va + 64 * k) 64
      r.1 == 0 && !bufferItemOk s r.2)
    if code ≠ 0 ∨ bad = true then toHead (finishJob s job 0x0105) x.ctx x.queue
    else updSubq (awaitJob (touchRead s engFront x.ctx va (64 * n)) job) x.ctx x.queue (fun q => { q with buffer := some job }))

/-! ### Launch-steps -/

/-- R287: the launch tick that a launch-step settles on, or the code with which it ends. -/
def settleLaunch (g : Img) (d : Desc) (start : Nat) : Code × Nat :=
  let l := d8 d 0x28
  if 1 < dLen d ∧ imgPeriod g = 0 then (0x0101, 0)
  else if imgGroup g then (if l = 0 then (0x0101, 0) else if l < start then (0x0408, 0) else (0, l))
  else if l = 0 ∨ l < start then (0, up1024 start + 1024) else (0, l)

/-- R287, R273: LAUNCH_STEP. A group program goes to a group context, a partition program to a local one (0x0102); a variant
that the program does not have is a field value out of range (log 43). -/
def execLaunchStep (job : Nat) (s : State) : Res :=
  runJob s job 4 (fun x s =>
    let i := hIndex (d8 x.desc 0x20)
    match mfind s.steps.programs i with
    | none => finishJob s job 0x0301
    | some g =>
      let c := ctxOf s x.ctx
      let v := bits (d8 x.desc 0x30) 0 4
      let start := s.front.lastDispatch.getD (now s)
      let (code, l) := settleLaunch g.image x.desc start
      if imgGroup g.image ≠ c.group then finishJob s job 0x0102
      else if imgVariants g.image ≤ v then finishJob s job 0x0101
      else if code ≠ 0 then finishJob s job code
      else
        let u : Submission := { job := job, ctx := x.ctx, part := c.partition, program := i, variant := v, next := l, dueNext := l,
                                count := dLen x.desc, period := imgPeriod g.image, group := c.group, came := start }
        awaitJob { s with steps.subs := s.steps.subs ++ [u] } job)

/-! ### The launch of one step -/

/-- R190, R193: may the block take part in group steps? A master keeps its own time. -/
def timeLocked (s : State) : Bool := getF s tbUnaligned == 0 && (getF s tbMaster == 1 || decide (2 ≤ getF s tbSyncState))

/-- R179, R192, R212: every port of a mask is up; one over budget counts as down. -/
def portsUp (s : State) (mask : Nat) : Bool := (maskList 60 mask).all (fun q => (mget s.links.ports q).up && !(mget s.links.ports q).overBudget)

/-- R243: a handle that a launch uses is still good. -/
def handleLive (s : State) (n h : Nat) : Bool :=
  let o := objOf s (hIndex h)
  o.allocated && !o.freed && o.gen == hGen h && o.ctx == n

/-- R179, R190, R209, R225, R243: the checks of a launch, in order; 0 where the step runs. -/
def launchCheck (s : State) (u : Submission) (m : Img) (e : VarEntry) : Code :=
  let x := partOf s u.part
  if u.group && (match x.group with | some g => g.left | none => true) then 0x0601
  else if u.group && !timeLocked s then 0x0404
  else if portsUp s e.ports = false then 0x0601
  else if (partCores s u.part).length < e.cores then 0x0505
  else if (partLus s u.part).length < e.lus then 0x0506
  else if resvOwned s u.part (imgResv m e) = false then 0x0405
  else if (imgHandles m e).all (handleLive s u.ctx) = false then 0x0302 else 0

/-- R90, R108: the epoch groups that a variant uses: of its features' tables and its weight regions. -/
def usedGroups (s : State) (n : Nat) (m : Img) (e : VarEntry) : List Nat :=
  let tabs := (List.range e.features).filterMap (fun f => (tableFor s n (fieldAt m (featureEntry e f) 2)).map (fun t => tdGroup t.desc))
  (tabs ++ (List.range (imgRegionN m)).map (regionGroup m)).eraseDups

/-- R90: the launch epoch of each. -/
def launchEpochs (s : State) (n : Nat) (m : Img) (e : VarEntry) : SMap Nat :=
  (usedGroups s n m e).foldl (fun l g => mput l g (groupOf s g).active) []

/-- R210: the ports of a variant's link reservations. -/
def resvPorts (rs : List Resv) : Nat := maskOf 60 (fun q => rs.any (fun r => (resvLink r).any (fun x => x.1 == q)))

/-- R151, R177 to R183: a step as it launches. -/
def newStep (s : State) (u : Submission) (m : Img) (e : VarEntry) (refs : List Nat) : StepRun :=
  let ep := launchEpochs s u.ctx m e
  let rs := imgResv m e
  { ctx := u.ctx, job := u.job, program := u.program, number := (ctxOf s u.ctx).stepNext, seqNo := u.index, variant := u.variant,
    group := u.group, launch := u.next, due := u.dueNext, base := u.next, deadline := imgDeadline m, quantum := imgQuantum m,
    maxSlips := imgMaxSlips m, slips := u.deferred, epochs := ep, tasks := imgTasks m e,
    streams := (List.range e.streams).map (imgStream m e u.next ep), features := (List.range e.features).map (imgFeature m e u.next),
    budget := imgBudgets m e, refs := refs, ports := BitVec.ofNat 60 (resvPorts rs), grey := BitVec.ofNat 64 (imgGrey m),
    carry0 := BitVec.ofNat 64 (imgCarry m 0), carry1 := BitVec.ofNat 64 (imgCarry m 1), hasSpill := rs.any (fun r => r.use == 3),
    shiftTicks := u.shifted }

/-- R287, R289: the submission moves on to its next step; the command starts with its first, and its timer restarts. -/
def advanceSub (s : State) (u : Submission) : State :=
  let s := putSub s { u with index := u.index + 1, next := u.next + u.period, dueNext := u.dueNext + u.period, deferred := 0, shifted := 0,
                             claimDone := false, held := false, judged := none }
  let s := updJob s u.job (fun j => { j with start := if u.index = 0 then some u.next else j.start, timerAt := now s })
  match (jobOf s u.job).bind (fun j => j.parent) with
  | some b => updJob s b (fun j => { j with timerAt := now s })
  | none => s

/-- R5, R287: a step of the holder launches; one that fails a check ends at once (R226 tells its group). -/
def launchStep (s : State) (u : Submission) : State :=
  match mfind s.steps.programs u.program with
  | none => s
  | some g =>
    let m := g.image
    let e := varEntry m (progBlock s u.part m) u.variant
    let code := launchCheck s u m e
    let refs := u.program :: (imgHandles m e).map hIndex
    let r := newStep s u m e refs
    let s := advanceSub (takeRefs s refs) u
    let s := updCtx s u.ctx (fun c => { c with stepNext := c.stepNext + 1 })
    let s := updPart s u.part (fun x => { x with stepsRun := x.stepsRun + 1, lastLaunch := u.next })
    let s := putRun s u.part r
    if code ≠ 0 then stepFail { s with steps.running := mupd s.steps.running u.part (fun r => { r with tasks := [], streams := [], features := [] }) } u.part code
    else
      let s := carryOpen s u.part u.ctx (imgCarry m (r.number + 1)) (r.number + 1)
      greyFaultsDue (stepProgress (placeTasks s u.part) u.part)

/-! ### Which launch goes -/

/-- A slip notice for a launch that is not ready. -/
def deferLaunch (s : State) (u : Submission) (cause : Nat) : State :=
  let s := if u.group && cause == 4 then addF s qfClaimsLate 1 u.part else s
  issueSlip s u.part { tEff := u.next, step := (ctxOf s u.ctx).stepNext, origin := blockIndex s u.part, cause := cause, group := u.group, job := some u.job }

/-- R219, R222: a slip that has fallen due will move the launch. -/
def slipDue (s : State) (u : Submission) : Bool :=
  (partOf s u.part).slips.any (fun n => n.group == u.group && decide (n.tEff ≤ now s))

/-- R318: a context that becomes ready has its virtual time raised to the lowest of the contexts that were ready before. -/
def joinReady (s : State) (p n : Nat) : State :=
  let c := ctxOf s n
  if c.wasReady then s
  else
    let others := (ctxsOf s p).filter (fun k => k != n && (ctxOf s k).wasReady)
    let low := others.foldl (fun (b : Option Nat) k => some (match b with | none => (ctxOf s k).vt.toNat | some v => min v (ctxOf s k).vt.toNat)) none
    updCtx s n (fun c => { c with wasReady := true, vt := match low with | some v => if c.vt.toNat < v then BitVec.ofNat 64 v else c.vt | none => c.vt })

/-- R318: every context of a partition whose launch has fallen due becomes ready; the joining rule looks at those that were
ready before. -/
def markReady (s : State) (p : Nat) : State :=
  let new := (ctxsOf s p).filter (fun n => ctxReady s p n && !(ctxOf s n).wasReady)
  let done := new.map (fun n => (n, ctxOf (joinReady s p n) n))
  each done (fun (e : Nat × Context) s => putCtx s e.1 e.2) s

/-- The submissions whose launch has fallen due. -/
def dueSubs (s : State) (p : Nat) : List Submission := s.steps.subs.filter (fun u => u.part == p && subDue s u)

/-- R5: has the control path staged the first weight tiles and loaded the exchange budgets? The spec gives the staging no length:
a free value (log 16). -/
def prepared (s : State) : Bool × State := (Config.prepared s.freeCount, { s with freeCount := s.freeCount + 1 })

/-- R5: every table that the variant's features name is bound. (The reservations of R5 are the ownership that R209 checks at the
launch: a launch without them ends with 0x0405.) -/
def tablesReady (s : State) (u : Submission) : Bool :=
  match mfind s.steps.programs u.program with
  | none => true
  | some g =>
    let m := g.image
    let e := varEntry m (progBlock s u.part m) u.variant
    (List.range e.features).all (fun f => (tableFor s u.ctx (fieldAt m (featureEntry e f) 2)).isSome)

/-- R287: a group command dispatched after its readiness deadline. -/
def lateCommand (s : State) (u : Submission) : Bool := u.group && u.index == 0 && decide (u.next < u.came + groupLead s u.part)

/-- R5, R40, R219, R287, R323: judge a launch: 0 where it is ready, else the cause of its slip. -/
def judge (s : State) (u : Submission) : Nat × State :=
  let other := match runOf s u.part with | some r => r.ctx != u.ctx | none => false
  if s.bound.pwr = 1 then (3, s)
  else if u.group && other then (4, s)
  else if lateCommand s u || !tablesReady s u then (2, s)
  else
    let r := prepared s
    (if r.1 then 0 else 2, r.2)

/-- R323: a group launch takes the partition; its slice starts at the launch. -/
def takeForGroup (s : State) (p n : Nat) : State :=
  if (partOf s p).holder = some n then startSlice s p n else takeHolder (releaseHolder s p) p n

/-- R5, R40, R209, R219, R306, R323: a group launch at its tick; one that hold overtakes after its readiness was judged is deferred
too, and one that a pending change holds slips as in a busy partition (DESIGN CHOICE, log 164). -/
def launchGroup (s : State) (u : Submission) : State :=
  if slipDue s u then s
  else if s.bound.pwr = 1 then deferLaunch s u 3
  else if (runOf s u.part).isSome || (changePending s u.part && !atBoundary s u.part) then deferLaunch s u 4
  else if launchesHeld s u.part then deferLaunch s u 2
  else
    let (cause, s) := if u.judged = some u.next then (0, s) else judge s u
    if cause ≠ 0 then deferLaunch s u cause else launchStep (takeForGroup s u.part u.ctx) u

/-- R306, R309, R319: a launch that falls due without the partition, or while launches are held. -/
def holdSub (s : State) (u : Submission) : State := putSub s { u with held := true }

/-- R306: a holder whose launches are held for a boundary has no ready work and releases the partition. -/
def yieldHold (s : State) (p : Nat) : State := if (runOf s p).isSome then s else chooseHolder (releaseHolder s p) p

/-- R5, R209, R219, R306, R319: a launch of a partition step program at its tick. -/
def launchLocal (s : State) (u : Submission) : State :=
  if slipDue s u then s
  else if (partOf s u.part).holder ≠ some u.ctx then holdSub s u
  else if launchesHeld s u.part then yieldHold (holdSub s u) u.part
  else if (runOf s u.part).isSome then deferLaunch s u 4
  else if changePending s u.part && !atBoundary s u.part then yieldHold (holdSub s u) u.part
  else
    let (cause, s) := judge s u
    if cause ≠ 0 then deferLaunch s u cause else launchStep s u

/-- A submission as it stands now, where its launch is still due. -/
def stillDue (s : State) (u : Submission) : Option Submission := (subOf s u.job).filter (fun v => v.next == u.next && subDue s v)

/-- R5, R306, R318: the launches of a partition that have fallen due: pending changes first, then group launches, then the
partition is taken if no one holds it, then local launches. -/
def launchDue (s : State) (p : Nat) : State :=
  let s := if atBoundary s p then applyChanges s p else s
  let s := markReady s p
  let s := each ((dueSubs s p).filter (fun u => u.group)) (fun u s => match stillDue s u with | some v => launchGroup s v | none => s) s
  let s := chooseHolder s p
  each ((dueSubs s p).filter (fun u => !u.group && !u.held)) (fun u s => match stillDue s u with | some v => if v.held then s else launchLocal s v | none => s) s

/-- R40: off takes no new action; prepare-off launches nothing more (log 44). -/
def launchesOn (s : State) : Bool := !s.bound.noAction && !s.bound.prepareOff

/-- R5, R186: the launches of a partition whose tick has come; one that is not ready slips at its launch tick (R219). -/
def launchesDue (s : State) (p : Nat) : State :=
  if (dueSubs s p).isEmpty || !launchesOn s then s else slipsDue (launchDue s p) p

/-- R5, R219, R323: the readiness of a group launch whose deadline, the launch tick less G, has come. -/
def judgeGroup (s : State) (u : Submission) : State :=
  let (cause, s) := judge s u
  let s := putSub s { u with judged := some u.next }
  if cause ≠ 0 then deferLaunch s u cause else s

/-- R5: READINESS_DEADLINE. -/
def execReadinessDeadline (part : Nat) (s : State) : Res :=
  if 64 ≤ part then .fault .noSuchUnit
  else
    let g := groupLead s part
    let due := s.steps.subs.filter (fun u => u.part == part && u.group && decide (u.index < u.count ∧ u.next ≤ now s + g ∧ u.judged ≠ some u.next))
    if launchesOn s then .next (each due (fun u s => judgeGroup s u) s) else .next s

/-! ### Idle insertions (R202) -/

/-- R202: one insertion moves every launch of its scope at or after its tick. -/
def insertIdle (s : State) (a : ArmedAction) : State :=
  telemAdd (updSubs s (fun u => if u.part = a.scope ∧ u.group = a.domainWide ∧ a.tick ≤ u.next then
    { u with next := u.next + a.amount, dueNext := u.dueNext + a.amount } else u)) 11 a.amount

/-- R186, R202: the insertions of a partition that have fallen due. -/
def insertionsDue (s : State) (p : Nat) : State :=
  let fires := fun (a : ArmedAction) => a.kind == .idleInsertion && a.scope == p && decide (a.tick ≤ now s)
  each (s.time.armed.filter fires) (fun a s => insertIdle s a) { s with time.armed := s.time.armed.filter (fun a => !fires a) }

/-! ### Slices, suspension, claims -/

/-- R318, R322: the end of a slice with another context ready: the running step is to leave (a change that awaits a boundary holds the
request back, R306; what the step runs past its slice is an overrun all the same), and a holder without one releases the partition. -/
def endSlice (s : State) (p n : Nat) : State :=
  let others := (ctxsOf s p).any (fun k => k != n && ctxReady s p k)
  if others then
    if (runOf s p).isSome then updPart s p (fun x => { x with sliceOver := true })
    else chooseHolder (releaseHolder s p) p
  else startSlice s p n

/-- R318: SLICE_END. -/
def execSliceEnd (part : Nat) (s : State) : Res :=
  if 64 ≤ part then .fault .noSuchUnit
  else
    let x := partOf s part
    match x.holder with
    | none => .next s
    | some n => if x.sliceOver || x.claimed || decide (now s < x.sliceEnd) then .next s else .next (endSlice s part n)

/-- R320: may the step that runs be suspended now? -/
def mayLeave (s : State) (p : Nat) (r : StepRun) : Bool :=
  preemptWanted s p && r.tasks.all (fun t => t.state == .saved || t.state == .halted) && r.tasks.any (fun t => t.state == .saved) &&
  r.features.all (fun f => f.ready) && !deliveryPending r

/-- R320, R321: the step is suspended, and the partition passes on. -/
def suspendStep (s : State) (p : Nat) (r : StepRun) : State :=
  let s := { s with steps.running := mdel s.steps.running p,
                    steps.suspended := s.steps.suspended ++ [(p, { r with suspended := some (now s), preempts := r.preempts + 1 })] }
  let s := updCtx s r.ctx (fun c => { c with account.preempts := satAdd (2 ^ 32 - 1) c.account.preempts 1 })
  chooseHolder (releaseHolder (addF s qfPreempts 1 p) p) p

/-- R320: STEP_SUSPEND. -/
def execStepSuspend (part : Nat) (s : State) : Res :=
  if 64 ≤ part then .fault .noSuchUnit
  else match runOf s part with
    | none => .next s
    | some r => if mayLeave s part r then .next (suspendStep s part r) else .next s

/-- R323: the claim of a group launch: a running local step is to be suspended; a holder without one releases the partition
at once, and the partition waits for the launch (log 18). -/
def claim (s : State) (u : Submission) : State :=
  let s := putSub s { u with claimDone := true }
  if (partOf s u.part).holder = some u.ctx then s
  else
    let s := updPart s u.part (fun x => { x with claimed := true })
    if (runOf s u.part).isSome then s else releaseHolder s u.part

/-- R323: GROUP_CLAIM. -/
def execGroupClaim (part : Nat) (s : State) : Res :=
  if 64 ≤ part then .fault .noSuchUnit
  else
    let g := groupLead s part
    let due := s.steps.subs.filter (fun u => u.part == part && u.group && !u.claimDone && decide (u.index < u.count ∧ u.next ≤ now s + g + 8192))
    .next (each due (fun u s => claim s u) s)

end Sys2Proof.Machine
end

