-- ==== Sys2Proof/Machine/Load.lean ====
section
/-! DEFINITION. Loading and unloading step programs (R247), and the checks of a load (R66, R80, R183, R184, R207, R209, R221,
R240, R315). -/

namespace Sys2Proof.Machine

/-- The code of the first condition that holds, 0 where none does. -/
def firstFail (l : List (Bool × Code)) : Code := match l.find? (fun c => c.1) with | some c => c.2 | none => 0

/-- A range lies within the image. -/
def inImg (m : Img) (off n : Nat) : Bool := decide (off + n ≤ imgBytes m)

/-! ### Header and sections (R177, R178) -/

def headerOk (m : Img) : Bool :=
  fieldAt m 0 4 == 0x4A4A5350 && fieldAt m 4 2 == 1 && bits (fieldAt m 0x18 4) 29 3 == 0 && fieldAt m 0x1C 4 == 0 && fieldAt m 0x33 5 == 0 &&
  fieldAt m 0x58 8 == 0 && fieldAt m 0x60 32 == 0 && decide (1 ≤ imgBlocks m ∧ imgBlocks m ≤ 768) && (imgGroup m || imgBlocks m == 1) &&
  inImg m (imgSections m) (16 * imgBlocks m) && inImg m (imgShards m) (16 * imgShardN m) && inImg m (imgRegions m) (32 * imgRegionN m)

def sectionsOk (m : Img) : Bool :=
  (List.range (imgBlocks m)).all (fun j =>
    let b := imgSections m + 16 * j
    fieldAt m (b + 8) 2 == j && inImg m (imgSection m j) (64 * imgVariants m))

/-- R178: the tables of a variant lie in the image. -/
def tablesOk (m : Img) (e : VarEntry) : Bool :=
  decide (e.features ≤ 1024 ∧ e.budN ≤ imgBlocks m - 1) && inImg m e.taskOff (16 * e.tasks) &&
  inImg m e.streamOff (32 * e.streams) && inImg m e.lookOff (64 * e.features) && inImg m e.budOff (8 * e.budN) && inImg m e.resOff (32 * e.resN) &&
  inImg m e.refOff (16 * e.refN)

/-- R181: a stream entry's codes and ranges; reserved fields outside the header are ignored (R10). -/
def streamOk (m : Img) (e : VarEntry) (i : Nat) : Bool :=
  let b := streamEntry e i
  let bytes := fieldAt m (b + 8) 3
  decide (bits (fieldAt m (b + 2) 2) 0 4 ≤ 6) && bytes % 32 == 0 && decide (bits (fieldAt m (b + 8) 8) 46 2 ≤ 2) &&
  fieldAt m (b + 14) 1 != 0 && (let p := fieldAt m (b + 6) 1; p == 0xFF || decide (p < 60)) &&
  (let g := fieldAt m (b + 0xF) 1; g == 0xFF || decide (g < imgRegionN m))

/-- R183: an exchange budget table, this block being number `me`. -/
def budgetOk (m : Img) (me : Nat) (e : VarEntry) : Bool :=
  let dst := fun i => fieldAt m (e.budOff + 8 * i + 6) 2
  (imgGroup m || e.budN == 0) &&
  (List.range e.budN).all (fun i => dst i != me && decide (dst i < imgBlocks m) && (i == 0 || decide (dst (i - 1) < dst i)))

/-! ### Code (R184, R315) -/

/-- The instructions of a task's code. -/
def taskWords (m : Img) (t : Task) : List Nat := (List.range (t.codeBytes / 16)).map (fun i => fieldAt m (t.codeOffset + 16 * i) 16)

/-- R180, R184: a task entry; the code is whole instructions, lies in the image, and fits the window less its save record. -/
def taskOk (m : Img) (e : VarEntry) (count i : Nat) : Bool :=
  let b := e.taskOff + 16 * i
  let n := taskCodeEnd m e i - taskCode m e i
  decide (taskCode m e i ≤ taskCodeEnd m e i ∧ taskCodeEnd m e i ≤ imgBytes m) &&
  n % 16 == 0 && decide (bits (fieldAt m b 2) 0 14 + n / 16 + 9 ≤ 1024 * count)

/-- R184: in a group step program a task names a core that the variant requires. -/
def taskCoreOk (m : Img) (e : VarEntry) (t : Task) : Bool := !imgGroup m || (t.core != 0xFF && decide (t.core < e.cores))

/-- R184, R315: the fields of a tile. -/
def tileLoadOk (mode : TileMode) (f : TileFields) (count : Nat) : Bool :=
  tileLegal mode f &&
  (f.ab != 0 || (decide (f.accRow + tileM f ≤ 64 * count ∧ f.actAddr * 64 < count * 131072 ∧ f.wAddr % 2048 * 1024 < count * 131072) &&
    (!(f.dest == 2 || f.dest == 3) || decide (f.outAddr * 64 < count * 131072))))

/-- R315: a byte address of a core-side space lies in the window. -/
def addrOk (sp a count : Nat) : Bool :=
  match sp with
  | 0 => decide (a < count * 131072)
  | 1 => decide (a / 512 % 1024 < 64 * count)
  | 2 => decide (a % 2097152 < count * 131072)
  | 3 => decide (a < count * 16384)
  | _ => true

/-- R181: a stream of a variant is declared with one of the kinds. -/
def streamKind (m : Img) (e : VarEntry) (n : Nat) (kinds : List Nat) : Bool :=
  (List.range e.streams).any (fun i => fieldAt m (streamEntry e i) 2 == n && kinds.contains (bits (fieldAt m (streamEntry e i + 2) 1) 0 4))

/-- R315: the address fields of a vector instruction. -/
def vecLoadOk (f : VecFields) (count : Nat) : Bool :=
  f.ab != 0 || (if f.acc then decide (f.addr % 1024 < 64 * count) else decide (f.addr * 64 < count * 131072))

/-- R184: one instruction of a task whose code begins at `entry` and holds `n` instructions. -/
def instrOk (m : Img) (e : VarEntry) (count entry n : Nat) (i : Instr) : Bool :=
  let inside := fun t => decide (entry ≤ t ∧ t < entry + n)
  match i with
  | .br _ _ _ t => inside t
  | .loop _ _ _ t => inside t
  | .tileMatrix _ _ f _ => tileLoadOk .matrix f count
  | .tileL1 _ _ f _ => tileLoadOk .l1 f count
  | .tileL2 _ _ f _ => tileLoadOk .l2 f count
  | .tileDot _ _ f _ => tileLoadOk .dot f count
  | .tileHamming _ _ f _ => tileLoadOk .hamming f count
  | .tileMaxPlus _ _ f _ => tileLoadOk .maxPlus f count
  | .tileMinPlus _ _ f _ => tileLoadOk .minPlus f count
  | .tileConvolution _ _ f _ => tileLoadOk .convolution f count
  | .tileEq _ _ f _ => tileLoadOk .eq f count
  | .tileNe _ _ f _ => tileLoadOk .ne f count
  | .tileLt _ _ f _ => tileLoadOk .lt f count
  | .tileLe _ _ f _ => tileLoadOk .le f count
  | .tileGt _ _ f _ => tileLoadOk .gt f count
  | .tileGe _ _ f _ => tileLoadOk .ge f count
  | .vld _ _ f _ => vecLoadOk f count
  | .vst _ _ f => vecLoadOk f count
  | .mxst _ _ f => vecLoadOk f count
  | .localMove _ _ f _ => f.ab != 0 || (addrOk f.srcSpace f.srcAddr count && addrOk f.dstSpace f.dstAddr count)
  | .tsend _ _ st sp a ab => streamKind m e st [0, 2, 3] && (ab != 0 || addrOk sp a count)
  | .rarm _ _ st => streamKind m e st [0, 1, 4, 5]
  | .rwait _ _ st => streamKind m e st [0, 1, 4, 5]
  | .selectBegin _ _ f => decide (f.rows * f.k ≤ 65536)
  | .selectEnd _ _ _ ids _ st _ => !ids || streamKind m e st [6]
  | .lateFeatureTest _ _ f _ a ab => decide (f < e.features) && (ab != 0 || addrOk 0 (64 * a) count)
  | _ => true

/-- What an instruction does to the open selection along the code as written (R184, R144). -/
inductive SelUse where
  | opens
  | closes
  | needs
  | forbids
  | none
  deriving DecidableEq, Repr, Inhabited

def tileSel (f : TileFields) : SelUse := if f.dest = 4 ∨ f.dest = 5 then .needs else .none

def selUse (i : Instr) : SelUse :=
  match i with
  | .selectBegin .. => .opens
  | .selectEnd .. => .closes
  | .merge .. => .needs
  | .yield .. => .forbids
  | .halt .. => .forbids
  | .tileMatrix _ _ f _ => tileSel f
  | .tileL1 _ _ f _ => tileSel f
  | .tileL2 _ _ f _ => tileSel f
  | .tileDot _ _ f _ => tileSel f
  | .tileHamming _ _ f _ => tileSel f
  | .tileMaxPlus _ _ f _ => tileSel f
  | .tileMinPlus _ _ f _ => tileSel f
  | _ => .none

/-- R184: selections open and close in order along the code. -/
def selOk (opened : Bool) (l : List Instr) : Bool :=
  match l with
  | [] => true
  | i :: rest =>
    match selUse i with
    | .opens => !opened && selOk true rest
    | .closes => opened && selOk false rest
    | .needs => opened && selOk opened rest
    | .forbids => !opened && selOk opened rest
    | .none => selOk opened rest

/-- R184: the code of a task. -/
def codeOk (m : Img) (e : VarEntry) (count : Nat) (t : Task) : Bool :=
  let ws := taskWords m t
  let is := ws.filterMap (fun w => decodeCore 0 w)
  is.length == ws.length && is.all (instrOk m e count t.entry ws.length) && selOk false is

/-! ### Lookup sets (R66, R80) -/

/-- R66: the codes and ranges of a feature entry; its reserved fields are ignored (R10). -/
def featureOk (m : Img) (e : VarEntry) (f : Nat) : Bool :=
  let b := featureEntry e f
  let w := fieldAt m b 4
  let op := bits w 16 3
  decide (op ≤ 4) && decide (bits w 20 2 ≤ 2 ∧ bits w 22 2 ≤ 2) && decide (1 ≤ bits (fieldAt m (b + 4) 4) 0 13) &&
  (let n := fieldAt m (b + 0x32) 2; decide (1 ≤ n ∧ n ≤ 16384)) && (op == 3) == (fieldAt m (b + 0x18) 8 != 0)

/-- R87: a feature entry's max_bag exceeds 4,096. -/
def bagTooLong (m : Img) (e : VarEntry) (f : Nat) : Bool := decide (4096 < bits (fieldAt m (featureEntry e f + 4) 4) 0 13)

/-- The object of a context that holds an address. -/
def objAtVa (s : State) (n va : Nat) : Option Obj :=
  ((s.front.objs.filter (fun o => o.2.allocated && o.2.ctx == n && decide (o.2.va.toNat ≤ va ∧ va < o.2.va.toNat + o.2.size.toNat))).map (·.2)).head?

/-- The elements of a feature's table, 0 while it is not bound (log 46). -/
def featureElems (s : State) (n : Nat) (f : FeatureRun) : Nat := match tableFor s n f.tableId with | some t => tdElems t.desc | none => 0

/-- R66: the FP8 output of a sequence feature fits its destination. -/
def sequenceFits (s : State) (n count : Nat) (f : FeatureRun) : Bool :=
  let room := if f.destCore = 0xFF then (match objAtVa s n f.destVa.toNat with | some o => o.va.toNat + o.size.toNat - f.destVa.toNat | none => 0)
    else count * 131072 - f.destOffset
  !(f.poolOp == 4 && f.outFormat == 2) || decide (featureElems s n f * f.batch * f.maxBag ≤ room)

/-- R80: bytes of the largest transfer vector of a variant's features. -/
def largestVector (s : State) (n : Nat) (fs : List FeatureRun) : Nat :=
  fs.foldl (fun v f => max v (featureElems s n f * (if f.poolOp = 4 then outBytes f.outFormat else 4))) 0

/-- R80: the returns of every destination fit. -/
def returnsFit (v : Nat) (b : SMap (Nat × Nat)) : Bool := b.all (fun x => decide (cdiv (x.2.1 * (8 + v)) 240 ≤ x.2.2))

/-! ### Reservations (R207, R209) -/

/-- R207: an entry's fields. A forward's outbound slots begin at least 105 ticks after its inbound ones. -/
def resvOk (m : Img) (off : Nat) : Bool :=
  let r := resvAt m off
  let wrap := fun (i : Nat) => r.kind == 0 || (decide (i < 560) && i % 8 != 0)
  let inSlots := (List.range r.slotLen).all (fun i => wrap (r.slotStart + i))
  let outSlots := r.kind != 2 || (List.range r.slotLen).all (fun i => wrap (r.outStart + i))
  let tin := slotTick 1 r.slotStart
  let tout := slotTick 1 r.outStart
  let gap := if tin ≤ tout then tout - tin else tout + 1024 - tin
  decide (r.kind ≤ 3) && decide (1 ≤ r.slotLen ∧ 1 ≤ r.stride) &&
  (if r.kind = 0 then decide (r.slotStart < 512 ∧ r.slotLen ≤ 512)
   else decide (r.a < 60 ∧ r.slotLen ≤ 560) && (if r.kind = 2 then decide (r.b < 60 ∧ 105 ≤ gap) else r.b == 0xFF)) && inSlots && outSlots

/-- R203, R204: the directed links of the way from a router to another, X first: 4 times the router plus the direction. -/
def nocPath (fuel a b : Nat) : List Nat :=
  match fuel with
  | 0 => []
  | k + 1 =>
    let ax := a % 16
    let ay := a / 16
    let bx := b % 16
    let by' := b / 16
    if ax < bx then 4 * a :: nocPath k (a + 1) b
    else if bx < ax then (4 * a + 1) :: nocPath k (a - 1) b
    else if ay < by' then (4 * a + 2) :: nocPath k (a + 16) b
    else if by' < ay then (4 * a + 3) :: nocPath k (a - 16) b else []

/-- R204, R210: what an entry occupies: a directed link (NoC, or 1,024 + 2 × port + direction) and the slot counted from launch. -/
def resvUse (r : Resv) : List (Nat × Nat) :=
  (List.range r.count).flatMap (fun j =>
    let f := r.first + j * r.stride
    (List.range r.slotLen).flatMap (fun i =>
      if r.kind = 0 then (nocPath 30 r.a r.b).zipIdx.map (fun h => (h.1, 512 * f + r.slotStart + i + 2 * h.2))
      else if r.kind = 2 then [(1024 + 2 * r.a + 1, 560 * f + r.slotStart + i), (1024 + 2 * r.b, 560 * (f + b2n (decide (r.outStart < r.slotStart))) + r.outStart + i)]
      else [(1024 + 2 * r.a + b2n (r.kind == 3), 560 * f + r.slotStart + i)]))

/-- R209: no slot of a link is claimed twice. -/
def noClash (rs : List Resv) : Bool :=
  let l := rs.flatMap resvUse
  decide (l.eraseDups.length = l.length)

/-- R209: the deliveries of a stream that a task's code issues as written, each instruction counted once (what depends on g registers
is not checked at load, R184); a select-end issues its lists in deliveries of the stream's size. `ids` are those of the open selection. -/
def issued (n bytes : Nat) (ids : Nat) (l : List Instr) : Nat :=
  match l with
  | [] => 0
  | .tsend _ _ st _ _ _ :: rest => b2n (st == n) + issued n bytes ids rest
  | .selectBegin _ _ f :: rest => issued n bytes (f.rows * f.k) rest
  | .selectEnd _ _ _ e _ st _ :: rest => (if e && st == n then (idSends bytes ids 0).length else 0) + issued n bytes ids rest
  | _ :: rest => issued n bytes ids rest

/-- R209: the deliveries of a stream that a task's code arms. -/
def armedBy (n : Nat) (l : List Instr) : Nat :=
  (l.filter (fun i => match i with
    | .rarm _ _ st => st == n
    | _ => false)).length

/-- R209: a stream's reserved slots carry its deliveries. -/
def slotsCarry (m : Img) (e : VarEntry) (i : Nat) : Bool :=
  let t := imgStream m e 0 [] i
  let code := (imgTasks m e).map (fun k => (taskWords m k).filterMap (fun w => decodeCore 0 w))
  let n := (code.map (fun l => if t.kind = 1 then armedBy t.number l else issued t.number t.bytes 0 l)).foldl (· + ·) 0
  t.kind == 4 || t.kind == 5 || decide (n ≤ t.slots.length)

/-! ### The load -/

/-- R60: the shard maps that an image defines: number and entries. -/
def imgMaps (m : Img) : List (Nat × List Nat) :=
  (List.range (imgShardN m)).map (fun i =>
    let b := imgShards m + 16 * i
    let off := fieldAt m (b + 8) 8
    (fieldAt m b 2, (List.range (fieldAt m (b + 2) 2)).map (fun k => fieldAt m (off + 2 * k) 2)))

/-- R60, R182: the maps lie in the image, agree with the partition's store and fit in it. -/
def mapsOk (s : State) (p : Nat) (m : Img) : Bool :=
  let store := (partOf s p).shardMaps
  let l := imgMaps m
  let new := (l.map (·.1)).eraseDups.filter (fun k => (mfind store k).isNone)
  (List.range (imgShardN m)).all (fun i =>
    let b := imgShards m + 16 * i
    inImg m (fieldAt m (b + 8) 8) (2 * fieldAt m (b + 2) 2) && decide (1 ≤ fieldAt m (b + 2) 2 ∧ fieldAt m (b + 2) 2 ≤ 768)) &&
  l.all (fun x => (match mfind store x.1 with | some y => y == x.2 | none => true) && l.all (fun y => x.1 != y.1 || x.2 == y.2)) &&
  decide (store.length + new.length ≤ 256)

/-- R240, R243: the handles of a variant. -/
def handlesCode (s : State) (n : Nat) (m : Img) (e : VarEntry) : Code :=
  (imgHandles m e).foldl (fun c h =>
    if c ≠ 0 then c
    else
      let k := checkHandle s n [1, 2] h
      let o := objOf s (hIndex h)
      if k ≠ 0 then k else if o.type = 2 ∧ o.pinned = false then 0x0301 else 0) 0

/-- R240: an unpinned host object that a lookup set names by address. -/
def lookupPinned (s : State) (n : Nat) (f : FeatureRun) : Bool :=
  let ok := fun va => va == 0 || (match objAtVa s n va with | some o => o.type != 2 || o.pinned | none => true)
  (f.topk || ok f.idVa.toNat) && ok f.offsetsVa.toNat && ok f.weightsVa.toNat && (f.destCore != 0xFF || ok f.destVa.toNat)

/-- R184: the tables and the code of one variant of a block's section, for a window of `count` sixteenths. -/
def blockOk (m : Img) (v j count : Nat) : Bool :=
  let e := varEntry m j v
  let ts := imgTasks m e
  tablesOk m e && (List.range e.streams).all (streamOk m e) && (List.range e.tasks).all (taskOk m e count) && ts.all (taskCoreOk m e) &&
  ts.all (codeOk m e count) && budgetOk m j e

/-- R66, R184: the lookup set of one variant of a block's section. -/
def lookupOk (m : Img) (v j : Nat) : Bool := let e := varEntry m j v; (List.range e.features).all (featureOk m e)

/-- R209: the reservations of one variant of a block's section. -/
def slotsOk (m : Img) (v j : Nat) : Bool :=
  let e := varEntry m j v
  (List.range e.resN).all (fun i => resvOk m (e.resOff + 32 * i)) && noClash (imgResv m e) && (List.range e.streams).all (slotsCarry m e)

/-- R184: the checks of one variant, in the order of the table, then R209, R240. The sections of a group's other blocks, whose windows
are theirs, are held to a whole core (log 114). -/
def variantCode (s : State) (n p me count : Nat) (m : Img) (v : Nat) : Code :=
  let e := varEntry m me v
  let fs := (List.range e.features).map (imgFeature m e 0)
  let blocks := List.range (imgBlocks m)
  let own := fun r => let g := groupOf s (regionGroup m r); g.valid && g.ctx != n
  firstFail [
    (!blocks.all (fun j => blockOk m v j (if j = me then count else 16)), 0x0104),
    ((List.range (imgRegionN m)).any own, 0x0A0B),
    (!blocks.all (lookupOk m v) || !fs.all (sequenceFits s n count), 0x0B08),
    (blocks.any (fun j => let e := varEntry m j v; (List.range e.features).any (bagTooLong m e)), 0x0B05),
    (!returnsFit (largestVector s n fs) (imgBudgets m e), 0x0B06),
    (!blocks.all (slotsOk m v) || !resvOwned s p (imgResv m e), 0x0405),
    (decide (handlesCode s n m e ≠ 0), handlesCode s n m e),
    (!fs.all (lookupPinned s n), 0x0301)]

/-- R184, R209, R221, R228, R247, R314: the checks of a load. -/
def loadCode (s : State) (n i : Nat) (m : Img) : Code :=
  let c := ctxOf s n
  let p := c.partition
  let me := progBlock s p m
  let quantumBad := imgQuantum m % 1024 != 0 || (imgGroup m && decide (imgQuantum m < groupLead s p))
  let k := firstFail [
    (!headerOk m || !sectionsOk m || decide (imgBlocks m ≤ me) || c.sramCount == 0, 0x0104),
    (!mapsOk s p m, 0x0104),
    (imgGroup m && !memberBit s, 0x0607),
    (imgPeriod m != 0 && decide (imgPeriod m < imgDeadline m), 0x0405),
    (quantumBad, 0x0406),
    ((mfind s.steps.programs i).isNone && decide (16 ≤ (partOf s p).programs.length), 0x0306)]
  let vs := (List.range (imgVariants m)).map (variantCode s n p me c.sramCount m)
  if k = 0x0104 then k
  else match vs.find? (fun x => x != 0) with
    | some x => x
    | none => k

/-- R245: the object indices that a loaded program holds: its own, and those of its tables. -/
def loadBindings (s : State) (p i : Nat) (m : Img) : List Nat :=
  i :: (((List.range (imgVariants m)).flatMap (fun v => imgHandles m (varEntry m (progBlock s p m) v))).map hIndex).eraseDups

/-- R247, R60, R328: the program is loaded: code, bindings, shard maps; its calibration is cleared. A load of a program that
is loaded replaces it (log 45). -/
def loadImage (s : State) (n i : Nat) (m : Img) : State :=
  let p := (ctxOf s n).partition
  let s := match mfind s.steps.programs i with
    | some g => each g.unloadJobs (fun j s => finishJob s j 0) (each g.bound (fun o s => unbindObj s o) s)
    | none => s
  let bound := loadBindings s p i m
  let s := each bound (fun o s => bindObj s o) s
  let s := { s with steps.programs := mput s.steps.programs i { ctx := n, part := p, image := m, bound := bound, maps := ((imgMaps m).map (·.1)).eraseDups } }
  let s := updPart s p (fun x => { x with programs := if i ∈ x.programs then x.programs else x.programs ++ [i],
                                          shardMaps := (imgMaps m).foldl (fun l e => mput l e.1 e.2) x.shardMaps })
  let s := updCtx s n (fun c => { c with calib := mdel c.calib i, windows := mdel c.windows i })
  copyCode (trimMaps s p) p n m

/-- R247: LOAD_PROGRAM. -/
def execLoadProgram (job : Nat) (s : State) : Res :=
  runJob s job 0x20 (fun x s =>
    let i := hIndex (d8 x.desc 0x20)
    let o := objOf s i
    let (c1, h) := vaRead s x.ctx o.va.toNat 128
    if c1 ≠ 0 then finishJob s job c1
    else if imgBytes h < 128 ∨ o.size.toNat < imgBytes h then finishJob s job 0x0104
    else
      let (c2, m) := vaRead s x.ctx o.va.toNat (imgBytes h)
      if c2 ≠ 0 then finishJob s job c2
      else
        let s := touchRead s engFront x.ctx o.va.toNat (imgBytes h)
        let k := loadCode s x.ctx i m
        if k ≠ 0 then finishJob s job k else finishJob (loadImage s x.ctx i m) job 0)

/-- R247: UNLOAD_PROGRAM. -/
def execUnloadProgram (job : Nat) (s : State) : Res :=
  runJob s job 0x21 (fun x s =>
    let i := hIndex (d8 x.desc 0x20)
    let s := awaitJob { s with steps.programs := mupd s.steps.programs i (fun g => { g with unloading := true, unloadJobs := g.unloadJobs ++ [job] }) } job
    unloadDone s i)

end Sys2Proof.Machine
end

