-- ==== Sys2Proof/Machine/Contexts.lean ====
section
/-! DEFINITION. Contexts: creation (R233, R299, R314), destruction, its watchdog and partition resets (R260, R261), replay of
the holding ring (R293), queue settings (R289), instance resets (R330, R331). -/

namespace Sys2Proof.Machine

/-! ### Creation -/

/-- R299: the queue words of a parameter block. -/
def pbQueue (b : List Byte) (q : Nat) : SubQ :=
  let w := fieldAt b (0x28 + 16 * q) 8
  { va := BitVec.ofNat 64 (fieldAt b (0x20 + 16 * q) 8), log2 := bits w 0 5, fetchLimit := bits w 8 8,
    timeoutUs := if bits w 16 26 = 0 then 2000000 else bits w 16 26 }

def pbQueueOk (b : List Byte) (q : Nat) : Bool :=
  let w := fieldAt b (0x28 + 16 * q) 8
  let n := bits w 0 5
  fieldAt b (0x20 + 16 * q) 8 % 64 == 0 && (n == 0 || decide (6 ≤ n ∧ n ≤ 16)) && decide (bits w 16 26 ≤ 60000000)

/-- R299: a ring's depth, and its range. -/
def pbLog2 (b : List Byte) (off w : Nat) : Nat := bits (fieldAt b off 8) 0 w
def pbRingOk (b : List Byte) (off align w hi : Nat) : Bool :=
  fieldAt b off 8 % align == 0 && decide (6 ≤ pbLog2 b (off + 8) w ∧ pbLog2 b (off + 8) w ≤ hi)

/-- R299: every range of the parameter block; reserved fields are ignored (R10). -/
def pbOk (b : List Byte) : Bool :=
  let v := fieldAt b 0x14 4
  bit (fieldAt b 8 4) 0 && decide (bits (fieldAt b 0xC 4) 0 17 ≤ 65536) && decide (bits (fieldAt b 0x10 4) 0 17 ≤ 65536) &&
  bits v 0 11 != 0 && bits v 16 11 != 0 && (List.range 4).all (pbQueueOk b) && pbRingOk b 0x60 32 5 16 && pbRingOk b 0x70 64 4 12

/-- R314: the window at creation: everything where no other context of the partition has a window. -/
def firstCount (s : State) (p : Nat) : Nat := if (ctxsOf s p).any (fun m => (ctxOf s m).sramCount != 0) then 0 else 16

/-- R233, R299: the context that a parameter block describes. -/
def pbContext (s : State) (b : List Byte) : Context :=
  let w0 := fieldAt b 0 4
  let v := fieldAt b 0x14 4
  let quota := fun (x d : Nat) => if x = 0 then d else x
  { state := .active, group := bit w0 12, partition := bits w0 16 6, function := bits w0 22 4, pasid := bits (fieldAt b 4 4) 0 20,
    profiles := BitVec.ofNat 8 (fieldAt b 8 4), fenceQuota := quota (bits (fieldAt b 0xC 4) 0 17) 16384, objQuota := quota (bits (fieldAt b 0x10 4) 0 17) 65536,
    cqVector := bits v 0 11, eqVector := bits v 16 11, sq := (List.range 4).map (fun q => (q, pbQueue b q)),
    cq := { va := BitVec.ofNat 64 (fieldAt b 0x60 8), log2 := pbLog2 b 0x68 5 },
    eq := { va := BitVec.ofNat 64 (fieldAt b 0x70 8), log2 := pbLog2 b 0x78 4 }, sramCount := firstCount s (bits w0 16 6) }

/-- R313: a partition has a group context already. -/
def hasGroupCtx (s : State) (p : Nat) : Bool := (ctxsOf s p).any (fun m => (ctxOf s m).group)

/-- R233, R299, R313: the code with which a creation fails, 0 where it succeeds. -/
def createCode (s : State) (b : List Byte) : Code :=
  let n := bits (fieldAt b 0 4) 0 12
  let c := pbContext s b
  if pbOk b = false ∨ (ctxOf s n).state ≠ .free ∨ (partOf s c.partition).state = .absent then 0x030E
  else if c.group ∧ (memberBit s = false ∨ (partOf s c.partition).group.isNone) then 0x0607
  else if c.group ∧ hasGroupCtx s c.partition then 0x030E
  else 0

/-- R233: a context comes into being; its function may issue requests again (R330). -/
def makeContext (s : State) (n : Nat) (c : Context) : State :=
  let s := putCtx s n c
  { s with bound.fnSilent := s.bound.fnSilent &&& ~~~(1#16 <<< c.function),
           bound.msixMasked := s.bound.msixMasked.filter (fun v => v != c.cqVector && v != c.eqVector) }

/-- R233: CREATE_CONTEXT. -/
def execCreateContext (job : Nat) (s : State) : Res :=
  runJob s job 0x80 (fun x s =>
    let b := rdBytes s.mem.host (d8 x.desc 0x20) 128
    let code := createCode s b
    finishJob (if code = 0 then makeContext s (bits (fieldAt b 0 4) 0 12) (pbContext s b) else s) job code)

/-! ### Destruction -/

/-- R260: DESTROY_CONTEXT. -/
def execDestroyContext (job : Nat) (s : State) : Res :=
  runJob s job 0x81 (fun x s =>
    let n := bits (d8 x.desc 0x20) 0 12
    let st := (ctxOf s n).state
    if st = .free ∨ st = .destroying then finishJob s job 0x030E
    else awaitJob (forceAbort s n 0x0801 (some job)) job)

/-- R260 phase 8: the context is free: its vectors are masked and its destroy completes. -/
def freeContext (s : State) (n : Nat) : State :=
  let c := ctxOf s n
  let s := putCtx s n {}
  let s := { s with front.ringPages := s.front.ringPages.filter (fun e => e.ctx != n) }
  let s := { s with bound.msixMasked := s.bound.msixMasked ++ [c.cqVector, c.eqVector].filter (fun v => v ∉ s.bound.msixMasked) }
  match c.abort with
  | some { job := some j, forced := f, .. } => finishJob s j (if f then 0x0806 else 0)
  | _ => s

/-- R260: DESTROY_COMPLETE. -/
def execDestroyComplete (ctx : Nat) (s : State) : Res :=
  if 4096 ≤ ctx then .fault .noSuchUnit
  else if (ctxOf s ctx).state = .destroying ∧ ctxReleased s ctx then .next (freeContext s ctx)
  else .next s

/-! ### Partition resets (R261) -/

/-- R261: a core is reset; its memories keep their bytes. -/
def resetCore (s : State) (c : Nat) : State :=
  let x := coreOf s c
  putCore s c { weight := x.weight, act := x.act, acc := x.acc, prog := x.prog }

/-- R261: the work of a context that is running or dispatched ends with 0x0802. -/
def discardWork (s : State) (n : Nat) : State :=
  each (List.range 4) (fun q s => if (subqOf s n q).buffer.isSome then closeBuffer s n q else s)
    (abortCopies (abortSteps s n 0x0802) n 0x0802)

/-- R261: reset a partition: its units are reset and other contexts' work ends; it ends within 7,000,000 ticks. -/
def resetPartition (s : State) (p : Nat) : State :=
  let others := (ctxsOf s p).filter (fun n => (ctxOf s n).state != .destroying)
  let s := each others (fun n s => discardWork s n) s
  let s := each (maskList 64 (partOf s p).coreMask.toNat) (fun c s => resetCore s c) s
  updPart s p (fun x => { x with resetUntil := some (now s + 7000000) })

/-- R260, R261: the first phase of a destroy that has not completed. -/
def phaseOf (s : State) (n : Nat) : Nat :=
  if s.front.fences.any (fun e => e.2.ctx == n && e.2.state != .free) then 7 else 8

/-- R261: the watchdog event names the phase that overran. -/
def watchdogEvent (s : State) (n : Nat) : Event := { type := 0x000F, payload := leBytes 4 (phaseOf s n) }

/-- R261: DESTROY_WATCHDOG. -/
def execDestroyWatchdog (ctx : Nat) (s : State) : Res :=
  if 4096 ≤ ctx then .fault .noSuchUnit
  else
    let c := ctxOf s ctx
    match c.abort with
    | none => .next s
    | some a =>
      if c.state = .destroying ∧ a.job.isSome ∧ a.forced = false ∧ a.since + 1400000 ≤ now s then
        let s := addF (eventAdm s ctx (watchdogEvent s ctx)) qfDestroyWd
        let s := updCtx s ctx (fun c => { c with abort := some { a with forced := true } })
        .next (if (partOf s c.partition).resetUntil.isSome then s else resetPartition s c.partition)
      else .next s

/-- R261: a forced destroy drops the references that have not dropped. -/
def dropAll (s : State) (n : Nat) : State :=
  let objs := (s.front.objs.filter (fun e => e.2.ctx == n && e.2.allocated)).map (·.1)
  let s := each objs (fun i s => releaseObj s i) s
  let fences := (s.front.fences.filter (fun e => e.2.ctx == n && e.2.state != .free)).map (·.1)
  each fences (fun i s => { (putFence s i {}) with front.fenceAlloc.released := s.front.fenceAlloc.released ++ [i] }) s

/-- R261: the forced destroys of a partition complete. -/
def finishForced (s : State) (p : Nat) : State :=
  let l := (ctxsOf s p).filter (fun n => (ctxOf s n).state == .destroying && (match (ctxOf s n).abort with | some a => a.forced | none => false))
  each l (fun n s => freeContext (dropAll s n) n) s

/-- R261: PARTITION_RESET_DONE. -/
def execPartitionResetDone (part : Nat) (s : State) : Res :=
  if 64 ≤ part then .fault .noSuchUnit
  else
    match (partOf s part).resetUntil with
    | none => .next s
    | some t => if now s ≤ t then .next (finishForced (updPart s part (fun x => { x with resetUntil := none })) part) else .next s

/-- R261: the partition has failed: its contexts are faulted. -/
def failPartition (s : State) (p : Nat) : State :=
  let l := (ctxsOf s p).filter (fun n => (ctxOf s n).state == .active || (ctxOf s n).state == .broken)
  let s := updPart s p (fun x => { x with state := .failed, resetUntil := none })
  let s := each l (fun n s => ctxFault s n 0x0807) s
  let d := (ctxsOf s p).filter (fun n => (ctxOf s n).state == .destroying)
  let s := each d (fun n s =>
    let s := eventCtx (eventAdm s n { type := 5, code := 0x0807 }) n { type := 5, code := 0x0807 }
    let s := match (ctxOf s n).abort with | some { job := some j, .. } => finishJob s j 0x0807 | _ => s
    updCtx s n (fun c => { c with state := .faulted, fault := 0x0807, abort := none })) s
  capChange (addF s qfPartFailed) [p]

/-- R261: PARTITION_RESET_OVERRUN. -/
def execPartitionResetOverrun (part : Nat) (s : State) : Res :=
  if 64 ≤ part then .fault .noSuchUnit
  else
    match (partOf s part).resetUntil with
    | none => .next s
    | some t => if t < now s then .next (failPartition s part) else .next s

/-! ### Replay and queue settings -/

/-- R289: the timers of the descriptors that a broken context held resume. -/
def resumeTimers (s : State) (n : Nat) : State :=
  let c := ctxOf s n
  let fix := fun (d : Desc) => match d.headAt with
    | some h => { d with paused := d.paused + (now s - max h c.brokenAt) }
    | none => d
  updCtx s n (fun c => { c with sq := c.sq.map (fun q => (q.1, { q.2 with fetched := q.2.fetched.map fix })) })

/-- R293, R294: write the held entries, oldest first, with the vector requests they make; the entries that are left where a write
fails. -/
def replayGo (fuel : Nat) (s : State) (n : Nat) : State :=
  match fuel with
  | 0 => s
  | k + 1 =>
    let c := ctxOf s n
    match c.holding with
    | [] => s
    | e :: rest =>
      let w := vaWrite s n (c.cq.va.toNat + 32 * c.cq.tail) (withPhase e.2 c.cq.wraps)
      if w.1 ≠ 0 then s
      else
        let s := updCtx w.2 n (fun c => { c with holding := rest, cq := c.cq.push })
        replayGo k (if e.1 then requestVector s c.cqVector else s) n

/-- R293: REPLAY_HOLDING_RING. -/
def execReplayHoldingRing (job : Nat) (s : State) : Res :=
  runJob s job 0x90 (fun x s =>
    let n := bits (d8 x.desc 0x20) 0 12
    if (ctxOf s n).state ≠ .broken then finishJob s job 0x010A
    else
      let s := replayGo (ctxOf s n).holding.length s n
      if (ctxOf s n).holding.isEmpty then finishJob (updCtx (resumeTimers s n) n (fun c => { c with state := .active })) job 0
      else finishJob s job 0x0109)

/-- R277, R289: SET_QUEUE: the timeout and fetch limit of a queue. -/
def execSetQueue (job : Nat) (s : State) : Res :=
  runJob s job 0x91 (fun x s =>
    let n := bits (d8 x.desc 0x20) 0 12
    let q := bits (d8 x.desc 0x20) 12 2
    let t := bits (d4 x.desc 0x24) 0 26
    if (ctxOf s n).state = .free then finishJob s job 0x030E
    else if 60000000 < t then finishJob s job 0x0101
    else finishJob (updSubq s n q (fun y => { y with fetchLimit := bits (d8 x.desc 0x28) 0 8, timeoutUs := if t = 0 then 2000000 else t })) job 0)

/-! ### Instance resets (R330, R331) -/

/-- R330, R331: the contexts of an instance; a function-level reset of the PF covers those of every VF (log 47). -/
def fnCtxs (s : State) (f : Nat) (flr : Bool) : List Nat :=
  (s.front.ctxs.filter (fun e => e.2.state != .free && (e.2.function == f || flr && f == 0))).map (·.1)

/-- R330: a function-level reset, not only a reset-instance, of the function is in progress. -/
def flrRuns (s : State) (f : Nat) : Bool := s.bound.instResets.any (fun e => e.1 == f && e.2.2.isNone)

/-- R331: the administrator registers and their indices at their reset values. -/
def resetAdmin (s : State) : State :=
  let fs := [qfAdmqLo, qfAdmqHi, qfAdmqLog2, qfAdmcqLo, qfAdmcqHi, qfAdmcqLog2, qfAdmeqLo, qfAdmeqHi, qfAdmeqLog2,
    qfAdmqTail, qfAdmqHead, qfAdmcqHead, qfAdmcqTail, qfAdmeqHead, qfAdmeqTail]
  let s := each fs (fun f s => setF s f f.rst) s
  { s with front.admFetched := [], front.admCqWraps := 0, front.admEqWraps := 0, front.admDropped := 0 }

/-- R382: a function-level reset of the PF releases every mailbox that the host holds as sender. -/
def releaseHostLocks (s : State) : State :=
  { s with ctrl.mailboxes := s.ctrl.mailboxes.map (fun e => if e.2.lock = 5 then (e.1, {}) else e) }

/-- R330: an instance reset begins: every context of the instance is aborted with 0x0805. -/
def beginReset (s : State) (f : Nat) (job : Option Nat) : State :=
  let l := (fnCtxs s f job.isNone).filter (fun n => (ctxOf s n).state != .destroying)
  let s := each l (fun n s => eventAdm (forceAbort s n 0x0805 none) n { type := 5, code := 0x0805 }) s
  let s := { s with bound.instResets := s.bound.instResets ++ [(f, now s, job)], bound.flrDone := s.bound.flrDone &&& ~~~(1#16 <<< f) }
  if f = 0 ∧ job.isNone then releaseHostLocks (resetAdmin s) else s

/-- R330: FUNCTION_LEVEL_RESET. -/
def execFunctionLevelReset (function : Nat) (s : State) : Res :=
  if 16 ≤ function then .fault .noSuchUnit else .next (beginReset s function none)

/-- R330: RESET_INSTANCE. -/
def execResetInstance (job : Nat) (s : State) : Res :=
  runJob s job 0x8C (fun x s => awaitJob (beginReset s (bits (d8 x.desc 0x20) 0 4) (some job)) job)

/-- R330: FUNCTION_RESET_COMPLETE. -/
def execFunctionResetComplete (function : Nat) (s : State) : Res :=
  if 16 ≤ function then .fault .noSuchUnit
  else if (fnCtxs s function (flrRuns s function)).isEmpty && s.bound.instResets.any (fun e => e.1 == function) then
    let l := s.bound.instResets.filter (fun e => e.1 == function)
    let s := { s with bound.instResets := s.bound.instResets.filter (fun e => e.1 != function),
                      bound.fnSilent := if function = 0 ∧ flrRuns s 0 then BitVec.allOnes 16 else s.bound.fnSilent ||| (1#16 <<< function) }
    .next (each l (fun e s => match e.2.2 with
      | some j => finishJob s j 0
      | none => { s with bound.flrDone := s.bound.flrDone ||| (1#16 <<< function) }) s)
  else .next s

/-- R330: FUNCTION_RESET_BOUND. -/
def execFunctionResetBound (function : Nat) (s : State) : Res :=
  if 16 ≤ function then .fault .noSuchUnit
  else if s.bound.instResets.any (fun e => e.1 == function && decide (e.2.1 + 1400000 ≤ now s)) then
    let l := fnCtxs s function (flrRuns s function)
    let parts := (List.range 64).filter (fun p => l.any (fun n => (ctxOf s n).partition == p))
    let force := fun (c : Context) => { c with abort := c.abort.map (fun a => { a with forced := true }) }
    let s := each l (fun n s => updCtx s n force) s
    .next (each parts (fun p s => if (partOf s p).resetUntil.isSome then s else resetPartition s p) s)
  else .next s

end Sys2Proof.Machine
end

