-- ==== Sys2Proof/Machine/Partitions.lean ====
section
/-! DEFINITION. The partition and group commands (R307 to R314), accounting (R327), calibration (R328). -/

namespace Sys2Proof.Machine

/-! ### Partitions (R308 to R311) -/

/-- R308: the partition block at a host address; reserved fields are ignored (R10). -/
def readPartBlock (s : State) (a : Nat) : PartBlock :=
  let b := rdBytes s.mem.host a 32
  { partition := bits (fieldAt b 0 4) 0 6, coreMask := BitVec.ofNat 64 (fieldAt b 8 8), luMask := BitVec.ofNat 80 (fieldAt b 0x10 10),
    sliceUnits := fieldAt b 0x1A 2, slowThr := fieldAt b 0x1C 2 }

/-- R308: a partition comes into being. -/
def makePartition (s : State) (b : PartBlock) : State := capChange (setMasks (putPart s b.partition { state := .active }) b) [b.partition]

/-- R308: CREATE_PARTITION. -/
def execCreatePartition (job : Nat) (s : State) : Res :=
  runJob s job 0x82 (fun x s =>
    let b := readPartBlock s (d8 x.desc 0x20)
    if (partOf s b.partition).state ≠ .absent then finishJob s job 0x030E
    else if masksOk s b = false then finishJob s job 0x0101
    else finishJob (makePartition s b) job 0)

/-- R309: RESIZE_PARTITION. -/
def execResizePartition (job : Nat) (s : State) : Res :=
  runJob s job 0x83 (fun x s =>
    let b := readPartBlock s (d8 x.desc 0x20)
    let p := b.partition
    if (partOf s p).state ≠ .active ∨ (partOf s p).resize.isSome ∨ (partOf s p).resizeRest.isSome ∨ (partOf s p).destroyJob.isSome then finishJob s job 0x030E
    else if resizeOk s b = false then finishJob s job 0x0101
    else boundary (awaitJob (updPart s p (fun y => { y with resize := some (b, job) })) job) p)

/-- R307: the partition that a command names. -/
def dPart (d : Desc) : Nat := bits (d8 d 0x20) 0 6

/-- R311: DESTROY_PARTITION. -/
def execDestroyPartition (job : Nat) (s : State) : Res :=
  runJob s job 0x84 (fun x s =>
    let p := dPart x.desc
    let y := partOf s p
    if y.state ≠ .active ∨ y.destroyJob.isSome ∨ y.group.isSome ∨ (ctxsOf s p).isEmpty = false then finishJob s job 0x030E
    else boundary (awaitJob (updPart s p (fun y => { y with destroyJob := some job })) job) p)

/-! ### Placement groups (R218, R225, R312) -/

/-- R214, R218: hops along one dimension: express ports while the remaining distance exceeds s/2, torus ports after that. -/
def dimHops (fuel skip r : Nat) : Nat :=
  match fuel with
  | 0 => r
  | k + 1 => if 0 < skip ∧ skip < 2 * r then 1 + dimHops k skip (if skip ≤ r then r - skip else skip - r) else r

/-- The distance between two positions of a ring. -/
def ringDist (n a b : Nat) : Nat :=
  let d := if a ≤ b then b - a else a - b
  min d (n - d)

/-- R218: hops between two blocks along control-class routes; only Jujor-L has express ports. -/
def hopsBetween (s : State) (a b : Coord) : Nat :=
  let e := s.start.record.extent
  let k := if variantOf s = .jujorL then s.start.record.skip else 0
  dimHops 48 k (ringDist e.x a.x b.x) + dimHops 48 k (ringDist e.y a.y b.y) + dimHops 48 k (ringDist e.z a.z b.z)

/-- R218: h_g. -/
def groupHops (s : State) (l : List Coord) : Nat := l.foldl (fun m a => l.foldl (fun m b => max m (hopsBetween s a b)) m) 0

/-- R217: a coordinate of the domain. -/
def inDomain (s : State) (c : Coord) : Bool :=
  let e := s.start.record.extent
  decide (c.x < e.x ∧ c.y < e.y ∧ c.z < e.z)

/-- R225: the torus ports of a direction that the variant has. -/
def dirPorts (s : State) (d : Nat) : List Nat := (List.range 48).filter (fun q => portPresent s q && portDir q == d)

/-- R225: every torus port of the direction is out. -/
def dirOut (s : State) (d : Nat) : Bool := (dirPorts s d).all (fun q => (portOf s q).out)

/-- R312: the group that a group block describes, and whether the block and its list keep the rules. -/
def readGroup (s : State) (a : Nat) : Option Group :=
  let b := rdBytes s.mem.host a 32
  let n := fieldAt b 2 2
  let k := fieldAt b 4 2
  if fieldAt b 0 2 = 0xFFFF ∨ n = 0 ∨ 768 < n then none
  else
    let l := (List.range n).map (fun i => unpackCoord (rdLE s.mem.host (fieldAt b 8 8 + 2 * i) 2))
    if l[k]? = some s.start.record.coord ∧ l.Nodup ∧ l.all (inDomain s) = true then
      some { number := fieldAt b 0 2, index := k, blocks := l, hops := groupHops s l, lostDirs := (List.range 6).filter (dirOut s) }
    else none

/-- R312: LOAD_GROUP. -/
def execLoadGroup (job : Nat) (s : State) : Res :=
  runJob s job 0x85 (fun x s =>
    let p := dPart x.desc
    if memberBit s = false then finishJob s job 0x0607
    else if (partOf s p).state ≠ .active ∨ (partOf s p).group.isSome then finishJob s job 0x030E
    else match readGroup s (d8 x.desc 0x28) with
      | none => finishJob s job 0x0101
      | some g =>
        let s := setF (updPart s p (fun y => { y with group := some g })) tbGroupLead (105 * g.hops) p
        let s := capChange s [p]
        awaitJob { s with front.capJobs := s.front.capJobs ++ [job] } job)

/-- R312: UNLOAD_GROUP. -/
def execUnloadGroup (job : Nat) (s : State) : Res :=
  runJob s job 0x86 (fun x s =>
    let p := dPart x.desc
    if (partOf s p).group.isNone ∨ hasGroupCtx s p then finishJob s job 0x030E
    else finishJob (setF (updPart s p (fun y => { y with group := none })) tbGroupLead 0 p) job 0)

/-! ### Shares, calibrations, accounting (R314, R327, R328) -/

/-- R314: the window overlaps another context's of the partition. -/
def windowClash (s : State) (n base count : Nat) : Bool :=
  (ctxsOf s (ctxOf s n).partition).any (fun m => m != n &&
    decide (base < (ctxOf s m).sramBase + (ctxOf s m).sramCount ∧ (ctxOf s m).sramBase < base + count ∧ 0 < (ctxOf s m).sramCount ∧ 0 < count))

/-- R314: the code of a set-context-sched. -/
def schedCode (s : State) (n share base count : Nat) (keep : Bool) : Code :=
  let c := ctxOf s n
  if c.state = .free then 0x030E
  else if share = 0 ∨ 1000 < share then 0x0101
  else if keep then 0
  else if 16 < base + count ∨ windowClash s n base count then 0x0101
  else if (base ≠ c.sramBase ∨ count ≠ c.sramCount) ∧ s.steps.programs.any (fun e => e.2.ctx == n) then 0x030E
  else 0

/-- R314: SET_CONTEXT_SCHED. -/
def execSetContextSched (job : Nat) (s : State) : Res :=
  runJob s job 0x87 (fun x s =>
    let n := bits (d4 x.desc 0x20) 0 12
    let share := bits (d4 x.desc 0x24) 0 10
    let w := d4 x.desc 0x28
    let keep := bit w 9
    let code := schedCode s n share (bits w 0 4) (bits w 4 5) keep
    if code ≠ 0 then finishJob s job code
    else
      let s := updCtx s n (fun c => { c with share := share })
      finishJob (if keep then s else updCtx s n (fun c => { c with sramBase := bits w 0 4, sramCount := bits w 4 5 })) job 0)

/-- R328: SET_CALIBRATION; a program that the context has not loaded is an argument out of range (log 48). -/
def execSetCalibration (job : Nat) (s : State) : Res :=
  runJob s job 0x88 (fun x s =>
    let n := bits (d4 x.desc 0x20) 0 12
    let i := d4 x.desc 0x24
    let v := d4 x.desc 0x28
    if (ctxOf s n).state = .free then finishJob s job 0x030E
    else if s.steps.programs.any (fun e => e.1 == i && e.2.ctx == n) = false then finishJob s job 0x0101
    else
      let s := updCtx s n (fun c => { c with calibWanted := c.calibWanted.filter (· != i) })
      finishJob (if v = 0 then updCtx s n (fun c => { c with calibWanted := c.calibWanted ++ [i] })
        else updCtx s n (fun c => { c with calib := mput c.calib i v })) job 0)

/-- R327: the accounting record of a context; a free context's reads 0. -/
def accountBytes (s : State) (n : Nat) : List Byte :=
  let c := ctxOf s n
  let a := c.account
  if c.state = .free then leBytes 64 0
  else
    leBytes 4 (n + c.partition * 2 ^ 12) ++ leBytes 4 a.steps ++ leBytes 8 a.hold ++ leBytes 8 a.engine ++ leBytes 8 a.wait ++
    leBytes 4 a.preempts ++ leBytes 4 a.shifts ++ leBytes 8 a.shiftTicks ++ leBytes 8 a.overrun ++ leBytes 4 a.slips ++ leBytes 4 (min c.debt (2 ^ 32 - 1))

/-- R327: READ_ACCOUNTING. -/
def execReadAccounting (job : Nat) (s : State) : Res :=
  runJob s job 0x89 (fun x s =>
    let n := bits (d4 x.desc 0x20) 0 12
    let k := dLen x.desc
    if k = 0 ∨ 4096 < n + k then finishJob s job 0x0101
    else
      let bs := (List.range k).flatMap (fun i => accountBytes s (n + i))
      finishJob { s with mem.host := wrBytes s.mem.host (d8 x.desc 0x28) bs } job 0)

/-! ### Pages (R310) -/

/-- R305, R310: the page holds one of the block's own tables or regions. -/
def pageReserved (s : State) (p : Nat) : Bool :=
  let f := getF s tuFirstPage
  let w := getF s bcFwFirstPage
  [tableBase s, objBase s, fenceBase s].any (fun a => pageOf a == p) ||
  decide (f ≤ p ∧ p < f + getF s tuPages) || decide (w ≤ p ∧ p < w + getF s bcFwPages)

/-- R310: may the page be granted to the partition? A lane unit that a pending resize removes takes no new page. -/
def pageGrantable (s : State) (part p : Nat) : Bool :=
  let y := partOf s part
  let g := p / 512
  pageExists s p && pageOwner s p == 0xFF && bit y.luMask.toNat g && (y.resize.toList ++ y.resizeRest.toList).all (fun x => bit x.1.luMask.toNat g) &&
  !pageReserved s p

/-- R307: the pages that a command names. -/
def dPages (d : Desc) : List Nat := (List.range (dLen d)).map (fun i => bits (d8 d 0x28) 0 16 + i)

/-- R310: GRANT_PAGES. -/
def execGrantPages (job : Nat) (s : State) : Res :=
  runJob s job 0x8A (fun x s =>
    let p := dPart x.desc
    if (partOf s p).state ≠ .active then finishJob s job 0x030E
    else if dLen x.desc = 0 ∨ 512 < dLen x.desc ∨ (dPages x.desc).all (pageGrantable s p) = false then finishJob s job 0x0101
    else finishJob { s with parts.pageOwn := (dPages x.desc).foldl (fun m i => mput m i p) s.parts.pageOwn } job 0)

/-- R310: REVOKE_PAGES: at once for new translations, complete at the step boundary. -/
def execRevokePages (job : Nat) (s : State) : Res :=
  runJob s job 0x8B (fun x s =>
    let p := dPart x.desc
    if (partOf s p).state = .absent then finishJob s job 0x030E
    else if dLen x.desc = 0 ∨ 512 < dLen x.desc ∨ (dPages x.desc).all (fun i => pageExists s i && pageOwner s i == p) = false then finishJob s job 0x0101
    else
      let r := (job, bits (d8 x.desc 0x28) 0 16, dLen x.desc, now s)
      boundary (awaitJob (updPart s p (fun y => { y with revokes := y.revokes ++ [r] })) job) p)

end Sys2Proof.Machine
end

