-- ==== Sys2Proof/Machine/Binding.lean ====
section
/-! DEFINITION. Binding and unbinding tables (R53 to R56, R96 to R99, R351). -/

namespace Sys2Proof.Machine

/-- R53: the tables bound, and the binds that await their boundary: table ID and context. -/
def boundTables (s : State) : List (Nat × Nat) := s.emb.tables.map (fun e => (e.1, e.2.ctx)) ++ s.emb.binds.map (fun e => (e.1, e.2.ctx))

/-- R53: the bind would exceed the limits of the block or the context; a rebind takes no new descriptor. -/
def bindsFull (s : State) (n tid : Nat) : Bool :=
  let distinct := fun (l : List (Nat × Nat)) => (l.foldl (fun (a : List Nat) e => if e.1 ∈ a then a else e.1 :: a) []).length
  let l := boundTables s
  !l.any (fun e => e.1 == tid) && (decide (65536 ≤ distinct l) || decide (4096 ≤ distinct (l.filter (fun e => e.2 == n))))

/-- R55: the format, its elements, and the ranges of R54 (DESIGN CHOICE, log 169). -/
def rowOk (d : List Byte) : Bool :=
  match rowBytes (tdFormat d) (tdElems d) (tdPqM d) with
  | none => false
  | some b => decide (16 ≤ tdElems d ∧ tdElems d ≤ 1024 ∧ 3 ≤ tdLog d ∧ tdLog d ≤ 11 ∧ b ≤ tdStride d ∧ 1 ≤ tdRows d)

/-- R55: the codebook units of a PQ table. -/
def cbOk (s : State) (d : List Byte) : Bool :=
  tdFormat d != 5 || (decide (cdiv (tdElems d) 128 ≤ tdCbUnits d ∧ tdCbSlot d + tdCbUnits d ≤ 64) &&
    (List.range (tdCbUnits d)).all (fun i => bit s.emb.cbLoaded.toNat (tdCbSlot d + i)))

/-- R55, R60: the shard map is in the partition's store. -/
def shardOk (s : State) (p : Nat) (d : List Byte) : Bool := tdShard d == 0xFFFF || !(mget (partOf s p).shardMaps (tdShard d)).isEmpty

/-- R90, R96, R98, R99: the layout of the update mode, and a group that takes the table. -/
def layoutOk (s : State) (n : Nat) (t : Table) (size : Nat) : Bool :=
  let g := groupOf s (tdGroup t.desc)
  let k := tdSlots t.desc
  let slots := if tdDelta t.desc then k % 8 == 0 && decide (1024 ≤ k ∧ k ≤ 16777208) else k == 0
  slots && decide (tableBytes s t ≤ size) && (!g.valid || (g.ctx == n && g.staging != .sealed))

/-- R351: the 32 MiB pages of an object. -/
def objPages (o : Obj) : List Nat :=
  let first := o.va.toNat / 2 ^ 25
  (List.range (cdiv (o.va.toNat + o.size.toNat) (2 ^ 25) - first)).map (fun i => (first + i) * 2 ^ 25)

/-- R351: the walks of the pages: the first code that fails, and what the entries hold. -/
def walkPages (s : State) (n : Nat) (l : List Nat) : Code × List PmapEntry :=
  l.foldr (fun va r =>
    let w := pmapWalk s n va
    if w.1 ≠ 0 then (w.1, []) else if r.1 ≠ 0 then r else (0, w.2 :: r.2)) (0, [])

/-- R351: consecutive free page-map entries for a number of pages. -/
def pmapRoom (s : State) (k : Nat) : Option Nat :=
  firstBelow (32768 + 1 - k) (fun i => (List.range k).all (fun j => (mfind s.emb.pmap (i + j)).isNone))

/-- R54, R90: the descriptor as Jujor writes it: the owner, and no epoch state yet. -/
def ownDesc (d : List Byte) (n : Nat) : List Byte := putAt (putAt d 0 (leBytes 4 (setBits (fieldAt d 0 4) 16 12 n))) 0x30 (leBytes 8 0)

/-- R55, R98: the code with which a bind of a table fails before its pages are walked, 0 where it passes. -/
def bindCode (s : State) (n tid : Nat) (t : Table) : Code :=
  let h := tdHandle t.desc
  let size := (objOf s t.obj).size.toNat
  firstFail [
    ((boundTables s).any (fun e => e.1 == tid && e.2 != n), 0x0B02),
    (bindsFull s n tid, 0x0B07),
    (!rowOk t.desc, 0x0B01),
    (!cbOk s t.desc, 0x0B04),
    (!shardOk s t.part t.desc, 0x0B01),
    (checkHandle s n [1, 2] h != 0, checkHandle s n [1, 2] h),
    (decide (size < mainBytes s t), 0x0B01),
    (!layoutOk s n t size, 0x0A0B)]

/-- R55, R351: the page-map entries of a table that is to be bound, from an index on. -/
def bindIds (i : Nat) (l : List PmapEntry) : List Nat := (List.range l.length).map (fun j => i + j)

/-- R55, R56, R351: a table whose checks passed: its pages enter the page map, its object is bound, it awaits its boundary. -/
def placeBind (s : State) (job tid i : Nat) (t : Table) (l : List PmapEntry) : State :=
  let pm := ((bindIds i l).zip l).foldl (fun m (e : Nat × PmapEntry) => mput m e.1 e.2) s.emb.pmap
  awaitJob (bindObj { s with emb.pmap := pm, emb.binds := s.emb.binds ++ [(tid, { t with pages := bindIds i l })] } t.obj) job

/-- R55, R351: bind a table: its pages enter the page map, its object is bound, and it awaits its boundary. -/
def bindTable (s : State) (job n tid : Nat) (d : List Byte) : State :=
  let t : Table := { desc := d, ctx := n, part := (ctxOf s n).partition, obj := hIndex (tdHandle d), bindJob := some job }
  let code := bindCode s n tid t
  if code ≠ 0 then finishJob s job code
  else
    let w := walkPages s n (objPages (objOf s t.obj))
    if w.1 ≠ 0 then finishJob s job w.1
    else match pmapRoom s w.2.length with
      | none => finishJob s job 0x0209
      | some i => boundary (placeBind s job tid i t w.2) t.part

/-- R55: BIND_TABLE. -/
def execBindTable (job : Nat) (s : State) : Res :=
  runJob s job 0x30 (fun x s =>
    let (code, va) := objRange s (d8 x.desc 0x20) (dOff x.desc 0x28) 64
    if code ≠ 0 then finishJob s job code
    else
      let (c, d) := vaRead s x.ctx va 64
      if c ≠ 0 then finishJob s job c else bindTable (touchRead s engFront x.ctx va 64) job x.ctx (fieldAt d 0 2) (ownDesc d x.ctx))

/-- R56: UNBIND_TABLE; a table that the context has not bound is not bound for it. -/
def execUnbindTable (job : Nat) (s : State) : Res :=
  runJob s job 0x31 (fun x s =>
    let tid := bits (d8 x.desc 0x20) 0 16
    match tableFor s x.ctx tid with
    | none => finishJob s job 0x0B02
    | some t =>
      let s := putTable s tid { t with unbinding := true, unbindJobs := t.unbindJobs ++ [job] }
      boundary (awaitJob s job) t.part)

end Sys2Proof.Machine
end

