-- ==== Sys2Proof/Machine/Control.lean ====
section
/-! DEFINITION. The control instructions (R160). -/

namespace Sys2Proof.Machine

/-- R160: nop. -/
def execControlNop (core : Nat) (dw : Bool) (s : State) : Res :=
  issue (.controlNop core dw) core dw [] s (fun s => advance s core)

/-- R160: li. -/
def execLi (core : Nat) (dw : Bool) (d : Nat) (imm : W64) (s : State) : Res :=
  issue (.li core dw d imm) core dw [] s (fun s => updCoreNext s core (fun k => setG k d imm))

/-- R160: addi. -/
def execAddi (core : Nat) (dw : Bool) (d a : Nat) (imm : W64) (s : State) : Res :=
  issue (.addi core dw d a imm) core dw [a] s (fun s => updCoreNext s core (fun k => setG k d (gReg k a + imm)))

/-- R160: add. -/
def execAdd (core : Nat) (dw : Bool) (d a b : Nat) (s : State) : Res :=
  issue (.add core dw d a b) core dw [a, b] s (fun s => updCoreNext s core (fun k => setG k d (gReg k a + gReg k b)))

/-- R160: sub. -/
def execSub (core : Nat) (dw : Bool) (d a b : Nat) (s : State) : Res :=
  issue (.sub core dw d a b) core dw [a, b] s (fun s => updCoreNext s core (fun k => setG k d (gReg k a - gReg k b)))

/-- R160: cmp. -/
def execCmp (core : Nat) (dw : Bool) (a b : Nat) (s : State) : Res :=
  issue (.cmp core dw a b) core dw [a, b] s (fun s => updCoreNext s core (fun k => cmpFlags k (gReg k a) (gReg k b)))

/-- R160: br. -/
def execBr (core : Nat) (dw : Bool) (cond target : Nat) (s : State) : Res :=
  issue (.br core dw cond target) core dw [] s (fun s =>
    if condHolds (coreOf s core) cond then goTo s core target else advance s core)

/-- R160: loop; the new g0 reads 0 (R151), so a loop on g0 falls through. -/
def execLoop (core : Nat) (dw : Bool) (a target : Nat) (s : State) : Res :=
  issue (.loop core dw a target) core dw [a] s (fun s =>
    let k := setG (coreOf s core) a (gReg (coreOf s core) a - 1)
    let s := putCore s core k
    if gReg k a ≠ 0 then goTo s core target else advance s core)

/-- R153, R160: sync. -/
def execSync (core : Nat) (dw : Bool) (s : State) : Res :=
  issue (.sync core dw) core dw [] s (fun s => if coreIdle s core then advance s core else s)

/-- R160: the step's elapsed tick: slips have moved its base. -/
def elapsed (s : State) (c : Nat) : Nat :=
  match runOf s (partOfCore s c) with
  | some r => now s - r.base
  | none => 0

/-- R160: twait. -/
def execTwait (core : Nat) (dw : Bool) (imm : W64) (s : State) : Res :=
  issue (.twait core dw imm) core dw [] s (fun s => if low 32 imm.toNat ≤ elapsed s core then advance s core else s)

/-- R160: rdtick. -/
def execRdtick (core : Nat) (dw : Bool) (d : Nat) (s : State) : Res :=
  issue (.rdtick core dw d) core dw [] s (fun s => updCoreNext s core (fun k => setG k d (BitVec.ofNat 64 (elapsed s core))))

/-- R149: the task of a core has halted: the core is free, waiting tasks are placed, and the step may end. -/
def haltTask (s : State) (p c : Nat) : State := stepProgress (placeTasks (leaveCore s p c .halted []) p) p

/-- R160, R164: halt syncs, then ends the task; with a selection open it is a program fault. -/
def execHalt (core : Nat) (dw : Bool) (s : State) : Res :=
  issue (.halt core dw) core dw [] s (fun s =>
    if (coreOf s core).sel.isSome then programFault s core
    else if coreIdle s core then haltTask s (partOfCore s core) core else s)

end Sys2Proof.Machine
end

