-- ==== Sys2Proof/Machine/Clock.lean ====
section
/-! DEFINITION. The tick counter's ACLK edge (R185). -/

namespace Sys2Proof.Machine

/-- R33, R37, R41: does the time-base clock run? -/
def aclkRuns (s : State) : Bool := s.bound.powered && !s.bound.porLow && !s.bound.clockLost

/-- R190, R196: a locked block and one in holdover follow the master; a master follows the time pulse when it is enabled. -/
def servoActive (s : State) : Bool :=
  (getF s tbSyncState == 2 || getF s tbSyncState == 3) && (getF s tbMaster == 0 || s.start.record.tpulseEn)

/-- One tick in the servo's units of 2^-40 tick (log 8). -/
def servoTick : Int := 1099511627776

/-- R190, R196: what holds and steps have yet to remove, the frequency correction of this edge included. -/
def servoOwed (s : State) : Int := if servoActive s then s.time.owed + s.time.freq else s.time.owed

/-- R185, R190: by how much the counter moves at an edge: 1, or 0 or 2 where the servo holds or steps it to remove a whole tick, at
most once in 1,024 consecutive edges (DESIGN CHOICE, log 8). -/
def edgeAmount (s : State) : Nat :=
  if servoActive s && decide (1023 ≤ s.time.sinceAdjust) then
    if servoTick ≤ servoOwed s then 2 else if servoOwed s ≤ -servoTick then 0 else 1
  else 1

/-- R190, R192: the offsets kept are those to the counter as it stands after a hold or a step. -/
def shiftOffsets (d : Int) (s : State) : State :=
  { s with time.phase := s.time.phase.map (fun x => x + 16 * d),
           time.ports := s.time.ports.map (fun e => (e.1, { e.2 with offsets := e.2.offsets.map (fun x => x + 16 * d) })) }

/-- R190: an edge of the servo that moves the counter by `n`. -/
def servoEdge (n : Nat) (s : State) : State :=
  let d : Int := 1 - n
  let s' : State := { s with time.owed := servoOwed s + d * servoTick, time.sinceAdjust := if n = 1 then min 1023 (s.time.sinceAdjust + 1) else 0 }
  if n = 1 then s' else shiftOffsets d s'

/-- R196: a master that follows the time pulse changes its frequency by at most 0.01 ppm per marker period. -/
def steerMaster (before : Nat) (s : State) : State :=
  if getF s tbMaster = 1 ∧ s.start.record.tpulseEn = true ∧ before / 65536 ≠ s.time.tick / 65536 then
    { s with time.freq := s.time.freq + clampInt (-10995) 10995 (s.time.steer - s.time.freq) }
  else s

/-- R419, R420: the cluster and stack-group domains, which the thermal response and the backstop gate. -/
def gatedDomains (s : State) : Nat := variantCores (variantOf s) / 8 + variantStacks (variantOf s)

/-- R419, R420, R421: what the gating of a tick adds to therm_gated and backstop_gated (log 54). -/
def countGated (s : State) : State :=
  let s := if s.bound.thermActive && decide (now s % 8 < s.bound.thermGate) then telemAdd s 12 (gatedDomains s) else s
  if getF s hpBackstop = 1 ∧ now s % 4 = 0 then telemAdd s 13 (gatedDomains s) else s

/-- R421: the bytes that the stack ports move in a tick: free values below 2^16 (log 51). -/
def countPorts (s : State) : State :=
  { telemAdd (telemAdd s 5 ((Config.freeValue s.freeCount).toNat % 65536)) 6 ((Config.freeValue (s.freeCount + 1)).toNat % 65536) with
    freeCount := s.freeCount + 2 }

/-- R185: one ACLK edge. -/
def aclkEdge (s : State) : State :=
  if aclkRuns s then
    let n := edgeAmount s
    let s := servoEdge n (countPorts (countGated s))
    steerMaster s.time.tick { s with time.tick := s.time.tick + n }
  else s

end Sys2Proof.Machine
end

