-- ==== Sys2Proof/Machine/Lookup.lean ====
section
/-! DEFINITION. Lookups of a running step (R57 to R70, R77 to R81, R85), the returns of exchange records, and the carry
area's deadline (R84). -/

namespace Sys2Proof.Machine

/-- R107: this block can supply a launch epoch of a group to its own steps. -/
def epochServed (x : EpochGroup) (e : Nat) : Bool := x.active == e || (x.retained && x.active == e + 1)

/-- R105, R106: and to remote records, epoch `e + 1` too once its staging is sealed. -/
def epochServedRemote (x : EpochGroup) (e : Nat) : Bool := epochServed x e || (e == x.active + 1 && x.staging == .sealed)

/-- The lane unit by which a partition's resolver reads ID arrays and writes outputs: its lowest (log 159). -/
def laneUnit (s : State) (p : Nat) : Nat := (partLus s p).headD 0

/-- A read by the partition's lanes. -/
def laneRead (s : State) (p n va len : Nat) : Code × List Byte := vaReadE s (engStack (laneUnit s p / 4)) n va len
def laneTouch (s : State) (p n va len : Nat) : State := touchRead s (engStack (laneUnit s p / 4)) n va len

/-- R353: a walk of the partition's lanes failed. -/
def laneFault (s : State) (p n va : Nat) (write : Bool) (code : Code) : State := xlateFault s (reqLane (32 * laneUnit s p)) n va write code

/-- Change a feature of the running step. -/
def updFeature (s : State) (p fi : Nat) (f : FeatureRun → FeatureRun) : State :=
  updRun s p (fun r => { r with features := r.features.modify fi f })

/-- R66: the first ID of a bag and the one past its last; without an offsets array one ID per bag. -/
def bagBounds (s : State) (p n : Nat) (f : FeatureRun) (bag : Nat) : Code × Nat × Nat :=
  if f.offsetsVa = 0 then (0, bag, bag + 1)
  else
    let (c, bs) := laneRead s p n (f.offsetsVa.toNat + 4 * bag) 8
    (c, fieldAt bs 0 4, fieldAt bs 4 4)

/-- R66, R141: the IDs that a top-k stream has brought to the lanes for a feature. -/
def topkIds (r : StepRun) (f : FeatureRun) : List (BitVec 64) :=
  match r.streams.find? (fun t => t.kind == 6 && t.srcCore == f.srcCore) with
  | none => []
  | some t => t.laneIds

/-- The local row contribution of an ID. -/
def addRow (s : State) (p fi bag : Nat) (c : Contribution) : State :=
  updFeature s p fi (fun f => { f with lengths := mmod f.lengths bag (· + 1), contrib := mmod f.contrib bag (· ++ [c]) })

/-- R61, R68, R86: an ID that contributes the default row, in its position (DESIGN CHOICE, log 170). -/
def addDefault (s : State) (p fi bag pos : Nat) (weight : BitVec 32) (t : Table) (epoch : Nat) : State :=
  let s := addRow s p fi bag { pos := pos, values := decodeRow s t (defaultRow s t epoch), weight := weight }
  addF (updFeature s p fi (fun f => { f with substBit := true })) eeSubstitutions

/-- One ID of a bag on its way through the resolver. -/
structure Looked where
  part : Nat
  fi : Nat
  bag : Nat
  pos : Nat
  row : Nat
  weight : BitVec 32
  epoch : Nat
  deriving DecidableEq, Repr, Inhabited

/-- R79, R82, R86: an ID over its destination's budget: held by policies 1 and 2, else the default row at once. -/
def spillId (s : State) (r : StepRun) (f : FeatureRun) (t : Table) (l : Looked) (owner loc : Nat) : State :=
  let s := telemAdd (addF64 s eeSpillLo) 20 1
  let s := updRun s l.part (fun r => { r with lateCount := r.lateCount + 1 })
  let s := updFeature s l.part l.fi (fun f => { f with spilt := true })
  let drop := fun (s : State) =>
    updRun (addF (addDefault s l.part l.fi l.bag l.pos l.weight t l.epoch) eeGreyDrop) l.part (fun r => { r with greyDrops := r.greyDrops + 1 })
  if f.latePolicy = 0 ∨ r.grey = 0 then drop s
  else
    let g : GreyHeld := { part := l.part, ctx := r.ctx, handle := r.grey.toNat, feature := l.fi, bag := l.bag, row := loc,
                          weight := if f.poolOp = 3 then l.weight else 0, pos := if f.poolOp = 4 then l.pos else 0, epoch := l.epoch,
                          owner := owner, sentBe := f.latePolicy == 2, step := r.number, table := f.tableId, outFormat := f.outFormat,
                          poolOp := f.poolOp }
    match greyHold s g (f.poolOp != 4) with
    | none => drop s
    | some s =>
      let s := updFeature s l.part l.fi (fun f => { f with lengths := mmod f.lengths l.bag (· + 1), spilled := mmod f.spilled l.bag (· + 1) })
      if f.latePolicy = 2 then
        match blockCoord s l.part owner with
        | none => s
        | some c => beSend s c 1 0 r.ctx (heldBytes g true)
      else s

/-- R79: the units of budget that an ID takes. -/
def recordCost (op : Nat) : Nat := if op = 3 ∨ op = 4 then 2 else 1

/-- R62 step 4: an exchange record to the owner within its budget. -/
def sendRecord (s : State) (r : StepRun) (f : FeatureRun) (t : Table) (l : Looked) (owner loc : Nat) : State :=
  let (left, flits) := mget r.budget owner
  let cost := recordCost f.poolOp
  if owner ∈ r.overdrawn ∨ left < cost then
    spillId (updRun s l.part (fun r => { r with overdrawn := if owner ∈ r.overdrawn then r.overdrawn else r.overdrawn ++ [owner] })) r f t l owner loc
  else
    let k := exKey 1 owner
    let s := updRun s l.part (fun r =>
      { r with budget := mput r.budget owner (left - cost, flits),
               outRecords := mset r.outRecords k (mget r.outRecords k ++ [recordBytes f.poolOp loc l.fi l.bag l.weight l.pos]) })
    updFeature s l.part l.fi (fun f => { f with lengths := mmod f.lengths l.bag (· + 1), awaiting := mmod f.awaiting l.bag (· + 1) })

/-- R52: the lane unit of a row of this block, by the page that holds it. -/
def rowUnit (s : State) (t : Table) (off : Nat) : Nat := match tabXl s t off with | some x => unitAt x.pa | none => laneUnit s t.part

/-- R62: the delta filter's answer for a row. -/
def deltaHit (s : State) (t : Table) (tid row : Nat) : Bool := tdDelta t.desc && filterHit s t tid row

/-- R26, R52: the lanes of the pseudo-channel that holds a row stall for an urgent refresh. -/
def rowStalled (s : State) (t : Table) (tid row loc epoch : Nat) : Bool :=
  match tabXl s t (rowAt s t loc epoch (deltaHit s t tid row)) with
  | some x => bit (mget s.bound.refUrgent (unitAt x.pa / 4)).toNat (channelAt x.pa)
  | none => false

/-- R62 steps 2 and 3: a row of this block. An uncorrectable filter word reads as set, a codebook or page-map word ends the
step (R402). -/
def localRow (s : State) (r : StepRun) (t : Table) (l : Looked) (loc : Nat) (ue : Bool) : State :=
  let tid := (match r.features[l.fi]? with | some f => f.tableId | none => 0)
  let g := unitSg (rowUnit s t (rowAt s t loc l.epoch (deltaHit s t tid l.row)) / 4)
  if epochServed (groupOf s (tdGroup t.desc)) l.epoch = false then stepFail s l.part 0x0A08
  else if ue ∧ tdFormat t.desc = 5 then stepFail (sramUe s g 6 0 [r.ctx]) l.part 0x0702
  else if ue ∧ tdDelta t.desc = false then
    stepFail (updPart (sramUe s g 7 0 [r.ctx]) l.part (fun x => { x with rewalk := x.rewalk ++ t.pages })) l.part 0x0702
  else
    let s := if ue then sramUe s g 9 0 [r.ctx] else s
    let hit := deltaHit s t tid l.row || (ue && tdDelta t.desc)
    let s := if hit then addF s eeFilterPos else s
    let s := if hit ∧ rowAt s t loc l.epoch true = mainRowAt s t loc l.epoch then addF s eeFilterFalse else s
    addRow s l.part l.fi l.bag { pos := l.pos, values := decodeRow s t (rowStored s t loc l.epoch hit), weight := l.weight }

/-- R62: the first source that holds the row: the crimson tier, this block, the owner. -/
def resolveRow (s : State) (r : StepRun) (f : FeatureRun) (t : Table) (l : Looked) (ecc : SramEcc) : State :=
  let g := unitSg (laneUnit s l.part / 4)
  let s := heatId s l.part f.tableId t l.row
  let probed := hasCrimson s && tdCrimson t.desc
  let hit := if probed then crimsonHit s f.tableId l.row l.epoch else none
  let s := if probed then addF64 s eeLookupsLo else s
  let s := if ecc = .corrected then ceCount s g else s
  let bad := decide (ecc = .uncorrectable)
  match hit, bad with
  | some c, false =>
    addRow (telemAdd (addF64 s eeHitsLo) 4 1) l.part l.fi l.bag { pos := l.pos, values := decodeRow s t c.data, weight := l.weight }
  | _, _ =>
    let s := match hit with
      | some c => addF (dropCrimson (sramUe s g 8 0 [r.ctx]) (fun x => x == c)) eeCrimsonEccMiss
      | none => s
    match ownerOf s t l.row with
    | (none, loc) => localRow s r t l loc (bad && hit.isNone)
    | (some j, loc) => sendRecord s r f t l j loc

/-- R57, R58: resolve an ID. -/
def resolveId (s : State) (r : StepRun) (f : FeatureRun) (l : Looked) (id : Nat) (ecc : SramEcc) : State :=
  match tableFor s r.ctx f.tableId with
  | none => stepFail s l.part 0x0B02
  | some t =>
    let l := { l with epoch := mget r.epochs (tdGroup t.desc) }
    let s := telemAdd s 3 1
    match rowOfId t.desc id with
    | some row => resolveRow s r f t { l with row := row } ecc
    | none =>
      if tdSubst t.desc then addF (addDefault s l.part l.fi l.bag l.pos l.weight t l.epoch) eeOob
      else stepFail s l.part 0x0B03

/-- R62: the next ID of a bag. -/
def lookupId (s : State) (p : Nat) (r : StepRun) (fi : Nat) (f : FeatureRun) (bag pos : Nat) (ecc : SramEcc) : State :=
  let (c1, lo, hi) := bagBounds s p r.ctx f bag
  if c1 ≠ 0 then laneFault s p r.ctx (f.offsetsVa.toNat + 4 * bag) false c1
  else if f.maxBag < hi - lo then stepFail s p 0x0B05
  else if pos ≠ mget f.lengths bag ∨ hi - lo ≤ pos then s
  else
    let wVa := f.weightsVa.toNat + 4 * (lo + pos)
    let (c2, wb) := if f.poolOp = 3 then laneRead s p r.ctx wVa 4 else (0, [])
    let s := if f.offsetsVa = 0 then s else laneTouch s p r.ctx (f.offsetsVa.toNat + 4 * bag) 8
    let s := if f.poolOp = 3 then laneTouch s p r.ctx wVa 4 else s
    let l : Looked := { part := p, fi := fi, bag := bag, pos := pos, row := 0, weight := BitVec.ofNat 32 (leNat wb), epoch := 0 }
    if c2 ≠ 0 then laneFault s p r.ctx wVa false c2
    else if f.topk then
      match (topkIds r f)[lo + pos]? with
      | none => s
      | some id => resolveId s r f l id.toNat ecc
    else
      let va := f.idVa.toNat + 8 * (lo + pos)
      let (c3, ib) := laneRead s p r.ctx va 8
      if c3 ≠ 0 then laneFault s p r.ctx va false c3 else resolveId (laneTouch s p r.ctx va 8) r f l (leNat ib) ecc

/-- R57, R66: the ID at a position of a bag, where it is there to be read. -/
def bagId (s : State) (p : Nat) (r : StepRun) (f : FeatureRun) (lo pos : Nat) : Option Nat :=
  if f.topk then ((topkIds r f)[lo + pos]?).map (fun i => i.toNat)
  else
    let (c, bs) := laneRead s p r.ctx (f.idVa.toNat + 8 * (lo + pos)) 8
    if c = 0 then some (leNat bs) else none

/-- R66: every ID of the bags before `n` of a feature has been resolved. -/
def bagsResolved (s : State) (p : Nat) (r : StepRun) (f : FeatureRun) (n : Nat) : Bool :=
  (List.range n).all (fun b =>
    let (c, lo, hi) := bagBounds s p r.ctx f b
    c != 0 || decide (hi - lo ≤ mget f.lengths b))

/-- R79: the exchange unit takes remote IDs in feature-entry order, then in ID-position order: those of the features and bags
before have been resolved. (A bag's positions are resolved in order, R62.) -/
def exchangeTurn (s : State) (p : Nat) (r : StepRun) (fi : Nat) (f : FeatureRun) (bag : Nat) : Bool :=
  (r.features.take fi).all (fun g => g.ready || bagsResolved s p r g g.batch) && bagsResolved s p r f bag

/-- R26, R79: does the ID at a position wait: for its turn in the exchange unit, or for the refresh of its row's pseudo-channel? -/
def lookupWaits (s : State) (p : Nat) (r : StepRun) (fi : Nat) (f : FeatureRun) (bag pos : Nat) (ecc : SramEcc) : Bool :=
  let (_, lo, _) := bagBounds s p r.ctx f bag
  match tableFor s r.ctx f.tableId, bagId s p r f lo pos with
  | some t, some id =>
    match rowOfId t.desc id with
    | none => false
    | some row =>
      let e := mget r.epochs (tdGroup t.desc)
      if hasCrimson s && tdCrimson t.desc && ecc != .uncorrectable && (crimsonHit s f.tableId row e).isSome then false
      else match ownerOf s t row with
        | (none, loc) => rowStalled s t f.tableId row loc e
        | (some _, _) => !exchangeTurn s p r fi f bag
  | _, _ => false

/-- R26, R62, R79: LOOKUP_ID; an ID that must wait is not resolved yet. -/
def execLookupId (part feature bag pos : Nat) (ecc : SramEcc) (s : State) : Res :=
  if 64 ≤ part then .fault .noSuchUnit
  else match runOf s part with
    | none => .next s
    | some r =>
      match r.features[feature]? with
      | none => .next s
      | some f =>
        if f.ready || decide (f.batch ≤ bag) || lookupWaits s part r feature f bag pos ecc then .next s
        else .next (greyFaultsDue (lookupId s part r feature f bag pos ecc))

/-! ### Returns of exchange records (R68, R80) -/

/-- R80: the elements of a transferred vector. -/
def inVector (fmt : Nat) (bs : List Byte) : List (BitVec 32) :=
  (List.range (bs.length / outBytes fmt)).map (fun i =>
    let v := fieldAt bs (i * outBytes fmt) (outBytes fmt)
    match fmt with
    | 0 => BitVec.ofNat 32 v
    | 1 => toF32 (fmtBF16.decode v)
    | _ => toF32 (fmtE4M3.decode v))

/-- R80: a return's tag: the count covered, or the position of a sequence row. -/
def returnTag (feature bag count : Nat) : Nat := feature % 1024 + bag % 2 ^ 14 * 2 ^ 10 + count % 2 ^ 13 * 2 ^ 24

/-- The tag of a record that the owner cannot supply (R105, R106; the spec gives it no form, log 28). -/
def refusedTag (feature : Nat) : Nat := feature % 1024 + 2 ^ 37

/-- R68: a remote contribution joins its bag. -/
def joinReturn (s : State) (p j fi bag n pos : Nat) (v : List (BitVec 32)) : State :=
  updFeature s p fi (fun f => { f with contrib := mmod f.contrib bag (· ++ [{ pos := pos, owner := some j, count := n, values := v }]),
                                       awaiting := mmod f.awaiting bag (· - n) })

/-- R68, R83: one return of a block: for a record of this step, or for a held record of an earlier one. -/
def takeReturn (s : State) (p j : Nat) (r : StepRun) (f : FeatureRun) (fi bag n : Nat) (v : List (BitVec 32)) : Option State :=
  let cnt := if f.poolOp = 4 then 1 else n
  if cnt = 0 then none
  else if 0 < mget f.awaiting bag ∧ f.ready = false then some (joinReturn s p j fi bag cnt n v)
  else match s.emb.greyHeld.find? (fun g => g.ctx == r.ctx && g.feature == fi && g.bag == bag && g.owner == j && g.sent && !g.back &&
      decide (g.step < r.number) && (f.poolOp != 4 || g.pos == n)) with
    | none => none
    | some g => some (greyResult s g cnt v false)

/-- R80: parse the return bytes that have come from a block; padding ends them. -/
def takeReturns (fuel : Nat) (s : State) (p j : Nat) : State :=
  match fuel with
  | 0 => s
  | k + 1 =>
    match runOf s p with
    | none => s
    | some r =>
      let buf := mget r.retBuf j
      let tag := fieldAt buf 0 8
      let put := fun (s : State) (b : List Byte) => updRun s p (fun r => { r with retBuf := mset r.retBuf j b })
      if buf.length < 8 then s
      else match r.features[bits tag 0 10]? with
        | none => put s []
        | some f =>
          if bit tag 37 then stepFail s p 0x0A08
          else
            let d := match tableOf s f.tableId with | some t => tdElems t.desc | none => 0
            let fmt := if f.poolOp = 4 then f.outFormat else 0
            let n := d * outBytes fmt
            if buf.length < 8 + n then s
            else match takeReturn s p j r f (bits tag 0 10) (bits tag 10 14) (bits tag 24 13) (inVector fmt ((buf.drop 8).take n)) with
              | none => put s []
              | some s => takeReturns k (put s (buf.drop (8 + n))) p j

/-! ### Serving other blocks (R81) -/

/-- R80: the bags of a list of records, in their order. -/
def recordBags (l : List (W64 × W64)) : List Nat :=
  l.foldl (fun b x => let n := bits x.1.toNat 50 14; if n ∈ b then b else b ++ [n]) []

/-- R62, R81, R101: the delta filter's answer for a row that this block serves to another: it holds bits of each logical row that
the local row may stand for (log 96). -/
def servedHit (s : State) (t : Table) (tid loc : Nat) : Bool :=
  tdDelta t.desc && (logicalRows s t loc).any (fun r => filterHit s t tid r)

/-- R101: filter_pos and filter_false for the rows that this block serves. -/
def countServed (s : State) (t : Table) (tid epoch : Nat) (l : List (W64 × W64)) : State :=
  each l (fun x s =>
    let loc := bits x.1.toNat 0 40
    if servedHit s t tid loc then
      let s := addF s eeFilterPos
      if rowAt s t loc epoch true = mainRowAt s t loc epoch then addF s eeFilterFalse else s
    else s) s

/-- R80, R81: the return bytes for the records of one feature; each row is resolved by steps 2 and 3 of R62. -/
def serveRecords (s : State) (t : Table) (tid op fmt feature epoch : Nat) (l : List (W64 × W64)) : List Byte :=
  let value := fun (x : W64 × W64) =>
    let loc := bits x.1.toNat 0 40
    decodeRow s t (rowStored s t loc epoch (servedHit s t tid loc))
  if op = 4 then
    l.flatMap (fun x => leBytes 8 (returnTag feature (bits x.1.toNat 50 14) (bits x.2.toNat 32 12)) ++ outVector fmt (value x))
  else
    (recordBags l).flatMap (fun b =>
      let mine := l.filter (fun x => bits x.1.toNat 50 14 == b)
      let terms := mine.map (fun x => ({ values := value x, weight := BitVec.ofNat 32 (bits x.2.toNat 0 32) } : Contribution))
      leBytes 8 (returnTag feature b mine.length) ++ outVector 0 ((foldTerms op terms).getD []))

/-- R81: put return bytes behind those that wait for the return slots to a block. -/
def pushReturn (s : State) (p block : Nat) (b : List Byte) : State :=
  updRun s p (fun r => { r with retOut := mset r.retOut block (mget r.retOut block ++ b) })

/-- R81, R105, R106: serve records of one feature of a requesting block at its epoch, or refuse them. -/
def serveTo (s : State) (p : Nat) (r : StepRun) (block feature epoch : Nat) (l : List (W64 × W64)) : State :=
  let m := (runEntry s p r).1
  let f := imgFeature m (varEntry m block r.variant) 0 feature
  let refused := pushReturn (addF s eeEpochUnavail l.length) p block (leBytes 8 (refusedTag feature))
  match tableFor s r.ctx f.tableId with
  | none => refused
  | some t =>
    if epochServedRemote (groupOf s (tdGroup t.desc)) epoch then
      pushReturn (countServed s t f.tableId epoch l) p block (serveRecords s t f.tableId f.poolOp f.outFormat feature epoch l)
    else refused

/-- R78: the feature of a record. -/
def recordFeature (x : W64 × W64) : Nat := bits x.1.toNat 40 10

/-- R81: EXCHANGE_RECORD_SERVE: the records of one feature that have come from a requesting block. -/
def execExchangeServe (part requester feature epoch : Nat) (s : State) : Res :=
  if 64 ≤ part then .fault .noSuchUnit
  else match runOf s part with
    | none => .next s
    | some r =>
      let m := (runEntry s part r).1
      let got := mget r.inRecords requester
      let l := got.filter (fun x => recordFeature x == feature)
      if r.group = false ∨ imgBlocks m ≤ requester ∨ (varEntry m requester r.variant).features ≤ feature ∨ l = [] then .next s
      else
        let s := updRun s part (fun r => { r with inRecords := mset r.inRecords requester (got.filter (fun x => recordFeature x != feature)) })
        .next (serveTo s part r requester feature epoch l)

/-! ### The ready tick (R85) -/

/-- R66, R141: has every ID of the feature that is there been resolved? The code of a bounds read that fails. -/
def featureResolved (s : State) (p : Nat) (r : StepRun) (f : FeatureRun) : Code × Bool :=
  (List.range f.batch).foldl (fun a bag =>
    if a.1 ≠ 0 then a
    else
      let (c, lo, hi) := bagBounds s p r.ctx f bag
      let have' := if f.topk then min (hi - lo) ((topkIds r f).length - lo) else hi - lo
      (c, a.2 && (mget f.lengths bag == have'))) (0, true)

/-- R67 to R70: the output of a bag. -/
def bagOutput (f : FeatureRun) (d bag : Nat) : List Byte :=
  let l := mget f.contrib bag
  if f.poolOp = 4 then
    (List.range f.maxBag).flatMap (fun i =>
      match l.find? (fun c => c.pos == i) with
      | some c => outVector f.outFormat c.values
      | none => List.replicate (d * outBytes f.outFormat) 0)
  else outVector f.outFormat (finishPool f.poolOp (mget f.lengths bag) (poolBag f.poolOp d l).1)

/-- R70: the feature's output reaches its destination: a core's activation buffer, or HBM. -/
def writeFeature (s : State) (p : Nat) (r : StepRun) (f : FeatureRun) (out : List Byte) : State :=
  if f.destCore = 0xFF then
    let (c, s') := vaWriteE s (engStack (laneUnit s p / 4)) r.ctx f.destVa.toNat out
    if c = 0 then s' else laneFault s p r.ctx f.destVa.toNat true c
  else match coreAt s p f.destCore with
    | none => s
    | some c => putCore s c (coreWrN (coreOf s c) (winOf s c) 0 f.destOffset out)

/-- R83: the partial slots of a feature receive what its bags hold. -/
def fillPartials (s : State) (r : StepRun) (f : FeatureRun) (fi d : Nat) : State :=
  each (s.emb.greyParts.filter (fun x => x.ctx == r.ctx && x.step == r.number && x.feature == fi)) (fun x s =>
    if x.outstanding = 0 then dropPartial s x
    else
      let (v, n) := poolBag f.poolOp d (mget f.contrib x.bag)
      updPartial s { x with filled := true, values := v, count := n }) s

/-- R85: a feature's ready tick: its bits are fixed and its output is final. -/
def readyFeature (s : State) (p : Nat) (r : StepRun) (fi : Nat) (f : FeatureRun) (t : Table) : State :=
  let d := tdElems t.desc
  let late := (List.range f.batch).filter (fun b => decide (0 < mget f.spilled b ∨ 0 < mget f.awaiting b))
  let s := updFeature s p fi (fun f => { f with ready := true, lateBit := !late.isEmpty || (f.latePolicy == 1 && f.spilt), lateBags := late })
  let s := updStream s p f.slotStream (fun x => if x.kind = 5 then { x.pop with landed := mput x.landed x.sent 0 } else x)
  let s := fillPartials s r f fi d
  greyFaultsDue (stepProgress (writeFeature s p r f ((List.range f.batch).flatMap (bagOutput f d))) p)

/-- R85: FEATURE_READY. -/
def execFeatureReady (part feature : Nat) (s : State) : Res :=
  if 64 ≤ part then .fault .noSuchUnit
  else match runOf s part with
    | none => .next s
    | some r =>
      match r.features[feature]? with
      | none => .next s
      | some f =>
        let (c, all) := featureResolved s part r f
        if f.ready || decide (now s < f.readyAt) then .next s
        else if c ≠ 0 then .next (laneFault s part r.ctx f.offsetsVa.toNat false c)
        else if all then
          match tableFor s r.ctx f.tableId with
          | none => .next (stepFail s part 0x0B02)
          | some t => .next (readyFeature s part r feature f t)
        else .next s

/-! ### The carry area's deadline (R84) -/

/-- R84: the carry area of a partition that is to be made final: its reader has launched, and its spill window has ended. -/
def carryDue (s : State) (p : Nat) : Option CarryArea :=
  let l := s.emb.carries.filter (fun a => a.part == p && !a.final && decide (a.reader < (ctxOf s a.ctx).stepNext))
  l.find? (fun a =>
    match runOf s p with
    | some r =>
      if r.ctx = a.ctx ∧ r.number = a.reader then
        let (m, e) := runEntry s p r
        match spillEnd (imgResv m e) r.launch with
        | some x => decide (r.base + x ≤ now s)
        | none => true
      else true
    | none => true)

/-- R84: CARRY_AREA_FINAL. -/
def execCarryAreaFinal (part : Nat) (s : State) : Res :=
  if 64 ≤ part then .fault .noSuchUnit
  else match carryDue s part with
    | none => .next s
    | some a => .next (greyFaultsDue (carryFinal s a))

end Sys2Proof.Machine
end

