-- ==== Sys2Proof/Machine/Links.lean ====
section
/-! DEFINITION. The link engine: ports and link loss (R29, R224, R225), slot ownership (R205, R210), timed flits (R213), the
best-effort class and what its packets do (R74, R82, R83, R93, R214). -/

namespace Sys2Proof.Machine

/-! ### Ownership (R205, R210) -/

/-- R205, R230: owner values: a partition, or 0xFF for none; other values are reserved. -/
def ownerOk (v : Nat) : Bool := decide (v < 64) || v == 0xFF

/-- R306: the boundaries of the partitions that a change of ownership concerns. -/
def ownersChange (s : State) (l : List Nat) : State := each (l.eraseDups.filter (fun p => decide (p < 64))) (fun p s => boundary s p) s

/-- R205: the offsets owned once every write has taken effect. -/
def nocOwned (next : SMap Nat) (s : State) : Nat := countBelow 512 (fun o => (match mfind next o with | some p => p | none => nocOwner s o) != 0xFF)

/-- R205: NOC_OWNERSHIP_WRITE: four offsets; ignored where more than 384 would be owned. -/
def execNocOwnershipWrite (word : Nat) (value : W32) (s : State) : Res :=
  if 128 ≤ word then .fault .noSuchUnit
  else
    let es := (List.range 4).map (fun b => (4 * word + b, bits value.toNat (8 * b) 8))
    let next := es.foldl (fun m (e : Nat × Nat) => mput m e.1 e.2) s.links.nocNext
    hostWrite s (fun s =>
      if es.all (fun e => ownerOk e.2) && decide (nocOwned next s ≤ 384) then
        ownersChange { s with links.nocNext := next } (es.flatMap (fun e => [e.2, nocOwner s e.1]))
      else s)

/-- R210, R230: SLOT_OWNERSHIP_WRITE: four slots of a port; control slots keep no owner. -/
def execSlotOwnershipWrite (port word : Nat) (value : W32) (s : State) : Res :=
  if 60 ≤ port ∨ 140 ≤ word then .fault .noSuchUnit
  else if portPresent s port = false then .next s
  else
    let es := ((List.range 4).map (fun b => (4 * word + b, bits value.toNat (8 * b) 8))).filter (fun e => e.1 % 8 != 0 && ownerOk e.2)
    let next := es.foldl (fun m (e : Nat × Nat) => mput m (560 * port + e.1) e.2) s.links.slotNext
    hostWrite s (fun s => ownersChange { s with links.slotNext := next } (es.flatMap (fun e => [e.2, slotOwner s port e.1])))

/-! ### Link loss (R224, R225) -/

/-- The running steps that reserve a port. -/
def stepsOnPort (s : State) (q : Nat) : List (Nat × StepRun) := s.steps.running.filter (fun e => bit e.2.ports.toNat q)

/-- R224: the effective tick of a loss for the step of a partition; a group's peers are told. -/
def noticeLoss (s : State) (p q : Nat) (r : StepRun) : State :=
  let t := now s + leadOf s p r.group
  let s := updRun s p (fun r => { r with lossAt := r.lossAt ++ [(q, t)] })
  match (partOf s p).group with
  | some g => if r.group then ctlSend s 8 g.number t q 0 else s
  | none => s

/-- R297: a link event, on the administrator queue and those of the contexts whose steps reserve the port. -/
def linkEvent (s : State) (q : Nat) (code : Code) (ctxs : List Nat) : State :=
  let e : Event := { type := 7, code := code, payload := leBytes 4 q }
  each ctxs (fun n s => eventCtx s n e) (eventAdm s 0 e)

/-- R192, R224: the steps that reserve a port lose it. -/
def losePort (s : State) (q : Nat) : State :=
  let l := stepsOnPort s q
  let s := each l (fun e s => noticeLoss s e.1 q e.2) s
  capChange (linkEvent s q 0x0602 (l.map (fun e => e.2.ctx))) (l.map (·.1))

/-- R225, R226: the group step that a block leaves: the running one, else the next of the group context. -/
def groupStep (s : State) (p : Nat) : Nat :=
  let next := match (ctxsOf s p).find? (fun k => (ctxOf s k).group) with | some k => (ctxOf s k).stepNext | none => 0
  match runOf s p with
  | some r => if r.group then r.number else next
  | none => next

/-- R225: the block leaves a partition's group: its peers are told, and its section of a running group step ends. -/
def leaveGroup (s : State) (p : Nat) : State :=
  let run := match runOf s p with | some r => r.group | none => false
  let s := if run then stepFail s p 0x0601 else abandon s p (groupStep s p) 0x0601
  updPart s p (fun x => { x with group := x.group.map (fun g => { g with left := true }) })

/-- R225: a block all of whose torus ports in a direction are out leaves its groups, unless they were out at the load. -/
def leaveGroups (s : State) (d : Nat) : State :=
  if dirOut s d && !(dirPorts s d).isEmpty then
    let l := (List.range 64).filter (fun p => match (partOf s p).group with | some g => !g.left && !g.lostDirs.contains d | none => false)
    let s := each l (fun p s => leaveGroup s p) s
    if l.isEmpty then s else capChange s l
  else s

/-- R224, R415: a port is marked out: its traffic takes other ways. -/
def markPortOut (s : State) (q : Nat) : State :=
  if (portOf s q).out then s
  else
    let s := updPort s q (fun x => { x with up := false, out := true, retry := [], ctlQ := [], txBusy := [], rxPart := [], nak := false })
    let s := if getF s tbUpstream = q then setF s tbUpstream 0x3F else s
    let hit := (stepsOnPort s q).map (fun e => e.2.ctx)
    let s := healthEvent (losePort s q) { source := 6, unit := unitPort q, code := 0x0602 } hit
    let s := if q < 48 then leaveGroups s (portDir q) else s
    beAgain s (fun k => k == q)

/-- R29: LINK_PCS_DOWN. -/
def execLinkPcsDown (port : Nat) (s : State) : Res :=
  if 60 ≤ port then .fault .noSuchUnit else if (portOf s port).up then .next (markPortOut s port) else .next s

/-- R224: LINK_LOSS_EFFECTIVE_TICK. -/
def execLinkLossEffectiveTick (part : Nat) (s : State) : Res :=
  if 64 ≤ part then .fault .noSuchUnit
  else match runOf s part with
    | none => .next s
    | some r => if r.lossAt.any (fun e => decide (e.2 ≤ now s)) then .next (stepEnd s part 0x0602) else .next s

/-- The partitions for which a placement group is loaded. -/
def groupParts (s : State) (number : Nat) : List Nat :=
  (List.range 64).filter (fun p => match (partOf s p).group with | some g => g.number == number | none => false)

/-- R224: LINK_LOSS_NOTICE. -/
def execLinkLossNotice (port : Nat) (fec : RxMark) (bytes : List Byte) (s : State) : Res :=
  ctlArrive port fec bytes 8 (fun m s => each (groupParts s m.group) (fun p s =>
    updRun s p (fun r => if r.group then { r with lossAt := r.lossAt ++ [(m.b, m.a)] } else r)) s) s

/-! ### What packets bring -/

/-- R93: the records of a stream in seq order: those that are next are ingested, later ones wait, earlier ones are copies. -/
def streamTake (fuel : Nat) (s : State) (n : Nat) : State :=
  match fuel with
  | 0 => s
  | k + 1 =>
    let t := mget s.upd.streams n
    match t.ahead.find? (fun r => urSeq r.bytes == t.seq) with
    | none => s
    | some r =>
      let t' := { t with seq := (t.seq + 1) % 2 ^ 32, ahead := t.ahead.erase r }
      streamTake k (ingest { s with upd.streams := mset s.upd.streams n t' } [r]) n

/-- R93: a packet of an update stream; a stream that is not bound takes nothing. -/
def streamPacket (s : State) (p : BePacket) : State :=
  let t := mget s.upd.streams p.flow
  if t.bound then
    let l := (splitRecords p.data.length p.data).map (fun b => ({ bytes := b, ctx := t.ctx } : UpdRec))
    let fresh := l.filter (fun r => (urSeq r.bytes + 2 ^ 32 - t.seq) % 2 ^ 32 < 2 ^ 31)
    let t' := { t with ahead := t.ahead ++ fresh }
    streamTake t'.ahead.length { s with upd.streams := mset s.upd.streams p.flow t' } p.flow
  else s

/-- A partition whose placement group holds a block, and the block's number. -/
def partWith (s : State) (c : Coord) : Option (Nat × Nat) :=
  (List.range 64).findSome? (fun p => (blockOf s p c).map (fun j => (p, j)))

/-- R82: the group step program that a block's grey records belong to: the running one, else one that is loaded. -/
def groupProgram (s : State) (p j : Nat) : Option (Nat × Img × VarEntry) :=
  match runOf s p with
  | some r => if r.group then some (r.ctx, (runEntry s p r).1, varEntry (runEntry s p r).1 j r.variant) else none
  | none => (s.steps.programs.find? (fun e => e.2.part == p && imgGroup e.2.image)).map (fun e => (e.2.ctx, e.2.image, varEntry e.2.image j 0))

/-- R78: the second word of a held record as that of an exchange record. -/
def heldWord (bs : List Byte) : W64 := BitVec.ofNat 64 (bits (fieldAt bs 8 8) 0 44)

/-- R82, R105, R106: a grey-lane record is served by the owner at its epoch, and returned over the best-effort class; one that it
cannot supply is refused (log 28). -/
def greyRecord (s : State) (p : BePacket) : State :=
  match partWith s p.src with
  | none => s
  | some (part, j) =>
    match groupProgram s part j with
    | none => s
    | some (n, m, e) =>
      let tag := fieldAt p.data 0 8
      let feature := bits tag 40 10
      let f := imgFeature m e 0 feature
      let epoch := fieldAt p.data 0x10 4
      let step := (p.data.drop 0x18).take 8
      let l := [(BitVec.ofNat 64 tag, heldWord p.data)]
      let refused := beSend (addF s eeEpochUnavail) p.src 2 0 n (leBytes 8 (refusedTag feature) ++ step)
      if e.features ≤ feature then s
      else match tableFor s n f.tableId with
      | none => refused
      | some t =>
        if epochServedRemote (groupOf s (tdGroup t.desc)) epoch then
          let bs := serveRecords s t f.tableId f.poolOp f.outFormat feature epoch l
          beSend (countServed s t f.tableId epoch l) p.src 2 0 n (bs.take 8 ++ step ++ bs.drop 8)
        else refused

/-- R105, R106, R107: an owner could not supply a record of a step that still runs: the step ends. -/
def greyRefused (s : State) (part step : Nat) : State :=
  match runOf s part with
  | some r => if r.group && r.number == step then stepFail s part 0x0A08 else s
  | none => s

/-- R82, R83: a grey-lane return: before the ready tick the result joins its bag, after it the bag's slot or the carry area. -/
def greyReturn (s : State) (p : BePacket) : State :=
  match partWith s p.src with
  | none => s
  | some (part, j) =>
    let tag := fieldAt p.data 0 8
    let step := fieldAt p.data 8 8
    let fi := bits tag 0 10
    let bag := bits tag 10 14
    let n := bits tag 24 13
    if bit tag 37 then greyRefused s part step
    else match s.emb.greyHeld.find? (fun g => g.part == part && g.step == step && g.feature == fi && g.bag == bag && g.owner == j && g.sentBe &&
        !g.back && (g.poolOp != 4 || g.pos == n)) with
    | none => s
    | some g =>
      let v := inVector (if g.poolOp = 4 then g.outFormat else 0) (p.data.drop 16)
      let early := match runOf s part with
        | some r => r.ctx == g.ctx && r.number == step && (match r.features[fi]? with | some f => !f.ready | none => false)
        | none => false
      if early then
        let s := freeHeld s g
        let s := match greyPartOf s g.ctx step fi bag with
          | some x => updPartial s { x with outstanding := x.outstanding - 1 }
          | none => s
        updFeature s part fi (fun f =>
          { f with contrib := mmod f.contrib bag (· ++ [{ pos := n, owner := some j, values := v }]), spilled := mmod f.spilled bag (· - 1) })
      else greyFaultsDue (greyResult s g (if g.poolOp = 4 then 1 else n) v false)

/-- R74: the owner of a row answers a promotion fetch with the row as stored. -/
def promoFetch (s : State) (p : BePacket) : State :=
  let w := fieldAt p.data 0 8
  let tid := bits w 0 32
  let epoch := bits w 32 32
  let loc := fieldAt p.data 8 8
  match tableOf s tid with
  | none => s
  | some t =>
    if decide (loc ≤ nLocal s t) && epochServedRemote (groupOf s (tdGroup t.desc)) epoch then
      beSend s p.src 4 0 t.ctx (p.data.take 16 ++ rowStored s t loc epoch (servedHit s t tid loc))
    else s

/-- R74, R75: a remote row arrives for a queued promotion. -/
def promoData (s : State) (p : BePacket) : State :=
  let w := fieldAt p.data 0 8
  let tid := bits w 0 32
  let epoch := bits w 32 32
  let loc := fieldAt p.data 8 8
  match tableOf s tid with
  | none => s
  | some t =>
    match s.emb.promos.find? (fun q => q.asked && q.table == tid && q.epoch == epoch && (ownerOf s t q.row).2 == loc &&
        (match (ownerOf s t q.row).1 with | some j => blockCoord s q.part j == some p.src | none => false)) with
    | none => s
    | some q => installRow s q (p.data.drop 16)

/-- R214: a packet in its turn of its flow. -/
def beDeliver (s : State) (p : BePacket) : State :=
  match p.kind with
  | 0 => streamPacket s p
  | 1 => greyRecord s p
  | 2 => greyReturn s p
  | 3 => promoFetch s p
  | 4 => promoData s p
  | _ => { s with links.fwInbox := s.links.fwInbox ++ [p] }

/-- R214: the packets of a flow that are next. -/
def flowTake (fuel : Nat) (s : State) (k : Nat) : State :=
  match fuel with
  | 0 => s
  | n + 1 =>
    let want := mget s.links.flowRx k
    match s.links.flowHeld.find? (fun p => flowKey p.src p.kind p.flow == k && p.seq == want) with
    | none => s
    | some p =>
      flowTake n (beDeliver { s with links.flowHeld := s.links.flowHeld.erase p, links.flowRx := mset s.links.flowRx k ((want + 1) % 2 ^ 32) } p) k

/-- R214: a packet at its destination: flows are delivered in flow_seq order, duplicates are discarded, reserved kinds are
dropped. -/
def bePacketArrive (s : State) (p : BePacket) : State :=
  if 5 < p.kind then addF s lkBeDrop
  else
    let k := flowKey p.src p.kind p.flow
    let dup := decide (2 ^ 31 ≤ (p.seq + 2 ^ 32 - mget s.links.flowRx k) % 2 ^ 32) ||
      s.links.flowHeld.any (fun x => flowKey x.src x.kind x.flow == k && x.seq == p.seq)
    if dup then s else flowTake (s.links.flowHeld.length + 1) { s with links.flowHeld := s.links.flowHeld ++ [p] } k

/-- A packet of a header, a kind and a payload. -/
def packetOf (p : BeHeader) (kind : Nat) (data : List Byte) : BePacket :=
  { src := p.src, dst := p.dst, kind := kind, flow := p.flow, flits := p.flits, seq := p.seq, data := data }

/-- R214: a packet that has reached this block: delivered here, or routed onward; one whose header does not give 1 to 64 flits is
dropped. -/
def bePacketIn (s : State) (x : BePacket) : State :=
  if x.flits = 0 ∨ 64 < x.flits then addF s lkBeDrop
  else if x.dst = s.start.record.coord then bePacketArrive s x else beRoute s { x with born := now s }

/-- R214: a packet of a kind reaches this block. -/
def bePacket (p : BeHeader) (kind : Nat) (data : List Byte) (s : State) : Res := .next (bePacketIn s (packetOf p kind data))

/-- R93: UPDATE_STREAM_PACKET. -/
def execUpdateStreamPacket (p : BeHeader) (data : List Byte) (s : State) : Res := bePacket p 0 data s
/-- R82: GREY_LANE_RECORD. -/
def execGreyLaneRecord (p : BeHeader) (data : List Byte) (s : State) : Res := bePacket p 1 data s
/-- R83: GREY_LANE_RETURN. -/
def execGreyLaneReturn (p : BeHeader) (data : List Byte) (s : State) : Res := bePacket p 2 data s
/-- R74: PROMOTION_FETCH. -/
def execPromotionFetch (p : BeHeader) (data : List Byte) (s : State) : Res := bePacket p 3 data s
/-- R74: PROMOTION_DATA. -/
def execPromotionData (p : BeHeader) (data : List Byte) (s : State) : Res := bePacket p 4 data s
/-- R214: FIRMWARE_MANAGEMENT. -/
def execFirmwareManagement (p : BeHeader) (data : List Byte) (s : State) : Res := bePacket p 5 data s

/-! ### Flits (R211, R213, R214) -/


/-- R214: the flits that a cumulative acknowledgement covers leave the retry buffer; packets wholly acknowledged have been
handed on. -/
def beAck (s : State) (q ack : Nat) : State :=
  let x := portOf s q
  if x.retry.any (fun e => e.seq == ack) then
    let rest := ((x.retry.dropWhile (fun e => e.seq != ack)).drop 1)
    let gone := (x.retry.takeWhile (fun e => e.seq != ack)).map (fun e => e.seq) ++ [ack]
    let s := updPort s q (fun x => { x with retry := rest })
    let s := { s with links.beOut := s.links.beOut.filter (fun p => match p.via with | some (k, n) => !(k == q && gone.contains n) | none => true) }
    beAgain s (fun _ => false)
  else s

/-- R214: the first `n` flits of a port's retry buffer are sent again, those of them that have been sent; the port is marked out where
the oldest has been resent 16 times. -/
def beResend (s : State) (q n : Nat) : State :=
  let l := (portOf s q).retry
  let k := ((l.take n).filter (fun e => e.sentAt.isSome)).length
  if l.any (fun e => e.sentAt.isSome && decide (16 ≤ e.resends)) then markPortOut s q
  else
    let again := (l.take n).map (fun e => if e.sentAt.isSome then { e with sentAt := none, resends := e.resends + 1 } else e)
    updPort (addF (addF s lkBeRetries k) lkRetries k q) q (fun x => { x with retry := again ++ l.drop n })

/-- R214: a whole packet: its header must give the number of its flits. -/
def bePacketWhole (s : State) (bs : List Byte) : State :=
  let w0 := fieldAt bs 0 4
  let w1 := fieldAt bs 4 4
  let p : BePacket := { src := unpackCoord (bits w0 0 16), dst := unpackCoord (bits w0 16 16), kind := bits w1 0 8, flow := bits w1 8 8,
                        flits := bits w1 16 16, seq := fieldAt bs 8 4, data := bs.drop 16 }
  if 240 * p.flits = bs.length then bePacketIn s p else addF s lkBeDrop

/-- R214: a good best-effort flit: its acknowledgement, a NAK for this block's flits, and its payload in sequence. -/
def beFlitIn (s : State) (q : Nat) (bs : List Byte) : State :=
  let w1 := fieldAt bs 4 4
  let s := beAck s q (bits (fieldAt bs 8 4) 0 12)
  let s := if bit w1 28 then beResend s q (portOf s q).retry.length else s
  let x := portOf s q
  let ahead := (bits w1 16 12 + 4096 - x.rxSeq) % 4096
  if ahead = 0 then
    let got := x.rxPart ++ bs.drop 16
    let last := bit (fieldAt bs 0 4) 4
    let s := updPort s q (fun x => { x with rxSeq := (x.rxSeq + 1) % 4096, nak := false, rxPart := if last then [] else got })
    if last then bePacketWhole s got else s
  else if ahead < 2048 then updPort s q (fun x => { x with nak := true })
  else s

/-- R214: BEST_EFFORT_FLIT: a good one is taken; a bad one is answered with a NAK. -/
def execBestEffortFlit (port : Nat) (fec : RxMark) (bytes : List Byte) (s : State) : Res :=
  if 60 ≤ port then .fault .noSuchUnit
  else if (portOf s port).up = false then .next s
  else
    let good := flitGood fec bytes
    let s := countFec s port fec good
    if good = false then .next (updPort s port (fun x => { x with nak := true }))
    else if bits (fieldAt bytes 0 4) 0 2 = 1 then .next (beFlitIn s port bytes) else .next s

/-- R214: BE_RETRY_TIMEOUT: the oldest flit has had no acknowledgement for 2,048 ticks and is resent; after 16 resends of it the port
is marked out. -/
def execBeRetryTimeout (port : Nat) (s : State) : Res :=
  if 60 ≤ port then .fault .noSuchUnit
  else
    match (portOf s port).retry with
    | [] => .next s
    | e :: _ =>
      match e.sentAt with
      | none => .next s
      | some t => if t + 2048 ≤ now s then .next (beResend s port 1) else .next s

/-- R214: BE_PACKET_TIMEOUT: the packet is dropped, counted and reported to the sending context. -/
def execBePacketTimeout (index : Nat) (s : State) : Res :=
  match s.links.beOut[index]? with
  | none => .next s
  | some p =>
    if now s < p.born + 1000000 then .next s
    else
      let s := addF { s with links.beOut := s.links.beOut.eraseIdx index } lkBeDrop
      .next (if p.src = s.start.record.coord then
          eventCtx s p.ctx { type := 0x000C, code := 0x0606, payload := leBytes 4 (packCoord p.dst) }
        else s)

/-- R211: the slot tick that a flit's frame number and slot name: the last one before now. -/
def slotTickOf (s : State) (frame slot : Nat) : Nat :=
  let f := now s / 1024
  1024 * (f - (f + 64 - frame % 64) % 64) + 64 * slot / 35

/-- R209, R213: the reservation of a running step that a slot of a port serves. -/
def resvFor (s : State) (q tick : Nat) : Option (Nat × StepRun × Resv) :=
  s.steps.running.findSome? (fun e =>
    let (m, v) := runEntry s e.1 e.2
    ((imgResv m v).find? (fun r => (r.kind == 2 || r.kind == 3) && r.a == q && decide (e.2.base ≤ tick) &&
      (resvTicks e.2.launch r).contains (tick - e.2.base))).map (fun r => (e.1, e.2, r)))

/-- R207, R213: the slot ticks of a port in which running steps expect a timed flit. -/
def inSlots (s : State) (q : Nat) : List Nat :=
  s.steps.running.flatMap (fun e =>
    let (m, v) := runEntry s e.1 e.2
    ((imgResv m v).filter (fun r => (r.kind == 2 || r.kind == 3) && r.a == q)).flatMap (fun r => (resvTicks e.2.launch r).map (fun t => t + e.2.base)))

/-- R213: the slot of a flit whose header cannot be read: the first one reserved after that of the last flit (log 163). -/
def nextSlot (s : State) (q : Nat) : Option Nat :=
  let after := fun (x : Nat) => match (portOf s q).rxTick with | some t => decide (t < x) | none => true
  ((inSlots s q).filter (fun x => after x && decide (x ≤ now s))).foldl (fun b x => match b with
    | none => some x
    | some y => some (min x y)) none

/-- R213: a flit lost on this block's side of a port is counted. -/
def countLost (s : State) (lost : Nat) : State := if lost = 2 then addF s lkTimedLate else if lost = 0 then s else addF s lkTimedLost

/-- R213: the header of a flit to be forwarded: where it was lost here, its stream is the reservation's, and its index, delivery and
last flag are free values (log 163). -/
def forwardHead (s : State) (r : Resv) (own : Nat) (bs : List Byte) : Bool × Nat × Nat × Nat :=
  if own = 0 then (bit (fieldAt bs 0 4) 4, bits (fieldAt bs 4 4) 0 16, bits (fieldAt bs 8 4) 0 17, bits (fieldAt bs 8 4) 17 15)
  else
    let v := (Config.freeValue s.freeCount).toNat
    (bit v 32, if r.use = 0 then r.stream else 0, bits v 0 17, bits v 17 15)

/-- R213: forward a timed flit in its outbound slot: late where the slot has passed, its payload zeroed where it is lost. -/
def forwardFlit (s : State) (r : Resv) (tick slot lost own : Nat) (bs : List Byte) : State :=
  let out := (r.outStart + (slot - r.slotStart)) % 1024
  let t0 := tick / 1024 * 1024 + 64 * out / 35
  let t := if t0 < tick then t0 + 1024 else t0
  let late := decide (lost = 0 ∧ t < now s)
  let s := countLost s (if late then 2 else own)
  let l := if late then 2 else lost
  let h := forwardHead s r own bs
  let f := timedFlit l h.1 (t / 1024) out h.2.1 h.2.2.1 h.2.2.2 (if l = 0 then bs.drop 16 else [])
  let s : State := if own = 0 then s else { s with freeCount := s.freeCount + 1 }
  let x := portOf s r.b
  if x.up && !x.overBudget then putTimed s r.b t f else addF s lkTimedLost

/-- R169, R181, R213: a flit of a delivery for this block joins the delivery that is on its way. -/
def joinDelivery (s : State) (p : Nat) (t : StreamRun) (lost : Nat) (data : List Byte) : State :=
  updStream s p t.number (fun t =>
    let l := t.landing
    let done := l.filter (fun d => decide (t.bytes ≤ d.2.1.length))
    match l.find? (fun d => decide (d.2.1.length < t.bytes)) with
    | some (i, bs, x) => { t with landing := done ++ [(i, bs ++ data.take (t.bytes - bs.length), if x = 0 then lost else x)] }
    | none => { t with landing := l ++ [(t.sent + l.length, data.take t.bytes, lost)] })

/-- R78: the records of a flit of a requesting block, by the pool operations of its features. -/
def flitRecords (n : Nat) (m : Img) (e : VarEntry) (bs : List Byte) : List (W64 × W64) :=
  match n with
  | 0 => []
  | k + 1 =>
    let w := fieldAt bs 0 8
    let wide := recordCost (imgFeature m e 0 (bits w 40 10)).poolOp == 2
    (BitVec.ofNat 64 w, if wide then BitVec.ofNat 64 (fieldAt bs 8 8) else 0) :: flitRecords k m e (bs.drop (if wide then 16 else 8))

/-- R82: a held record of a spill flit is served on arrival, at its own epoch. -/
def serveHeld (s : State) (p : Nat) (r : StepRun) (block : Nat) (bs : List Byte) : State :=
  let w := fieldAt bs 0 8
  let feature := bits w 40 10
  if (varEntry (runEntry s p r).1 block r.variant).features ≤ feature then s
  else serveTo s p r block feature (fieldAt bs 0x10 4) [(BitVec.ofNat 64 w, heldWord bs)]

/-- R78, R80, R82: a timed flit of an exchange use from a block: `n` is the number that its header gives (log 154). -/
def exchangeFlit (s : State) (p : Nat) (r : StepRun) (use block n : Nat) (data : List Byte) : State :=
  match use with
  | 1 =>
    let m := (runEntry s p r).1
    let l := flitRecords (min n 30) m (varEntry m block r.variant) data
    updRun s p (fun r => { r with inRecords := mset r.inRecords block (mget r.inRecords block ++ l) })
  | 2 => takeReturns 31 (updRun s p (fun r => { r with retBuf := mset r.retBuf block (mget r.retBuf block ++ data.take n) })) p block
  | _ => iter (min n 7) (fun i s => serveHeld s p r block ((data.drop (32 * i)).take 32)) s

/-- R80, R213: a timed flit at its destination. -/
def receiveFlit (s : State) (p : Nat) (r : StepRun) (x : Resv) (lost own : Nat) (bs : List Byte) : State :=
  let s := countLost s own
  let data := if lost = 0 then bs.drop 16 else List.replicate 240 0
  match x.use with
  | 0 =>
    match r.streams.find? (fun t => t.kind == 4 && t.number == x.stream) with
    | none => s
    | some t => joinDelivery s p t lost data
  | use => if lost ≠ 0 then s else exchangeFlit s p r use (x.stream % 1024) (bits (fieldAt bs 8 4) 17 15) data

/-- R192, R213: how a timed flit stands on its arrival: 0 good, 1 lost to FEC or CRC, 3 lost to a port that is out or over budget. -/
def ownLoss (x : Port) (good : Bool) : Nat := if x.out || x.overBudget then 3 else if good then 0 else 1

/-- R213: a timed flit in the slot at tick `tick` of a port: recorded, and forwarded or received as the reservations say. -/
def timedFlitIn (s : State) (port tick lost own : Nat) (bytes : List Byte) : State :=
  let slot := slotAt tick
  let s := updPort s port (fun x => { x with timedRx := x.timedRx ++ [(slot, lost)], rxTick := some tick })
  match resvFor s port tick with
  | none => s
  | some (p, r, x) =>
    if x.kind = 2 then forwardFlit s x tick slot lost own bytes else stepProgress (receiveFlit s p r x lost own bytes) p

/-- R213: TIMED_FLIT. -/
def execTimedFlit (port : Nat) (fec : RxMark) (bytes : List Byte) (s : State) : Res :=
  if 60 ≤ port then .fault .noSuchUnit
  else
    let x := portOf s port
    let good := flitGood fec bytes
    let s := if x.out then s else countFec s port fec good
    let own := ownLoss x good
    let w := fieldAt bytes 0 4
    if own = 0 then
      if bits w 0 2 = 0 then .next (timedFlitIn s port (slotTickOf s (bits w 15 6) (bits w 5 10)) (bits w 2 2) 0 bytes) else .next s
    else match nextSlot s port with
      | none => .next s
      | some tick => .next (timedFlitIn s port tick own own bytes)

end Sys2Proof.Machine
end

