-- ==== Sys2Proof/Machine/Mailbox.lean ====
section
/-! DEFINITION. The control complex's mailboxes: lock, doorbell, acknowledgement (R379 to R382). -/

namespace Sys2Proof.Machine

def mboxOf (s : State) (m : Nat) : Mailbox := mget s.ctrl.mailboxes m
def putMbox (s : State) (m : Nat) (b : Mailbox) : State := { s with ctrl.mailboxes := mset s.ctrl.mailboxes m b }

/-- R376: the requester number of the host administrator; a control processor n has n + 1. -/
def hostReq : Nat := 5
def cpReq (n : Nat) : Nat := n + 1
def isCp (who : Nat) : Bool := decide (1 ≤ who ∧ who ≤ 4)

/-- R379: who may send on a mailbox. -/
def mbSender (m who : Nat) : Bool := if m < 8 then who == hostReq else isCp who

/-- R379: who receives on a mailbox. -/
def mbReceiver (m : Nat) : Nat := if m < 8 then cpReq (m % 4) else if m < 16 then hostReq else cpReq ((m - 16) / 12)

/-- R380: an ignored mailbox write. -/
def mbBad (s : State) : State := addF s ccMbBad

/-- R381: interrupt the receiver of a mailbox. -/
def mbInterrupt (s : State) (m : Nat) : State :=
  if mbReceiver m = hostReq then requestVector s (getF s ccVector)
  else { s with ctrl.irq := s.ctrl.irq ++ [mbReceiver m - 1] }

/-- R381: an acknowledgement of the receiver; it also interrupts the host for mailboxes 0 to 7. One while nothing is pending
is ignored and counted. -/
def mbAck (s : State) (m : Nat) (code : Code) : State :=
  let b := mboxOf s m
  if b.pending then
    let s := putMbox s m { b with pending := false, done := true, code := code }
    if m < 8 then requestVector s (getF s ccVector) else s
  else mbBad s

/-- R380, R14: the owner of a lock after the reads of one tick: a free lock goes to the lowest sender among them. -/
def lockOwner (m : Nat) (b : Mailbox) : Nat :=
  if b.before ≠ 0 then b.before else ((sortNat (b.readers.filter (mbSender m))).head?).getD 0

/-- R380: what a read of a lock returns to a requester, the lock then being `owner`'s. -/
def lockSeen (owner who : Nat) : Nat := if owner = 0 then 0xFFFF else if owner = who then 0 else owner

/-- R376: who reads: a control processor's data goes to it, the host's to the host port. -/
def mbReply (s : State) (who v : Nat) : State :=
  if isCp who then { s with ctrl.cpRead := mset s.ctrl.cpRead (who - 1) (BitVec.ofNat 64 v) } else { s with reply.data := BitVec.ofNat 64 v }

/-- R380, R14: the reads of one tick are settled together: each reader has what the settled lock shows it (log 149). -/
def lockSettle (s : State) (m : Nat) (b : Mailbox) : State :=
  let o := lockOwner m b
  each b.readers (fun who s => mbReply s who (lockSeen o who)) (putMbox s m { b with lock := o })

/-- R380: a release: the lock is free, the notice, done, the code and pending are cleared; the reads of the same tick find it
free. -/
def mbRelease (s : State) (m : Nat) : State :=
  let b := mboxOf s m
  if b.readAt = now s ∧ b.before ≠ 0 then lockSettle s m { readAt := b.readAt, readers := b.readers } else putMbox s m {}

/-- R380: a lock read joins those of its tick. -/
def lockJoin (s : State) (m who : Nat) : Mailbox :=
  let b := mboxOf s m
  if b.readAt = now s ∧ b.readers ≠ [] ∧ b.lock = lockOwner m b then { b with readers := b.readers ++ [who] }
  else { b with readAt := now s, readers := [who], before := b.lock }

/-- R20, R382: an access to a powered-down domain: a read returns all-ones, a write is dropped, and 0x0901 is reported (log
49). -/
def unpowered (s : State) (offset : Nat) (write : Bool) : State :=
  let s := healthEvent s { source := 7, code := 0x0901, addr := offset }
  if write then s else { s with reply.data := 0xFFFFFFFF }

/-- R382: an access to a mailbox, answered by the always-on domain while the control complex is powered down. -/
def mbAccess (s : State) (m : Nat) (write : Bool) (f : State → State) : Res :=
  if 64 ≤ m then .fault .noSuchUnit
  else if s.ctrl.powered then .next (f s)
  else .next (unpowered s (0x1401000 + 32 * m) write)

/-- R380: MAILBOX_LOCK_READ. -/
def execMailboxLockRead (who mailbox : Nat) (s : State) : Res :=
  mbAccess s mailbox false (fun s => lockSettle s mailbox (lockJoin s mailbox who))

/-- Does a requester hold a mailbox's lock? -/
def mbOwner (s : State) (m who : Nat) : Bool := who != 0 && (mboxOf s m).lock == who

/-- R380: MAILBOX_RELEASE. -/
def execMailboxRelease (who mailbox : Nat) (s : State) : Res :=
  mbAccess s mailbox true (fun s => if mbOwner s mailbox who then mbRelease s mailbox else mbBad s)

/-- R381: the owner rings; a ring while pending is set merges with it. -/
def mbRing (s : State) (m : Nat) : State :=
  let b := mboxOf s m
  let s := putMbox s m { b with pending := true, done := false, code := 0 }
  if b.pending then s else mbInterrupt s m

/-- R381: MAILBOX_RING. -/
def execMailboxRing (who mailbox : Nat) (s : State) : Res :=
  mbAccess s mailbox true (fun s => if mbOwner s mailbox who then mbRing s mailbox else mbBad s)

/-- R381: MAILBOX_ACK. -/
def execMailboxAck (who mailbox : Nat) (code : Code) (s : State) : Res :=
  mbAccess s mailbox true (fun s => if who = mbReceiver mailbox then mbAck s mailbox code else mbBad s)

/-- R382: MAILBOX_UNPOWERED. -/
def execMailboxUnpowered (mailbox : Nat) (write : Bool) (s : State) : Res :=
  if mailbox < 64 ∧ s.ctrl.powered then .next s else mbAccess s mailbox write id

end Sys2Proof.Machine
end

