-- ==== Sys2Proof/Machine/Domain.lean ====
section
/-! DEFINITION. The domain's time base: markers and the servo (R188 to R195), the control messages (R215, R216), snapshots
(R200) and domain resets (R201). -/

namespace Sys2Proof.Machine

/-! ### Offsets (R189, R190, R192) -/

/-- R190, R192: the last 16 offsets. -/
def pushOffset (l : List Int) (x : Int) : List Int := (l ++ [x]).drop (l.length + 1 - 16)

/-- R190, R192: the average, in sixteenths of a tick (log 8). -/
def filtered (l : List Int) : Int := if l.isEmpty then 0 else l.foldl (· + ·) 0 / l.length

def portTime (s : State) (q : Nat) : PortTime := mget s.time.ports q
def updPortTime (s : State) (q : Nat) (f : PortTime → PortTime) : State := { s with time.ports := mmod s.time.ports q f }

/-- R189: the raw offset of a marker, in sixteenths of a tick. -/
def rawOffset (s : State) (q tick stamp : Nat) : Int := 16 * (tick : Int) + (portTime s q).delay - stamp

/-- R192: the neighbour's offset is kept and the port policed: over budget after 4 markers beyond 8 ticks, cleared after 16
within 7. -/
def policePort (s : State) (q : Nat) (x : Int) : State :=
  let t := portTime s q
  let l := pushOffset t.offsets x
  let f := (filtered l).natAbs
  let beyond := if 128 < f then min 4 (t.overMarks + 1) else 0
  let inside := if f ≤ 112 then min 16 (t.within + 1) else 0
  let s := updPortTime s q (fun t => { t with offsets := l, overMarks := beyond, within := inside })
  if beyond = 4 ∧ (portOf s q).overOffset = false then losePort (updPort s q (fun x => { x with overOffset := true, overBudget := true })) q
  else if inside = 16 ∧ (portOf s q).overOffset then
    capChange (updPort s q (fun x => { x with overOffset := false, overBudget := decide (14 < x.flight) })) []
  else s

/-! ### The upstream (R189, R195) -/

/-- R188: this block's own rank in the record. -/
def ownRank (s : State) : Option Nat := s.start.record.ranks.findIdx? (fun c => c == some s.start.record.coord)

/-- R189, R195: a port that may be the upstream: up, and heard within 4 marker periods; a master follows only a lower rank. -/
def eligible (s : State) (q : Nat) : Bool :=
  let t := portTime s q
  (portOf s q).up && (match t.heard with | some h => decide (now s < h + 262144) | none => false) &&
  (getF s tbMaster == 0 || decide (t.rank < getF s tbMasterRank))

/-- R189: the lowest rank, then the fewest hops, then the lower port. -/
def bestUpstream (s : State) : Option Nat :=
  ((List.range 60).filter (eligible s)).foldl (fun b q => match b with
    | none => some q
    | some k =>
      let x := portTime s k
      let y := portTime s q
      if y.rank < x.rank ∨ (y.rank = x.rank ∧ y.hops < x.hops) then some q else some k) none

/-- R229: TB_SYNC follows the upstream chosen. -/
def followPort (s : State) (q : Nat) : State :=
  let t := portTime s q
  setF (setF (setF s tbUpstream q) tbMasterRank t.rank) tbHops t.hops

/-- R195, R265: the master followed has changed. -/
def masterChanged (s s' : State) : State :=
  if getF s tbMasterRank ≠ getF s' tbMasterRank ∨ getF s tbMaster ≠ getF s' tbMaster then capChange s' [] else s'

/-- R189, R195: choose the upstream; a master that hears a lower rank gives the role back. -/
def chooseUpstream (s : State) : State :=
  match bestUpstream s with
  | none => s
  | some q => masterChanged s (setF (followPort s q) tbMaster 0)

/-! ### The servo (R190, R193, R194) -/

/-- R193: the running group steps of a block that is not aligned end with 0x0404. -/
def endGroupSteps (s : State) (f : State → Nat → State) : State :=
  each ((s.steps.running.filter (fun e => e.2.group)).map (·.1)) (fun p s => f s p) s

def setSync (s : State) (st : Nat) : State := setF s tbSyncState st

/-- R190, R194: green has been reached in this start. -/
def isGreen (s : State) : Bool := s.bound.stage == 2

/-- R190: begin acquiring; after green the block is unaligned until it has stepped (R193). -/
def startAcquire (s : State) : State :=
  let s : State := { setSync s 1 with time.acquired := 0, time.inLock := 0, time.phase := [], time.reacquire := none, time.owed := 0 }
  if isGreen s then endGroupSteps (setF s tbUnaligned 1) (fun s p => stepFail s p 0x0404) else s

/-- The step that brings the counter to the master's time, in whole ticks (log 8). -/
def toTicks (x : Int) : Int := (x + 8) / 16

/-- R190: the frequency estimate over the markers that are kept, in 2^-40 per tick; a single one leaves it as it was (log 8). -/
def freqOf (old : Int) (l : List Int) : Int := if l.length < 2 then old else (l.getLastD 0 - l.headD 0) * 1048576 / (l.length - 1)

/-- R190, R229: offset and frequency correction as registers. -/
def reportOffset (s : State) : State :=
  setF (setF s tbOffset (low 16 (filtered s.time.phase))) tbFreqPpb (low 32 (s.time.freq * 1000000000 / servoTick))

/-- R190: a marker renews the frequency estimate; while locked, the phase error is what holds and steps are to remove. -/
def trackMarker (s : State) (x : Int) : State :=
  let l := pushOffset s.time.phase x
  let s : State := { s with time.phase := l, time.freq := freqOf s.time.freq l, time.owed := if getF s tbSyncState = 2 then filtered l * 68719476736 else s.time.owed }
  reportOffset s

/-- R190, R193, R194: the single step at the end of acquiring: before green at once, after it on the edge of the boundary that
R193 asks for. -/
def acquireStep (s : State) : State :=
  let d := toTicks (filtered s.time.phase)
  if isGreen s then { s with time.reacquire := some d } else stepCounter s d

/-- R190: a marker while acquiring: 16 for the frequency, the step, then 4 within 1 tick. -/
def acquireMarker (s : State) : State :=
  if s.time.acquired < 16 then
    let s : State := { s with time.acquired := s.time.acquired + 1 }
    if s.time.acquired = 16 then acquireStep s else s
  else if s.time.reacquire.isSome then s
  else
    let n := if (filtered s.time.phase).natAbs ≤ 16 then s.time.inLock + 1 else 0
    let s : State := { s with time.inLock := min 4 n }
    if 4 ≤ n then setSync s 2 else s

/-- R195: a locked block whose offset exceeds 8 ticks is unaligned and acquires anew. -/
def lockedMarker (s : State) : State := if 128 < (filtered s.time.phase).natAbs then startAcquire s else s

/-- R195: in holdover a block that hears a new master within 8 ticks of its own counter re-locks to it without a step. -/
def relock (s : State) (x : Int) : State :=
  let s : State := { setSync s 2 with time.inLock := 4, time.phase := [], time.reacquire := none }
  if x.natAbs ≤ 128 then s else startAcquire s

/-- R229: the marker periods without a marker since the last one, those already counted left out. -/
def countMissed (s : State) : State :=
  let n := (now s - s.time.lastMarker) / 65536 - 1 - s.time.missCounted
  let s : State := { s with time.missCounted := 0 }
  if n = 0 then s else addF s tbMarkersMissed n

/-- R190, R193, R195: a marker from the upstream; `new` where its master is another than the one followed before. -/
def servoMarker (s : State) (x : Int) (new : Bool) : State :=
  let s := if getF s tbSyncState = 0 then s else countMissed s
  let s := if getF s tbSyncState = 3 ∧ new = true ∧ getF s tbUnaligned = 0 then relock s x
    else if getF s tbSyncState = 0 ∨ getF s tbSyncState = 3 then startAcquire s else s
  let s := trackMarker { s with time.lastMarker := now s } x
  if getF s tbSyncState = 1 then acquireMarker s else if getF s tbSyncState = 2 then lockedMarker s else s

/-- R189, R215, R216: a sync marker is heard on a port. -/
def hearMarker (s : State) (q tick rank hops stamp : Nat) : State :=
  let x := rawOffset s q tick stamp
  let old := getF s tbMasterRank
  let s : State := { s with time.rankHeard := mput s.time.rankHeard (rank % 4) (now s) }
  let s := updPortTime s q (fun t => { t with heard := some (now s), rank := rank % 4, hops := hops % 64 })
  let s := chooseUpstream (policePort s q x)
  if getF s tbUpstream = q ∧ getF s tbMaster = 0 then servoMarker s x (getF s tbMasterRank != old) else s

/-- R392: start waits in time sync until the block is locked. -/
def syncReached (s : State) : State := if getF s bcState = 9 ∧ getF s tbSyncState = 2 then setF s bcState 10 else s

/-- R189: the timestamp of a marker's first word: the block's own counter, and sixteenths of a tick that the crossing gives. -/
def markerStamp (s : State) (frac : Nat) : Nat := 16 * now s + frac % 16

/-- R189: SYNC_MARKER. -/
def execMarkerFlit (port frac : Nat) (fec : RxMark) (bytes : List Byte) (s : State) : Res :=
  ctlFlitIn port fec bytes 1 (fun m s =>
    if domainMember s then syncReached (hearMarker s port m.a (bits m.b 0 2) (bits m.b 8 8) (markerStamp s frac)) else s) s

/-- R188, R189: SYNC_MARKER_SEND: in slot 0 of every 64th frame. -/
def execSyncMarkerSend (s : State) : Res :=
  let master := getF s tbMaster == 1
  if domainMember s && decide (now s % 65536 = 0) && (master || getF s tbSyncState == 2) then
    let hops := if master then 1 else getF s tbHops + 1
    let ports := (List.range 60).filter (fun q => (portOf s q).up && (master || q != getF s tbUpstream))
    .next (each ports (fun q s => ctlSend s 1 0xFFFF (now s) (getF s tbMasterRank + hops * 256) 0 q) s)
  else .next s

/-- R193: a synchronisation event (log 50). -/
def syncEvent (s : State) : State := healthEvent s { source := 11 }

/-- R193: MARKER_HOLDOVER. -/
def execMarkerHoldover (s : State) : Res :=
  if getF s tbMaster = 0 ∧ (getF s tbSyncState = 1 ∨ getF s tbSyncState = 2) ∧ s.time.lastMarker + 262144 ≤ now s ∧ (bestUpstream s).isNone then
    let missed := 4 - s.time.missCounted
    let s : State := { setF (setSync s 3) tbUpstream 0x3F with time.holdoverAt := now s, time.reacquire := none, time.missCounted := 4 }
    .next (syncEvent (addF (addF s tbHoldovers) tbMarkersMissed missed))
  else .next s

/-- R193: UNALIGNED. -/
def execUnaligned (s : State) : Res :=
  if getF s tbSyncState = 3 ∧ s.time.holdoverAt + 60000000 ≤ now s ∧ getF s tbUnaligned = 0 then
    .next (endGroupSteps (setF s tbUnaligned 1) (fun s p => stepFail s p 0x0404))
  else .next s

/-- R188, R195: this block is master: its markers carry its rank. -/
def becomeMaster (s : State) (k : Nat) : State :=
  setF (setF (setF (setF (setSync s 2) tbMaster 1) tbMasterRank k) tbUpstream 0x3F) tbHops 0

/-- R195: no marker of a lower rank for 4 + 4k periods. -/
def rankSilent (s : State) (k : Nat) : Bool :=
  (List.range k).all (fun j => match mfind s.time.rankHeard j with | some t => decide (t + (4 + 4 * k) * 65536 ≤ now s) | none => true)

/-- R195: MASTER_TAKEOVER. -/
def execMasterTakeover (s : State) : Res :=
  match ownRank s with
  | none => .next s
  | some k =>
    if domainMember s && getF s tbMaster == 0 && decide (1 ≤ k ∧ 9 ≤ getF s bcState ∧ s.start.startTick + (4 + 4 * k) * 65536 ≤ now s) && rankSilent s k then
      .next (syncReached (capChange (becomeMaster s k) []))
    else .next s

/-! ### Armed actions (R198, R200, R201) -/

/-- R198: hold an action, where one of the 64 places is free. -/
def holdAction (s : State) (a : ArmedAction) : State :=
  if s.time.armed.length < 64 then { s with time.armed := s.time.armed ++ [a] } else s

/-- R202, R418: arm an insertion; for a group, those of one tick are one, with the largest n. -/
def armIdle (s : State) (tick p n : Nat) (group : Bool) : State :=
  let same := fun (a : ArmedAction) => a.kind == .idleInsertion && a.scope == p && a.domainWide && group && a.tick == tick
  if s.time.armed.any same then
    { s with time.armed := s.time.armed.map (fun (a : ArmedAction) => if same a then { a with amount := max a.amount n } else a) }
  else holdAction s { kind := .idleInsertion, tick := tick, scope := p, amount := n, domainWide := group }

/-- R198, R200: arm a snapshot: refused with too little lead or a full table; domain scope is announced. -/
def armSnapshot (s : State) (tick number : Nat) (domain : Bool) (own : Bool := false) : Option State :=
  let wide := domain && domainMember s
  if tick < now s + (if wide then domainB s else 0) ∨ 64 ≤ s.time.armed.length then none
  else
    let s := holdAction s { kind := .snapshot, tick := tick, number := number, domainWide := wide, own := own }
    some (if wide then ctlSend s 3 0xFFFF tick number 0 else s)

/-- R198: TB_SNAP_CTL arms a snapshot at TB_SNAP_AT. -/
def snapArmed (s : State) : State :=
  match armSnapshot s (getF64 s tbSnapAtLo) (getF s tbSnapNumber) (getF s tbSnapDomain == 1) true with
  | none => setF s tbSnapRefused 1
  | some s => setF (setF s tbSnapRefused 0) tbSnapArm 1

/-- R198: SNAPSHOT_ARM. -/
def execSnapshotArm (s : State) : Res := hostWrite s snapArmed

/-- R421: a telemetry counter now: the ticks of tasks that still stand on a core count as they pass. -/
def telemNow (s : State) (i : Nat) : BitVec 64 :=
  let live := if i = 1 then s.steps.running.foldl (fun n e => n + ((e.2.tasks.filter (fun t => t.state == .running)).foldl
    (fun k t => k + (now s - t.placedAt)) 0)) 0 else 0
  mget s.health.telem i + BitVec.ofNat 64 live

/-- R200, R421: the copies of a latch. -/
def latchCopies (s : State) : SMap (BitVec 64) := (List.range 24).foldl (fun m i => mset m i (telemNow s i)) []

/-- R200: one latch; R229: the one that TB_SNAP_CTL armed clears snap_arm. -/
def latchSnapshot (s : State) (a : ArmedAction) : State :=
  let s := setF64 (setF { s with health.snap := latchCopies s } hpSnapNumber a.number) tbSnapTickLo (now s)
  if a.own then setF s tbSnapArm 0 else s

/-- Armed actions of a kind that have fallen due, and the rest. -/
def dueActions (s : State) (k : ArmKind) : List ArmedAction := s.time.armed.filter (fun (a : ArmedAction) => a.kind == k && decide (a.tick ≤ now s))
def dropActions (s : State) (k : ArmKind) : State :=
  { s with time.armed := s.time.armed.filter (fun (a : ArmedAction) => !(a.kind == k && decide (a.tick ≤ now s))) }

/-- R186, R200: the latches that have fallen due. -/
def latchDue (s : State) : State := each (dueActions s .snapshot) (fun a s => latchSnapshot s a) (dropActions s .snapshot)

/-- R201: arm a domain reset at now + B and announce it; none where the table is full (R198). -/
def armReset (s : State) (mailbox : Option Nat) : Option State :=
  if 64 ≤ s.time.armed.length then none
  else
    let t := now s + domainB s
    let s := holdAction s { kind := .domainReset, tick := t, origin := s.start.record.coord, domainWide := true }
    let s : State := { s with time.resetAt := t, time.resetReports := [], time.resetMailbox := mailbox }
    let s := setF (setF (setF s tbResetBusy 1) tbResetIncomplete 0) tbResetMissing 0
    some (ctlSend s 4 0xFFFF t 0 0)

/-- R201: DOMAIN_RESET_ARM. -/
def execDomainResetArm (s : State) : Res := hostWrite s (fun s => (armReset s none).getD s)

/-- R201: a notice that a reset drops leaves the launch it deferred to be judged again. -/
def dropNotices (s : State) : State :=
  let jobs := (List.range 64).flatMap (fun p => (partOf s p).slips.filterMap (fun n => n.job))
  let s := updSubs s (fun u => if jobs.contains u.job then { u with judged := none } else u)
  { s with parts.parts := s.parts.parts.map (fun e => (e.1, { e.2 with slips := [] })),
           time.armed := s.time.armed.filter (fun (a : ArmedAction) => a.kind != .idleInsertion) }

/-- R201: the reset fires: group steps end with 0x0403, slips and insertions are dropped. -/
def fireReset (s : State) (a : ArmedAction) : State :=
  let s := dropNotices (endGroupSteps s (fun s p => stepEnd s p 0x0403))
  { s with time.resetRunning := true, time.resetOrigin := a.origin, time.resetAt := a.tick }

/-- R186, R201: the domain resets that have fallen due. -/
def resetsDue (s : State) : State := each (dueActions s .domainReset) (fun a s => fireReset s a) (dropActions s .domainReset)

/-- R201, R383: the reset armed here has ended: the mailbox that asked for it is acknowledged. -/
def endReset (s : State) (code : Code) : State :=
  let s := setF s tbResetBusy 0
  match s.time.resetMailbox with
  | none => s
  | some m => mbAck { s with time.resetMailbox := none } m code

/-- R201: the blocks of the domain; this block alone without membership (R197). -/
def domainBlocks (s : State) : Nat :=
  if domainMember s then s.start.record.extent.x * s.start.record.extent.y * s.start.record.extent.z else 1

/-- R201: a report reaches the arming block. -/
def reportDone (s : State) (c : Coord) (tick : Nat) : State :=
  if getF s tbResetBusy = 1 ∧ tick = s.time.resetAt ∧ c ∉ s.time.resetReports then
    let s : State := { s with time.resetReports := s.time.resetReports ++ [c] }
    if s.time.resetReports.length = domainBlocks s then endReset s 0 else s
  else s

/-- R201: DOMAIN_RESET_LOCAL_DONE. -/
def execDomainResetLocalDone (s : State) : Res :=
  if s.time.resetRunning then
    let s : State := { s with time.resetRunning := false }
    .next (if s.time.resetOrigin = s.start.record.coord then reportDone s s.start.record.coord s.time.resetAt
      else ctlSend s 5 0xFFFF s.time.resetAt (packCoord s.time.resetOrigin) 0)
  else .next s

/-- R201: DOMAIN_RESET_DEADLINE. -/
def execDomainResetDeadline (s : State) : Res :=
  if getF s tbResetBusy = 1 ∧ s.time.resetAt + 14000 + domainB s ≤ now s then
    .next (endReset (setF (setF s tbResetMissing (domainBlocks s - s.time.resetReports.length)) tbResetIncomplete 1) 0x0403)
  else .next s

/-! ### Control messages (R215, R216) -/

/-- R200: SNAPSHOT_ANNOUNCEMENT. -/
def execSnapshotAnnouncement (port : Nat) (fec : RxMark) (bytes : List Byte) (s : State) : Res :=
  ctlArrive port fec bytes 3 (fun m s => holdAction s { kind := .snapshot, tick := m.a, number := m.b, domainWide := true }) s

/-- R201: DOMAIN_RESET_MESSAGE. -/
def execResetFlit (port : Nat) (fec : RxMark) (bytes : List Byte) (s : State) : Res :=
  ctlArrive port fec bytes 4 (fun m s => holdAction s { kind := .domainReset, tick := m.a, origin := m.origin, domainWide := true }) s

/-- R201: RESET_DONE. -/
def execResetDone (port : Nat) (fec : RxMark) (bytes : List Byte) (s : State) : Res :=
  ctlArrive port fec bytes 5 (fun m s => reportDone s m.origin m.a) s

/-- R202: IDLE_INSERTION_MESSAGE. -/
def execIdleInsertionMessage (port : Nat) (fec : RxMark) (bytes : List Byte) (s : State) : Res :=
  ctlArrive port fec bytes 6 (fun m s => each (groupParts s m.group) (fun p s => armIdle s m.a p m.b true) s) s

/-- R219, R222: the launch that a notice for a step not yet running defers. -/
def noticeJob (s : State) (p step : Nat) : Option Nat :=
  match runOf s p with
  | some r => if r.group && r.number == step then none else (s.steps.subs.find? (fun u => u.part == p && u.group)).map (fun u => u.job)
  | none => (s.steps.subs.find? (fun u => u.part == p && u.group)).map (fun u => u.job)

/-- R222: a notice of another block: the same effective tick is the same slip. -/
def hearSlip (s : State) (p tick step block cause : Nat) : State :=
  if (partOf s p).slips.any (fun n => n.tEff == tick && n.group) then s
  else updPart s p (fun x => { x with slips := x.slips ++
    [{ tEff := tick, step := step, origin := block, cause := cause, group := true, job := noticeJob s p step }] })

/-- R222: SLIP_NOTICE. -/
def execSlipFlit (port : Nat) (fec : RxMark) (bytes : List Byte) (s : State) : Res :=
  ctlArrive port fec bytes 7 (fun m s => each (groupParts s m.group) (fun p s => hearSlip s p m.a m.b (bits m.c 0 16) (bits m.c 16 4)) s) s

/-- R226: STEP_ABANDON. -/
def execAbandonFlit (port : Nat) (fec : RxMark) (bytes : List Byte) (s : State) : Res :=
  ctlArrive port fec bytes 9 (fun m s => each (groupParts s m.group) (fun p s =>
    match runOf s p with
    | some r => if r.group && r.number == m.a then stepEnd s p 0x0604 else s
    | none => s) s) s

/-- R216: MANAGEMENT. -/
def execManagement (port : Nat) (fec : RxMark) (bytes : List Byte) (s : State) : Res :=
  ctlArrive port fec bytes 10 (fun m s => { s with links.fwMsgs := s.links.fwMsgs ++ [(m.origin, m.data)] }) s

end Sys2Proof.Machine
end

