-- ==== Sys2Proof/Machine/Walks.lean ====
section
/-! DEFINITION. The translation unit's commands: walks (R341, R347 to R349), page requests (R354 to R359), ATS and PRI (R366 to
R369), the fault queue and access counters (R357, R364, R365), the mirror engine (R360), invalidations (R361 to R363), the
translation region (R336), forerunner mode (R366) and the key slots (R343, R346). -/

namespace Sys2Proof.Machine

/-! ### TLBs (R347 to R349, R402) -/

/-- R347, R348: the entry that a walk's result gives. -/
def entryOf (pasid va : Nat) (x : Xl) : TlbEntry :=
  { pasid := pasid, page := va / 2 ^ x.sizeLog2, sizeLog2 := x.sizeLog2, pa := x.pa - va % 2 ^ x.sizeLog2, hostPage := x.host, read := x.read,
    write := x.write, enc := x.enc, key := x.key, acEn := x.acEn, acIndex := x.acIndex - (if x.sizeLog2 = 30 then bits va 25 5 else 0),
    noSnoop := x.noSnoop, relaxed := x.relaxed, hot := x.hot, domain := x.domain }

/-- R348: a full set gives up its least recently used entry that is not hot, or the least recently used one. -/
def tlbEvict (l : List TlbEntry) : List TlbEntry :=
  match (l.reverse.find? (fun e => !e.hot)) with
  | some e => (l.reverse.erase e).reverse
  | none => l.dropLast

/-- R348: a set takes an entry. -/
def l2Put (s : State) (e : TlbEntry) : State :=
  let k := l2SetOf e
  let l := (mget s.trans.l2 k).filter (fun x => !(x.pasid == e.pasid && x.page == e.page && x.sizeLog2 == e.sizeLog2))
  { s with trans.l2 := mset s.trans.l2 k (e :: (if 8 ≤ l.length then tlbEvict l else l)) }

/-- R349: the walk cache keeps the newest 1,024 entries (log 53). -/
def cachePut (s : State) (l : List WalkCacheEntry) : State :=
  { s with trans.wcache := ((l ++ s.trans.wcache).eraseDups).take 1024 }

/-- R362: the PASID-table entry that a walk read is cached. -/
def pasidPut (s : State) (pasid : Nat) : State :=
  match mfind s.trans.pasidCache pasid with
  | some _ => s
  | none => { s with trans.pasidCache := mput s.trans.pasidCache pasid (BitVec.ofNat 128 (rdLE s.mem.hbm (pasidBase s + 16 * pasid) 16)) }

/-- R347 to R349: a walk's result is installed. -/
def installWalk (s : State) (eng pasid va : Nat) (x : Xl) : State :=
  let e := entryOf pasid va x
  utlbPut (l2Put (pasidPut (cachePut s x.cached) pasid) e) eng e

/-- R401: a corrected read of a translation cache, counted for the unit that owns it. -/
def cacheCe (s : State) (eng : Nat) : State :=
  if eng < 64 then ceCount s (unitCore eng) else if eng < 84 then ceCount s (unitSg (eng - 64)) else telemAdd s 14 1

/-- R402: an uncorrectable entry of a translation cache is invalidated; the lookup goes on as a miss. -/
def cacheUe (s : State) (eng pasid va : Nat) : State :=
  let keep := fun (l : List TlbEntry) => l.filter (fun e => !e.covers pasid va)
  let k1 := l2Set pasid (va / 2 ^ 25) false
  let k2 := l2Set pasid (va / 2 ^ 30) true
  let l2 := mset s.trans.l2 k1 (keep (mget s.trans.l2 k1))
  let s := { s with trans.utlb := mset s.trans.utlb eng (keep (mget s.trans.utlb eng)), trans.l2 := mset l2 k2 (keep (mget l2 k2)),
                    trans.atc := keep s.trans.atc }
  let unit := if eng < 64 then unitCore eng else if eng < 84 then unitSg (eng - 64) else if eng < 100 then unitCopy (eng - 84) else 0
  sramUe s unit 10 va []

/-! ### Walks (R341, R353, R354) -/

/-- The command that a copy engine serves. -/
def engineJob (s : State) (e : Nat) : Option (Nat × Job) := s.front.jobs.find? (fun y => onEngine e y.2)

/-- R353, R354: a walk of an engine has failed: a copy engine's transfer asks for the page or fails, the front end's own
command reports it, any other engine's context faults. -/
def walkFails (s : State) (eng n va : Nat) (write : Bool) (x : Xl) : State :=
  if eng < 84 ∨ eng = 101 then xlateFault s (engReq eng) n va write x.code
  else if eng < 100 then
    match engineJob s (eng - 84) with
    | none => s
    | some (j, y) => if attached s j || y.ctx != n then s else runEngine (stallCopy s j (eng - 84) n va write x) (eng - 84)
  else s

/-- A copy engine that a translation has reached goes on. -/
def engineGoes (s : State) (eng : Nat) : State := if 84 ≤ eng ∧ eng < 100 then runEngine s (eng - 84) else s

/-- R341, R349: the walk itself. -/
def walkMiss (s : State) (eng n va : Nat) (write : Bool) : State :=
  let c := ctxOf s n
  let x := walk s c.pasid c.partition va write
  let s := addF (addF s tuL2Miss) tuWalkReads x.reads
  if x.code = 0 then
    let s := installWalk (addF s tuUtlbMiss) eng c.pasid va x
    engineGoes s eng
  else walkFails (addF s tuUtlbMiss) eng n va write x

/-- R341, R347, R348, R366: a lookup that misses the micro-TLB: the second-level TLB, the ATC, then a walk, or an ATS request
for a host address of forerunner mode. -/
def lookupMiss (s : State) (eng n va : Nat) (write : Bool) : State :=
  let pasid := (ctxOf s n).pasid
  if ((mget s.trans.utlb eng).find? (fun e => e.covers pasid va)).isSome then touchTlb s eng pasid va
  else match tlbHit s eng pasid va with
    | some _ => engineGoes (touchTlb s eng pasid va) eng
    | none => if atsAddress s va then addF (addF s tuUtlbMiss) tuAtsRequests else walkMiss s eng n va write

/-- R341: TRANSLATION_WALK. -/
def execTranslationWalk (w : WalkRequest) (ecc : SramEcc) (s : State) : Res :=
  if 102 ≤ w.engine then .fault .noSuchUnit
  else if (ctxOf s w.ctx).state = .free then .next s
  else
    let pasid := (ctxOf s w.ctx).pasid
    let s := match ecc with
      | .good => s
      | .corrected => cacheCe s w.engine
      | .uncorrectable => cacheUe s w.engine pasid w.va.toNat
    .next (lookupMiss s w.engine w.ctx w.va.toNat w.write)

/-! ### Answers to page requests (R355, R358, R368) -/

/-- R355: the engines of the commands attached to an entry, which is free again. -/
def releasePage (s : State) (e : Nat) : State := { s with trans.preqs := mdel s.trans.preqs e }

/-- Every copy engine that stands still tries again. -/
def runEngines (s : State) : State := each (List.range 16) (fun e s => runEngine s e) s

/-- R358: the copies attached to an entry fail. -/
def failPage (s : State) (e : Nat) : State :=
  let jobs := (mget s.trans.preqs e).jobs
  runEngines (each jobs (fun j s => finishJob s j 0x0207) (releasePage s e))

/-- R358: the engines attached to an entry walk again. -/
def answerPage (s : State) (e : Nat) : State := runEngines (releasePage s e)

/-- R358: PAGE_REQUEST_RESPONSE, a write to TU_PRESP. -/
def execPageRequestResponse (value : W32) (s : State) : Res :=
  let e := bits value.toNat 0 4
  hostWrite s (fun s =>
    if (mget s.trans.preqs e).used then (if bit value.toNat 8 then failPage s e else answerPage s e) else addF s tuPrespIgnored)

/-- R368: the engines attached to an entry ask ATS again. -/
def retryAts (s : State) (e : Nat) : State :=
  let n := (mget s.trans.preqs e).jobs.length
  releasePage (addF s tuAtsRequests (min 1 n)) e

/-- R368: PRI_RESPONSE. -/
def execPriResponse (entry : Nat) (response : PriResponse) (s : State) : Res :=
  if 16 ≤ entry then .fault .noSuchUnit
  else if (mget s.trans.preqs entry).used = false then .next s
  else match response with
    | .success => .next (retryAts s entry)
    | .invalid => .next (failPage s entry)
    | .failure => .next (failPage { s with trans.priStopped := true } entry)

/-- R367: the ATC keeps 4,096 entries (log 53). -/
def atcPut (s : State) (e : TlbEntry) : State := { s with trans.atc := (mru s.trans.atc e).take 4096 }

/-- R368: a denied ATS request: a context fault, or for a copy engine a page request over PRI; with no requests allocated, or
none allowed any more, the copy fails or stays stalled. -/
def atsDenied (s : State) (eng n va : Nat) (write : Bool) : State :=
  if eng < 84 ∨ eng = 101 then xlateFault s (engReq eng) n va write 0x020B
  else if eng < 100 then
    match engineJob s (eng - 84) with
    | none => s
    | some (j, y) =>
      if attached s j || y.ctx != n then s
      else if Config.priAllocation = 0 then runEngine (finishJob s j 0x0207) (eng - 84)
      else if s.trans.priStopped then s
      else requestPage s j (eng - 84) n va write { code := 0x0202 }
  else s

/-- R368: ATS_COMPLETION. -/
def execAtsCompletion (a : AtsReply) (s : State) : Res :=
  if 102 ≤ a.engine then .fault .noSuchUnit
  else if (ctxOf s a.ctx).state = .free ∨ atsAddress s a.va.toNat = false then .next s
  else
    let pasid := (ctxOf s a.ctx).pasid
    let k := max 12 (min 30 a.sizeLog2)
    if a.denied || !(if a.write then a.writeOk else a.readOk) then .next (atsDenied s a.engine a.ctx a.va.toNat a.write)
    else
      let e : TlbEntry := { pasid := pasid, page := a.va.toNat / 2 ^ k, sizeLog2 := k, pa := a.pa / 2 ^ k * 2 ^ k, hostPage := true, read := a.readOk,
                            write := a.writeOk }
      .next (engineGoes (utlbPut (atcPut s e) a.engine e) a.engine)

/-- R369: entries that overlap a range leave the ATC and the micro-TLBs. -/
def TlbEntry.overlaps (e : TlbEntry) (va len : Nat) : Bool :=
  decide (e.page * 2 ^ e.sizeLog2 < va + len ∧ va < (e.page + 1) * 2 ^ e.sizeLog2)

/-- R369: ATS_INVALIDATE. -/
def execAtsInvalidate (pasid va len : Nat) (s : State) : Res :=
  let keep := fun (l : List TlbEntry) => l.filter (fun e => !(e.hostPage && e.pasid == pasid && e.overlaps va len))
  .next { s with trans.atc := keep s.trans.atc, trans.utlb := (s.trans.utlb.map (fun e => (e.1, keep e.2))).filter (fun e => !e.2.isEmpty),
                 trans.atsDrain := true, bound.atsInvDone := false }

/-- R369: ATS_INVALIDATE_DONE. -/
def execAtsInvalidateDone (s : State) : Res :=
  if s.trans.atsDrain then .next (addF { s with trans.atsDrain := false, bound.atsInvDone := true } tuAtsInval) else .next s

/-! ### The fault queue and the access counters (R357, R364, R365) -/

/-- R365: a notification that could not be held is posted when room appears; its page's address is not known any more. -/
def acFlush (s : State) : State :=
  match s.trans.acPending with
  | [] => s
  | i :: rest => if 64 ≤ s.trans.fqHeld.length then s else fqPost { s with trans.acPending := rest } { kind := 2, ipa := i }

/-- R357: FAULT_RECORD_WRITE. -/
def execFaultRecordWrite (s : State) : Res :=
  match s.trans.fqHeld with
  | [] => .next s
  | b :: rest => if fqFull s then .next s else .next (acFlush (fqWrite { s with trans.fqHeld := rest } b))

/-- R364, R371: ACCESS_COUNTER_DECAY: every 2^decay_log2 ticks, where decay is on; a value below 16 acts as 16. -/
def execAccessCounterDecay (s : State) : Res :=
  if getF s tuDecayLog2 = 0 ∨ now s % 2 ^ max 16 (getF s tuDecayLog2) ≠ 0 then .next s
  else .next { s with trans.acs := (s.trans.acs.map (fun e => (e.1, e.2 / 2))).filter (fun e => e.2 != 0) }

/-- R365: AC_CLEAR. -/
def execAcClear (index : Nat) (s : State) : Res :=
  if 131072 ≤ index then .fault .noSuchUnit
  else hostWrite s (fun s => { s with trans.acs := mset s.trans.acs index 0, trans.acNotified := mset s.trans.acNotified index false,
                                      trans.acPending := s.trans.acPending.filter (· != index) })

/-- R365: AC_CLEAR_ALL. -/
def execAcClearAll (s : State) : Res := hostWrite s (fun s => { s with trans.acs := [], trans.acNotified := [], trans.acPending := [] })

/-! ### The mirror engine (R360) -/

/-- R336, R360: does a byte range lie in the translation region? -/
def rangeInRegion (s : State) (a len : Nat) : Bool :=
  (List.range (len / 2 ^ 25 + 2)).all (fun i => inRegion s (min (a + len - 1) (a + i * 2 ^ 25)))

/-- R360: is a mirror copy refused? -/
def mirrorRefused (s : State) (src dst len : Nat) : Bool :=
  decide (len = 0 ∨ len % 64 ≠ 0 ∨ 67108864 < len ∨ src % 64 ≠ 0 ∨ dst % 64 ≠ 0) || !rangeInRegion s dst len

/-- R360: a mirror copy begins, or is refused; one that runs goes on. -/
def mirrorBegin (s : State) : State :=
  if s.trans.mirror.isSome then s
  else
    let src := getF64 s tuSrcLo
    let dst := getF64 s tuDstLo
    let len := getF s tuLen
    if mirrorRefused s src dst len then setF s tuError 1
    else setF (setF { s with trans.mirror := some (src, dst, len) } tuError 0) tuGo 1

/-- R360: MIRROR_GO. -/
def execMirrorGo (s : State) : Res := hostWrite s mirrorBegin

/-- R360: MIRROR_DONE. -/
def execMirrorDone (s : State) : Res :=
  match s.trans.mirror with
  | none => .next s
  | some (src, dst, len) =>
    .next (setF { s with mem.hbm := wrBytes s.mem.hbm dst (rdBytes s.mem.host src len), trans.mirror := none } tuGo 0)

/-! ### Invalidations (R362, R363) -/

/-- R337: the stage-2 domain that a PASID's entry names. -/
def domainOf (s : State) (pasid : Nat) : Nat :=
  bits (match mfind s.trans.pasidCache pasid with | some v => v.toNat | none => rdLE s.mem.hbm (pasidBase s + 16 * pasid) 8) 2 8

/-- R362: addr without bits [24:0], and the bytes of a range. -/
def InvCmd.base (c : InvCmd) : Nat := c.addr / 2 ^ 25 * 2 ^ 25
def InvCmd.bytes (c : InvCmd) : Nat := c.len * 2 ^ 25

/-- R362: is a translation of a PASID and a range of addresses in the scope of a command? -/
def InvCmd.hits (s : State) (c : InvCmd) (pasid va size : Nat) : Bool :=
  match c.scope with
  | 0 => true
  | 1 => pasid == c.pasid
  | 2 => pasid == c.pasid && decide (va < c.base + c.bytes ∧ c.base < va + size)
  | 3 => domainOf s pasid == c.domain
  | 4 => domainOf s pasid == c.domain
  | 5 => pasid == c.pasid
  | _ => false

/-- R362: a TLB entry in the scope: under scopes 3 and 4 by the domain it was walked with, too. -/
def InvCmd.hitsTlb (s : State) (c : InvCmd) (e : TlbEntry) : Bool :=
  c.hits s e.pasid (e.page * 2 ^ e.sizeLog2) (2 ^ e.sizeLog2) || ((c.scope == 3 || c.scope == 4) && e.domain == c.domain)

/-- R362: a walk-cache entry in the scope; where its range is not known it is removed (log 53). -/
def InvCmd.hitsWalk (c : InvCmd) (e : WalkCacheEntry) : Bool :=
  match c.scope with
  | 0 => true
  | 1 => e.pasid == c.pasid
  | 2 => e.pasid == c.pasid
  | 3 => e.domain == c.domain
  | 4 => e.domain == c.domain && (e.stage != 3 || decide (e.addr * 2 ^ 25 < c.base + c.bytes ∧ c.base < (e.addr + 1) * 2 ^ 25))
  | 5 => e.pasid == c.pasid
  | _ => false

/-- R362: page-map entries in the scope. -/
def invPages (s : State) (c : InvCmd) : List Nat :=
  (s.emb.pmap.filter (fun e => c.hits s (ctxOf s e.2.ctx).pasid e.2.va.toNat (2 ^ 25))).map (·.1)

/-- R352: page-map entries are to be walked again at their partition's boundary, which a partition with no step has reached. -/
def markPages (s : State) (l : List Nat) : State :=
  let part := fun i => (ctxOf s (mget s.emb.pmap i).ctx).partition
  let s' := each l (fun i s => updPart s (part i) (fun x => { x with rewalk := if i ∈ x.rewalk then x.rewalk else x.rewalk ++ [i] })) s
  each ((l.map part).eraseDups) (fun p s => boundary s p) s'

/-- R363: a command at the head of the queue: entries are removed and page-map entries are marked. -/
def invBegin (s : State) : State :=
  match s.trans.invQ with
  | [] => s
  | c :: _ =>
    let keep := fun (l : List TlbEntry) => l.filter (fun e => !c.hitsTlb s e)
    let pages := invPages s c
    let s' := { s with trans.utlb := (s.trans.utlb.map (fun e => (e.1, keep e.2))).filter (fun e => !e.2.isEmpty),
                       trans.l2 := (s.trans.l2.map (fun e => (e.1, keep e.2))).filter (fun e => !e.2.isEmpty), trans.atc := keep s.trans.atc,
                       trans.wcache := s.trans.wcache.filter (fun e => !c.hitsWalk e),
                       trans.pasidCache := if c.scope = 5 then mdel s.trans.pasidCache c.pasid else s.trans.pasidCache }
    markPages s' pages

/-- R362: a write to TU_INV_CTL. -/
def invQueue (s : State) (scope domain pasid : Nat) : State :=
  if 16 ≤ s.trans.invQ.length then setF s tuDropped 1
  else
    let n := (s.trans.invSeq + 1) % 65536
    let c : InvCmd := { scope := scope, domain := domain % 256, pasid := pasid % 1048576, addr := getF64 s tuInvAddrLo, len := getF s tuInvLen, seq := n }
    let first := s.trans.invQ.isEmpty
    let s := { s with trans.invQ := s.trans.invQ ++ [c], trans.invSeq := n }
    let s := setF (setF s tuSubmitted n) tuFull (b2n (decide (16 ≤ s.trans.invQ.length)))
    if first then invBegin s else s

/-- R362: INVALIDATE_ALL. -/
def execInvalidateAll (s : State) : Res := hostWrite s (fun s => invQueue s 0 0 0)
/-- R362: INVALIDATE_PASID. -/
def execInvalidatePasid (pasid : Nat) (s : State) : Res := hostWrite s (fun s => invQueue s 1 0 pasid)
/-- R362: INVALIDATE_PASID_RANGE. -/
def execInvalidatePasidRange (pasid : Nat) (s : State) : Res := hostWrite s (fun s => invQueue s 2 0 pasid)
/-- R362: INVALIDATE_DOMAIN. -/
def execInvalidateDomain (domain : Nat) (s : State) : Res := hostWrite s (fun s => invQueue s 3 domain 0)
/-- R362: INVALIDATE_DOMAIN_RANGE. -/
def execInvalidateDomainRange (domain : Nat) (s : State) : Res := hostWrite s (fun s => invQueue s 4 domain 0)
/-- R362: INVALIDATE_PASID_ENTRY. -/
def execInvalidatePasidEntry (pasid : Nat) (s : State) : Res := hostWrite s (fun s => invQueue s 5 0 pasid)

/-- R363 step 4: page-map entries in the scope still await their boundary. -/
def invWaits (s : State) (c : InvCmd) : Bool :=
  let l := invPages s c
  s.parts.parts.any (fun e => e.2.rewalk.any (fun i => l.contains i))

/-- R363: INVALIDATION_COMPLETE. -/
def execInvalidationComplete (s : State) : Res :=
  match s.trans.invQ with
  | [] => .next s
  | c :: rest =>
    if invWaits s c then .next s
    else .next (invBegin (setF (setF { s with trans.invQ := rest, trans.invDone := c.seq } tuCompleted c.seq) tuFull 0))

/-! ### Modes, the region, keys (R336, R366, R346) -/

/-- Every context is free. -/
def noContexts (s : State) : Bool := s.front.ctxs.all (fun e => e.2.state == .free)

/-- R366, R385: FORERUNNER_MODE_SET; ignored where the record does not allow the mode. -/
def execForerunnerModeSet (on : Bool) (s : State) : Res :=
  hostWrite s (fun s => if noContexts s && bit (getF s bcPolicy) 0 then setF s tuForerunner (b2n on) else s)

/-- R336: may TU_REGION name a run of pages? -/
def regionOk (s : State) (first n : Nat) : Bool :=
  noContexts s && (List.range n).all (fun i => pageExists s (first + i) && pageOwner s (first + i) == 0xFF)

/-- R336: TRANSLATION_REGION_SET. -/
def execTranslationRegionSet (value : W32) (s : State) : Res :=
  let f := bits value.toNat 0 16
  let n := bits value.toNat 16 16
  hostWrite s (fun s => if regionOk s f n then setF (setF s tuFirstPage f) tuPages n else s)

/-- R343, R372: key slots exist, and no load or clear is under way. -/
def keysReady (s : State) : Bool := variantOf s != .jujorS && s.trans.keyPending.isNone

/-- R346: a load or clear of a slot begins. -/
def keyBegin (s : State) (slot : Nat) (load : Bool) : State :=
  if keysReady s then setF (setF { s with trans.keyPending := some (slot % 64, load, s.trans.keyData) } mpSlot (slot % 64)) mpBusy 1 else s

/-- R346: KEY_SLOT_LOAD. -/
def execKeySlotLoad (slot : Nat) (s : State) : Res := hostWrite s (fun s => keyBegin s slot true)
/-- R346: KEY_SLOT_CLEAR. -/
def execKeySlotClear (slot : Nat) (s : State) : Res := hostWrite s (fun s => keyBegin s slot false)

/-- R372: MP_KEY_STATE. -/
def keyState (s : State) : State := setF64 s mpLoadedLo (maskOf 64 (fun k => (mget s.trans.keys k).loaded))

/-- R346: KEY_SLOT_EFFECT. -/
def execKeySlotEffect (s : State) : Res :=
  match s.trans.keyPending with
  | none => .next s
  | some (k, load, data) =>
    let slot : KeySlot := if load then { loaded := true, data := data } else {}
    .next (setF (keyState { s with trans.keys := mset s.trans.keys k slot, trans.keyPending := none }) mpBusy 0)

end Sys2Proof.Machine
end

