-- ==== Sys2Proof/Machine/Health.lean ====
section
/-! DEFINITION. Unit loss (R415, R416), stack-port errors (R403, R408), ash watch (R412 to R414), weight digests (R409, R410)
and the power limiter (R417 to R419). -/

namespace Sys2Proof.Machine

/-! ### Unit loss (R415, R416) -/

/-- The partition that owns a core or a lane unit. -/
def coreOwner (s : State) (c : Nat) : Option Nat := (List.range 64).find? (fun p => (partOf s p).state != .absent && bit (partOf s p).coreMask.toNat c)
def luOwner (s : State) (g : Nat) : Option Nat := (List.range 64).find? (fun p => (partOf s p).state != .absent && bit (partOf s p).luMask.toNat g)

/-- R415: a marking-out is reported to the contexts of the partitions concerned, and the generation advances. -/
def reportLoss (s : State) (unit : Nat) (code : Code) (parts : List Nat) : State :=
  capChange (healthEvent s { source := 6, unit := unit, code := code } (parts.flatMap (fun p => ctxsOf s p))) parts

/-- R416: the running steps of the partitions end. -/
def loseSteps (s : State) (parts : List Nat) (code : Code) : State := each parts (fun p s => stepFail s p code) s

/-- R303, R416: a core is marked out. -/
def markCoreOut (s : State) (c : Nat) : State :=
  if !corePresent s c || coreOut s c then s
  else
    let parts := (coreOwner s c).toList
    let s := setF64 s mfOutLo (setBits (getF64 s mfOutLo) c 1 1)
    let s := each parts (fun p s => updPart s p (fun x => { x with coresOut := x.coresOut ||| (1#64 <<< c) })) s
    let s := reportLoss (loseSteps s parts 0x0502) (unitCore c) 0x0502 parts
    each parts (fun p s => boundary s p) s

/-- R416: a lane is marked out; with its buddy out its lane unit is, too. -/
def markLaneOut (s : State) (l : Nat) : State :=
  if !stackPresent s (l / 128) || s.emb.lanesOut.contains l then s
  else
    let g := l / 32
    let parts := (luOwner s g).toList
    let both := s.emb.lanesOut.contains (l ^^^ 1) && !s.emb.laneUnitsOut.contains g
    let s := { s with emb.lanesOut := s.emb.lanesOut ++ [l], emb.laneUnitsOut := if both then s.emb.laneUnitsOut ++ [g] else s.emb.laneUnitsOut }
    let s := if both then healthEvent s { source := 6, unit := unitLaneUnit g, code := 0x0503 } (parts.flatMap (fun p => ctxsOf s p)) else s
    reportLoss (loseSteps s parts 0x0503) (unitLane l) 0x0503 parts

/-- R416: a stack is lost with its contents. -/
def markStackOut (s : State) (t : Nat) : State :=
  if !stackPresent s t || bit s.bound.stackLost.toNat t then s
  else
    let parts := ((List.range 4).filterMap (fun u => luOwner s (4 * t + u))).eraseDups
    let m : BitVec 20 := 1#20 <<< t
    let s := loseSteps s parts 0x0504
    let s := { s with bound.stackLost := s.bound.stackLost ||| m, bound.stackUp := s.bound.stackUp &&& ~~~m,
                      mem.hbm := s.mem.hbm.filter (fun e => !decide (4 * t * 2 ^ 34 ≤ e.1 ∧ e.1 < (4 * t + 4) * 2 ^ 34)) }
    reportLoss s (unitStack t) 0x0504 parts

/-- R415: a unit of a kind that can be marked out; one that is out or absent, or of another kind, is left alone. -/
def markUnitOut (s : State) (unit : Nat) : State :=
  let n := unit % 4096
  match unit / 4096 with
  | 1 => if n < 64 then markCoreOut s n else s
  | 2 => if n < 2560 then markLaneOut s n else s
  | 4 => if n < 20 then markStackOut s n else s
  | 5 => if n < 60 ∧ portPresent s n = true then markPortOut s n else s
  | _ => s

/-- R415: UNIT_MARK_OUT. -/
def execUnitMarkOut (unit : Nat) (s : State) : Res := hostWrite s (fun s => markUnitOut s unit)

/-- R415: STACK_READ_TIMEOUT. -/
def execStackReadTimeout (stack : Nat) (s : State) : Res := if 20 ≤ stack then .fault .noSuchUnit else .next (markStackOut s stack)

/-! ### Stack-port errors (R24, R403, R408) -/

/-- R403: an uncorrectable beat is counted, logged and reported. -/
def hbmUe (s : State) (stack addr step value : Nat) (code : Code) (ctxs : List Nat) : State :=
  healthEvent (errLog (telemAdd s 17 1) code (unitStack stack) addr)
    { source := 2, memory := 13, unit := unitStack stack, code := code, step := step, addr := addr, value := value } ctxs

/-- R242, R403: a record whose owner cannot be read: its index is retired. -/
def retireObj (s : State) (i : Nat) : State :=
  let s := putObj s i { gen := (objOf s i).gen }
  { s with front.objAlloc.retired := s.front.objAlloc.retired + 1 }

def retireFence (s : State) (i : Nat) : State :=
  let s := putFence s i {}
  { s with front.fenceAlloc.retired := s.front.fenceAlloc.retired + 1 }

/-- R403: an uncorrectable copy beat fails the command, or the command's fence where its data has moved already (log 39). -/
def copyBeat (s : State) (j : Nat) : State :=
  match jobOf s j with
  | none => s
  | some x =>
    let s := updJob (detachPage s j) j (fun x => if x.status = .done ∧ x.code ≠ 0 then x else { x with status := .done, code := 0x0704 })
    match x.copyEngine with
    | some e => runEngine s e
    | none => s

/-- R403: the consequences of an uncorrectable beat for its reader. -/
def beatFails (s : State) (t : Nat) (reader : BeatReader) (addr : Nat) : State :=
  match reader with
  | .step p =>
    match runOf s p with
    | none => hbmUe s t addr 0 0 0x0704 []
    | some r => stepFail (hbmUe s t addr (r.number % 2 ^ 32) 0 0x0704 [r.ctx]) p 0x0704
  | .copy j => copyBeat (hbmUe s t addr 0 0 0x0704 ((jobOf s j).map (fun x => x.ctx)).toList) j
  | .walk w => walkFails (hbmUe s t addr 0 0 0x0704 [w.ctx]) w.engine w.ctx w.va.toNat w.write { code := 0x020A }
  | .object i owner =>
    if owner then ctxFault (hbmUe s t addr 0 0 0x0705 [(objOf s i).ctx]) (objOf s i).ctx 0x0705 else retireObj (hbmUe s t addr 0 0 0x0705 []) i
  | .fence i owner =>
    if owner then ctxFault (hbmUe s t addr 0 0 0x0705 [(fenceOf s i).ctx]) (fenceOf s i).ctx 0x0705 else retireFence (hbmUe s t addr 0 0 0x0705 []) i
  | .descriptor tid owner =>
    match tableOf s tid with
    | some x => if owner then ctxFault (hbmUe s t addr 0 0 0x0705 [x.ctx]) x.ctx 0x0705 else hbmUe s t addr 0 0 0x0705 []
    | none => hbmUe s t addr 0 0 0x0705 []
  | .catchup tid row =>
    let s := hbmUe s t row 0 tid 0x0704 ((tableOf s tid).map (fun x => x.ctx)).toList
    { s with upd.unread := s.upd.unread ++ [(tid, row, false)] }
  | .merge tid row =>
    let s := hbmUe s t row 0 tid 0x0704 ((tableOf s tid).map (fun x => x.ctx)).toList
    { s with upd.unread := s.upd.unread ++ [(tid, row, true)] }
  | .promotion tid row =>
    let s := hbmUe s t addr 0 0 0x0704 []
    { s with emb.promos := s.emb.promos.filter (fun q => !(q.table == tid && q.row == row)) }
  | .digest =>
    let s := hbmUe s t addr 0 0 0x0704 []
    match s.health.digest with
    | none => s
    | some d => setF (setF (dropRefs { s with health.digest := none } [d.obj]) hpStatus 0x0704) hpGo21C 0

/-- R403: STACK_READ_BEAT. -/
def execStackReadBeat (stack recc : Nat) (reader : BeatReader) (addr : Nat) (s : State) : Res :=
  if 20 ≤ stack then .fault .noSuchUnit
  else if recc = 1 then .next (ceCount s (unitStack stack))
  else if recc = 2 then .next (beatFails s stack reader addr)
  else .next s

/-- R408: half of every counter of a register array. -/
def halveAll (s : State) (f : Fld) : State := iter f.count (fun i s => setF s f (getF s f i / 2) i) s

/-- R408: CE_COUNTER_HALVING: every 2^41 ticks. -/
def execCeCounterHalving (s : State) : Res :=
  if now s % 2 ^ 41 = 0 then
    .next { halveAll (halveAll (halveAll s hpCount400) hpCount500) hpCount580 with health.ceRaised := [] }
  else .next s

/-! ### Ash watch (R412 to R414) -/

/-- R412, R413: a unit that known-answer tests cover, present and in service. -/
def ashUnit (s : State) (unit : Nat) : Bool :=
  let n := unit % 4096
  match unit / 4096 with
  | 1 => corePresent s n && !coreOut s n
  | 2 => decide (n < 2560) && stackPresent s (n / 128) && !s.emb.lanesOut.contains n
  | 5 => decide (n < 60) && portPresent s n && !(portOf s n).out
  | _ => false

/-- R413: ASH_WATCH_SET. -/
def execAshWatchSet (unit : Nat) (s : State) : Res := hostWrite s (fun s => if ashUnit s unit then ashEnter s unit else s)
/-- R413: ASH_WATCH_CLEAR. -/
def execAshWatchClear (unit : Nat) (s : State) : Res := hostWrite s (fun s => ashPut s unit false)

/-- R412: a core is tested when no partition owns it, or at a boundary while it is free and no launch is near; lanes and ports
in slots that are free. -/
def ashMayRun (s : State) (unit : Nat) : Bool :=
  if unit / 4096 = 1 then
    match coreOwner s (unit % 4096) with
    | none => true
    | some p => atBoundary s p && coreFree s (unit % 4096) && s.steps.subs.all (fun u => u.part != p || decide (now s + 40000 < u.next))
  else true

/-- R413: the partition whose steps count for a unit under ash watch. -/
def ashOwner (s : State) (unit : Nat) : Option Nat :=
  let n := unit % 4096
  if unit / 4096 = 1 then coreOwner s n else if unit / 4096 = 2 then luOwner s (n / 32) else none

/-- R413: a test is due 1 h after the last one; under ash watch after 1,000 steps of the owner, or after 1 s without an owner or
without a launch. A unit that has not been tested is due. -/
def ashIsDue (s : State) (unit : Nat) : Bool :=
  match mfind s.health.ashLast unit with
  | none => true
  | some (t, n) =>
    if ashOn s unit = false then decide (t + 2520000000000 ≤ now s)
    else match ashOwner s unit with
      | none => decide (t + 700000000 ≤ now s)
      | some p => decide (n + 1000 ≤ (partOf s p).stepsRun) || decide ((partOf s p).lastLaunch + 700000000 ≤ now s ∧ t + 700000000 ≤ now s)

/-- R412: ASH_TEST. -/
def execAshTest (unit : Nat) (deferred : Bool) (s : State) : Res :=
  if ashUnit s unit && ashMayRun s unit && ashIsDue s unit && !s.health.ashRunning.contains unit then
    let s := if deferred then addF s hpAshDeferred else s
    let n := match ashOwner s unit with | some p => (partOf s p).stepsRun | none => 0
    .next (addF { s with health.ashRunning := s.health.ashRunning ++ [unit], health.ashLast := mput s.health.ashLast unit (now s, n) } hpAshRuns)
  else .next s

/-- R396: the pending store's lowest empty entry. -/
def pendingSlot (s : State) : Option Nat := firstBelow 64 (fun i => getF s bcEntry600 i == 0)

/-- R395: soft-repair entries. -/
def repairKind (w : Nat) : Nat := bits w 0 4
def repairCore (w : Nat) : Nat := bits w 4 6
def repairArray (w : Nat) : Nat := bits w 10 1
def repairRow (w : Nat) : Nat := bits w 11 5
def repairLane (w : Nat) : Nat := bits w 16 12

/-- R147, R395: does a fused or soft repair already use an array's spare? -/
def spareUsed (s : State) (core array kind : Nat) : Bool :=
  getF s (if array = 0 then (if kind = 1 then mfARowEn else mfAColEn) else (if kind = 1 then mfBRowEn else mfBColEn)) core == 1

/-- R414: the entry that firmware adds for a unit that failed a test. -/
def ashEntry (s : State) (unit : Nat) (repair : W32) : Nat :=
  let n := unit % 4096
  let w := repair.toNat
  match unit / 4096 with
  | 1 => if (repairKind w = 1 ∨ repairKind w = 2) ∧ repairCore w = n ∧ spareUsed s n (repairArray w) (repairKind w) = false then w else 4 + n * 16
  | 2 => 3 + n * 2 ^ 16
  | _ => 6 + n * 16

/-- R414: a failed test: ash watch, the pending store, the event, and for a lane or port the loss of the unit. -/
def ashFailed (s : State) (unit : Nat) (repair : W32) : State :=
  let s := ashEnter (addF s hpAshFails) unit
  let e := ashEntry s unit repair
  let (code, s) := match pendingSlot s with
    | some i => ((0x0708 : Code), setF s bcEntry600 e i)
    | none => (0x090E, s)
  let s := healthEvent s { source := 5, unit := unit, code := code }
  if unit / 4096 = 1 then s else markUnitOut s unit

/-- R414: ASH_TEST_RESULT. -/
def execAshTestResult (unit : Nat) (pass : Bool) (repair : W32) (s : State) : Res :=
  if s.health.ashRunning.contains unit then
    let s := { s with health.ashRunning := s.health.ashRunning.filter (· != unit) }
    .next (if pass then s else ashFailed s unit repair)
  else .next s

/-! ### Weight digests (R409, R410) -/

/-- R410: the range that a request names: its code, the object and the address. -/
def digestRange (s : State) (n h off len : Nat) : Code × Nat × Nat :=
  let c := checkHandle s n [1, 3] h
  if (ctxOf s n).state = .free then (0x030E, 0, 0)
  else if c ≠ 0 then (c, 0, 0)
  else if len % 32 ≠ 0 ∨ off % 32 ≠ 0 then (0x030D, 0, 0)
  else
    let r := objRange s h off len
    (r.1, hIndex h, r.2)

/-- R410: a request begins, or ends at once with the code of a check; one that runs goes on. -/
def digestBegin (s : State) : State :=
  if s.health.digest.isSome then s
  else
    let n := getF s hpCtx
    let len := getF64 s hpLenLo
    let (code, i, va) := digestRange s n (getF64 s hpHandleLo) (getF64 s hpOffsetLo) len
    if code ≠ 0 then setF s hpStatus code.toNat
    else setF { takeRefs s [i] with health.digest := some { ctx := n, obj := i, va := va, len := len } } hpGo21C 1

/-- R410: DIGEST_GO. -/
def execDigestGo (s : State) : Res := hostWrite s digestBegin

/-- R409: the 128-bit result in four words. -/
def putDigest (s : State) (bs : List Byte) : State :=
  let d := (crcA bs).toNat + (crcB bs).toNat * 2 ^ 64
  iter 4 (fun w s => setF s hpResult (bits d (32 * w) 32) w) s

/-- R410: DIGEST_DONE; a translation that fails ends the request with its code (log 58). -/
def execDigestDone (s : State) : Res :=
  match s.health.digest with
  | none => .next s
  | some d =>
    let r := vaReadE s 102 d.ctx d.va d.len
    let s := dropRefs { s with health.digest := none } [d.obj]
    let s := if r.1 = 0 then telemAdd (putDigest s r.2) 22 d.len else s
    .next (setF (setF s hpStatus r.1.toNat) hpGo21C 0)

/-! ### The power limiter (R40, R417 to R419) -/

/-- R40: the effective limit. -/
def effectiveLimit (s : State) : Nat := max 200 (min (getF s bcCapturedW) (min (getF s bcRecordCeiling) (shadowOf s).powerCeiling))

/-- R40: the captured budget applies at a window boundary; until the first one the floor holds. -/
def applyBudget (s : State) : State :=
  if s.bound.budgetPending ∨ s.bound.budgetApplied then
    setF { s with bound.budgetPending := false, bound.budgetApplied := true } bcEffectiveW (effectiveLimit s)
  else s

/-- R417: the idle ratio in units of 1/4,096. -/
def idleRatio (p idle limit r : Nat) : Nat :=
  let num := ((p : Int) - idle) * (4096 + r)
  let den := (limit : Int) - idle
  let x := -((-num) / den) - 4096
  let x := (clampInt 0 12288 x).toNat
  if x < 16 then 0 else x

/-- R418: the length of an insertion. -/
def idleLength (r period : Nat) : Nat := cdiv (r * period) (4096 * 1024) * 1024

/-- R418: the launches of a scope that fall due in the coming window of 700,000 ticks, with their periods, by tick. -/
def windowLaunches (s : State) (p : Nat) (group : Bool) : List (Nat × Nat) :=
  let l := (s.steps.subs.filter (fun u => u.part == p && u.group == group)).flatMap (fun u =>
    ((List.range (min (u.count - u.index) (if u.period = 0 then 1 else 700000 / u.period + 1))).map (fun k =>
      (u.next + k * u.period, if u.period = 0 then (partOf s p).lastRun else u.period))).filter (fun e => decide (e.1 < now s + 700000)))
  l.mergeSort (fun a b => decide (a.1 ≤ b.1))

/-- R418: arm an insertion for each launch in turn; a launch too near receives none, a full table ends it. -/
def armWindow (s : State) (p : Nat) (group : Bool) (r : Nat) : State :=
  let g := leadOf s p group
  (each (windowLaunches s p group) (fun (e : Nat × Nat) (x : Nat × State) =>
    let t := e.1 + x.1
    let n := idleLength r e.2
    if e.1 < now x.2 + g ∨ 64 ≤ x.2.time.armed.length ∨ n = 0 then x
    else
      let s' := armIdle x.2 t p n group
      let s' := match group, (partOf x.2 p).group with
        | true, some y => ctlSend s' 6 y.number t n 0
        | _, _ => s'
      (x.1 + n, s')) (0, s)).2

/-- R419: the backstop at a window boundary. -/
def judgeBackstop (s : State) (p limit : Nat) : State :=
  let run := if limit * 21 < p * 20 then s.health.overRun + 1 else 0
  let on := if getF s hpBackstop = 1 then decide (limit < p) else decide (2 ≤ run)
  let s := { s with health.overRun := run }
  let s := if on then addF s hpBackstopWindows else s
  if on && getF s hpBackstop == 0 then healthEvent (setF s hpBackstop 1) { source := 7, value := p } else setF s hpBackstop (b2n on)

/-- R417: POWER_WINDOW, with the average power of the window that ends. -/
def execPowerWindow (watts : Nat) (s : State) : Res :=
  let s := telemAdd { applyBudget s with health.windowAt := now s } 0 watts
  let limit := getF s bcEffectiveW
  let old := getF s hpRatio
  let r := idleRatio watts (shadowOf s).idleW limit old
  let s := setF (setF s hpEstW (min 1023 watts)) hpRatio r
  let s := if limit < watts then addF s hpOverWindows else s
  let s := if (r = 0) ≠ (old = 0) then healthEvent s { source := 7, value := r } else s
  let s := if r = 0 then s else iter 64 (fun p s => armWindow (armWindow s p false r) p true r) s
  .next (judgeBackstop s watts limit)

end Sys2Proof.Machine
end

