-- ==== Sys2Proof/Machine/Sha.lean ====
section
/-! DEFINITION. SHA-384 (FIPS 180-4) and the verification of an ECDSA P-384 signature (FIPS 186-4), which R384 to R388 name
(log 56). -/

namespace Sys2Proof.Machine

/-! ### SHA-384 -/

/-- Floor of the `n`-th root of `v`, whose answer has the bits from `2^k` down: `r` is what the higher bits gave. -/
def rootFrom (n k v r : Nat) : Nat :=
  let next := if (r + 2 ^ k) ^ n ≤ v then r + 2 ^ k else r
  match k with
  | 0 => next
  | j + 1 => rootFrom n j v next

/-- The first 64 bits of the fraction of the `n`-th root of a number below 512. -/
def rootFraction (n p : Nat) : Nat := rootFrom n 70 (p * 2 ^ (64 * n)) 0 % 2 ^ 64

/-- The primes below `n`. -/
def primesBelow (n : Nat) : List Nat :=
  (List.range n).filter (fun p => decide (2 ≤ p) && (List.range p).all (fun d => decide (d < 2) || p % d != 0))

/-- The 80 round constants: the fractions of the cube roots of the first 80 primes. -/
def shaK : List Nat := (primesBelow 410).map (rootFraction 3)

/-- The initial hash value of SHA-384: the fractions of the square roots of the ninth to the sixteenth prime. -/
def sha384Init : List (BitVec 64) := ((primesBelow 54).drop 8).map (fun p => BitVec.ofNat 64 (rootFraction 2 p))

def shaS0 (x : BitVec 64) : BitVec 64 := x.rotateRight 28 ^^^ x.rotateRight 34 ^^^ x.rotateRight 39
def shaS1 (x : BitVec 64) : BitVec 64 := x.rotateRight 14 ^^^ x.rotateRight 18 ^^^ x.rotateRight 41
def shaM0 (x : BitVec 64) : BitVec 64 := x.rotateRight 1 ^^^ x.rotateRight 8 ^^^ x >>> 7
def shaM1 (x : BitVec 64) : BitVec 64 := x.rotateRight 19 ^^^ x.rotateRight 61 ^^^ x >>> 6

/-- A big-endian number of bytes. -/
def beNat (bs : List Byte) : Nat := bs.foldl (fun n b => 256 * n + b.toNat) 0

/-- The message schedule of a block: 16 words and 64 more. -/
def shaWords (block : List Byte) : List (BitVec 64) :=
  let w0 := (List.range 16).map (fun i => BitVec.ofNat 64 (beNat ((block.drop (8 * i)).take 8)))
  iter 64 (fun i w => w ++ [shaM1 (w.getD (i + 14) 0) + w.getD (i + 9) 0 + shaM0 (w.getD (i + 1) 0) + w.getD i 0]) w0

/-- One round. -/
def shaRound (h : List (BitVec 64)) (k w : BitVec 64) : List (BitVec 64) :=
  let g := fun i => h.getD i 0
  let t1 := g 7 + shaS1 (g 4) + ((g 4 &&& g 5) ^^^ (~~~(g 4) &&& g 6)) + k + w
  let t2 := shaS0 (g 0) + ((g 0 &&& g 1) ^^^ (g 0 &&& g 2) ^^^ (g 1 &&& g 2))
  [t1 + t2, g 0, g 1, g 2, g 3 + t1, g 4, g 5, g 6]

/-- One block of 128 bytes. -/
def shaBlock (h : List (BitVec 64)) (block : List Byte) : List (BitVec 64) :=
  let w := shaWords block
  let r := (shaK.zip w).foldl (fun h e => shaRound h (BitVec.ofNat 64 e.1) e.2) h
  (h.zip r).map (fun e => e.1 + e.2)

/-- Padding to a multiple of 128 bytes. -/
def shaPad (bs : List Byte) : List Byte :=
  let z := (128 - (bs.length + 17) % 128) % 128
  bs ++ [0x80#8] ++ List.replicate z 0 ++ (leBytes 16 (8 * bs.length)).reverse

/-- SHA-384: the 48 bytes of the digest. -/
def sha384 (bs : List Byte) : List Byte :=
  let m := shaPad bs
  let h := iter (m.length / 128) (fun i h => shaBlock h ((m.drop (128 * i)).take 128)) sha384Init
  (h.take 6).flatMap (fun x => (leBytes 8 x.toNat).reverse)

/-! ### ECDSA P-384 -/

/-- The field prime, the order, the coefficient b and the base point. -/
def p384 : Nat := 2 ^ 384 - 2 ^ 128 - 2 ^ 96 + 2 ^ 32 - 1
def n384 : Nat := 0xffffffffffffffffffffffffffffffffffffffffffffffffc7634d81f4372ddf581a0db248b0a77aecec196accc52973
def b384 : Nat := 0xb3312fa7e23ee7e4988e056be3f82d19181d9c6efe8141120314088f5013875ac656398d8a2ed19d2a85c8edd3ec2aef
def gx384 : Nat := 0xaa87ca22be8b05378eb1c71ef320ad746e1d3b628ba79b9859f741e082542a385502f25dbf55296c3a545e3872760ab7
def gy384 : Nat := 0x3617de4a96262c6f5d9e98bf9292dc29f8f41dbd289a147ce9da3113b5f0b8c00a60b1ce1d7e819d7a431d7c90ea0e5f

/-- A power modulo m, for exponents below 2^384. -/
def powMod (m b e : Nat) : Nat :=
  (iter 384 (fun i (r : Nat × Nat) => (if bit e i then r.1 * r.2 % m else r.1, r.2 * r.2 % m)) (1, b % m)).1

/-- An inverse modulo a prime. -/
def invMod (m a : Nat) : Nat := powMod m a (m - 2)

/-- A point of the curve; none is the point at infinity. -/
abbrev EcPoint := Option (Nat × Nat)

def subP (a b : Nat) : Nat := (a + p384 - b % p384) % p384

/-- The line through two points gives their sum. -/
def ecLine (l x1 y1 x2 : Nat) : EcPoint :=
  let x := subP (subP (l * l % p384) x1) x2
  some (x, subP (l * subP x1 x % p384) y1)

/-- The sum of two points of y² = x³ − 3x + b. -/
def ecAdd (a b : EcPoint) : EcPoint :=
  match a, b with
  | none, q => q
  | q, none => q
  | some (x1, y1), some (x2, y2) =>
    if x1 = x2 then
      if (y1 + y2) % p384 = 0 then none
      else ecLine (subP (3 * x1 * x1 % p384) 3 * invMod p384 (2 * y1) % p384) x1 y1 x2
    else ecLine (subP y2 y1 * invMod p384 (subP x2 x1) % p384) x1 y1 x2

/-- A multiple of a point. -/
def ecMul (k : Nat) (p : EcPoint) : EcPoint :=
  (iter 384 (fun i (r : EcPoint × EcPoint) => (if bit k i then ecAdd r.1 r.2 else r.1, ecAdd r.2 r.2)) (none, p)).1

/-- Does a point lie on the curve? -/
def onCurve (x y : Nat) : Bool :=
  decide (x < p384 ∧ y < p384) && y * y % p384 == (subP (x * x * x % p384) (3 * x) + b384) % p384

/-- The verification of a signature (r, s) over a message by the public key (x, y). -/
def ecdsaOk (x y r s : Nat) (msg : List Byte) : Bool :=
  let e := beNat (sha384 msg)
  let w := invMod n384 s
  onCurve x y && decide (0 < r ∧ r < n384 ∧ 0 < s ∧ s < n384) &&
  (match ecAdd (ecMul (e * w % n384) (some (gx384, gy384))) (ecMul (r * w % n384) (some (x, y))) with
    | some (x1, _) => x1 % n384 == r
    | none => false)

end Sys2Proof.Machine
end

