-- ==== Sys2Proof/Machine/Start.lean ====
section
/-! DEFINITION. Staged start: fuses, the bundle and its checks, the green sequence (R22, R27, R35, R384 to R396). -/

namespace Sys2Proof.Machine

/-! ### The configuration record (R384, R385) -/

/-- A section of a record: its type and content. -/
structure Section where
  type : Nat
  body : List Byte
  deriving DecidableEq, Repr, Inhabited

/-- R385: sections run back to back up to the signature; none where one is not well formed. -/
def readSections (fuel : Nat) (bs : List Byte) : Option (List Section) :=
  match fuel, bs with
  | _, [] => some []
  | 0, _ => none
  | k + 1, bs =>
    let n := fieldAt bs 4 4
    if bs.length < 8 ∨ n < 8 ∨ n % 8 ≠ 0 ∨ bs.length < n then none
    else (readSections k (bs.drop n)).map (fun l => { type := fieldAt bs 0 2, body := (bs.drop 8).take (n - 8) } :: l)

/-- The content of a section of a type. -/
def sectionOf (l : List Section) (t : Nat) : Option (List Byte) := (l.find? (fun x => x.type == t)).map (fun x => x.body)

/-- R384, R385: the content of a listed section is long enough and within the ranges of the table (layout: log 59). -/
def recSectionOk (x : Section) : Bool :=
  let b := x.body
  let w := fun o => fieldAt b o 4
  match x.type with
  | 1 => decide (24 ≤ b.length) && (!bit (w 0) 0 || decide (4 ≤ bits (w 0) 1 5 ∧ bits (w 0) 1 5 ≤ 16)) && decide (w 20 ≤ 60)
  | 2 => decide (248 ≤ b.length)
  | 3 => decide (16 ≤ b.length)
  | 4 => decide (8 ≤ b.length ∧ 200 ≤ w 0 ∧ w 0 ≤ 1023)
  | 5 => decide (8 ≤ b.length)
  | 6 => decide (8 + 32 * w 0 ≤ b.length)
  | 7 => decide (8 ≤ b.length ∧ 1 ≤ w 4)
  | 8 => decide (b.length ≤ 256)
  | t => decide (t < 0x8000)

/-- R384, R386: a record's header fields. -/
def recBytes (h : List Byte) : Nat := fieldAt h 8 4
def recImageBytes (h : List Byte) : Nat := fieldAt h 0x10 4
def recImageOffset (h : List Byte) : Nat := fieldAt h 0x14 4

/-- R384: magic, version and sizes. -/
def recHeaderOk (h : List Byte) : Bool :=
  fieldAt h 0 4 == 0x4A434652 && fieldAt h 4 2 == 1 && recBytes h % 8 == 0 && decide (512 ≤ recBytes h ∧ recBytes h ≤ 262144) &&
  decide (recImageBytes h ≤ 8388608 ∧ recBytes h ≤ recImageOffset h) && recImageOffset h % 4096 == 0

/-- R388: the sections of a record that are well formed, a type at most once. -/
def recSections (bs : List Byte) : Option (List Section) :=
  match readSections 32768 ((bs.take (recBytes bs - 96)).drop 256) with
  | some l => if l.all recSectionOk = true ∧ (l.map (fun x => x.type)).Nodup then some l else none
  | none => none

/-- R388: the first check of a bundle that fails, 0 where all pass: the record and image as they stand in the boot store. -/
def bundleCode (s : State) (answered : Bool) (bs image : List Byte) (digest : List Byte) : Code :=
  let key := (bs.drop 0x50).take 96
  let num := fun o => fieldAt bs o 48
  let n := recBytes bs
  if answered = false ∨ recHeaderOk bs = false ∨ recSections bs = none then 0x0909
  else if BitVec.ofNat 384 (leNat (sha384 key)) ≠ (shadowOf s).keyHash then 0x0909
  else if ecdsaOk (num 0x50) (num 0x80) (num (n - 96)) (num (n - 48)) (bs.take (n - 96)) = false then 0x0909
  else if fieldAt bs 0xC 4 < (shadowOf s).minSecurity.toNat then 0x090B
  else if digest ≠ (bs.drop 0x20).take 48 ∨ fieldAt image 0 4 ≠ 0x4A46574D ∨ fieldAt image 8 4 % 8 ≠ 0 ∨ 1835008 < fieldAt image 8 4 ∨
      2097152 ≤ fieldAt image 0xC 4 ∨ recImageBytes bs ≠ 64 + fieldAt image 8 4 + fieldAt image 0x10 4 then 0x090A
  else 0

/-- R385: a partition block of the record. -/
def blockAt (b : List Byte) (o : Nat) : PartBlock :=
  { partition := bits (fieldAt b o 4) 0 6, coreMask := BitVec.ofNat 64 (fieldAt b (o + 8) 8), luMask := BitVec.ofNat 80 (fieldAt b (o + 0x10) 10),
    sliceUnits := fieldAt b (o + 0x1A) 2, slowThr := fieldAt b (o + 0x1C) 2 }

/-- R385: coordinates, or none. -/
def coordAt (b : List Byte) (o : Nat) : Option Coord := if fieldAt b o 2 = 0xFFFF then none else some (unpackCoord (fieldAt b o 2))

/-- R384, R385: the values that an accepted record and image bring. -/
def recordOf (bs image : List Byte) (l : List Section) : ConfigRecord :=
  let sec := fun t => (sectionOf l t).getD []
  let topo := sec 1
  let place := fieldAt topo 4 4
  let plan := sec 3
  { present := true
    domainMember := bit (fieldAt topo 0 4) 0
    skip := if topo.isEmpty then 8 else bits (fieldAt topo 0 4) 1 5
    coord := unpackCoord (bits place 0 16)
    extent := { x := bits place 16 6 + 1, y := bits place 22 5 + 1, z := bits place 27 5 + 1 }
    ranks := if topo.isEmpty then [] else (List.range 4).map (fun k => coordAt topo (8 + 2 * k))
    tpulseEn := bit (fieldAt topo 16 4) 0
    pulseP := max 1 (fieldAt topo 20 4)
    allowed := BitVec.ofNat 60 (fieldAt (sec 2) 0 8)
    expected := (List.range 60).filterMap (fun q => (coordAt (sec 2) (8 + 4 * q)).map (fun c => (q, c, fieldAt (sec 2) (10 + 4 * q) 2)))
    domainOff := BitVec.ofNat 40 (fieldAt plan 0 8)
    ramp := if fieldAt plan 8 4 = 0 then 10000 else fieldAt plan 8 4
    partitions := (List.range (fieldAt (sec 6) 0 4)).map (fun i => blockAt (sec 6) (8 + 32 * i))
    repairs := (List.range ((sec 8).length / 4)).map (fun i => BitVec.ofNat 32 (fieldAt (sec 8) (4 * i) 4))
    recordBytes := recBytes bs
    securityVersion := fieldAt bs 0xC 4
    fwVersion := fieldAt image 4 4
    imageOffset := 262144
    entry := fieldAt image 0xC 4
    residentBytes := fieldAt image 8 4
    bulkBytes := fieldAt image 0x10 4 }

/-- R218: the hop bound of a ring, with the express skip where express ports exist. -/
def ringHops (n skip : Nat) (express : Bool) : Nat := if express && decide (2 * skip < n) then cdiv n (2 * skip) + skip / 2 else n / 2

/-- R218: the domain diameter. -/
def diameter (s : State) (r : ConfigRecord) : Nat :=
  let h := fun n => ringHops n r.skip (variantOf s == .jujorL)
  h r.extent.x + h r.extent.y + h r.extent.z

/-- R191, R218, R388: the record's values are written to their registers. -/
def useRecord (s : State) (bs image : List Byte) (l : List Section) : State :=
  let r := recordOf bs image l
  let s : State := { s with start.record := r }
  let d := if domainMember s then diameter s r else 0
  let s := setF (setF (setF s tbDomainB (105 * d)) tbDiameter d) tbAlign (if domainMember s then cdiv (d + 1) 10 else 0)
  let s := setF s bcRecordCeiling (match sectionOf l 4 with | some b => fieldAt b 0 4 | none => (shadowOf s).powerCeiling)
  let s := setF s bcPolicy (match sectionOf l 5 with | some b => bits (fieldAt b 0 4) 0 3 | none => 0)
  let s := match sectionOf l 7 with
    | some b => setF (setF s bcFwFirstPage (fieldAt b 0 4)) bcFwPages (fieldAt b 4 4)
    | none => setF (setF s bcFwFirstPage 0) bcFwPages 0
  setF (setF (setF s bcRecordBytes r.recordBytes) bcSecurityVersion r.securityVersion) bcFwVersion r.fwVersion

/-- R374: a processor starts at its entry. -/
def cpStart (s : State) (n : Nat) : State :=
  let s := setF (setF s ccHold (setBits (getF s ccHold) n 1 0)) ccRunning (setBits (getF s ccRunning) n 1 1)
  { s with ctrl.restarts := mset s.ctrl.restarts n (mget s.ctrl.restarts n + 1), ctrl.kicked := mset s.ctrl.kicked n (now s) }

/-- R374: a processor goes into reset. -/
def cpStop (s : State) (n : Nat) : State := setF (setF s ccHold (setBits (getF s ccHold) n 1 1)) ccRunning (setBits (getF s ccRunning) n 1 0)

/-- R386, R388: the accepted image: its resident segment at control SRAM 0, CP0 jumps to its entry. -/
def runImage (s : State) (image : List Byte) : State :=
  let r := s.start.record
  let s : State := { s with mem.ctrlSram := wrBytes s.mem.ctrlSram 0 ((image.drop 64).take r.residentBytes),
                            ctrl.entry := (List.range 4).foldl (fun m n => mset m n r.entry) s.ctrl.entry, ctrl.imageRuns := true }
  cpStart (setF s ccRomMode 0) 0

/-- R27, R49: below state 6 every stack is in reset and every transmitter idle; what trained before trains again. -/
def quietPorts (s : State) : State :=
  let s := each ((List.range 60).filter (fun q => (portOf s q).up)) (fun q s => updPort s q (fun x => { x with up := false })) s
  { setF s tbUpstream 0x3F with bound.lkTxEn := 0, bound.spRstN := 0, bound.spTrainStart := 0, bound.stackUp := 0, bound.stackLost := 0 }

/-- R388, R390: start awaits an image. -/
def awaitImage (s : State) (code : Code) : State := setF (setF (quietPorts s) bcCode code.toNat) bcState 4

/-- R388: a bundle whose checks have the code given: it is accepted, or start awaits an image. -/
def judgeBundle (s : State) (code : Code) (bs image : List Byte) : State :=
  match code == 0, recSections bs with
  | true, some l => capRewrite (setF (runImage (useRecord s bs image l) image) bcState 5)
  | _, _ => awaitImage s code

/-! ### Amber stage (R387 to R390, R394) -/

/-- R394: the fuse shadows, and the registers that they give. -/
def loadFuses (s : State) : State :=
  let f := s.start.fuses
  let s : State := { s with start.shadow := some f }
  each (f.mfRepair.filter (fun e => decide (e.1 < variantCores f.variant))) (fun e s => putWord s (0x800100 + 4 * e.1) 0 e.2) s

/-- R374, R390: amber stage begins, and CP0 is released at the boot ROM entry. -/
def enterAmber (s : State) : State :=
  let s : State := { s with bound.stage := 1, bound.hostAnswers := true, bound.flCsN := false, bound.flResetN := true }
  cpStart (setF s bcState 2) 0

/-- R394: FUSE_LOAD. -/
def execFuseLoad (s : State) : Res := .next (if getF s bcState = 1 then enterAmber (loadFuses s) else s)

/-- A copy of bytes of one memory into another. -/
def copyCells (src : List Host.Cell) (lo n : Nat) (dst : List Host.Cell) (at' : Nat) : List Host.Cell :=
  (src.filter (fun c => decide (lo ≤ c.1 ∧ c.1 < lo + n))).foldl (fun m c => wr8 m (c.1 - lo + at') c.2) (clearBytes dst at' n)

/-- R387: the record at byte 0 of the boot store, the image at byte 262,144 (log 60). -/
def bundleFrom (s : State) (src : List Host.Cell) (rec0 recN img0 imgN : Nat) : State :=
  let store := copyCells src rec0 (min recN 262144) s.mem.bootStore 0
  { s with mem.bootStore := copyCells src img0 (min imgN 8388608) store 262144,
           start.imageDigest := BitVec.ofNat 384 (leNat (sha384 (rdBytes src img0 (min imgN 8388608)))) }

/-- R30: the read command of the strapped profile: 4-byte-address Read 0x13 in 1S-1S-1S at TCLK / 4, or octal DTR Read 0xEE in
8D-8D-8D at TCLK / 2 with 20 dummy cycles, captured on fl_dqs. -/
def flashCommandOf (s : State) : State :=
  if getF s bcFlOctal = 1 then
    { s with bound.flOpcode := 0xEE, bound.flLanes := 8, bound.flDtr := true, bound.flSckDiv := 2, bound.flDummy := 20 }
  else { s with bound.flOpcode := 0x13, bound.flLanes := 1, bound.flDtr := false, bound.flSckDiv := 4, bound.flDummy := 0 }

/-- R30, R387: FLASH_READ. -/
def execFlashRead (answered : Bool) (s : State) : Res :=
  .next (if getF s bcState = 2 then
    let s := flashCommandOf s
    let h := rdBytes s.mem.flash 0 256
    let s := if answered then bundleFrom s s.mem.flash 0 (recBytes h) (recImageOffset h) (recImageBytes h) else s
    setF { s with start.flashAnswered := answered, bound.flCsN := true } bcState 3
  else s)

/-- The record and the image in the boot store. -/
def storedRecord (s : State) : List Byte := rdBytes s.mem.bootStore 0 (min 262144 (max 256 (recBytes (rdBytes s.mem.bootStore 0 256))))
def storedImage (s : State) : List Byte := rdBytes s.mem.bootStore 262144 (min 8388608 (recImageBytes (rdBytes s.mem.bootStore 0 256)))

/-- R388: the checks of the bundle in the boot store. -/
def verifyStore (s : State) (answered : Bool) : Code × State :=
  let bs := storedRecord s
  let image := storedImage s
  let code := bundleCode s answered bs image (leBytes 48 s.start.imageDigest.toNat)
  (code, judgeBundle s code bs image)

/-- R388, R391: VERIFY: the boot lock is set on leaving state 3. -/
def execVerify (s : State) : Res :=
  .next (if getF s bcState = 3 then (verifyStore (setF s bcBootLock 1) s.start.flashAnswered).2 else s)

/-! ### The green sequence (R22, R390 to R392) -/

/-- The units of start that are still to be waited for. -/
def stacksWait (s : State) : Bool :=
  (List.range 20).any (fun t => stackPresent s t && !bit s.bound.stackUp.toNat t && !bit s.bound.stackLost.toNat t)
def portsWait (s : State) : Bool :=
  (List.range 60).any (fun q => portPresent s q && bit s.start.record.allowed.toNat q && !(portOf s q).up && !(portOf s q).out)

/-- R392: time sync is passed at once without membership; a master locks as it sends markers. -/
def enterSync (s : State) : State :=
  let s := setF s bcState 9
  if domainMember s = false then setF s bcState 10
  else if ownRank s = some 0 then setF (becomeMaster s 0) bcState 10
  else syncReached s

/-- R390, R392: a state whose units are all done ends. -/
def advanceStart (s : State) : State :=
  if getF s bcState = 6 then (if stacksWait s then s else setF s bcState 7)
  else if getF s bcState = 8 then (if portsWait s then s else enterSync s) else s

/-- R374, R390: FIRMWARE_START: CP1 to CP3 are released and every stack port begins to train. -/
def execFirmwareStart (s : State) : Res :=
  .next (if getF s bcState = 5 then
    let m := BitVec.ofNat 20 (maskOf 20 (stackPresent s))
    let s := cpStart (cpStart (cpStart s 1) 2) 3
    advanceStart (setF { s with bound.spRstN := m, bound.spTrainStart := m } bcState 6)
  else s)

/-- Is a stack being trained? -/
def stackTrains (s : State) (t : Nat) : Bool :=
  getF s bcState == 6 && bit s.bound.spTrainStart.toNat t && !bit s.bound.stackUp.toNat t && !bit s.bound.stackLost.toNat t

/-- R22: HBM_TRAIN_DONE. -/
def execHbmTrainDone (stack : Nat) (cfg : W32) (s : State) : Res :=
  if 20 ≤ stack then .fault .noSuchUnit
  else .next (if stackTrains s stack then
    advanceStart { s with bound.stackUp := s.bound.stackUp ||| (1#20 <<< stack), bound.spCfg := mset s.bound.spCfg stack cfg }
  else s)

/-- R22: HBM_TRAIN_FAIL. -/
def execHbmTrainFail (stack : Nat) (s : State) : Res :=
  if 20 ≤ stack then .fault .noSuchUnit
  else .next (if stackTrains s stack then advanceStart { s with bound.stackLost := s.bound.stackLost ||| (1#20 <<< stack) } else s)

/-! ### BIST and repair (R395, R396) -/

/-- A unit is marked out in start: the capability table shows it when it is next rewritten. -/
def outCore (s : State) (c : Nat) : State := if c < variantCores (variantOf s) then setF64 s mfOutLo (setBits (getF64 s mfOutLo) c 1 1) else s
def outLane (s : State) (l : Nat) : State :=
  if 2560 ≤ l ∨ s.emb.lanesOut.contains l then s
  else
    let both := s.emb.lanesOut.contains (l ^^^ 1) && !s.emb.laneUnitsOut.contains (l / 32)
    { s with emb.lanesOut := s.emb.lanesOut ++ [l], emb.laneUnitsOut := if both then s.emb.laneUnitsOut ++ [l / 32] else s.emb.laneUnitsOut }
def outPort (s : State) (q : Nat) : State :=
  if q < 60 then updPort s q (fun x => { x with up := false, out := true, linkOut := true }) else s

/-- R396: an array spare. -/
def applyArray (s : State) (w : Nat) : State :=
  let c := repairCore w
  let a := repairArray w = 0
  if variantCores (variantOf s) ≤ c then s
  else
  let s := setF s (if a then mfASoft else mfBSoft) 1 c
  if repairKind w = 1 then setF (setF s (if a then mfARowEn else mfBRowEn) 1 c) (if a then mfARow else mfBRow) (repairRow w) c
  else setF (setF s (if a then mfAColEn else mfBColEn) 1 c) (if a then mfACol else mfBCol) (repairRow w) c

/-- R396: lane spares in use in a lane's stack group. -/
def laneSpares (s : State) (l : Nat) : Nat := mget (shadowOf s).sparesUsed (l / 128)

/-- R396: the entry that goes into the map for an entry of a source: a spare that is not to be had, or a map that is full,
makes it core out or lane out. -/
def mapEntry (s : State) (w : Nat) (full : Bool) : Nat :=
  match repairKind w with
  | 1 | 2 => if full || spareUsed s (repairCore w) (repairArray w) (repairKind w) then 4 + repairCore w * 16 else w
  | 3 => if full || decide (4 ≤ laneSpares s (repairLane w)) then 5 + repairLane w * 2 ^ 16 else w
  | _ => w

/-- R395, R396: an entry of the map takes effect. -/
def applyRepair (s : State) (w : Nat) : State :=
  match repairKind w with
  | 1 | 2 => applyArray s w
  | 3 =>
    let f := shadowOf s
    let g := repairLane w / 128
    { s with start.shadow := some { f with sparesUsed := mset f.sparesUsed g (mget f.sparesUsed g + 1) } }
  | 4 => outCore s (repairCore w)
  | 5 => outLane s (repairLane w)
  | 6 => outPort s (repairCore w)
  | _ => s

/-- R396: one entry of a source: one that repeats an entry present, and an empty or reserved one, is skipped. -/
def addRepair (w : Nat) (s : State) : State :=
  let used := s.start.repairsUsed.length
  let skip := fun (v : Nat) => s.start.repairsUsed.contains (BitVec.ofNat 32 v)
  if repairKind w = 0 ∨ 6 < repairKind w ∨ skip w = true then s
  else
    let v := mapEntry s w (decide (128 ≤ used))
    if skip v then s
    else
      let s := applyRepair s v
      if used < 128 then setF { s with start.repairsUsed := s.start.repairsUsed ++ [BitVec.ofNat 32 v] } bcEntry400 v used else s

/-- R396: the sources of the map, in order. -/
def repairSources (s : State) (faults : List W32) : List Nat :=
  s.start.record.repairs.map (fun w => w.toNat) ++ (List.range 64).map (fun i => getF s bcEntry600 i) ++ faults.map (fun w => w.toNat)

/-- R27: the ports whose transmitters link training turns on. -/
def txPorts (s : State) : BitVec 60 :=
  BitVec.ofNat 60 (maskOf 60 (fun q => portPresent s q && bit s.start.record.allowed.toNat q && !(portOf s q).out))

/-- R27, R46, R391: leaving state 7: the repair lock, the wrapper in BYPASS, the transmitters of allowed ports on. -/
def leaveBist (s : State) : State :=
  let s : State := { setF s bcRepairLock 1 with bound.wir := 0, bound.bypassForced := true, bound.lkTxEn := txPorts s, links.retryAt := now s }
  advanceStart (setF s bcState 8)

/-- R392, R396: BIST_AND_REPAIR. -/
def execBistAndRepair (faults : List W32) (s : State) : Res :=
  .next (if getF s bcState = 7 then leaveBist (each (repairSources s faults) addRepair s) else s)

/-! ### Link training (R27, R35, R212, R385, R392) -/

/-- R27, R392: a port that trains: allowed, present, not out, down, with its transmitter on. -/
def portTrains (s : State) (q : Nat) : Bool :=
  decide (8 ≤ getF s bcState ∧ getF s bcState ≤ 11) && portPresent s q && bit s.bound.lkTxEn.toNat q && !(portOf s q).up && !(portOf s q).out

/-- R385: does a port's training find a peer other than the expected one? -/
def wrongPeer (s : State) (q : Nat) (peer : Coord) (peerPort : Nat) : Bool :=
  match mfind s.start.record.expected q with
  | some e => e != (peer, peerPort)
  | none => false

/-- R189: the one-way delay: half the round trip, averaged over the 16 echo exchanges, in sixteenths of a tick rounded down; an
exchange not given took no time (log 153). -/
def oneWay (echoes : List Nat) : Nat := (echoes.take 16).sum / 32

/-- R35, R189, R212: the measurements of a port's training. -/
def measurePort (s : State) (q flight : Nat) (echoes : List Nat) (peer : Coord) (peerPort : Nat) : State :=
  let s := updPort s q (fun x => { x with flight := flight % 256, overBudget := decide (14 < flight), overOffset := false, peer := some (peer, peerPort) })
  { s with time.ports := mset s.time.ports q { delay := oneWay echoes } }

/-- R385: a port with the wrong peer is marked out; after start as any port is (R415). -/
def refusePeer (s : State) (q : Nat) : State :=
  if getF s bcState = 11 then markPortOut s q else advanceStart (updPort s q (fun x => { x with out := true }))

/-- R392: LINK_TRAINING. -/
def execLinkTraining (port flight : Nat) (echoes : List Nat) (peer : Coord) (peerPort : Nat) (s : State) : Res :=
  if 60 ≤ port then .fault .noSuchUnit
  else .next (if portTrains s port then
    let s := measurePort s port flight echoes peer peerPort
    if wrongPeer s port peer peerPort then refusePeer s port else s
  else s)

/-- R214, R225, R392: a port comes up: its sequences begin anew, and waiting packets find it. -/
def portUp (s : State) (q : Nat) : State :=
  let s := updPort s q (fun x => { x with up := true, out := false, txSeq := 0, rxSeq := 0, retry := [], rxPart := [], nak := false, timedRx := [], ctlQ := [], txBusy := [], rxTick := none })
  let s := if 8 < getF s bcState then capChange s [] else s
  beAgain (advanceStart s) (fun _ => false)

/-- R392: LINK_PORT_UP. -/
def execLinkPortUp (port flight : Nat) (echoes : List Nat) (peer : Coord) (peerPort : Nat) (s : State) : Res :=
  if 60 ≤ port then .fault .noSuchUnit
  else .next (if portTrains s port then
    let s := measurePort s port flight echoes peer peerPort
    if wrongPeer s port peer peerPort then refusePeer s port else portUp s port
  else s)

/-- R392: LINK_RETRY: every 10 s the ports still untrained train again. -/
def execLinkRetry (s : State) : Res :=
  .next (if 8 ≤ getF s bcState ∧ getF s bcState ≤ 11 ∧ portsWait s = true ∧ s.links.retryAt + 7000000000 ≤ now s then
    { s with links.retryAt := now s }
  else s)

/-- R392, R407: SYNC_WAIT_EVENT. -/
def execSyncWaitEvent (s : State) : Res := .next (if getF s bcState = 9 then healthEvent s { source := 11 } else s)

/-! ### The load state and its limits (R390, R392, R393) -/

/-- R385, R386: the bulk segment goes to the firmware pages. -/
def loadBulk (s : State) : State :=
  let r := s.start.record
  { s with mem.hbm := copyCells s.mem.bootStore (r.imageOffset + 64 + r.residentBytes) r.bulkBytes s.mem.hbm (getF s bcFwFirstPage * 2 ^ 25) }

/-- R308, R392: the record's partitions; a block whose masks are refused is skipped. -/
def defaultPartitions (s : State) : State :=
  each s.start.record.partitions (fun b s =>
    if (partOf s b.partition).state = .absent ∧ masksOk s b = true then setMasks (putPart s b.partition { state := .active }) b else s) s

/-- R392, R399: green: the table is rewritten once and the boot store powers down. -/
def enterGreen (s : State) : State :=
  let s := capRewrite (defaultPartitions (loadBulk s))
  let s := setF (setF s bcState 11) bcGreenMs ((now s - s.start.startTick) / 700000)
  { s with bound.stage := 2, mem.bootStore := [] }

/-- R390, R392: LOAD_STATE. -/
def execLoadState (ok : Bool) (s : State) : Res :=
  .next (if getF s bcState = 10 then (if ok then enterGreen s else awaitImage s 0x090A) else s)

/-- R390: the state's limit passes: stacks are lost, units untested are marked out, ports stay down, a load has failed. -/
def limitPassed (s : State) : State :=
  match getF s bcState with
  | 6 =>
    let m := BitVec.ofNat 20 (maskOf 20 (fun t => stackPresent s t && !bit s.bound.stackUp.toNat t))
    advanceStart { s with bound.stackLost := s.bound.stackLost ||| m }
  | 7 =>
    let s := each ((List.range 64).filter (corePresent s)) (fun c s => outCore s c) s
    let s := each ((List.range 2560).filter (fun l => stackPresent s (l / 128))) (fun l s => outLane s l) s
    leaveBist (each ((List.range 60).filter (portPresent s)) (fun q s => outPort s q) s)
  | 8 => enterSync s
  | 10 => awaitImage s 0x090A
  | _ => s

/-- R390: START_STATE_LIMIT. -/
def execStartStateLimit (s : State) : Res := .next (limitPassed s)

/-- R393: START_HELD. -/
def execStartHeld (s : State) : Res :=
  let n := getF s bcState
  .next (if s.bound.pwr ≠ 0 ∧ 1 ≤ n ∧ n ≤ 10 then setF { s with start.resume := n } bcState 12 else s)

end Sys2Proof.Machine
end

