-- ==== Sys2Proof/Machine/Sideband.lean ====
section
/-! DEFINITION. The sideband: resets and clock loss (R33, R37 to R39, R47, R48), power budget and power state (R40, R41),
thermal alarm (R42, R43, R420), time pulse (R44, R45, R196), test wrapper (R46), refresh (R25, R26), powered-down domains (R20). -/

namespace Sys2Proof.Machine

/-! ### Resets (R37 to R39, R47, R48) -/

/-- R37: everything in its reset state, but what lies outside the block: the waiting commands, host memory, the flash, the
fuses, and what the block has sent. -/
def outsideOf (s : State) : State :=
  let z := State.reset
  { z with pending := s.pending, freeCount := s.freeCount, mem.host := s.mem.host, mem.flash := s.mem.flash, start.fuses := s.start.fuses,
           bound.msixOut := s.bound.msixOut, time.ctlOut := s.time.ctlOut, time.forwarded := s.time.forwarded, links.flitsOut := s.links.flitsOut,
           reply := s.reply }

/-- R48: is the face of absence entered, and how often has it been? -/
def absentNow (s : State) : Nat := s.bound.absentCompletions + b2n (decide (s.bound.stage ≠ 0))

/-- R50: the pins that a reset does not move: the power request, the alarm, which then stands at level 1. -/
def followPins (s old : State) : State :=
  let a := old.bound.thermActive
  let s : State := { s with bound.pwr := old.bound.pwr, bound.fetchStopped := decide (2 ≤ old.bound.pwr), bound.prepareOff := decide (2 ≤ old.bound.pwr),
                            bound.thermActive := a, bound.thermGate := if a then 4 else 0, bound.absentCompletions := absentNow old }
  setF (setF (setF (setF s bcPwrState old.bound.pwr) bcPwrAck (if old.bound.pwr = 1 then 1 else 0)) bcThermAlarm (b2n a)) hpLevel (b2n a)

/-- R37, R39: COLD_RESET, also where power has come back (R41). -/
def execColdReset (s : State) : Res := .next (followPins (outsideOf s) s)

/-- R37, R50, R390: COLD_RESET_RELEASE. -/
def execColdResetRelease (octal testEn : Bool) (s : State) : Res :=
  .next (if s.bound.powered && s.bound.porLow then
    let s : State := { s with bound.porLow := false, start.startTick := now s }
    setF (setF (setF s bcFlOctal (b2n octal)) bcTestEn (b2n testEn)) bcState 1
  else s)

/-- R38: a register of the always-on health and power domain. -/
def alwaysOn (a : Nat) : Bool :=
  decide (0x1800000 ≤ a ∧ a < 0x1C00000) || decide (0x1C00600 ≤ a ∧ a < 0x1C00700) || decide (0x1C01000 ≤ a ∧ a < 0x1C01018)

/-- R242: the object table over a warm reset: every object is gone, and its index counts as released in it, lowest first; its
generation stays, one higher where the object was not yet freed (log 152). -/
def objectsGone (s : State) : State :=
  let after := s.front.objs.map (fun e => (e.1, e.2.allocated, e.2.gen + b2n (e.2.allocated && !e.2.freed)))
  let live := after.filter (fun e => e.2.1)
  let a := s.front.objAlloc
  { s with front.objs := (after.filter (fun e => e.2.2 != 0)).map (fun e => (e.1, { gen := e.2.2 })),
           front.objAlloc := { a with released := a.released ++ sortNat ((live.filter (fun e => decide (e.2.2 ≤ 0xFFFFFF))).map (·.1)),
                                      retired := a.retired + (live.filter (fun e => decide (0xFFFFFF < e.2.2))).length } }

/-- R251: the fence IDs over a warm reset: those in use count as released in it, lowest first (log 152). -/
def fencesGone (s : State) : State :=
  let live := sortNat ((s.front.fences.filter (fun e => e.2.state != .free)).map (·.1))
  { s with front.fences := [], front.fenceAlloc := { s.front.fenceAlloc with released := s.front.fenceAlloc.released ++ live } }

/-- R38: every domain but the always-on health and power domain and the tick counter is reset; the stacks keep their bytes
(R47). Indices and IDs of objects and fences stay used and retired until cold reset (R242, R251). That
tpulse_holdover and the last accepted edge of tpulse are kept is the model's choice (log 150). -/
def warmState (s : State) : State :=
  let z := outsideOf s
  let g := fencesGone (objectsGone s)
  let b : Boundary := { z.bound with
    powered := s.bound.powered, porLow := false, absentCompletions := absentNow s, budgetPending := s.bound.budgetPending,
    budgetApplied := s.bound.budgetApplied, thermActive := s.bound.thermActive, thermGate := s.bound.thermGate, lastTpulse := s.bound.lastTpulse, bypassForced := s.bound.bypassForced,
    pwr := s.bound.pwr, fetchStopped := decide (2 ≤ s.bound.pwr), prepareOff := decide (2 ≤ s.bound.pwr) }
  let h : Health := { s.health with digest := none, ashRunning := [] }
  { z with regs := s.regs.filter (fun e => alwaysOn e.1), mem.hbm := s.mem.hbm, bound := b, time.tick := s.time.tick,
           time.sinceAdjust := s.time.sinceAdjust, health := h, front.capGen := s.front.capGen,
           front.objs := g.front.objs, front.objAlloc := g.front.objAlloc, front.fenceAlloc := g.front.fenceAlloc }

/-- R38: WARM_RESET: the generation rises (R264), the fuse shadows are loaded again, and the block stays in reset. -/
def execWarmReset (s : State) : Res :=
  .next (if s.bound.powered && !s.bound.porLow && !s.bound.warmHeld then
    let w := warmState s
    loadFuses { setF (setF w hpGo21C 0) bcPwrAck (if s.bound.pwr = 1 then 1 else 0) with
      bound.warmHeld := true, front.capGen := (s.front.capGen + 1) % 2 ^ 32 }
  else s)

/-- R38: WARM_RESET_SHORT. -/
def execWarmResetShort (s : State) : Res :=
  .next (if s.bound.powered && !s.bound.porLow && !s.bound.warmHeld then addF s bcWrstShort else s)

/-- R38, R39: WARM_RESET_RELEASE: staged start is repeated from amber. A clock lost while the reset was held still needs a reset
of its own (R33). -/
def execWarmResetRelease (s : State) : Res :=
  .next (if s.bound.warmHeld then
    let s : State := { s with bound.warmHeld := false, start.startTick := now s }
    if s.bound.clockLost then s else enterAmber s
  else s)

/-- R33: CLOCK_LOSS: every domain but the always-on ones stops until the next reset; what they held is not seen again (log
61). While a warm reset is held those domains hold nothing, and the loss is recorded. -/
def execClockLoss (s : State) : Res :=
  .next (if s.bound.warmHeld then setF { s with bound.clockLost := true } bcRootClkLost 1
  else if s.bound.powered && !s.bound.porLow && !s.bound.clockLost then
    let w := warmState s
    setF { w with bound.clockLost := true, start.fuses := s.start.fuses, start.shadow := s.start.shadow } bcRootClkLost 1
  else s)

/-- R41: POWER_REMOVED: nothing on the block survives. -/
def execPowerRemoved (s : State) : Res :=
  .next { outsideOf s with bound.powered := false, bound.alive := false, bound.absentCompletions := absentNow s, freeCount := s.freeCount }

/-! ### Power budget and power state (R40, R41) -/

/-- The always-on domains see their inputs. -/
def sideOn (s : State) : Bool := s.bound.powered && !s.bound.porLow

/-- R40: POWER_BUDGET_CAPTURE. -/
def execPowerBudgetCapture (watts : BitVec 10) (s : State) : Res :=
  .next (if sideOn s then { setF s bcCapturedW watts.toNat with bound.budgetPending := true } else s)

/-- R40, R50: the qualified request and what is acknowledged. -/
def putPwr (s : State) (pwr ack : Nat) : State := setF (setF { s with bound.pwr := pwr } bcPwrState pwr) bcPwrAck ack

/-- R41: a return from hold or prepare-off: fetch resumes, transmitters that prepare-off idled are on again, and start goes on
at the beginning of the state interrupted (R393). -/
def resumeRun (s : State) (pwr : Nat) : State :=
  let s : State := { putPwr s pwr pwr with bound.fetchStopped := false, bound.prepareOff := false }
  let s := if getF s bcState = 12 ∧ pwr = 0 then setF s bcState s.start.resume else s
  if 8 ≤ getF s bcState ∧ getF s bcState ≤ 11 then { s with bound.lkTxEn := txPorts s } else s

/-- R41: PWR_STATE_RUN: once off has been acknowledged the block does not return. -/
def execPwrStateRun (s : State) : Res := .next (if sideOn s && getF s bcPwrAck != 3 then resumeRun s 0 else s)
/-- R40: PWR_STATE_HOLD. -/
def execPwrStateHold (s : State) : Res := .next (if sideOn s && getF s bcPwrAck != 3 then resumeRun s 1 else s)

/-- R40: the shutdown sequence begins. -/
def startPrepare (s : State) (pwr : Nat) : State :=
  { putPwr s pwr (getF s bcPwrAck) with bound.fetchStopped := true, bound.prepareOff := true }

/-- R40: PWR_STATE_PREPARE_OFF. -/
def execPwrStatePrepareOff (s : State) : Res := .next (if sideOn s && getF s bcPwrAck != 3 then startPrepare s 2 else s)

/-- R40, R382: off is acknowledged: no new action, and the control complex is without power. -/
def reachOff (s : State) : State := { putPwr s 3 3 with bound.noAction := true, ctrl.powered := false }

/-- R40: PWR_STATE_OFF: acknowledged once 0b10 has been; until then the shutdown sequence runs (log 62). -/
def execPwrStateOff (s : State) : Res :=
  .next (if sideOn s && getF s bcPwrAck != 3 then (if getF s bcPwrAck = 2 then reachOff s else startPrepare s 3) else s)

/-- R27, R40: every link port goes to electrical idle. -/
def idleLinks (s : State) : State :=
  let s := each ((List.range 60).filter (fun q => (portOf s q).up)) (fun q s => updPort s q (fun x => { x with up := false })) s
  { setF s tbUpstream 0x3F with bound.lkTxEn := 0 }

/-- R40, R262: PREPARE_OFF_DONE: running steps have ended; the local contexts are force-aborted with 0x0804. -/
def execPrepareOffDone (s : State) : Res :=
  .next (if s.bound.prepareOff && s.steps.running.isEmpty && decide (getF s bcPwrAck < 2) then
    let l := (s.front.ctxs.filter (fun c => c.2.state != .free && c.2.state != .destroying && !c.2.group)).map (·.1)
    let s := idleLinks (each l (fun n s => forceAbort s n 0x0804 none) s)
    if s.bound.pwr = 3 then reachOff s else putPwr s s.bound.pwr 2
  else s)

/-! ### Thermal alarm (R42, R43, R420) -/

/-- R420: the gated ticks of every 8 at a level. -/
def thermGateOf (level : Nat) : Nat := match level with | 0 => 0 | 1 => 4 | 2 => 6 | _ => 7

/-- R42, R43: a level, with its event. -/
def thermLevel (s : State) (level : Nat) : State :=
  healthEvent (setF { s with bound.thermGate := thermGateOf level } hpLevel level) { source := 8, value := level }

/-- R42, R43: THERMAL_ALARM: every fall is counted; one while the throttle is held changes nothing else. -/
def execThermalAlarm (s : State) : Res :=
  .next (if sideOn s then
    let s := addF s bcThermFalls
    if s.bound.thermActive then s else thermLevel (setF { s with bound.thermActive := true } bcThermAlarm 1) 1
  else s)

/-- R43, R420: THERMAL_REAISE. -/
def execThermalReaise (s : State) : Res :=
  .next (if sideOn s && s.bound.thermActive then thermLevel s (min 3 (getF s hpLevel + 1)) else s)

/-- R43, R420: THERMAL_RELEASE. -/
def execThermalRelease (s : State) : Res :=
  .next (if sideOn s && s.bound.thermActive then
    setF (setF { s with bound.thermActive := false, bound.thermGate := 0 } bcThermAlarm 0) hpLevel 0
  else s)

/-! ### Time pulse (R44, R45, R196) -/

/-- R196: ticks between accepted edges of the pulse. -/
def pulseTicks (s : State) : Nat := 700000000 * max 1 s.start.record.pulseP

/-- R196: how far the counter stands past the nearest multiple of the pulse's ticks. -/
def pulsePhase (s : State) : Int :=
  let m := pulseTicks s
  let x := now s % m
  if 2 * x ≤ m then x else (x : Int) - m

/-- R196: by how many ticks the interval since the last accepted edge is longer than a whole number of periods. -/
def pulseDrift (s : State) (t : Nat) : Int :=
  let m := pulseTicks s
  let n := max 1 ((now s - t + m / 2) / m)
  ((now s - t : Nat) - (n * m : Nat) : Int)

/-- R196: the frequency to which the master steers at an accepted edge: one that takes away the drift since the last edge, and the
phase over the next period (DESIGN CHOICE, log 8). -/
def pulseSteer (s : State) : State :=
  let m : Int := pulseTicks s
  let drift : Int := match s.time.pulseTick with | some t => pulseDrift s t | none => 0
  let s' : State := { s with time.pulseTick := some (now s) }
  if getF s tbMaster = 1 then { s' with time.steer := s.time.freq - (drift + pulsePhase s) * servoTick / m } else s'

/-- R44, R45, R196: an accepted edge. -/
def acceptPulse (tclk : Nat) (s : State) : State := pulseSteer (setF { s with bound.lastTpulse := some tclk } bcTpulseHoldover 0)

/-- R44: TPULSE_EDGE, at a TCLK cycle. -/
def execTpulseEdge (widthOk : Bool) (tclk : Nat) (s : State) : Res :=
  .next (if sideOn s && s.start.record.tpulseEn && widthOk then
    match s.bound.lastTpulse with
    | some t => if tclk < t + 50000000 then addF s bcTpulseIgnored else acceptPulse tclk s
    | none => acceptPulse tclk s
  else s)

/-- R45, R196: TPULSE_HOLDOVER: a master goes on at its last steered frequency. -/
def execTpulseHoldover (s : State) : Res :=
  .next (if sideOn s && s.start.record.tpulseEn then
    setF { s with time.steer := s.time.freq, time.pulseTick := none } bcTpulseHoldover 1
  else s)

/-! ### Refresh (R25, R26) -/

/-- R182: a refresh window: its tick offset from the launch, its length, its stack group and its pseudo-channels. -/
structure RefWindow where
  start : Nat
  ticks : Nat
  group : Nat
  mask : BitVec 64
  deriving DecidableEq, Repr, Inhabited

/-- R25, R182: a window of the running step's refresh-window table. -/
def refreshEntry (s : State) (p index : Nat) : Option RefWindow :=
  match runOf s p with
  | none => none
  | some r =>
    let (m, e) := runEntry s p r
    if e.refN ≤ index then none
    else
      let w := fieldAt m (e.refOff + 16 * index) 8
      let g := bits w 48 5
      if 20 ≤ g then none
      else some { start := bits w 0 32, ticks := bits w 32 16, group := g, mask := BitVec.ofNat 64 (fieldAt m (e.refOff + 16 * index + 8) 8) }

/-- R25: REFRESH_WINDOW: at the window's tick offset the grants are pulsed, once. -/
def execRefreshWindow (part index : Nat) (s : State) : Res :=
  if 64 ≤ part then .fault .noSuchUnit
  else .next (match runOf s part, refreshEntry s part index with
    | some r, some w =>
      if r.base + w.start ≤ now s ∧ index ∉ r.refDone then
        updRun { s with bound.refGrant := s.bound.refGrant ++ [(w.group, w.mask)] } part (fun r => { r with refDone := r.refDone ++ [index] })
      else s
    | _, _ => s)

/-- R26: an urgent refresh that meets the grant of its own edge is granted: it is not counted and stalls nothing. -/
def refGranted (s : State) (stack pc : Nat) : Bool := s.bound.refGrant.any (fun e => e.1 == stack && bit e.2.toNat pc)

/-- R26: SP_REF_URGENT: the lanes of the pseudo-channel stall for the length of the refresh, a free value (log 148). -/
def execSpRefUrgent (stack pc : Nat) (coincident : Bool) (s : State) : Res :=
  if 20 ≤ stack ∨ 64 ≤ pc then .fault .noSuchUnit
  else .next (if coincident || refGranted s stack pc then s
    else { s with bound.refUrgent := mset s.bound.refUrgent stack (mget s.bound.refUrgent stack ||| (1#64 <<< pc)),
                  bound.refEnds := mset s.bound.refEnds (64 * stack + pc) (now s + (Config.freeValue s.freeCount).toNat % 2 ^ 16),
                  bound.urgentCount := mset s.bound.urgentCount stack (mget s.bound.urgentCount stack + 1),
                  freeCount := s.freeCount + 1 })

/-! ### Test wrapper (R46) and powered-down domains (R20) -/

/-- R46: WRAPPER_INSTRUCTION_UPDATE. -/
def execWrapperInstructionUpdate (instruction : Nat) (s : State) : Res :=
  .next { s with bound.wir := if getF s bcTestEn = 1 ∧ s.bound.bypassForced = false then instruction else 0 }

/-- The stack-group domains, and the cluster domains (00_scope's list of the 40). -/
def groupDomains : List Nat := (List.range 20).map (fun t => 8 + t)
def clusterDomains : List Nat := List.range 8

/-- R15, R20: the clock domains of the embedding engine's registers: those of one stack group, of the crimson tier, or shared
by all stack groups (log 151). -/
def engineDomains (a : Nat) : List Nat :=
  if 0x401000 ≤ a ∧ a < 0x401100 then [29]
  else if 0x402000 ≤ a ∧ a < 0x402140 then [8 + (a - 0x402000) / 16]
  else if 0x402200 ≤ a ∧ a < 0x402250 then [8 + (a - 0x402200) / 4]
  else groupDomains

/-- R15, R20: the clock domains of the matrix fabric's registers: a core's cluster, or shared by all clusters (log 151). -/
def fabricDomains (a : Nat) : List Nat := if 0x800100 ≤ a ∧ a < 0x800200 then [(a - 0x800100) / 32] else clusterDomains

/-- R15, R20: the link engine's halves: express ports belong to the second; shared registers to the first (log 151). -/
def linkDomains (a : Nat) : List Nat :=
  if 0x1100100 + 16 * 48 ≤ a ∧ a < 0x1100100 + 16 * 60 then [36]
  else if 0x1101000 + 0x400 * 48 ≤ a ∧ a < 0x1101000 + 0x400 * 60 then [36]
  else [35]

/-- R15, R20: the clock domains of the unit whose register an offset names; the unit is down where all of them are. -/
def regionDomains (a : Nat) : List Nat :=
  if a < 0x10000 then []
  else if a < 0x100000 then [30]
  else if a < 0x200000 then [31]
  else if a < 0x400000 then [39]
  else if a < 0x800000 then engineDomains a
  else if a < 0x1000000 then fabricDomains a
  else if a < 0x1100000 then [34]
  else if a < 0x1400000 then linkDomains a
  else if a < 0x1800000 then [32]
  else if a < 0x1C00000 then [37]
  else if a < 0x4000000 then [33]
  else []

/-- R20, R382, R385: is the unit at an offset without power or never clocked? -/
def unitOff (s : State) (a : Nat) : Bool :=
  let l := regionDomains a
  !l.isEmpty && l.all (fun k => domainOff s k || (k == 32 && !s.ctrl.powered))

/-- R20: POWERED_DOWN_DOMAIN_ACCESS. -/
def execPoweredDownDomainAccess (offset : Nat) (write : Bool) (s : State) : Res :=
  .next (if s.bound.hostAnswers && unitOff s offset then unpowered s offset write else s)

end Sys2Proof.Machine
end

