-- ==== Sys2Proof/Machine/Access.lean ====
section
/-! DEFINITION. Registers (R10, R12, R15): what every BAR0 word reads as, what an RC read clears, and the plain part of a write. -/

namespace Sys2Proof.Machine

/-! ### Words with a structured home -/

/-- A register array whose words are read from structured state: word `i` stands at `base + stride * i`. -/
structure View where
  base : Nat
  stride : Nat
  count : Nat
  val : State → Nat → Nat

/-- A word, or 32 bits of a longer number. -/
def word32 (v i : Nat) : Nat := v / 2 ^ (32 * i) % 2 ^ 32

/-- Four owners of a word. -/
def ownersWord (f : Nat → Nat) (w : Nat) : Nat := (List.range 4).foldl (fun n b => n + f (4 * w + b) * 2 ^ (8 * b)) 0

/-- R235, R332, R90: state codes. -/
def ctxCode (c : CtxState) : Nat := match c with | .free => 0 | .active => 1 | .broken => 2 | .faulted => 3 | .destroying => 4
def partCode (p : PartState) : Nat := match p with | .absent => 0 | .active => 1 | .failed => 2
def stagingCode (x : Staging) : Nat := match x with | .closed => 0 | .opened => 1 | .sealed => 2
def fenceCode (x : FenceState) : Nat := match x with | .free => 0 | .pending => 1 | .signalled => 2 | .error => 3

/-- R269: the fence that QF_FENCE_SEL names. -/
def selFence (s : State) : Fence := fenceOf s (getF s qfFenceSel)

/-- R269: QF_CTX_STATE. -/
def ctxWord (s : State) (n : Nat) : Nat :=
  let c := ctxOf s n
  ctxCode c.state + b2n c.group * 8 + c.partition * 16 + c.pasid * 1024

/-- R301: QF_CTX_RING. -/
def ringWord (s : State) (n i : Nat) : Nat :=
  let c := ctxOf s n
  match i with
  | 0 => (subqOf s n 0).head + (subqOf s n 1).head * 65536
  | 1 => (subqOf s n 2).head + (subqOf s n 3).head * 65536
  | 2 => c.cq.tail + c.eq.tail * 65536
  | _ => c.holding.length

/-- R332: QF_PART_STATE and the slice words. -/
def partWord (s : State) (p i : Nat) : Nat :=
  let x := partOf s p
  if x.state = .absent then 0
  else if i = 0 then partCode x.state + b2n (changePending s p) * 4 + b2n x.group.isSome * 8 + b2n x.holder.isSome * 16 + x.holder.getD 0 * 65536
  else x.sliceUnits + x.slowThr * 65536

/-- R332: QF_CTX_SCHED. -/
def schedWord (s : State) (n i : Nat) : Nat :=
  let c := ctxOf s n
  if c.state = .free then 0
  else match i with
    | 0 => c.share + c.sramBase * 2 ^ 10 + c.sramCount * 2 ^ 14 + b2n (ctxReady s c.partition n) * 2 ^ 19 +
        b2n (suspendedOf s c.partition n).isSome * 2 ^ 20
    | 1 => min (2 ^ 32 - 1) c.debt
    | 2 => word32 c.vt.toNat 0
    | _ => word32 c.vt.toNat 1

/-- Front-end words (R269, R301, R332). -/
def viewsQf : List View :=
  [⟨0x0, 4, 16384, fun s i => fieldAt (capTable s) (4 * i) 4⟩,
   ⟨0x10054, 4, 2, fun s i => word32 (selFence s).value.toNat i⟩,
   ⟨0x1005C, 0, 1, fun s _ => fenceCode (selFence s).state + (selFence s).ctx * 4 + (selFence s).error.toNat * 65536⟩,
   ⟨0x10060, 0, 1, fun s _ => (selFence s).origin⟩,
   ⟨0x10064, 0, 1, fun s _ => objCount s⟩,
   ⟨0x10068, 0, 1, fun s _ => fenceCount s⟩,
   ⟨0x14000, 4, 4096, ctxWord⟩,
   ⟨0x18000, 4, 2048, fun s i => getF s qfInterval i + b2n (mget s.front.vectors i).pending * 65536⟩,
   ⟨0x20000, 4, 16384, fun s i => ringWord s (i / 4) (i % 4)⟩,
   ⟨0x30000, 4, 16384, fun s i => (subqOf s (i / 4) (i % 4)).retired.toNat⟩,
   ⟨0x40000, 32, 64, fun s p => partWord s p 0⟩,
   ⟨0x40004, 32, 64, fun s p => partWord s p 1⟩,
   ⟨0x50000, 4, 16384, fun s i => schedWord s (i / 4) (i % 4)⟩]

/-- Translation and memory-port words (R270, R333, R371, R372). -/
def viewsTu : List View :=
  [⟨0x100024, 0, 1, fun s _ => maskOf 16 (fun e => (mget s.trans.preqs e).used)⟩,
   ⟨0x100060, 0, 1, fun s _ => (s.emb.pmap.filter (fun e => e.2.used)).length⟩,
   ⟨0x180000, 4, 131072, fun s i => mget s.trans.acs i + b2n (mget s.trans.acNotified i) * 65536⟩,
   ⟨0x20800C, 0, 1, fun s _ => s.front.ctxs.foldl (fun n e => n + e.2.arena.length) 0⟩,
   ⟨0x210000, 4, 10240, fun s w => ownersWord (pageOwner s) w⟩,
   ⟨0x21A000, 0, 1, fun s _ => s.parts.pageOwn.length + countBelow 40960 (pageExists s) * 65536⟩]

/-- R88: EE_LANE_OUT. -/
def laneOutWord (s : State) (w : Nat) : Nat := maskOf 32 (fun b => s.emb.lanesOut.contains (32 * w + b))

/-- R110: EE_GROUP. -/
def groupWord (s : State) (g : Nat) : Nat :=
  let x := groupOf s g
  b2n x.valid + b2n x.retained * 2 + stagingCode x.staging * 4 + b2n x.armed.isSome * 16 + x.ctx * 65536

/-- Embedding and matrix words (R88, R110, R148). -/
def viewsEe : List View :=
  [⟨0x400000, 0, 1, fun s _ => activeGroups s + lanesActive s * 256 +
     b2n (hasCrimson s) * 2 ^ 20⟩,
   ⟨0x400004, 0, 1, fun s _ => crimsonUnits s⟩,
   ⟨0x400008, 4, 2, fun s i => word32 s.emb.cbLoaded.toNat i⟩,
   ⟨0x400018, 0, 1, fun s _ => s.emb.tables.length⟩,
   ⟨0x401000, 4, 64, fun s p => getF s eeQuotaUnits p + cdiv (crimsonUsed s p) 65536 * 65536⟩,
   ⟨0x402000, 4, 80, laneOutWord⟩,
   ⟨0x402200, 4, 20, fun s t => mget (shadowOf s).sparesUsed t⟩,
   ⟨0x403100, 4, 8, fun s g => (s.upd.filterActive.filter (fun e => decide (e.1 / 4194304 = g) && e.2)).length⟩,
   ⟨0x403200, 8, 256, fun s g => (groupOf s g).active⟩,
   ⟨0x403204, 8, 256, groupWord⟩,
   ⟨0x800000, 0, 1, fun s _ => countBelow 64 (coreActive s) + variantCores (variantOf s) / 8 * 256 + b2n (variantOf s != .jujorS) * 4096⟩]

/-- R230: LK_PORT_STAT; an absent port's reads 0. -/
def portStat (s : State) (q : Nat) : Nat := if portPresent s q then (portOf s q).flight + b2n (portOf s q).overBudget * 256 else 0

/-- R230: a mask of ports; bits of absent ports read 0. -/
def portMask (s : State) (f : Port → Nat → Bool) : Nat := maskOf 60 (fun q => portPresent s q && f (portOf s q) q)

/-- R230: LK_INFO; 0 on Jujor-S, as every register of the region is. -/
def linkInfo (s : State) : Nat :=
  if variantOf s = .jujorS then 0
  else countBelow 48 (portPresent s) + countBelow 12 (fun e => portPresent s (48 + e)) * 64 + s.start.record.skip % 32 * 4096

/-- R230: LK_SLOT_OWN, 256 words of room for each port; an absent port's read 0. -/
def slotWord (s : State) (i : Nat) : Nat :=
  if i % 256 < 140 ∧ portPresent s (i / 256) = true then ownersWord (slotOwner s (i / 256)) (i % 256) else 0

/-- Time-base and link words (R229, R230). -/
def viewsTb : List View :=
  [⟨0x1000000, 4, 2, fun s i => word32 (now s) i⟩,
   ⟨0x1000200, 4, 128, fun s w => ownersWord (nocOwner s) w⟩,
   ⟨0x1100000, 0, 1, fun s _ => linkInfo s⟩,
   ⟨0x1100004, 0, 1, fun s _ => if variantOf s = .jujorS then 0 else coordWord s⟩,
   ⟨0x1100008, 4, 2, fun s i => word32 (portMask s (fun x _ => x.up)) i⟩,
   ⟨0x1100010, 4, 2, fun s i => word32 (portMask s (fun x _ => x.out)) i⟩,
   ⟨0x1100018, 4, 2, fun s i => word32 (portMask s (fun _ q => bit s.start.record.allowed.toNat q)) i⟩,
   ⟨0x1100100, 16, 60, portStat⟩,
   ⟨0x1101000, 4, 15360, slotWord⟩]

/-- R398: the words of a mailbox, a plain read of its lock being MAILBOX_LOCK_READ's. -/
def mboxWord (s : State) (m i : Nat) : Nat :=
  let b := mboxOf s m
  match i with
  | 0 => word32 b.notice.toNat 0
  | 1 => word32 b.notice.toNat 1
  | 2 => b.lock
  | 3 => b2n b.done + b.code.toNat * 65536
  | 4 => b2n b.pending
  | _ => 0

/-- Control, health and boot words (R398, R399, R421, R423). -/
def viewsCc : List View :=
  [⟨0x1401000, 4, 512, fun s i => mboxWord s (i / 8) (i % 8)⟩,
   ⟨0x1800000, 0, 1, fun s _ => getF s hpEstW + (shadowOf s).idleW * 65536⟩,
   ⟨0x1801000, 4, 48, fun s i => word32 (telemNow s (i / 2)).toNat (i % 2)⟩,
   ⟨0x1801100, 4, 48, fun s i => word32 (mget s.health.snap (i / 2)).toNat (i % 2)⟩,
   ⟨0x1C00100, 4, 2, fun s i => word32 ((s.start.shadow.map (fun f => f.serial.toNat)).getD 0) i⟩,
   ⟨0x1C00108, 0, 1, fun s _ => match s.start.shadow with
     | some f => (match f.variant with | .jujorL => 0 | .jujorM => 1 | .jujorS => 2) + f.stepping.toNat * 256 + f.powerCeiling * 65536
     | none => 0⟩,
   ⟨0x1C0010C, 0, 1, fun s _ => (s.start.shadow.map (fun f => f.minSecurity.toNat)).getD 0⟩,
   ⟨0x1C00120, 4, 12, fun s i => word32 ((s.start.shadow.map (fun f => f.keyHash.toNat)).getD 0) i⟩]

def views : List View := viewsQf ++ viewsTu ++ viewsEe ++ viewsTb ++ viewsCc

/-- The place of an offset in a view. -/
def View.index (v : View) (a : Nat) : Option Nat :=
  if v.stride = 0 then (if a = v.base then some 0 else none)
  else if v.base ≤ a ∧ (a - v.base) % v.stride = 0 ∧ (a - v.base) / v.stride < v.count then some ((a - v.base) / v.stride) else none

/-- R11, R12, R15: what the word at an offset reads as: a view, or the stored word; unassigned words, and those whose bits are
write-only, read 0. -/
def readWord (s : State) (a : Nat) : Nat :=
  match views.findSome? (fun v => (v.index a).map (v.val s)) with
  | some x => x % 2 ^ 32
  | none => if (fieldsAt a).isEmpty then 0 else (wordD s a (resetWord a)).toNat

/-- R12: an RC read clears the word's RC fields. -/
def clearRc (s : State) (a : Nat) : State :=
  each (fieldsAt a) (fun f s => if f.acc = .rc then setF s f 0 (if f.stride = 0 then 0 else (a - f.off) / f.stride) else s) s

/-! ### Writes (R10 to R12) -/

/-- The fields whose writes have a row of their own in the opcode table: a register write reaches them through that row's
meaning (`rowWrite`), and the plain part of the write leaves them alone. -/
def ownRow : List Fld :=
  [qfAdmqTail, qfAdmcqHead, qfAdmeqHead, tuForerunner, tuFirstPage, tuPages, eeQuotaUnits, tbOwner0, tbOwner1, tbOwner2, tbOwner3,
   lkOwner0, lkOwner1, lkOwner2, lkOwner3, ccHold, ccNoticeLo, ccNoticeHi, ccLock, ccDone, ccCode]

/-- R241, R248, R53, R336: base addresses that are locked while they are in use. -/
def baseLocked (s : State) (f : Fld) : Bool :=
  if f = qfObjBaseLo ∨ f = qfObjBaseHi then objCount s != 0
  else if f = qfFenceBaseLo ∨ f = qfFenceBaseHi then fenceCount s != 0
  else if f = eeBaseLo ∨ f = eeBaseHi then !s.emb.tables.isEmpty
  else if f = tuPasidBaseLo ∨ f = tuPasidBaseHi then !noContexts s
  else false

/-- R398, R399: registers that only the host administrator, or only firmware, may write. -/
def notAllowed (who : Nat) (f : Fld) : Bool :=
  if f = ccAdmwinLo ∨ f = ccAdmwinHi ∨ f = ccAdmwinSize ∨ f = ccFlashUnlock then isCp who
  else if f = bcEntry600 then !isCp who
  else if f = mpSlot then isCp who
  else false

/-- R12: may a field be written now? -/
def writable (s : State) (who : Nat) (f : Fld) : Bool :=
  (match f.acc with
    | .rw => true
    | .rwlBoot => getF s bcBootLock == 0
    | .rwlRepair => getF s bcRepairLock == 0
    | _ => false) && !ownRow.contains f && !baseLocked s f && !notAllowed who f

/-- R269, R371: ring addresses are 4 KiB aligned: bits [11:0] read 0. -/
def keptBits (f : Fld) (v : Nat) : Nat :=
  if f = qfAdmqLo ∨ f = qfAdmcqLo ∨ f = qfAdmeqLo ∨ f = tuFqLo ∨ f = ccAdmwinLo then v / 4096 * 4096 else v

/-- R12: a write reaches one field of its word. -/
def writeField (who a w : Nat) (f : Fld) (s : State) : State :=
  let i := if f.stride = 0 then 0 else (a - f.off) / f.stride
  let v := bits w f.lo f.width
  if f = mpKeyData then (if isCp who then s else { s with trans.keyData := BitVec.ofNat 512 (setBits s.trans.keyData.toNat (32 * i) 32 v) })
  else if f.acc = .w1c then (if v = 1 then setF s f 0 i else s)
  else if writable s who f then
    let s := setF s f (keptBits f v) i
    if f = ccPeriod then { s with ctrl.kicked := mset s.ctrl.kicked i (now s) } else s
  else s

/-- R380: a word of a mailbox's notice: its owner's writes only. -/
def writeNotice (s : State) (who m i w : Nat) : State :=
  if mbOwner s m who then
    let b := mboxOf s m
    putMbox s m { b with notice := BitVec.ofNat 64 (setBits b.notice.toNat (32 * i) 32 w) }
  else mbBad s

/-- R10 to R12: a write of one aligned word. -/
def writeWord (s : State) (who a w : Nat) : State :=
  if 0x1401000 ≤ a ∧ a < 0x1401800 ∧ a % 32 < 8 then writeNotice s who ((a - 0x1401000) / 32) (a % 32 / 4) w
  else each (fieldsAt a) (fun f s => writeField who a w f s) s

end Sys2Proof.Machine
end

