-- ==== Sys2Proof/Machine/RowWrites.lean ====
section
/-! DEFINITION. Register accesses (R11, R12, R20): words and aligned pairs, the rows that a write of a register reaches, and the
control processors' hold and kick bits (R374, R375). -/

namespace Sys2Proof.Machine

/-! ### Processors and watchdogs (R374, R375) -/

/-- R374: CP_HOLD_SET. -/
def execCpHoldSet (cp : Nat) (s : State) : Res :=
  if 4 ≤ cp then .fault .noSuchUnit
  else hostWrite s (fun s => if s.ctrl.powered then cpStop s cp else unpowered s 0x1400004 true)

/-- R374: CP_HOLD_CLEAR: a processor held restarts at its entry. -/
def execCpHoldClear (cp : Nat) (s : State) : Res :=
  if 4 ≤ cp then .fault .noSuchUnit
  else hostWrite s (fun s =>
    if s.ctrl.powered = false then unpowered s 0x1400004 true
    else if bit (getF s ccHold) cp then cpStart s cp else s)

/-- R375: WATCHDOG_KICK. -/
def execWatchdogKick (cp : Nat) (s : State) : Res :=
  if 4 ≤ cp then .fault .noSuchUnit
  else hostWrite s (fun s =>
    if s.ctrl.powered then { s with ctrl.kicked := mset s.ctrl.kicked cp (now s) } else unpowered s (0x1400008 + 4 * cp) true)

/-! ### What a write to a register with a row of its own does (R12) -/

/-- The state that a row's meaning leaves; one that does not answer leaves it as it was. -/
def after (r : Res) (s : State) : State := match r with | .next t => t | _ => s

/-- Run a row where a bit of the word written is set. -/
def onBit (w i : Nat) (f : State → Res) (s : State) : State := if bit w i then after (f s) s else s

/-- The word of an array of registers that an offset names. -/
def wordIndex (f : Fld) (a : Nat) : Option Nat :=
  if f.off ≤ a ∧ (a - f.off) % max f.stride 1 = 0 ∧ (a - f.off) / max f.stride 1 < f.count then some ((a - f.off) / max f.stride 1) else none

/-- R362: a write to TU_INV_CTL; a command of a reserved scope is queued and removes nothing. -/
def invWrite (w : Nat) (s : State) : State :=
  let p := bits w 11 20
  let d := bits w 3 8
  match bits w 0 3 with
  | 0 => after (execInvalidateAll s) s
  | 1 => after (execInvalidatePasid p s) s
  | 2 => after (execInvalidatePasidRange p s) s
  | 3 => after (execInvalidateDomain d s) s
  | 4 => after (execInvalidateDomainRange d s) s
  | 5 => after (execInvalidatePasidEntry p s) s
  | k => after (hostWrite s (fun s => invQueue s k d p)) s

/-- R374: hold bits that change hold or release their processors. -/
def holdWrite (w : Nat) (s : State) : State :=
  iter 4 (fun n s =>
    if bit w n = bit (getF s ccHold) n then s
    else if bit w n then after (execCpHoldSet n s) s else after (execCpHoldClear n s) s) s

/-- R380, R381: a write to a mailbox's lock, acknowledgement or doorbell word. -/
def mailboxWrite (who m i w : Nat) (s : State) : State :=
  match i with
  | 2 => after (execMailboxRelease who m s) s
  | 3 => onBit w 0 (execMailboxAck who m (BitVec.ofNat 16 (w / 65536))) s
  | 4 => onBit w 0 (execMailboxRing who m) s
  | _ => s

/-- Front-end, translation and memory-port registers. The key registers are the host administrator's (R346). -/
def rowWriteFront (who a w : Nat) (s : State) : State :=
  let v := BitVec.ofNat 32 w
  if a = qfAdmqTail.off then after (execAdmqTailWrite v s) s
  else if a = qfAdmcqHead.off then after (execAdmcqHeadWrite v s) s
  else if a = qfAdmeqHead.off then after (execAdmeqHeadWrite v s) s
  else if a = tuForerunner.off then after (execForerunnerModeSet (bit w 0) s) s
  else if a = tuFirstPage.off then after (execTranslationRegionSet v s) s
  else if a = tuEntry.off then after (execPageRequestResponse v s) s
  else if a = tuScope.off then invWrite w s
  else if a = tuIndex.off then (if bit w 31 then after (execAcClearAll s) s else after (execAcClear (bits w 0 17) s) s)
  else if a = tuGo.off then onBit w 0 execMirrorGo s
  else if a = mpLoad.off then
    (if isCp who || (bit w 8 && bit w 9) then s else onBit w 9 (execKeySlotClear (bits w 0 6)) (onBit w 8 (execKeySlotLoad (bits w 0 6)) s))
  else s

/-- Embedding, time-base and link registers. A write of EE_UPD_CTL that leaves ingest on lets the held records go on (R110). -/
def rowWriteFabric (a w : Nat) (s : State) : State :=
  let v := BitVec.ofNat 32 w
  if a = eeSketchClear.off then onBit w 9 execSketchClear s
  else if a = eeIngestEn.off then drainHeld s
  else if a = tbSnapArm.off then onBit w 0 execSnapshotArm s
  else if a = tbResetGo.off then onBit w 0 execDomainResetArm s
  else match wordIndex eeQuotaUnits a, wordIndex tbOwner0 a, wordIndex lkOwner0 a with
    | some p, _, _ => after (execCrimsonQuotaWrite p v s) s
    | none, some i, _ => after (execNocOwnershipWrite i v s) s
    | none, none, some i => after (execSlotOwnershipWrite (i / 256) (i % 256) v s) s
    | none, none, none => s

/-- Control-complex and health registers. -/
def rowWriteControl (who a w : Nat) (s : State) : State :=
  if a = ccHold.off then holdWrite w s
  else if a = hpSet.off then onBit w 17 (execAshWatchClear (bits w 0 16)) (onBit w 16 (execAshWatchSet (bits w 0 16)) s)
  else if a = hpGo18.off then onBit w 16 (execUnitMarkOut (bits w 0 16)) s
  else if a = hpGo21C.off then onBit w 0 execDigestGo s
  else match wordIndex ccKick a with
    | some n => onBit w 24 (execWatchdogKick n) s
    | none => if 0x1401000 ≤ a ∧ a < 0x1401800 then mailboxWrite who ((a - 0x1401000) / 32) (a % 32 / 4) w s else s

/-- R12: what a write to a register with a row of its own does beside its plain part: W1S and WO bits, doorbells, words that are
checked as a whole. -/
def rowWrite (who a w : Nat) (s : State) : State :=
  if a < 0x400000 then rowWriteFront who a w s
  else if a < 0x1400000 then rowWriteFabric a w s
  else rowWriteControl who a w s

/-! ### Accesses (R11, R20) -/

/-- R12, R20: a write of one word. -/
def busWrite (s : State) (who a w : Nat) : State :=
  if unitOff s a then unpowered s a true else rowWrite who a w (writeWord s who a w)

/-- R380: the mailbox whose lock word stands at an offset. -/
def lockWord (a : Nat) : Option Nat := if 0x1401000 ≤ a ∧ a < 0x1401800 ∧ a % 32 = 8 then some ((a - 0x1401000) / 32) else none

/-- R12, R20, R380: a read of one word: its value, and what the read does. -/
def busRead (s : State) (who a : Nat) : Nat × State :=
  if unitOff s a then (0xFFFFFFFF, unpowered s a false)
  else match lockWord a with
    | some m =>
      let b := lockJoin s m who
      (lockSeen (lockOwner m b) who, lockSettle s m b)
    | none => (readWord s a, clearRc s a)

/-- R11: a read of a word or of an aligned pair of words. -/
def busReadN (s : State) (who a : Nat) (pair : Bool) : Nat × State :=
  let x := busRead s who a
  if pair then
    let y := busRead x.2 who (a + 4)
    (x.1 + y.1 * 2 ^ 32, y.2)
  else x

/-- R11: a write of a word or of an aligned pair of words. -/
def busWriteN (s : State) (who a v : Nat) (pair : Bool) : State :=
  let s := busWrite s who a (v % 2 ^ 32)
  if pair then busWrite s who (a + 4) (v / 2 ^ 32) else s

/-- R11, R12, R20: REGISTER_WRITE. -/
def execRegisterWrite (who offset : Nat) (value : BitVec 64) (enables : BitVec 8) (s : State) : Res :=
  hostWrite s (fun s => if wholeWords offset enables then busWriteN s who offset value.toNat (enables == 0xFF#8) else s)

/-- R11, R12, R20: RC_COUNTER_READ, a read of the host: one that does not cover a word or an aligned pair returns 0 and clears
nothing, and so does any read of BAR2. -/
def execCounterRead (bar2 : Bool) (offset : Nat) (enables : BitVec 8) (s : State) : Res :=
  hostWrite s (fun s =>
    if bar2 || !wholeWords offset enables then { s with reply.data := 0 }
    else
      let r := busReadN s hostReq offset (enables == 0xFF#8)
      { r.2 with reply.data := BitVec.ofNat 64 r.1 })

end Sys2Proof.Machine
end

