-- ==== Sys2Proof/Machine/Firmware.lean ====
section
/-! DEFINITION. The control processors: watchdogs (R375), the firmware limiter (R373, R377, R378), the
administrator mailbox messages (R224, R383, R389, R396). -/

namespace Sys2Proof.Machine

/-! ### Watchdogs (R375) -/

/-- R375: the expiry counter of a processor. -/
def wdogCounter (cp : Nat) : Fld := match cp with | 0 => ccWdogExp0 | 1 => ccWdogExp1 | 2 => ccWdogExp2 | _ => ccWdogExp3

/-- R375, R402: processor n restarts, its locks are released, its pending mailboxes are acknowledged with 0x0910. -/
def expireCp (s : State) (cp : Nat) : State :=
  let s := addF (cpStart s cp) (wdogCounter cp)
  let s := each ((List.range 64).filter (fun m => (mboxOf s m).lock == cpReq cp)) (fun m s => mbRelease s m) s
  let s := each ((List.range 64).filter (fun m => (mboxOf s m).pending && mbReceiver m == cpReq cp)) (fun m s => mbAck s m 0x0910) s
  healthEvent s { source := 10, unit := unitCp cp, code := 0x0910 }

/-- R375: WATCHDOG_EXPIRE: 1,024 CCLK cycles are 2,048 ticks. -/
def execWatchdogExpire (cp : Nat) (s : State) : Res :=
  if 4 ≤ cp then .fault .noSuchUnit
  else
    let n := getF s ccPeriod cp
    .next (if s.ctrl.powered && bit (getF s ccRunning) cp && decide (0 < n ∧ mget s.ctrl.kicked cp + n * 2048 ≤ now s) then expireCp s cp else s)

/-! ### The limiter (R373, R377, R378) -/

/-- R373, R378: a bus error of a processor: a refused read returns 0. -/
def busError (s : State) (cp : Nat) : State :=
  { s with ctrl.cpRead := mset s.ctrl.cpRead cp 0, ctrl.busErrors := mset s.ctrl.busErrors cp (mget s.ctrl.busErrors cp + 1) }

/-- R378: a limiter event. -/
def limiterEvent (s : State) (cp : Nat) (code : Code) (f : Fld) (addr : Nat) : State :=
  healthEvent (addF s f) { source := 9, unit := unitCp cp, code := code, addr := addr }

/-- R378: a refusal. -/
def limiterRefuse (s : State) (cp : Nat) (code : Code) (f : Fld) (addr : Nat) : State := limiterEvent (busError s cp) cp code f addr

/-- R377: does a range touch a page that holds a ring? -/
def onRing (s : State) (host : Bool) (a n : Nat) : Bool :=
  s.front.ringPages.any (fun e => e.host == host && decide (a / 2 ^ e.sizeLog2 ≤ e.page ∧ e.page ≤ (a + n - 1) / 2 ^ e.sizeLog2))

/-- R377: the administrator window. -/
def winBase (s : State) : Nat := getF64 s ccAdmwinLo
def winBytes (s : State) : Nat := getF s ccAdmwinSize * 4096
def inWindow (s : State) (o n : Nat) : Bool := decide (o + n ≤ winBytes s)

/-- R377, R385: HBM bytes in the firmware pages. -/
def inFirmware (s : State) (a n : Nat) : Bool :=
  let lo := getF s bcFwFirstPage * 2 ^ 25
  decide (lo ≤ a ∧ a + n ≤ lo + getF s bcFwPages * 2 ^ 25) && pageExists s (a / 2 ^ 25)

/-- R373: what a processor's read returns. -/
def cpReturn (s : State) (cp : Nat) (bs : List Byte) : State :=
  { s with ctrl.cpRead := mset s.ctrl.cpRead cp (BitVec.ofNat 64 (leNat (bs.take 8))) }

/-- R373, R377: a host write of firmware at a window offset. -/
def fwHostWrite (s : State) (cp o : Nat) (bs : List Byte) : State :=
  if inWindow s o bs.length = false then limiterRefuse s cp 0x0903 ccDma o
  else if onRing s true (winBase s + o) bs.length then limiterRefuse s cp 0x0904 ccQueue o
  else { s with mem.host := wrBytes s.mem.host (winBase s + o) bs }

/-- R377: registers whose writes change repairs. -/
def repairReg (o : Nat) : Bool :=
  decide (0x1C00400 ≤ o ∧ o < 0x1C00600) || decide (0x800100 ≤ o ∧ o < 0x800200) || decide (0x402200 ≤ o ∧ o < 0x402250)

/-- R373, R377: a register word written by firmware: repairs only before the lock, a power limit at most the fused ceiling. -/
def fwWordWrite (s : State) (cp o v : Nat) : State :=
  let ceiling := (shadowOf s).powerCeiling
  if repairReg o && getF s bcRepairLock == 1 then limiterRefuse s cp 0x0907 ccRepair o
  else if o = 0x1C00200 ∧ getF s bcBootLock = 0 ∧ ceiling < v then limiterEvent (busWrite s (cpReq cp) o ceiling) cp 0x0905 ccPower o
  else busWrite s (cpReq cp) o v

/-- R11: a register access of firmware that covers one word, or an aligned pair. -/
def fwOneWord (o n : Nat) : Bool := decide (o % 4 = 0 ∧ n = 4)
def fwPair (o n : Nat) : Bool := decide (o % 8 = 0 ∧ n = 8)

/-- R11, R373: a register write of firmware. -/
def fwRegWrite (s : State) (cp o : Nat) (bs : List Byte) : State :=
  if fwOneWord o bs.length then fwWordWrite s cp o (leNat bs)
  else if fwPair o bs.length then fwWordWrite (fwWordWrite s cp o (fieldAt bs 0 4)) cp (o + 4) (fieldAt bs 4 4)
  else s

/-- R373, R402: a control SRAM read. -/
def sramRead (s : State) (cp : Nat) (a : FwAccess) (ecc : SramEcc) : State :=
  match ecc with
  | .uncorrectable => busError (sramUe s (unitCp cp) 12 a.addr [] 0x0707) cp
  | .corrected => cpReturn (telemAdd s 14 1) cp (rdBytes s.mem.ctrlSram a.addr a.len)
  | .good => cpReturn s cp (rdBytes s.mem.ctrlSram a.addr a.len)

/-- R373: a read of a processor. The boot ROM's bytes are free values (log 9). -/
def fwRead (s : State) (cp : Nat) (a : FwAccess) (ecc : SramEcc) : State :=
  let n := a.len
  let p := a.addr
  if p + n ≤ 0x200000 then sramRead s cp a ecc
  else if 0x20000000 ≤ p ∧ p + n ≤ 0x20010000 then
    { s with ctrl.cpRead := mset s.ctrl.cpRead cp (Config.freeValue s.freeCount), freeCount := s.freeCount + 1 }
  else if 0x100000000 ≤ p ∧ p + n ≤ 0x104000000 then
    let o := p - 0x100000000
    if fwOneWord o n || fwPair o n then
      let r := busReadN s (cpReq cp) o (n == 8)
      { r.2 with ctrl.cpRead := mset r.2.ctrl.cpRead cp (BitVec.ofNat 64 r.1) }
    else { s with ctrl.cpRead := mset s.ctrl.cpRead cp 0 }
  else if 0x10000000000 ≤ p ∧ p + n ≤ 0x10000000000 + 0x14000000000 then
    if inFirmware s (p - 0x10000000000) n then cpReturn s cp (rdBytes s.mem.hbm (p - 0x10000000000) n)
    else limiterRefuse s cp 0x0903 ccDma p
  else if 0x100000000000 ≤ p then
    if inWindow s (p - 0x100000000000) n then cpReturn s cp (rdBytes s.mem.host (winBase s + (p - 0x100000000000)) n)
    else limiterRefuse s cp 0x0903 ccDma p
  else busError s cp

/-- R373: a write of a processor; the boot ROM is read only. -/
def fwWrite (s : State) (cp : Nat) (a : FwAccess) : State :=
  let n := a.data.length
  let p := a.addr
  if p + n ≤ 0x200000 then { s with mem.ctrlSram := wrBytes s.mem.ctrlSram p a.data }
  else if 0x100000000 ≤ p ∧ p + n ≤ 0x104000000 then fwRegWrite s cp (p - 0x100000000) a.data
  else if 0x10000000000 ≤ p ∧ p + n ≤ 0x10000000000 + 0x14000000000 then
    let h := p - 0x10000000000
    if inFirmware s h n = false then limiterRefuse s cp 0x0903 ccDma p
    else if onRing s false h n then limiterRefuse s cp 0x0904 ccQueue p
    else { s with mem.hbm := wrBytes s.mem.hbm h a.data }
  else if 0x100000000000 ≤ p then fwHostWrite s cp (p - 0x100000000000) a.data
  else busError s cp

/-- R377: may flash be programmed? Unlocked by the host, and allowed by the record's policy. -/
def flashAllowed (s : State) : Bool := getF s ccFlashUnlock == 1 && bit (getF s bcPolicy) 1

/-- Flash commands (log 64): an erase leaves every byte at 0xFF. -/
def flashApply (s : State) (erase : Bool) (o : Nat) (bs : List Byte) : State :=
  { s with mem.flash := wrBytes s.mem.flash o (if erase then List.replicate bs.length 0xFF#8 else bs) }

/-- R377, R378: a program or erase command: refused without unlock or policy, held while a step runs. -/
def flashCommand (s : State) (cp : Nat) (erase : Bool) (o : Nat) (bs : List Byte) : State :=
  if flashAllowed s = false then limiterRefuse s cp 0x0908 ccFlash o
  else if s.steps.running.isEmpty ∧ s.ctrl.heldFlash.isEmpty then flashApply s erase o bs
  else { s with ctrl.heldFlash := s.ctrl.heldFlash ++ [(b2n erase, o, bs)] }

/-- R374: a processor that runs. -/
def cpRuns (s : State) (cp : Nat) : Bool := s.ctrl.powered && bit (getF s ccRunning) cp

/-- R373, R377, R378: FIRMWARE_ACCESS. -/
def execFirmwareAccess (cp : Nat) (a : FwAccess) (ecc : SramEcc) (s : State) : Res :=
  if 4 ≤ cp then .fault .noSuchUnit
  else .next (if cpRuns s cp then
    match a.kind with
    | .read => fwRead s cp a ecc
    | .write => fwWrite s cp a
    | .flashRead => cpReturn s cp (rdBytes s.mem.flash a.addr a.len)
    | .flashProgram => flashCommand s cp false a.addr a.data
    | .flashErase => flashCommand s cp true a.addr (List.replicate a.len 0)
  else s)

/-- R378: FLASH_COMMAND_RELEASE: what was held proceeds, in order. -/
def execFlashCommandRelease (s : State) : Res :=
  .next (if s.steps.running.isEmpty then
    each s.ctrl.heldFlash (fun (e : Nat × Nat × List Byte) s => flashApply s (e.1 == 1) e.2.1 e.2.2) { s with ctrl.heldFlash := [] }
  else s)

/-! ### Administrator mailbox messages (R383) -/

/-- R383: a message that its receiver is to serve: the command, seq, the result offset, and the window offset of the payload. -/
structure MboxMsg where
  cp : Nat
  command : Nat
  seq : Nat
  result : Nat
  payload : Nat
  deriving DecidableEq, Repr, Inhabited

/-- R379, R383: the pending message of a mailbox 0 to 7 whose receiver runs. A header that is not 32-byte aligned in the window
names no command (log 65). -/
def mboxMsg (s : State) (m : Nat) : Option MboxMsg :=
  let b := mboxOf s m
  let o := b.notice.toNat
  if 8 ≤ m ∨ b.pending = false ∨ cpRuns s (m % 4) = false then none
  else if o % 32 ≠ 0 ∨ inWindow s o 32 = false then some { cp := m % 4, command := 0, seq := 0, result := 0, payload := 0 }
  else
    let h := rdBytes s.mem.host (winBase s + o) 32
    some { cp := m % 4, command := fieldAt h 0 2, seq := fieldAt h 4 4, result := fieldAt h 0x10 8, payload := o + 32 }

/-- A number of a message's payload. -/
def payAt (s : State) (x : MboxMsg) (off n : Nat) : Nat := rdLE s.mem.host (winBase s + x.payload + off) n

/-- R383: serve a message of a command. -/
def serveMsg (m command : Nat) (s : State) (f : MboxMsg → State → State) : Res :=
  if 64 ≤ m then .fault .noSuchUnit
  else .next (match mboxMsg s m with
    | some x => if x.command = command then f x s else s
    | none => s)

/-- R383: the green stage, where firmware serves every command. -/
def greenFw (s : State) : Bool := getF s bcState == 11 && s.ctrl.imageRuns

/-- R383: get-status's 32 bytes: seq, BC_START, the BC_RECORD words, the firmware version (layout: log 65). -/
def statusBytes (s : State) (seq : Nat) : List Byte :=
  leBytes 4 seq ++ leBytes 4 (readWord s 0x1C00000) ++ leBytes 4 (getF s bcRecordBytes) ++ leBytes 4 (getF s bcSecurityVersion) ++
  leBytes 4 (getF s bcFwVersion) ++ leBytes 12 0

/-- R383: GET_STATUS. -/
def execGetStatus (mailbox : Nat) (s : State) : Res :=
  serveMsg mailbox 1 s (fun x s => mbAck (if x.result = 0 then s else fwHostWrite s x.cp x.result (statusBytes s x.seq)) mailbox 0)

/-- R389: the record and the image are copied from the window: offsets and sizes in the payload (log 65). -/
def pushCopy (s : State) (x : MboxMsg) : State :=
  let r := payAt s x 0 8
  let i := payAt s x 0x10 8
  bundleFrom { s with mem.bootStore := [] } s.mem.host (winBase s + r) (payAt s x 8 8) (winBase s + i) (payAt s x 0x18 8)

/-- R389: the whole bundle lies in the window. -/
def pushInside (s : State) (x : MboxMsg) : Bool := inWindow s (payAt s x 0 8) (payAt s x 8 8) && inWindow s (payAt s x 0x10 8) (payAt s x 0x18 8)

/-- R388, R389: PUSH_BUNDLE: in state awaiting image only. -/
def execPushBundle (mailbox : Nat) (s : State) : Res :=
  serveMsg mailbox 2 s (fun x s =>
    if getF s bcState ≠ 4 then mbAck s mailbox 0x090D
    else if pushInside s x = false then mbAck (setF (limiterRefuse s x.cp 0x0903 ccDma x.payload) bcCode 0x0909) mailbox 0x0909
    else
      let r := verifyStore (pushCopy s x) true
      mbAck (if r.1 = 0 then setF r.2 bcPushed 1 else r.2) mailbox r.1)

/-- R383: the new record at flash 0, the new image at the offset that the record names. -/
def flashNew (s : State) (x : MboxMsg) : State :=
  let rec0 := winBase s + payAt s x 0 8
  let f := copyCells s.mem.host rec0 (min 262144 (payAt s x 8 8)) s.mem.flash 0
  { s with mem.flash := copyCells s.mem.host (winBase s + payAt s x 0x10 8) (min 8388608 (payAt s x 0x18 8)) f (rdLE s.mem.host (rec0 + 0x14) 4) }

/-- R377, R383: FLASH_UPDATE: its commands are held while a step runs; one that fails leaves a record that does not verify (log
64). -/
def execFlashUpdate (mailbox : Nat) (flashOk : Bool) (s : State) : Res :=
  serveMsg mailbox 3 s (fun x s =>
    if greenFw s = false then mbAck s mailbox 0x090D
    else if flashAllowed s = false then mbAck (limiterRefuse s x.cp 0x0908 ccFlash 0) mailbox 0x090D
    else if pushInside s x = false then mbAck (limiterRefuse s x.cp 0x0903 ccDma x.payload) mailbox 0x090D
    else if s.steps.running.isEmpty = false then s
    else if flashOk then mbAck (flashNew s x) mailbox 0
    else mbAck (flashApply s true 0 (List.replicate 4096 0)) mailbox 0x090F)

/-- R224: does a loaded step program reserve a port on this block? -/
def portReserved (s : State) (q : Nat) : Bool :=
  s.steps.programs.any (fun e => (List.range (imgVariants e.2.image)).any (fun v =>
    bit (varEntry e.2.image (progBlock s e.2.part e.2.image) v).ports q))

/-- R224, R377: why a port may not be retrained. -/
def retrainOk (s : State) (q : Nat) : Bool := decide (q < 60) && portPresent s q && (portOf s q).out && !(portOf s q).linkOut && !portReserved s q

/-- R225: a direction with a port in service again is no longer lost to the groups loaded. -/
def dirBack (s : State) (q : Nat) : State :=
  { s with parts.parts := s.parts.parts.map (fun e =>
      (e.1, { e.2 with group := e.2.group.map (fun (g : Group) => { g with lostDirs := g.lostDirs.filter (fun d => d != portDir q) }) })) }

/-- R224, R383: RETRAIN_PORT: a port that the record disallows is not enabled (R377, log 63). -/
def execRetrainPort (mailbox : Nat) (trained : Bool) (flight : Nat) (echoes : List Nat) (s : State) : Res :=
  serveMsg mailbox 4 s (fun x s =>
    let q := payAt s x 0 4
    if greenFw s = false ∨ retrainOk s q = false then mbAck s mailbox 0x090D
    else if bit s.start.record.allowed.toNat q = false then mbAck (limiterEvent s x.cp 0x0906 ccPort q) mailbox 0x090D
    else if trained = false then mbAck s mailbox 0x090D
    else
      let p := (portOf s q).peer.getD ({}, 0)
      let s := portUp (measurePort s q flight echoes p.1 p.2) q
      mbAck (if q < 48 then dirBack s q else s) mailbox 0)

/-- R201, R383: DOMAIN_RESET: acknowledged when the reset ends. -/
def execDomainReset (mailbox : Nat) (s : State) : Res :=
  serveMsg mailbox 5 s (fun _ s =>
    if greenFw s = false then mbAck s mailbox 0x090D
    else if s.time.resetMailbox = some mailbox then s
    else if getF s tbResetBusy = 1 then mbAck s mailbox 0x090D
    else match armReset s (some mailbox) with
      | some t => t
      | none => mbAck s mailbox 0x0407)

/-- R198, R383: ARM_SNAPSHOT: T_s, the number and the scope in the payload (log 65). -/
def execArmSnapshot (mailbox : Nat) (s : State) : Res :=
  serveMsg mailbox 6 s (fun x s =>
    if greenFw s = false then mbAck s mailbox 0x090D
    else match armSnapshot s (payAt s x 0 8) (payAt s x 8 4 % 256) (bit (payAt s x 0xC 4) 0) with
      | some t => mbAck t mailbox 0
      | none => mbAck s mailbox 0x0407)

/-- R383, R396: ADD_SOFT_REPAIR. -/
def execAddSoftRepair (mailbox : Nat) (s : State) : Res :=
  serveMsg mailbox 7 s (fun x s =>
    if s.ctrl.imageRuns = false ∨ bit (getF s bcPolicy) 2 = false then mbAck s mailbox 0x090D
    else match pendingSlot s with
      | some i => mbAck (setF s bcEntry600 (payAt s x 0 4) i) mailbox 0
      | none => mbAck s mailbox 0x090E)

/-- R383: COMMAND_UNKNOWN; before firmware runs the boot ROM answers 0x090D. -/
def execCommandUnknown (mailbox : Nat) (s : State) : Res :=
  if 64 ≤ mailbox then .fault .noSuchUnit
  else .next (match mboxMsg s mailbox with
    | some x => if 1 ≤ x.command ∧ x.command ≤ 7 then s else mbAck s mailbox (if s.ctrl.imageRuns then 0x090C else 0x090D)
    | none => s)

end Sys2Proof.Machine
end

