-- ==== Sys2Proof/Machine/Special.lean ====
section
/-! DEFINITION. The exact values that R167's special functions are bounded against, in fixed point with 256 fraction bits. The
truncation lies far below the distance of these values from any FP32 boundary (DEDUCED, log 7). -/

namespace Sys2Proof.Machine

/-- Fraction bits of the fixed point. -/
abbrev fixBits : Nat := 256

/-- Terms `t`, `t z^2 / (i + 2)`, ... of the series of the inverse hyperbolic tangent, `i` odd. -/
def atanhTerms (n i t zz : Nat) : Nat :=
  match n with
  | 0 => 0
  | k + 1 => t / i + atanhTerms k (i + 2) (t * zz / 2 ^ fixBits) zz

/-- `ln ((1 + z) / (1 - z))` for `z ≤ 1/3`. -/
def lnRatio (z : Nat) : Nat := 2 * atanhTerms 90 1 z (z * z / 2 ^ fixBits)

/-- `ln 2`. -/
def lnTwo : Nat := lnRatio (2 ^ fixBits / 3)

/-- Terms `t`, `t r / i`, ... of the exponential series. -/
def expTerms (n i t r : Nat) : Nat :=
  match n with
  | 0 => 0
  | k + 1 => t + expTerms k (i + 1) (t * r / 2 ^ fixBits / i) r

/-- `e^r` for `0 ≤ r ≤ ln 2`. -/
def expFix (r : Nat) : Nat := expTerms 66 1 (2 ^ fixBits) r

/-- `|x|` in fixed point, at most 512: beyond it e^x and 2^x are outside the range of FP32. -/
def fixAbs (m : Nat) (e : Int) : Nat := min (m * 2 ^ (e + fixBits).toNat) (512 * 2 ^ fixBits)

/-- `2^±x`, as a fixed-point number and a power of two. -/
def powTwo (neg : Bool) (x : Nat) : Nat × Int :=
  let k := x / 2 ^ fixBits
  let f := x % 2 ^ fixBits
  if neg ∧ f ≠ 0 then (expFix ((2 ^ fixBits - f) * lnTwo / 2 ^ fixBits), -(k : Int) - 1)
  else (expFix (f * lnTwo / 2 ^ fixBits), if neg then -(k : Int) else k)

/-- `e^±x`, as a fixed-point number and a power of two. -/
def powE (neg : Bool) (x : Nat) : Nat × Int :=
  let k := x / lnTwo
  let r := x % lnTwo
  if neg ∧ r ≠ 0 then (expFix (lnTwo - r), -(k : Int) - 1) else (expFix r, if neg then -(k : Int) else k)

/-- `log2 (m * 2^e)` for `m` not 0. -/
def logTwo (m : Nat) (e : Int) : FVal :=
  let l := log2 m
  let one := 2 ^ fixBits
  let a := m * one / 2 ^ l
  dyadic ((e + l) * one + (lnRatio ((a - one) * one / (a + one)) * one / lnTwo : Nat)) (-(fixBits : Int))

/-- `n / d` with 800 fraction bits. -/
def ratio (neg : Bool) (n d : Nat) : FVal := .fin neg (n * 2 ^ 800 / d) (-800)

/-- `1 / (1 + e^-x)` for `x = ±m * 2^e`. -/
def sigmoidExact (neg : Bool) (m : Nat) (e : Int) : FVal :=
  let p := powE true (fixAbs m e)
  let one := 2 ^ (fixBits + (-p.2).toNat)
  ratio false (if neg then p.1 else one) (one + p.1)

/-- `tanh` of `±m * 2^e`: two terms of its series below 2^-20, which are exact to 2^-80. -/
def tanhExact (neg : Bool) (m : Nat) (e : Int) : FVal :=
  if (log2 m : Int) + e < -20 then
    let d := 3 * 2 ^ (-2 * e).toNat
    .fin neg (m * (d - m * m) * 2 ^ 100 / d) (e - 100)
  else
    let p := powE true (fixAbs (2 * m) e)
    let one := 2 ^ (fixBits + (-p.2).toNat)
    ratio neg (one - p.1) (one + p.1)

/-- R166, R167: the exact result of fexp2, flog2, fexp, fsigmoid and ftanh at a finite operand; none where the function has no
finite value (the logarithm of a number that is not positive). -/
def exactSpecial (op : Nat) (neg : Bool) (m : Nat) (e : Int) : Option FVal :=
  match op with
  | 0x20 => let p := powTwo neg (fixAbs m e); some (.fin false p.1 (p.2 - fixBits))
  | 0x21 => if neg ∨ m = 0 then none else some (logTwo m e)
  | 0x24 => let p := powE neg (fixAbs m e); some (.fin false p.1 (p.2 - fixBits))
  | 0x25 => some (sigmoidExact neg m e)
  | 0x26 => if m = 0 then some (.fin neg 0 0) else some (tanhExact neg m e)
  | _ => none

/-- R167: is the FP32 word `y` within `d` ulp of the value `x`? The ulp is the larger of those at the two numbers; an infinity
stands for the first number beyond the range. -/
def withinUlp (d : Nat) (x : FVal) (y : BitVec 32) : Bool :=
  let z : FVal := match ofF32 y with
    | .inf n => .fin n 1 128
    | v => v
  match x, z with
  | .fin _ m e, .fin _ p f =>
    let top (m : Nat) (e : Int) : Int := if m = 0 then -149 else (log2 m : Int) + e - 23
    let t := max (-149) (max (top m e) (top p f))
    !((FVal.fin false d t).lt (x.add z.neg).abs)
  | _, _ => false

/-- R167: some word within `d` ulp of `x`: the free word where it is one, else the nearest. -/
def nearUlp (d : Nat) (x : FVal) (free : BitVec 32) : BitVec 32 := if withinUlp d x free then free else toF32 x

end Sys2Proof.Machine
end

