-- ==== Sys2Proof/Machine/VecMath.lean ====
section
/-! DEFINITION. What the vector unit computes (R166, R167, R424). -/

namespace Sys2Proof.Machine

/-- R167: every NaN produced is 0x7FC0_0000. -/
def canon (w : BitVec 32) : BitVec 32 := if isNan32 w then nan32 else w

/-- Floor of the square root, by bits from `2^n` down. -/
def sqrtBits (n v r : Nat) : Nat :=
  match n with
  | 0 => if (r + 1) * (r + 1) ≤ v then r + 1 else r
  | k + 1 => if (r + 2 ^ (k + 1)) * (r + 2 ^ (k + 1)) ≤ v then sqrtBits k v (r + 2 ^ (k + 1)) else sqrtBits k v r

/-- R167: is the positive FP32 magnitude `r` within 1 ulp of `1 / (m * 2^e)`? Its step at its exponent is `2^g`. -/
def recipClose (m : Nat) (e : Int) (r : Nat) : Bool :=
  match fmtF32.decode r with
  | .fin _ p f =>
    let g : Int := max (-149) ((log2 (max p 1) : Int) + f - 23)
    -- |p * 2^f * m * 2^e - 1| ≤ 2^g * m * 2^e, over the power of two 2^(min (f + e) (g + e) 0)
    let lo := min (min (f + e) (g + e)) 0
    let prod := p * m * 2 ^ (f + e - lo).toNat
    let one := 2 ^ (0 - lo).toNat
    let tol := m * 2 ^ (g + e - lo).toNat
    decide (prod ≤ one + tol ∧ one ≤ prod + tol)
  | _ => false

/-- The FP32 magnitude nearest below `1 / (m * 2^e)`: 48 quotient bits, then rounded. -/
def recipNear (m : Nat) (e : Int) : Nat :=
  let k : Nat := log2 m + 48
  min 0x7F800000 (fmtF32.magnitude (2 ^ k / m) (-(k : Int) - e))

/-- R167: is the positive FP32 magnitude `r` within 1 ulp of `1 / √(m * 2^e)`? -/
def rsqrtClose (m : Nat) (e : Int) (r : Nat) : Bool :=
  match fmtF32.decode r with
  | .fin _ p f =>
    let g : Int := max (-149) ((log2 (max p 1) : Int) + f - 23)
    let lo := min f g
    -- (p * 2^f - 2^g)^2 * x ≤ 1 ≤ (p * 2^f + 2^g)^2 * x
    let a := p * 2 ^ (f - lo).toNat
    let b := 2 ^ (g - lo).toNat
    let z := 2 * lo + e
    let l := min z 0
    let one := 2 ^ (0 - l).toNat
    let sc := m * 2 ^ (z - l).toNat
    decide ((a - b) * (a - b) * sc ≤ one ∧ one ≤ (a + b) * (a + b) * sc)
  | _ => false

/-- The FP32 magnitude nearest to `1 / √(m * 2^e)`, from the integer square root of `2^k / m`. -/
def rsqrtNear (m : Nat) (e : Int) : Nat :=
  let k : Nat := log2 m + 96 + (log2 m + e.natAbs) % 2
  min 0x7F800000 (fmtF32.magnitude (sqrtBits 60 (2 ^ k / m) 0) ((-(k : Int) - e) / 2))

/-- R167: the special functions. A NaN gives NaN; frecip and frsqrt are some word within 1 ulp of the exact result, IEEE 754
at zeros and infinities; the other five are some word within 1 or 2 ulp of the exact result at a finite operand, and a free
word at an infinity and where the logarithm has no finite value (log 7). -/
def special (op : Nat) (x : BitVec 32) : BitVec 32 :=
  let c := Config.special op x
  match ofF32 x with
  | .nan => nan32
  | .inf neg =>
    if op = 0x22 then (if neg then 0x80000000 else 0)
    else if op = 0x23 then (if neg then nan32 else 0)
    else canon c
  | .fin neg m e =>
    if op = 0x22 then
      if m = 0 then (if neg then 0xFF800000 else 0x7F800000)
      else BitVec.ofNat 32 ((if neg then 0x80000000 else 0) +
        (if recipClose m e (c.toNat % 2 ^ 31) then c.toNat % 2 ^ 31 else recipNear m e))
    else if op = 0x23 then
      if m = 0 then (if neg then 0xFF800000 else 0x7F800000)
      else if neg then nan32
      else BitVec.ofNat 32 (if rsqrtClose m e (c.toNat % 2 ^ 31) then c.toNat % 2 ^ 31 else rsqrtNear m e)
    else match exactSpecial op neg m e with
      | some v => nearUlp (if op ≤ 0x21 then 1 else 2) v c
      | none => canon c

/-- R166: the lane operation of an elementwise op code on the lanes of va, vb, vc. -/
def laneOp (op : Nat) (imm a b c : BitVec 32) (l : Nat) : BitVec 32 :=
  match op with
  | 0x02 => imm
  | 0x03 => BitVec.ofNat 32 l
  | 0x10 => addF32 a b
  | 0x11 => toF32 ((ofF32 a).add (ofF32 b).neg)
  | 0x12 => toF32 ((ofF32 a).mul (ofF32 b))
  | 0x13 => toF32 (((ofF32 a).mul (ofF32 b)).add (ofF32 c))
  | 0x14 => maxF32 a b
  | 0x15 => minF32 a b
  | 0x16 => canon (a &&& 0x7FFFFFFF)
  | 0x17 => canon (a ^^^ 0x80000000)
  | 0x18 => if (ofF32 a).lt (.fin false 0 0) ∨ a = 0x80000000 then 0 else canon a
  | 0x19 => if c ≠ 0 then a else b
  | 0x1A => if (ofF32 a).lt (ofF32 b) then 1 else 0
  | 0x1B => if (ofF32 a).eqv (ofF32 b) then 1 else 0
  | 0x1C => toF32 ((ofF32 a).mul (ofF32 imm))
  | 0x1D => addF32 a imm
  | 0x40 => a + b
  | 0x41 => a - b
  | 0x42 => a * b
  | 0x43 => if a.toInt < b.toInt then b else a
  | 0x44 => if b.toInt < a.toInt then b else a
  | 0x45 => a <<< (imm.toNat % 32)
  | 0x46 => a.sshiftRight (imm.toNat % 32)
  | 0x48 => i32ToF32 a
  | 0x49 => f32ToI32 a
  | o => special o a

/-- R166: an elementwise operation. -/
def vecLanes (op : Nat) (f : VecFields) (k : Core) : Core :=
  setLanes k f.vd (fun l => laneOp op f.imm32 (vLane k f.va l) (vLane k f.vb l) (vLane k f.vc l) l)

/-- R167: combine adjacent values. -/
def pairUp (f : BitVec 32 → BitVec 32 → BitVec 32) (l : List (BitVec 32)) : List (BitVec 32) :=
  match l with
  | a :: b :: r => f a b :: pairUp f r
  | r => r

/-- R167: combine lanes pairwise in seven levels. -/
def reduceLanes (f : BitVec 32 → BitVec 32 → BitVec 32) (l : List (BitVec 32)) : BitVec 32 :=
  ((List.range 7).foldl (fun l _ => pairUp f l) l).headD 0

/-- R166: a reduction, placed in every lane. -/
def vecReduce (g : BitVec 32 → BitVec 32 → BitVec 32) (f : VecFields) (k : Core) : Core :=
  let r := reduceLanes g ((List.range 128).map (fun l => vLane k f.va l))
  setLanes k f.vd (fun _ => r)

/-- R165: the byte address of an activation-buffer operand. -/
def vecAddr (k : Core) (f : VecFields) : Nat := (f.addr + bits (gReg k f.ab).toNat 0 15) % 32768 * 64

/-- R165: an accumulator operand: bits [9:0] the row, bit [10] the array. -/
def vecAccAddr (k : Core) (w : Win) (f : VecFields) : Nat :=
  let a := (f.addr + bits (gReg k f.ab).toNat 0 15) % 32768
  a / 1024 % 2 * 524288 + winRow w (a % 1024) * 512

/-- R424: the row, the upper half and the row groups that g[ga] gives to a tiled operand. -/
def vecRow (k : Core) (f : VecFields) : Nat := bits (gReg k f.ga).toNat 0 14
def vecHalf (k : Core) (f : VecFields) : Nat := bits (gReg k f.ga).toNat 14 1
def vecGroups (k : Core) (f : VecFields) : Nat := bits (gReg k f.ga).toNat 16 16

/-- R424: the bits an element is stored in by vld and vst: 4-bit elements are packed. -/
def vecStore (fmt : Nat) : Nat := match elemBits fmt with | 4 => 4 | 16 => 16 | 32 => 32 | _ => 8

/-- R424: the K tile stride S. -/
def vecStride (k : Core) (f : VecFields) : Nat :=
  let r := vecGroups k f
  1024 * (if isMx f.fmt then r + cdiv r 16 else r)

/-- R424: K positions per tile: 256 for 4-bit elements, 128 otherwise. -/
def vecKt (fmt : Nat) : Nat := if elemBits fmt = 4 then 256 else 128

/-- R424: the place of lane l: K tile base, K position in the tile. -/
def vecPlace (k : Core) (f : VecFields) (l : Nat) : Nat × Nat :=
  let p := 128 * vecHalf k f + l
  (vecAddr k f + p / vecKt f.fmt * vecStride k f, p % vecKt f.fmt)

/-- R424: the byte address of lane l's element. -/
def vecLaneAddr (k : Core) (f : VecFields) (l : Nat) : Nat :=
  if f.tiled then
    if vecStore f.fmt = 32 then vecAddr k f + 1024 * vecRow k f + 4 * (128 * vecHalf k f + l)
    else (vecPlace k f l).1 + actOff (vecStore f.fmt) (vecRow k f) (vecPlace k f l).2
  else
    match vecStore f.fmt with
    | 4 => vecAddr k f + l / 2
    | 16 => vecAddr k f + 2 * l
    | 32 => vecAddr k f + 4 * l
    | _ => vecAddr k f + l

/-- R424: the address of the scale byte of lane l's K group. -/
def vecScaleAddr (k : Core) (f : VecFields) (l : Nat) : Nat :=
  let p := vecPlace k f l
  p.1 + 1024 * vecGroups k f + 8 * vecRow k f + p.2 / 32

/-- R424: lane l of a load. -/
def loadLane (k : Core) (w : Win) (f : VecFields) (l : Nat) : BitVec 32 :=
  if f.acc then BitVec.ofNat 32 (rdLE k.acc (vecAccAddr k w f + 4 * l) 4)
  else
    let a := vecLaneAddr k f l
    let st := vecStore f.fmt
    let code := if st = 32 then coreRdLE k w 0 a 4 else elemCode f.fmt st l (fun j => (coreRd k w 0 (a + j)).toNat)
    if f.fmt = 0xE ∨ f.fmt = 0xF then BitVec.ofNat 32 code
    else if isIntFmt f.fmt then BitVec.ofInt 32 (intVal f.fmt code)
    else if isMx f.fmt then
      let x := if f.tiled then (coreRd k w 0 (vecScaleAddr k f l)).toNat else 127
      if x = 255 then nan32 else toF32 ((elemVal f.fmt code).scale ((x : Int) - 127))
    else toF32 (elemVal f.fmt code)

/-- R166: vld. -/
def vecLoad (w : Win) (f : VecFields) (k : Core) : Core := setLanes k f.vd (fun l => loadLane k w f l)

/-- R424: the code that vst stores for a lane. -/
def storeCode (fmt : Nat) (x : BitVec 32) : Nat :=
  match fmt with
  | 0xE => x.toNat
  | 0xF => x.toNat
  | 2 => low 8 (clampInt (-128) 127 x.toInt)
  | 3 => low 4 (clampInt (-8) 7 x.toInt)
  | 13 => match (ofF32 x).scale 6 with
    | .nan => 0
    | .inf neg => if neg then 0x80 else 0x7F
    | .fin neg m e => low 8 (clampInt (-128) 127 (roundInt neg m e))
  | g => (convF g (ofF32 x) x).1

/-- Write the code of lane l at its place. -/
def putLane (k : Core) (w : Win) (f : VecFields) (base : Core) (l code : Nat) : Core :=
  let a := vecLaneAddr base f l
  match vecStore f.fmt with
  | 32 => coreWrLE k w 0 a 4 code
  | 16 => coreWrLE k w 0 a 2 code
  | 4 =>
    let b := (coreRd k w 0 a).toNat
    coreWr k w 0 a (BitVec.ofNat 8 (if l % 2 = 0 then b / 16 * 16 + code % 16 else b % 16 + 16 * (code % 16)))
  | _ => coreWr k w 0 a (BitVec.ofNat 8 code)

/-- R166: vst. -/
def vecStoreRow (w : Win) (f : VecFields) (k : Core) : Core :=
  if f.acc then
    { k with acc := (List.range 128).foldl (fun m l => wrLE m (vecAccAddr k w f + 4 * l) 4 (vLane k f.va l).toNat) k.acc }
  else iter 128 (fun l k' => putLane k' w f k l (storeCode f.fmt (vLane k f.va l))) k

/-- R167: is block b of 32 lanes a NaN block? -/
def nanBlock (fmt : Nat) (xs : List (BitVec 32)) : Bool :=
  xs.any (fun x => isNan32 x || (fmt != 9 && (ofF32 x).isInf))

/-- R167: ⌊log2⌋ of the largest finite magnitude of a block, none where no finite lane is non-zero. -/
def blockLog (xs : List (BitVec 32)) : Option Int :=
  xs.foldl (fun p x => match ofF32 x with
    | .fin _ m e => if m = 0 then p else match p with
      | none => some ((log2 m : Int) + e)
      | some q => some (max q ((log2 m : Int) + e))
    | _ => p) none

/-- R167: the scale of a block. -/
def blockScale (fmt : Nat) (xs : List (BitVec 32)) : Nat :=
  if nanBlock fmt xs then 0xFF
  else match blockLog xs with
    | none => 0
    | some q => (max 0 (q - emaxOf fmt + 127)).toNat

/-- R167: the element stored for a lane of a block. -/
def mxElem (fmt : Nat) (xs : List (BitVec 32)) (x : BitVec 32) : Nat :=
  let v := ofF32 x
  let neg := bit x.toNat 31
  if nanBlock fmt xs then
    let sgn := !v.isNan && neg
    if fmt = 13 then (if v.isZero then 0 else if sgn then 0x80 else 0x7F)
    else (elemF fmt).sgn sgn + (if v.isZero then 0 else (elemF fmt).maxMag)
  else
    let y := v.scale (127 - (blockScale fmt xs : Int))
    if fmt = 13 then
      match y.scale 6 with
      | .fin n m e => low 8 (clampInt (-128) 127 (roundInt n m e))
      | .inf n => if n then 0x80 else 0x7F
      | .nan => 0
    else (convF fmt y x).1

/-- R167: mxst. -/
def vecMxStore (w : Win) (f : VecFields) (k : Core) : Core :=
  iter 4 (fun b k' =>
    let xs := (List.range 32).map (fun j => vLane k f.va (32 * b + j))
    let k' := iter 32 (fun j k' => putLane k' w f k (32 * b + j) (mxElem f.fmt xs (vLane k f.va (32 * b + j)))) k'
    coreWr k' w 0 (vecScaleAddr k f (32 * b)) (BitVec.ofNat 8 (blockScale f.fmt xs))) k

/-- R168: move `32 * length` bytes; the source is read first. -/
def moveBytes (w : Win) (f : MoveFields) (k : Core) : Core :=
  let off := (gReg k f.ab).toNat
  let src := f.srcAddr + bits off 0 22
  let dst := f.dstAddr + bits off 22 22
  let m := if f.dstSpace = 1 then 1048576 else if f.dstSpace = 2 then 4194304 else if f.dstSpace = 3 then 262144 else 2097152
  let n := if f.srcSpace = 1 then 1048576 else if f.srcSpace = 2 then 4194304 else if f.srcSpace = 4 then 4194304 else 2097152
  let data := (List.range (32 * f.length)).map (fun i => coreRd k w f.srcSpace ((src + i) % n))
  (data.foldl (fun (p : Core × Nat) b => (coreWr p.1 w f.dstSpace ((dst + p.2) % m) b, p.2 + 1)) (k, 0)).1

end Sys2Proof.Machine
end

