-- ==== Sys2Proof/Machine/Moves.lean ====
section
/-! DEFINITION. Local moves (R168). -/

namespace Sys2Proof.Machine

/-- R168: local move. -/
def execLocalMove (core : Nat) (dw : Bool) (f : MoveFields) (ecc : SramEcc) (s : State) : Res :=
  issue (.localMove core dw f .good) core dw [f.ab] s (fun s =>
    coreEcc s core ecc (if f.srcSpace = 0 then 2 else if f.srcSpace = 1 then 3 else 1) (fun s =>
      updCoreNext s core (moveBytes (winOf s core) f)))

end Sys2Proof.Machine
end

