-- ==== Sys2Proof/Machine/Short.lean ====
section
/-! DEFINITION. Short forms of commands that arrive as bytes or bus accesses: each is a command of Syntax.lean given by the fields
it carries, with its meaning beside it. -/

namespace Sys2Proof

open Machine

/-- R211, R216: a control message as its sender's flit, without a fault on the way. -/
def Machine.CtlMsg.sent (m : CtlMsg) (type a b c : Nat) : List Byte := ctlFlit { m with type := type, a := a, b := b, c := c } 0

/-- R11, R12: a read of one word of BAR0. -/
def Instr.rcCounterRead (offset : Nat) : Instr := .counterRead false offset 0x0F#8

/-- R16, R276: a 32-bit write of a context's completion head. -/
def Instr.doorbellCqHead (function ctx : Nat) (value : W32) : Instr := .doorbellCq function (ctx * 0x1000 + 0x20) (value.setWidth 64) 0x0F#8

/-- R16, R296: a 32-bit write of a context's event head. -/
def Instr.doorbellEqHead (function ctx : Nat) (value : W32) : Instr := .doorbellEq function (ctx * 0x1000 + 0x28) (value.setWidth 64) 0x0F#8

/-- R81: records served at the epoch `ahead` of the active one. -/
def Instr.exchangeRecordServe (part requester feature active ahead : Nat) : Instr := .exchangeServe part requester feature (active + ahead)

/-- R189, R216: a sync marker with its fields, at a time stamp in sixteenths of a tick. -/
def Instr.syncMarker (m : CtlMsg) (tick rank hops stamp : Nat) : Instr := .markerFlit m.port (stamp % 16) {} (m.sent 1 tick (rank + 256 * hops) 0)

/-- R104, R216: a flip announcement with its fields. -/
def Instr.flipAnnouncement (m : CtlMsg) (group epoch tick delay : Nat) : Instr := .flipFlit m.port {} (m.sent 2 (group + epoch * 2 ^ 32) tick delay)

/-- R201, R216: a domain reset at its tick. -/
def Instr.domainResetMessage (m : CtlMsg) (tick : Nat) : Instr := .resetFlit m.port {} (m.sent 4 tick 0 0)

/-- R222, R216: a slip notice with its fields. -/
def Instr.slipNotice (m : CtlMsg) (tick step block cause : Nat) : Instr := .slipFlit m.port {} (m.sent 7 tick step (block + cause * 65536))

/-- R226, R216: a step-abandon notice with its fields. -/
def Instr.stepAbandon (m : CtlMsg) (step code block : Nat) : Instr := .abandonFlit m.port {} (m.sent 9 step (code + block * 65536) 0)

/-- The meaning of the short form. -/
def Machine.execRcCounterRead (offset : Nat) (s : State) : Res := execCounterRead false offset 0x0F#8 s

/-- The meaning of the short form. -/
def Machine.execDoorbellCqHead (function ctx : Nat) (value : W32) (s : State) : Res :=
  execDoorbellCq function (ctx * 0x1000 + 0x20) (value.setWidth 64) 0x0F#8 s

/-- The meaning of the short form. -/
def Machine.execDoorbellEqHead (function ctx : Nat) (value : W32) (s : State) : Res :=
  execDoorbellEq function (ctx * 0x1000 + 0x28) (value.setWidth 64) 0x0F#8 s

/-- The meaning of the short form. -/
def Machine.execExchangeRecordServe (part requester feature active ahead : Nat) (s : State) : Res :=
  execExchangeServe part requester feature (active + ahead) s

/-- The meaning of the short form. -/
def Machine.execSyncMarker (m : CtlMsg) (tick rank hops stamp : Nat) (s : State) : Res :=
  execMarkerFlit m.port (stamp % 16) {} (m.sent 1 tick (rank + 256 * hops) 0) s

/-- The meaning of the short form. -/
def Machine.execFlipAnnouncement (m : CtlMsg) (group epoch tick delay : Nat) (s : State) : Res :=
  execFlipFlit m.port {} (m.sent 2 (group + epoch * 2 ^ 32) tick delay) s

/-- The meaning of the short form. -/
def Machine.execDomainResetMessage (m : CtlMsg) (tick : Nat) (s : State) : Res := execResetFlit m.port {} (m.sent 4 tick 0 0) s

/-- The meaning of the short form. -/
def Machine.execSlipNotice (m : CtlMsg) (tick step block cause : Nat) (s : State) : Res :=
  execSlipFlit m.port {} (m.sent 7 tick step (block + cause * 65536)) s

/-- The meaning of the short form. -/
def Machine.execStepAbandon (m : CtlMsg) (step code block : Nat) (s : State) : Res :=
  execAbandonFlit m.port {} (m.sent 9 step (code + block * 65536) 0) s

end Sys2Proof
end

