-- ==== Sys2Proof/Machine/Slab.lean ====
section
/-! DEFINITION. The slab unit's queue: alloc and free instructions (R170) and its pace (R256, R258). -/

namespace Sys2Proof.Machine

/-- R258: a request stands behind those of earlier ticks and behind those of its tick from lower-numbered cores. -/
def insertSlab (q : SlabReq) (l : List SlabReq) : List SlabReq :=
  match l with
  | [] => [q]
  | x :: r => if q.came = x.came ∧ q.core < x.core then q :: x :: r else x :: insertSlab q r

/-- R14, R258: queue a request of this tick. R270 keeps the largest number of requests that waited at once. -/
def queueSlab (s : State) (q : SlabReq) : State :=
  let s : State := { s with front.slab := insertSlab { q with came := now s } s.front.slab }
  setF s mpQueuePeak (max (getF s mpQueuePeak) (min 255 s.front.slab.length))

/-- R170: alloc issues at once; its g register is written when the slab unit has served it. -/
def execAlloc (core : Nat) (dw : Bool) (d sizeLog2 : Nat) (must : Bool) (s : State) : Res :=
  issue (.alloc core dw d sizeLog2 must) core dw [] s (fun s =>
    let s := queueSlab s { isAlloc := true, core := core, ctx := ctxOfCore s core, part := partOfCore s core, order := sizeLog2, must := must, dest := d }
    updCoreNext s core (fun k => { k with allocs := k.allocs + 1, gWait := if d = 0 then k.gWait else k.gWait ++ [d] }))

/-- R170: free. -/
def execFree (core : Nat) (dw : Bool) (a : Nat) (s : State) : Res :=
  issue (.free core dw a) core dw [a] s (fun s =>
    let s := queueSlab s { isAlloc := false, core := core, ctx := ctxOfCore s core, part := partOfCore s core, addr := gReg (coreOf s core) a }
    updCoreNext s core (fun k => { k with allocs := k.allocs + 1 }))

/-- R258: the slab unit begins its next request, at most one every 3 ticks. -/
def execSlabServe (s : State) : Res :=
  match s.front.slab with
  | [] => .next s
  | q :: rest =>
    let free := match s.front.slabLast with | none => true | some t => decide (t + 3 ≤ now s)
    if free then .next (serveSlab { s with front.slab := rest, front.slabLast := some (now s) } q) else .next s

end Sys2Proof.Machine
end

