-- ==== Sys2Proof/Machine/Slots.lean ====
section
/-! DEFINITION. The slots of the link ports (R210, R215): what a port sends in the slot that starts in a tick. -/

namespace Sys2Proof.Machine

/-- A flit leaves on a port. -/
def putFlit (s : State) (q : Nat) (f : List Byte) : State := { s with links.flitsOut := s.links.flitsOut ++ [(q, f)] }

/-- R214: a best-effort flit of the retry buffer is sent. -/
def markSent (s : State) (q : Nat) (f : BeFlit) : State :=
  updPort s q (fun x => { x with nak := false, retry := x.retry.map (fun g => if g.seq = f.seq then { g with sentAt := some (now s) } else g) })

/-- R210, R215: the slot of a port that starts now: a timed flit that was put into it, else a control message, else a best-effort flit
that waits, else idle words. -/
def portSlot (s : State) (q : Nat) : State :=
  let x := portOf s q
  if x.up = false ∨ now s ∈ x.txBusy then s
  else match x.ctlQ with
  | m :: rest => updPort (putFlit s q (ctlFlit m (now s))) q (fun x => { x with ctlQ := rest })
  | [] => match x.retry.find? (fun f => f.sentAt.isNone) with
    | some f => telemAdd (markSent (putFlit s q (beFlit s q f)) q f) 8 1
    | none => s

/-- R210, R215: the messages of the tick go to their ports, and every port sends what its slot carries. -/
def slotPass (s : State) : State :=
  let s := ctlDrain s
  let s := if slotStarts (now s) then iter 60 (fun q s => portSlot s q) s else s
  { s with links.ports := s.links.ports.map (fun e => (e.1, { e.2 with txBusy := e.2.txBusy.filter (fun t => decide (now s < t)) })) }

end Sys2Proof.Machine
end

