-- ==== Sys2Proof/Machine/Tick.lean ====
section
/-! DEFINITION. Ticks: the actions that fire on an edge (R186, R199) and the rows that name them, what the end of a tick settles, and
one ACLK edge of the block (R185, log 166). -/

namespace Sys2Proof.Machine

/-! ### The actions of a tick, in their order (R199) -/

/-- Partitions that exist or run a step. -/
def liveParts (s : State) : List Nat := (mkeys s.parts.parts ++ mkeys s.steps.running).eraseDups

/-- R199: the actions of one kind that have fallen due, by their place in the order. -/
def fireRank (n : Nat) (s : State) : State :=
  match n with
  | 1 => latchDue s
  | 2 => resetsDue s
  | 3 => each (mkeys s.upd.groups) (fun g s => tealFlip s g) s
  | 4 => each (liveParts s) (fun p s => slipsDue s p) s
  | 5 => each (liveParts s) (fun p s => insertionsDue s p) s
  | 6 => each (liveParts s) (fun p s => launchesDue s p) s
  | _ => s

/-- R199: what has fallen due and stands before place `n` takes effect, in order. -/
def fireBefore (n : Nat) (s : State) : State := iter n (fun i s => fireRank i s) s

/-- R186, R200: SNAPSHOT_LATCH. -/
def execSnapshotLatch (s : State) : Res := .next (latchDue s)

/-- R186, R199, R201: DOMAIN_RESET_FIRE. -/
def execDomainResetFire (s : State) : Res := .next (resetsDue (fireBefore 2 s))

/-- R104, R105, R186, R199: TEAL_FLIP. -/
def execTealFlip (group : Nat) (s : State) : Res := .next (tealFlip (fireBefore 3 s) group)

/-- R186, R199, R220: SLIP. -/
def execSlip (part : Nat) (s : State) : Res := if 64 ≤ part then .fault .noSuchUnit else .next (slipsDue (fireBefore 4 s) part)

/-- R186, R199, R202: IDLE_INSERTION. -/
def execIdleInsertion (part : Nat) (s : State) : Res :=
  if 64 ≤ part then .fault .noSuchUnit else .next (insertionsDue (fireBefore 5 s) part)

/-- R5, R186, R199: STEP_LAUNCH. -/
def execStepLaunch (part : Nat) (s : State) : Res :=
  if 64 ≤ part then .fault .noSuchUnit else .next (launchesDue (fireBefore 6 s) part)

/-- R186, R199, R208: TIMED_SEND. -/
def execTimedSend (part stream : Nat) (ecc : SramEcc) (s : State) : Res :=
  if 64 ≤ part then .fault .noSuchUnit else .next (sendsDue (fireBefore 7 s) part stream ecc)

/-! ### The end of a tick -/

/-- R6, R208: the sends of a running step whose slot tick has come and that no row has named. -/
def sendPass (s : State) (p : Nat) : State := each (sendNames s p) (fun i s => sendsDue s p i .good) s

/-- R174: the timed points of a partition's cores that have passed. -/
def missPass (s : State) (p : Nat) : State := each (partCores s p) (fun c s => missPoint s p c) s

/-- R85: the features of a running step whose ready tick has come. -/
def readyPass (s : State) (p : Nat) : State :=
  match runOf s p with
  | none => s
  | some r => iter r.features.length (fun i s => after (execFeatureReady p i s) s) s

/-- What the end of a tick settles in a partition: sends (R208), missed points (R174), ready features (R85), readiness deadlines (R5),
claims (R323), lost links (R224), slice ends (R318), readiness that has passed (R318). -/
def partEnd (s : State) (p : Nat) : State :=
  let s := readyPass (missPass (sendPass s p) p) p
  let s := after (execGroupClaim p s) s
  let s := after (execReadinessDeadline p s) s
  let s := after (execLinkLossEffectiveTick p s) s
  let s := after (execSliceEnd p s) s
  refreshReady s p

/-- R154: a task that stands at a reserved instruction ends its step. -/
def fetchCheck (s : State) (c : Nat) : State :=
  if (coreOf s c).task.isSome ∧ (decodeCore c (wordAt s c (coreOf s c).pc)).isNone then programFault s c else s

/-- The end of a tick: the partitions, the slots of the ports (R210), and what lasts for one tick (R76). -/
def endTick (s : State) : State :=
  let s := each (liveParts s) (fun p s => partEnd s p) (iter 64 (fun c s => fetchCheck s c) s)
  let s := slotPass s
  { s with emb.invalidated := [] }

/-! ### One edge -/

/-- R25, R26: the refreshes granted in the tick before are over, and so are the urgent ones whose time has passed. -/
def refreshOver (s : State) : State :=
  let s : State := { s with bound.refGrant := [] }
  each (s.bound.refEnds.filter (fun e => decide (e.2 ≤ now s))) (fun e s =>
    let t := e.1 / 64
    { s with bound.refUrgent := mset s.bound.refUrgent t (mget s.bound.refUrgent t &&& ~~~(1#64 <<< (e.1 % 64))),
             bound.refEnds := mdel s.bound.refEnds e.1 }) s

/-- R25: the refresh windows of a running step that begin. -/
def windowPass (s : State) (p : Nat) : State :=
  match runOf s p with
  | none => s
  | some r => iter (runEntry s p r).2.refN (fun i s => after (execRefreshWindow p i s) s) s

/-- What a tick begins with in a partition: its refresh windows (R25), the rest of a resize whose code has been copied (R309), and at a
step boundary the changes that await it (R306). -/
def partBegin (s : State) (p : Nat) : State :=
  let s := finishResize (windowPass s p) p
  if atBoundary s p then applyChanges s p else s

/-- What a tick begins with, before its actions: the counter's step to the master's time (R194), sketch_clear (R88), refreshes that are
over (R25, R26), and the partitions. -/
def beginTick (s : State) : State :=
  let s := refreshOver (sketchTick (reacquireDue s))
  each (liveParts s) (fun p s => partBegin s p) s

/-- R185, R186: one ACLK edge: the tick ends, unless the servo holds it, the counter moves, and what has fallen due fires. -/
def blockEdge (s : State) : State :=
  if aclkRuns s then fireBefore 7 (beginTick (aclkEdge (if edgeAmount s = 0 then s else endTick s))) else s

end Sys2Proof.Machine
end

