-- ==== Sys2Proof/Machine/Tile.lean ====
section
/-! DEFINITION. Tile instructions (R114 to R138, R161 to R163). -/

namespace Sys2Proof.Machine

/-- R152: the queue of an array that the tile names is full: 4 tiles wait behind the one that runs. -/
def tileQueueFull (k : Core) (f : TileFields) : Bool :=
  (tileArrays f).any (fun x => decide (5 ≤ (k.tiles.filter (fun t => (tileArrays t.fields).contains x)).length))

/-- R4, R115, R117, R122, R145, R152, R162, R163: issue a tile: its weights are loaded, its operands captured, its gated
cube-ticks counted; a full queue holds it. -/
def tileIssue (mode : TileMode) (f : TileFields) (c : Nat) (s : State) : State :=
  let k := coreOf s c
  let geo := if mode = .convolution then convGeo (gReg k f.xg) else none
  if variantOf s = .jujorS ∧ isDistance mode = true then stepFail s (partOfCore s c) 0x0501
  else if tileLegal mode f = false ∨ (mode = .convolution ∧ geo = none) ∨ ((f.dest = 4 ∨ f.dest = 5) ∧ k.sel = none) then
    programFault s c
  else if tileQueueFull k f then s
  else
    let k := loadWeights k (winOf s c) f
    let gated := if getF s mfZeroGateEn = 1 then tileGated k (winOf s c) mode f else 0
    let s' := putCore s c { k with tiles := k.tiles ++ [tileRecord k (winOf s c) mode f geo] }
    advance (if gated = 0 then s' else addF64 s' mfGatedLo gated) c

/-- The instruction of a mode. -/
def tileExec (i : Instr) (mode : TileMode) (core : Nat) (dw : Bool) (f : TileFields) (ecc : SramEcc) (s : State) : Res :=
  issue i core dw [f.ab, f.xg] s (fun s => coreEcc s core ecc 1 (tileIssue mode f core))

/-- R114: matrix mode. -/
def execTileMatrix (core : Nat) (dw : Bool) (f : TileFields) (ecc : SramEcc) (s : State) : Res :=
  tileExec (.tileMatrix core dw f .good) .matrix core dw f ecc s

/-- R135: L1 distance. -/
def execTileL1 (core : Nat) (dw : Bool) (f : TileFields) (ecc : SramEcc) (s : State) : Res :=
  tileExec (.tileL1 core dw f .good) .l1 core dw f ecc s

/-- R135: L2 distance. -/
def execTileL2 (core : Nat) (dw : Bool) (f : TileFields) (ecc : SramEcc) (s : State) : Res :=
  tileExec (.tileL2 core dw f .good) .l2 core dw f ecc s

/-- R135: dot products. -/
def execTileDot (core : Nat) (dw : Bool) (f : TileFields) (ecc : SramEcc) (s : State) : Res :=
  tileExec (.tileDot core dw f .good) .dot core dw f ecc s

/-- R135: Hamming distance. -/
def execTileHamming (core : Nat) (dw : Bool) (f : TileFields) (ecc : SramEcc) (s : State) : Res :=
  tileExec (.tileHamming core dw f .good) .hamming core dw f ecc s

/-- R136: max-plus. -/
def execTileMaxPlus (core : Nat) (dw : Bool) (f : TileFields) (ecc : SramEcc) (s : State) : Res :=
  tileExec (.tileMaxPlus core dw f .good) .maxPlus core dw f ecc s

/-- R136: min-plus. -/
def execTileMinPlus (core : Nat) (dw : Bool) (f : TileFields) (ecc : SramEcc) (s : State) : Res :=
  tileExec (.tileMinPlus core dw f .good) .minPlus core dw f ecc s

/-- R125: convolution. -/
def execTileConvolution (core : Nat) (dw : Bool) (f : TileFields) (ecc : SramEcc) (s : State) : Res :=
  tileExec (.tileConvolution core dw f .good) .convolution core dw f ecc s

/-- R137: eq. -/
def execTileEq (core : Nat) (dw : Bool) (f : TileFields) (ecc : SramEcc) (s : State) : Res :=
  tileExec (.tileEq core dw f .good) .eq core dw f ecc s

/-- R137: ne. -/
def execTileNe (core : Nat) (dw : Bool) (f : TileFields) (ecc : SramEcc) (s : State) : Res :=
  tileExec (.tileNe core dw f .good) .ne core dw f ecc s

/-- R137: lt. -/
def execTileLt (core : Nat) (dw : Bool) (f : TileFields) (ecc : SramEcc) (s : State) : Res :=
  tileExec (.tileLt core dw f .good) .lt core dw f ecc s

/-- R137: le. -/
def execTileLe (core : Nat) (dw : Bool) (f : TileFields) (ecc : SramEcc) (s : State) : Res :=
  tileExec (.tileLe core dw f .good) .le core dw f ecc s

/-- R137: gt. -/
def execTileGt (core : Nat) (dw : Bool) (f : TileFields) (ecc : SramEcc) (s : State) : Res :=
  tileExec (.tileGt core dw f .good) .gt core dw f ecc s

/-- R137: ge. -/
def execTileGe (core : Nat) (dw : Bool) (f : TileFields) (ecc : SramEcc) (s : State) : Res :=
  tileExec (.tileGe core dw f .good) .ge core dw f ecc s

/-- R115, R123: the oldest tile of a core writes its last output. -/
def execTileComplete (core : Nat) (s : State) : Res :=
  if 64 ≤ core then .fault .noSuchUnit else .next (completeTile s core)

end Sys2Proof.Machine
end

