-- ==== Sys2Proof/Machine/Vector.lean ====
section
/-! DEFINITION. The vector unit's instructions (R165 to R167, R424). -/

namespace Sys2Proof.Machine

/-- R166: an operation between vector registers. -/
def vecExec (i : Instr) (core : Nat) (dw : Bool) (s : State) (g : Core → Core) : Res :=
  issue i core dw [] s (fun s => updCoreNext s core g)

/-- R166, R424: vld. -/
def execVld (core : Nat) (dw : Bool) (f : VecFields) (ecc : SramEcc) (s : State) : Res :=
  issue (.vld core dw f .good) core dw [f.ab, f.ga] s (fun s => coreEcc s core ecc (if f.acc then 3 else 2) (fun s =>
    updCoreNext s core (vecLoad (winOf s core) f)))

/-- R166, R424: vst. -/
def execVst (core : Nat) (dw : Bool) (f : VecFields) (s : State) : Res :=
  issue (.vst core dw f) core dw [f.ab, f.ga] s (fun s => updCoreNext s core (vecStoreRow (winOf s core) f))

/-- R166: vimm. -/
def execVimm (core : Nat) (dw : Bool) (f : VecFields) (s : State) : Res :=
  vecExec (.vimm core dw f) core dw s (vecLanes 0x02 f)

/-- R166: vidx. -/
def execVidx (core : Nat) (dw : Bool) (f : VecFields) (s : State) : Res :=
  vecExec (.vidx core dw f) core dw s (vecLanes 0x03 f)

/-- R166: fadd. -/
def execFadd (core : Nat) (dw : Bool) (f : VecFields) (s : State) : Res :=
  vecExec (.fadd core dw f) core dw s (vecLanes 0x10 f)

/-- R166: fsub. -/
def execFsub (core : Nat) (dw : Bool) (f : VecFields) (s : State) : Res :=
  vecExec (.fsub core dw f) core dw s (vecLanes 0x11 f)

/-- R166: fmul. -/
def execFmul (core : Nat) (dw : Bool) (f : VecFields) (s : State) : Res :=
  vecExec (.fmul core dw f) core dw s (vecLanes 0x12 f)

/-- R166: ffma. -/
def execFfma (core : Nat) (dw : Bool) (f : VecFields) (s : State) : Res :=
  vecExec (.ffma core dw f) core dw s (vecLanes 0x13 f)

/-- R166: fmax. -/
def execFmax (core : Nat) (dw : Bool) (f : VecFields) (s : State) : Res :=
  vecExec (.fmax core dw f) core dw s (vecLanes 0x14 f)

/-- R166: fmin. -/
def execFmin (core : Nat) (dw : Bool) (f : VecFields) (s : State) : Res :=
  vecExec (.fmin core dw f) core dw s (vecLanes 0x15 f)

/-- R166: fabs. -/
def execFabs (core : Nat) (dw : Bool) (f : VecFields) (s : State) : Res :=
  vecExec (.fabs core dw f) core dw s (vecLanes 0x16 f)

/-- R166: fneg. -/
def execFneg (core : Nat) (dw : Bool) (f : VecFields) (s : State) : Res :=
  vecExec (.fneg core dw f) core dw s (vecLanes 0x17 f)

/-- R166: frelu. -/
def execFrelu (core : Nat) (dw : Bool) (f : VecFields) (s : State) : Res :=
  vecExec (.frelu core dw f) core dw s (vecLanes 0x18 f)

/-- R166: fsel. -/
def execFsel (core : Nat) (dw : Bool) (f : VecFields) (s : State) : Res :=
  vecExec (.fsel core dw f) core dw s (vecLanes 0x19 f)

/-- R166: flt. -/
def execFlt (core : Nat) (dw : Bool) (f : VecFields) (s : State) : Res :=
  vecExec (.flt core dw f) core dw s (vecLanes 0x1A f)

/-- R166: feq. -/
def execFeq (core : Nat) (dw : Bool) (f : VecFields) (s : State) : Res :=
  vecExec (.feq core dw f) core dw s (vecLanes 0x1B f)

/-- R166: fmuls. -/
def execFmuls (core : Nat) (dw : Bool) (f : VecFields) (s : State) : Res :=
  vecExec (.fmuls core dw f) core dw s (vecLanes 0x1C f)

/-- R166: fadds. -/
def execFadds (core : Nat) (dw : Bool) (f : VecFields) (s : State) : Res :=
  vecExec (.fadds core dw f) core dw s (vecLanes 0x1D f)

/-- R166: fexp2. -/
def execFexp2 (core : Nat) (dw : Bool) (f : VecFields) (s : State) : Res :=
  vecExec (.fexp2 core dw f) core dw s (vecLanes 0x20 f)

/-- R166: flog2. -/
def execFlog2 (core : Nat) (dw : Bool) (f : VecFields) (s : State) : Res :=
  vecExec (.flog2 core dw f) core dw s (vecLanes 0x21 f)

/-- R166: frecip. -/
def execFrecip (core : Nat) (dw : Bool) (f : VecFields) (s : State) : Res :=
  vecExec (.frecip core dw f) core dw s (vecLanes 0x22 f)

/-- R166: frsqrt. -/
def execFrsqrt (core : Nat) (dw : Bool) (f : VecFields) (s : State) : Res :=
  vecExec (.frsqrt core dw f) core dw s (vecLanes 0x23 f)

/-- R166: fexp. -/
def execFexp (core : Nat) (dw : Bool) (f : VecFields) (s : State) : Res :=
  vecExec (.fexp core dw f) core dw s (vecLanes 0x24 f)

/-- R166: fsigmoid. -/
def execFsigmoid (core : Nat) (dw : Bool) (f : VecFields) (s : State) : Res :=
  vecExec (.fsigmoid core dw f) core dw s (vecLanes 0x25 f)

/-- R166: ftanh. -/
def execFtanh (core : Nat) (dw : Bool) (f : VecFields) (s : State) : Res :=
  vecExec (.ftanh core dw f) core dw s (vecLanes 0x26 f)

/-- R166, R167: fsum. -/
def execFsum (core : Nat) (dw : Bool) (f : VecFields) (s : State) : Res :=
  vecExec (.fsum core dw f) core dw s (vecReduce addF32 f)

/-- R166, R167: fmaxr. -/
def execFmaxr (core : Nat) (dw : Bool) (f : VecFields) (s : State) : Res :=
  vecExec (.fmaxr core dw f) core dw s (vecReduce maxF32 f)

/-- R166, R167: fminr. -/
def execFminr (core : Nat) (dw : Bool) (f : VecFields) (s : State) : Res :=
  vecExec (.fminr core dw f) core dw s (vecReduce minF32 f)

/-- R166: iadd. -/
def execIadd (core : Nat) (dw : Bool) (f : VecFields) (s : State) : Res :=
  vecExec (.iadd core dw f) core dw s (vecLanes 0x40 f)

/-- R166: isub. -/
def execIsub (core : Nat) (dw : Bool) (f : VecFields) (s : State) : Res :=
  vecExec (.isub core dw f) core dw s (vecLanes 0x41 f)

/-- R166: imul. -/
def execImul (core : Nat) (dw : Bool) (f : VecFields) (s : State) : Res :=
  vecExec (.imul core dw f) core dw s (vecLanes 0x42 f)

/-- R166: imax. -/
def execImax (core : Nat) (dw : Bool) (f : VecFields) (s : State) : Res :=
  vecExec (.imax core dw f) core dw s (vecLanes 0x43 f)

/-- R166: imin. -/
def execImin (core : Nat) (dw : Bool) (f : VecFields) (s : State) : Res :=
  vecExec (.imin core dw f) core dw s (vecLanes 0x44 f)

/-- R166: ishl. -/
def execIshl (core : Nat) (dw : Bool) (f : VecFields) (s : State) : Res :=
  vecExec (.ishl core dw f) core dw s (vecLanes 0x45 f)

/-- R166: ishr. -/
def execIshr (core : Nat) (dw : Bool) (f : VecFields) (s : State) : Res :=
  vecExec (.ishr core dw f) core dw s (vecLanes 0x46 f)

/-- R166: cvtif. -/
def execCvtif (core : Nat) (dw : Bool) (f : VecFields) (s : State) : Res :=
  vecExec (.cvtif core dw f) core dw s (vecLanes 0x48 f)

/-- R166: cvtfi. -/
def execCvtfi (core : Nat) (dw : Bool) (f : VecFields) (s : State) : Res :=
  vecExec (.cvtfi core dw f) core dw s (vecLanes 0x49 f)

/-- R167: mxst. -/
def execMxst (core : Nat) (dw : Bool) (f : VecFields) (s : State) : Res :=
  issue (.mxst core dw f) core dw [f.ab, f.ga] s (fun s => updCoreNext s core (vecMxStore (winOf s core) f))

end Sys2Proof.Machine
end

