-- ==== Sys2Proof/Machine/Dispatch.lean ====
section
/-! DEFINITION. Machine/Dispatch.lean: one arm for every command of the table. -/

namespace Sys2Proof.Machine

def exec (i : Instr) (s : State) : Host.Outcome State Fault Refusal :=
  match i with
  | .coldReset => Sys2Proof.Machine.execColdReset s
  | .coldResetRelease octal testEn => Sys2Proof.Machine.execColdResetRelease octal testEn s
  | .warmReset => Sys2Proof.Machine.execWarmReset s
  | .warmResetShort => Sys2Proof.Machine.execWarmResetShort s
  | .warmResetRelease => Sys2Proof.Machine.execWarmResetRelease s
  | .clockLoss => Sys2Proof.Machine.execClockLoss s
  | .powerBudgetCapture watts => Sys2Proof.Machine.execPowerBudgetCapture watts s
  | .pwrStateRun => Sys2Proof.Machine.execPwrStateRun s
  | .pwrStateHold => Sys2Proof.Machine.execPwrStateHold s
  | .pwrStatePrepareOff => Sys2Proof.Machine.execPwrStatePrepareOff s
  | .prepareOffDone => Sys2Proof.Machine.execPrepareOffDone s
  | .pwrStateOff => Sys2Proof.Machine.execPwrStateOff s
  | .powerRemoved => Sys2Proof.Machine.execPowerRemoved s
  | .thermalAlarm => Sys2Proof.Machine.execThermalAlarm s
  | .thermalReaise => Sys2Proof.Machine.execThermalReaise s
  | .thermalRelease => Sys2Proof.Machine.execThermalRelease s
  | .tpulseEdge widthOk tclk => Sys2Proof.Machine.execTpulseEdge widthOk tclk s
  | .tpulseHoldover => Sys2Proof.Machine.execTpulseHoldover s
  | .functionLevelReset function => Sys2Proof.Machine.execFunctionLevelReset function s
  | .functionResetComplete function => Sys2Proof.Machine.execFunctionResetComplete function s
  | .functionResetBound function => Sys2Proof.Machine.execFunctionResetBound function s
  | .atsInvalidate pasid va len => Sys2Proof.Machine.execAtsInvalidate pasid va len s
  | .atsInvalidateDone => Sys2Proof.Machine.execAtsInvalidateDone s
  | .atsCompletion a => Sys2Proof.Machine.execAtsCompletion a s
  | .priResponse entry response => Sys2Proof.Machine.execPriResponse entry response s
  | .registerWrite who offset value enables => Sys2Proof.Machine.execRegisterWrite who offset value enables s
  | .counterRead bar2 offset enables => Sys2Proof.Machine.execCounterRead bar2 offset enables s
  | .doorbellSqTail function offset value enables => Sys2Proof.Machine.execDoorbellSqTail function offset value enables s
  | .doorbellCq function offset value enables => Sys2Proof.Machine.execDoorbellCq function offset value enables s
  | .doorbellEq function offset value enables => Sys2Proof.Machine.execDoorbellEq function offset value enables s
  | .admqTailWrite value => Sys2Proof.Machine.execAdmqTailWrite value s
  | .admcqHeadWrite value => Sys2Proof.Machine.execAdmcqHeadWrite value s
  | .admeqHeadWrite value => Sys2Proof.Machine.execAdmeqHeadWrite value s
  | .descriptorFetch admin => Sys2Proof.Machine.execDescriptorFetch admin s
  | .dispatch admin => Sys2Proof.Machine.execDispatch admin s
  | .commandRetire job ecc => Sys2Proof.Machine.execCommandRetire job ecc s
  | .queueTimeoutCheck => Sys2Proof.Machine.execQueueTimeoutCheck s
  | .msixModerationExpire vector => Sys2Proof.Machine.execMsixModerationExpire vector s
  | .nop job => Sys2Proof.Machine.execNop job s
  | .copy job => Sys2Proof.Machine.execCopy job s
  | .fill job => Sys2Proof.Machine.execFill job s
  | .execBuffer job => Sys2Proof.Machine.execExecBuffer job s
  | .launchStep job => Sys2Proof.Machine.execLaunchStep job s
  | .createObject job => Sys2Proof.Machine.execCreateObject job s
  | .freeObject job => Sys2Proof.Machine.execFreeObject job s
  | .objectRelease index => Sys2Proof.Machine.execObjectRelease index s
  | .createFence job => Sys2Proof.Machine.execCreateFence job s
  | .destroyFence job => Sys2Proof.Machine.execDestroyFence job s
  | .fenceFree fence => Sys2Proof.Machine.execFenceFree fence s
  | .queryCapabilities job => Sys2Proof.Machine.execQueryCapabilities job s
  | .loadProgram job => Sys2Proof.Machine.execLoadProgram job s
  | .unloadProgram job => Sys2Proof.Machine.execUnloadProgram job s
  | .grantArena job => Sys2Proof.Machine.execGrantArena job s
  | .revokeArena job => Sys2Proof.Machine.execRevokeArena job s
  | .bindTable job => Sys2Proof.Machine.execBindTable job s
  | .unbindTable job => Sys2Proof.Machine.execUnbindTable job s
  | .loadCodebook job => Sys2Proof.Machine.execLoadCodebook job s
  | .update job => Sys2Proof.Machine.execUpdate job s
  | .bindStream job => Sys2Proof.Machine.execBindStream job s
  | .unbindStream job => Sys2Proof.Machine.execUnbindStream job s
  | .sealEpoch job => Sys2Proof.Machine.execSeal job s
  | .sealComplete group => Sys2Proof.Machine.execSealComplete group s
  | .flip job => Sys2Proof.Machine.execFlip job s
  | .readTick job => Sys2Proof.Machine.execReadTick job s
  | .readSnapshot job => Sys2Proof.Machine.execReadSnapshot job s
  | .createContext job => Sys2Proof.Machine.execCreateContext job s
  | .destroyContext job => Sys2Proof.Machine.execDestroyContext job s
  | .destroyComplete ctx => Sys2Proof.Machine.execDestroyComplete ctx s
  | .destroyWatchdog ctx => Sys2Proof.Machine.execDestroyWatchdog ctx s
  | .partitionResetOverrun part => Sys2Proof.Machine.execPartitionResetOverrun part s
  | .createPartition job => Sys2Proof.Machine.execCreatePartition job s
  | .resizePartition job => Sys2Proof.Machine.execResizePartition job s
  | .destroyPartition job => Sys2Proof.Machine.execDestroyPartition job s
  | .loadGroup job => Sys2Proof.Machine.execLoadGroup job s
  | .unloadGroup job => Sys2Proof.Machine.execUnloadGroup job s
  | .setContextSched job => Sys2Proof.Machine.execSetContextSched job s
  | .setCalibration job => Sys2Proof.Machine.execSetCalibration job s
  | .readAccounting job => Sys2Proof.Machine.execReadAccounting job s
  | .grantPages job => Sys2Proof.Machine.execGrantPages job s
  | .revokePages job => Sys2Proof.Machine.execRevokePages job s
  | .resetInstance job => Sys2Proof.Machine.execResetInstance job s
  | .replayHoldingRing job => Sys2Proof.Machine.execReplayHoldingRing job s
  | .setQueue job => Sys2Proof.Machine.execSetQueue job s
  | .partitionStepBoundary part => Sys2Proof.Machine.execPartitionStepBoundary part s
  | .stepLaunch part => Sys2Proof.Machine.execStepLaunch part s
  | .timedPointMiss part core => Sys2Proof.Machine.execTimedPointMiss part core s
  | .slip part => Sys2Proof.Machine.execSlip part s
  | .idleInsertion part => Sys2Proof.Machine.execIdleInsertion part s
  | .tealFlip group => Sys2Proof.Machine.execTealFlip group s
  | .snapshotLatch => Sys2Proof.Machine.execSnapshotLatch s
  | .domainResetFire => Sys2Proof.Machine.execDomainResetFire s
  | .domainResetLocalDone => Sys2Proof.Machine.execDomainResetLocalDone s
  | .domainResetDeadline => Sys2Proof.Machine.execDomainResetDeadline s
  | .sliceEnd part => Sys2Proof.Machine.execSliceEnd part s
  | .stepSuspend part => Sys2Proof.Machine.execStepSuspend part s
  | .groupClaim part => Sys2Proof.Machine.execGroupClaim part s
  | .controlNop core dw => Sys2Proof.Machine.execControlNop core dw s
  | .li core dw d imm => Sys2Proof.Machine.execLi core dw d imm s
  | .addi core dw d a imm => Sys2Proof.Machine.execAddi core dw d a imm s
  | .add core dw d a b => Sys2Proof.Machine.execAdd core dw d a b s
  | .sub core dw d a b => Sys2Proof.Machine.execSub core dw d a b s
  | .cmp core dw a b => Sys2Proof.Machine.execCmp core dw a b s
  | .br core dw cond target => Sys2Proof.Machine.execBr core dw cond target s
  | .loop core dw a target => Sys2Proof.Machine.execLoop core dw a target s
  | .sync core dw => Sys2Proof.Machine.execSync core dw s
  | .twait core dw imm => Sys2Proof.Machine.execTwait core dw imm s
  | .rdtick core dw d => Sys2Proof.Machine.execRdtick core dw d s
  | .halt core dw => Sys2Proof.Machine.execHalt core dw s
  | .tileMatrix core dw f ecc => Sys2Proof.Machine.execTileMatrix core dw f ecc s
  | .tileL1 core dw f ecc => Sys2Proof.Machine.execTileL1 core dw f ecc s
  | .tileL2 core dw f ecc => Sys2Proof.Machine.execTileL2 core dw f ecc s
  | .tileDot core dw f ecc => Sys2Proof.Machine.execTileDot core dw f ecc s
  | .tileHamming core dw f ecc => Sys2Proof.Machine.execTileHamming core dw f ecc s
  | .tileMaxPlus core dw f ecc => Sys2Proof.Machine.execTileMaxPlus core dw f ecc s
  | .tileMinPlus core dw f ecc => Sys2Proof.Machine.execTileMinPlus core dw f ecc s
  | .tileConvolution core dw f ecc => Sys2Proof.Machine.execTileConvolution core dw f ecc s
  | .tileEq core dw f ecc => Sys2Proof.Machine.execTileEq core dw f ecc s
  | .tileNe core dw f ecc => Sys2Proof.Machine.execTileNe core dw f ecc s
  | .tileLt core dw f ecc => Sys2Proof.Machine.execTileLt core dw f ecc s
  | .tileLe core dw f ecc => Sys2Proof.Machine.execTileLe core dw f ecc s
  | .tileGt core dw f ecc => Sys2Proof.Machine.execTileGt core dw f ecc s
  | .tileGe core dw f ecc => Sys2Proof.Machine.execTileGe core dw f ecc s
  | .tileComplete core => Sys2Proof.Machine.execTileComplete core s
  | .selectBegin core dw f => Sys2Proof.Machine.execSelectBegin core dw f s
  | .selectEnd core dw emitPairs emitIds outAddr stream ecc => Sys2Proof.Machine.execSelectEnd core dw emitPairs emitIds outAddr stream ecc s
  | .merge core dw srcAddr nInM1 ecc => Sys2Proof.Machine.execMerge core dw srcAddr nInM1 ecc s
  | .vld core dw f ecc => Sys2Proof.Machine.execVld core dw f ecc s
  | .vst core dw f => Sys2Proof.Machine.execVst core dw f s
  | .vimm core dw f => Sys2Proof.Machine.execVimm core dw f s
  | .vidx core dw f => Sys2Proof.Machine.execVidx core dw f s
  | .fadd core dw f => Sys2Proof.Machine.execFadd core dw f s
  | .fsub core dw f => Sys2Proof.Machine.execFsub core dw f s
  | .fmul core dw f => Sys2Proof.Machine.execFmul core dw f s
  | .ffma core dw f => Sys2Proof.Machine.execFfma core dw f s
  | .fmax core dw f => Sys2Proof.Machine.execFmax core dw f s
  | .fmin core dw f => Sys2Proof.Machine.execFmin core dw f s
  | .fabs core dw f => Sys2Proof.Machine.execFabs core dw f s
  | .fneg core dw f => Sys2Proof.Machine.execFneg core dw f s
  | .frelu core dw f => Sys2Proof.Machine.execFrelu core dw f s
  | .fsel core dw f => Sys2Proof.Machine.execFsel core dw f s
  | .flt core dw f => Sys2Proof.Machine.execFlt core dw f s
  | .feq core dw f => Sys2Proof.Machine.execFeq core dw f s
  | .fmuls core dw f => Sys2Proof.Machine.execFmuls core dw f s
  | .fadds core dw f => Sys2Proof.Machine.execFadds core dw f s
  | .fexp2 core dw f => Sys2Proof.Machine.execFexp2 core dw f s
  | .flog2 core dw f => Sys2Proof.Machine.execFlog2 core dw f s
  | .frecip core dw f => Sys2Proof.Machine.execFrecip core dw f s
  | .frsqrt core dw f => Sys2Proof.Machine.execFrsqrt core dw f s
  | .fexp core dw f => Sys2Proof.Machine.execFexp core dw f s
  | .fsigmoid core dw f => Sys2Proof.Machine.execFsigmoid core dw f s
  | .ftanh core dw f => Sys2Proof.Machine.execFtanh core dw f s
  | .fsum core dw f => Sys2Proof.Machine.execFsum core dw f s
  | .fmaxr core dw f => Sys2Proof.Machine.execFmaxr core dw f s
  | .fminr core dw f => Sys2Proof.Machine.execFminr core dw f s
  | .iadd core dw f => Sys2Proof.Machine.execIadd core dw f s
  | .isub core dw f => Sys2Proof.Machine.execIsub core dw f s
  | .imul core dw f => Sys2Proof.Machine.execImul core dw f s
  | .imax core dw f => Sys2Proof.Machine.execImax core dw f s
  | .imin core dw f => Sys2Proof.Machine.execImin core dw f s
  | .ishl core dw f => Sys2Proof.Machine.execIshl core dw f s
  | .ishr core dw f => Sys2Proof.Machine.execIshr core dw f s
  | .cvtif core dw f => Sys2Proof.Machine.execCvtif core dw f s
  | .cvtfi core dw f => Sys2Proof.Machine.execCvtfi core dw f s
  | .mxst core dw f => Sys2Proof.Machine.execMxst core dw f s
  | .localMove core dw f ecc => Sys2Proof.Machine.execLocalMove core dw f ecc s
  | .tsend core dw stream space srcAddr ab => Sys2Proof.Machine.execTsend core dw stream space srcAddr ab s
  | .rarm core dw stream => Sys2Proof.Machine.execRarm core dw stream s
  | .rwait core dw stream => Sys2Proof.Machine.execRwait core dw stream s
  | .alloc core dw d sizeLog2 must => Sys2Proof.Machine.execAlloc core dw d sizeLog2 must s
  | .free core dw a => Sys2Proof.Machine.execFree core dw a s
  | .slabServe => Sys2Proof.Machine.execSlabServe s
  | .fsig core dw fence a => Sys2Proof.Machine.execFsig core dw fence a s
  | .fwait core dw fence a ignoreErr => Sys2Proof.Machine.execFwait core dw fence a ignoreErr s
  | .yield core dw => Sys2Proof.Machine.execYield core dw s
  | .lateFeatureTest core dw feature writeMask maskAddr ab => Sys2Proof.Machine.execLateFeatureTest core dw feature writeMask maskAddr ab s
  | .timedSend part stream ecc => Sys2Proof.Machine.execTimedSend part stream ecc s
  | .deliveryLanded part stream => Sys2Proof.Machine.execDeliveryLanded part stream s
  | .featureReady part feature => Sys2Proof.Machine.execFeatureReady part feature s
  | .lookupId part feature bag pos ecc => Sys2Proof.Machine.execLookupId part feature bag pos ecc s
  | .promotionCopyDone table row => Sys2Proof.Machine.execPromotionCopyDone table row s
  | .sketchHalving => Sys2Proof.Machine.execSketchHalving s
  | .sketchClear => Sys2Proof.Machine.execSketchClear s
  | .crimsonQuotaWrite part value => Sys2Proof.Machine.execCrimsonQuotaWrite part value s
  | .exchangeServe part requester feature epoch => Sys2Proof.Machine.execExchangeServe part requester feature epoch s
  | .carryAreaFinal part => Sys2Proof.Machine.execCarryAreaFinal part s
  | .twinCatchupDone table => Sys2Proof.Machine.execTwinCatchupDone table s
  | .deltaMergePassEnd tableGroup => Sys2Proof.Machine.execDeltaMergePassEnd tableGroup s
  | .timedFlit port fec bytes => Sys2Proof.Machine.execTimedFlit port fec bytes s
  | .bestEffortFlit port fec bytes => Sys2Proof.Machine.execBestEffortFlit port fec bytes s
  | .beRetryTimeout port => Sys2Proof.Machine.execBeRetryTimeout port s
  | .bePacketTimeout index => Sys2Proof.Machine.execBePacketTimeout index s
  | .updateStreamPacket p data => Sys2Proof.Machine.execUpdateStreamPacket p data s
  | .greyLaneRecord p data => Sys2Proof.Machine.execGreyLaneRecord p data s
  | .greyLaneReturn p data => Sys2Proof.Machine.execGreyLaneReturn p data s
  | .promotionFetch p data => Sys2Proof.Machine.execPromotionFetch p data s
  | .promotionData p data => Sys2Proof.Machine.execPromotionData p data s
  | .firmwareManagement p data => Sys2Proof.Machine.execFirmwareManagement p data s
  | .markerFlit port frac fec bytes => Sys2Proof.Machine.execMarkerFlit port frac fec bytes s
  | .syncMarkerSend => Sys2Proof.Machine.execSyncMarkerSend s
  | .markerHoldover => Sys2Proof.Machine.execMarkerHoldover s
  | .unaligned => Sys2Proof.Machine.execUnaligned s
  | .masterTakeover => Sys2Proof.Machine.execMasterTakeover s
  | .flipFlit port fec bytes => Sys2Proof.Machine.execFlipFlit port fec bytes s
  | .snapshotAnnouncement port fec bytes => Sys2Proof.Machine.execSnapshotAnnouncement port fec bytes s
  | .resetFlit port fec bytes => Sys2Proof.Machine.execResetFlit port fec bytes s
  | .resetDone port fec bytes => Sys2Proof.Machine.execResetDone port fec bytes s
  | .idleInsertionMessage port fec bytes => Sys2Proof.Machine.execIdleInsertionMessage port fec bytes s
  | .slipFlit port fec bytes => Sys2Proof.Machine.execSlipFlit port fec bytes s
  | .linkLossNotice port fec bytes => Sys2Proof.Machine.execLinkLossNotice port fec bytes s
  | .abandonFlit port fec bytes => Sys2Proof.Machine.execAbandonFlit port fec bytes s
  | .management port fec bytes => Sys2Proof.Machine.execManagement port fec bytes s
  | .linkPcsDown port => Sys2Proof.Machine.execLinkPcsDown port s
  | .stackReadBeat stack recc reader addr => Sys2Proof.Machine.execStackReadBeat stack recc reader addr s
  | .stackReadTimeout stack => Sys2Proof.Machine.execStackReadTimeout stack s
  | .refreshWindow part index => Sys2Proof.Machine.execRefreshWindow part index s
  | .spRefUrgent stack pc coincident => Sys2Proof.Machine.execSpRefUrgent stack pc coincident s
  | .fuseLoad => Sys2Proof.Machine.execFuseLoad s
  | .flashRead answered => Sys2Proof.Machine.execFlashRead answered s
  | .verify => Sys2Proof.Machine.execVerify s
  | .firmwareStart => Sys2Proof.Machine.execFirmwareStart s
  | .hbmTrainDone stack cfg => Sys2Proof.Machine.execHbmTrainDone stack cfg s
  | .hbmTrainFail stack => Sys2Proof.Machine.execHbmTrainFail stack s
  | .bistAndRepair faults => Sys2Proof.Machine.execBistAndRepair faults s
  | .linkTraining port flight echoes peer peerPort => Sys2Proof.Machine.execLinkTraining port flight echoes peer peerPort s
  | .linkPortUp port flight echoes peer peerPort => Sys2Proof.Machine.execLinkPortUp port flight echoes peer peerPort s
  | .linkRetry => Sys2Proof.Machine.execLinkRetry s
  | .syncWaitEvent => Sys2Proof.Machine.execSyncWaitEvent s
  | .loadState ok => Sys2Proof.Machine.execLoadState ok s
  | .startStateLimit => Sys2Proof.Machine.execStartStateLimit s
  | .startHeld => Sys2Proof.Machine.execStartHeld s
  | .capabilityRewriteDone => Sys2Proof.Machine.execCapabilityRewriteDone s
  | .cpHoldSet cp => Sys2Proof.Machine.execCpHoldSet cp s
  | .cpHoldClear cp => Sys2Proof.Machine.execCpHoldClear cp s
  | .watchdogKick cp => Sys2Proof.Machine.execWatchdogKick cp s
  | .watchdogExpire cp => Sys2Proof.Machine.execWatchdogExpire cp s
  | .firmwareAccess cp a ecc => Sys2Proof.Machine.execFirmwareAccess cp a ecc s
  | .flashCommandRelease => Sys2Proof.Machine.execFlashCommandRelease s
  | .mailboxLockRead who mailbox => Sys2Proof.Machine.execMailboxLockRead who mailbox s
  | .mailboxRelease who mailbox => Sys2Proof.Machine.execMailboxRelease who mailbox s
  | .mailboxRing who mailbox => Sys2Proof.Machine.execMailboxRing who mailbox s
  | .mailboxAck who mailbox code => Sys2Proof.Machine.execMailboxAck who mailbox code s
  | .mailboxUnpowered mailbox write => Sys2Proof.Machine.execMailboxUnpowered mailbox write s
  | .getStatus mailbox => Sys2Proof.Machine.execGetStatus mailbox s
  | .pushBundle mailbox => Sys2Proof.Machine.execPushBundle mailbox s
  | .flashUpdate mailbox flashOk => Sys2Proof.Machine.execFlashUpdate mailbox flashOk s
  | .retrainPort mailbox trained flight echoes => Sys2Proof.Machine.execRetrainPort mailbox trained flight echoes s
  | .domainReset mailbox => Sys2Proof.Machine.execDomainReset mailbox s
  | .armSnapshot mailbox => Sys2Proof.Machine.execArmSnapshot mailbox s
  | .addSoftRepair mailbox => Sys2Proof.Machine.execAddSoftRepair mailbox s
  | .commandUnknown mailbox => Sys2Proof.Machine.execCommandUnknown mailbox s
  | .snapshotArm => Sys2Proof.Machine.execSnapshotArm s
  | .domainResetArm => Sys2Proof.Machine.execDomainResetArm s
  | .nocOwnershipWrite word value => Sys2Proof.Machine.execNocOwnershipWrite word value s
  | .slotOwnershipWrite port word value => Sys2Proof.Machine.execSlotOwnershipWrite port word value s
  | .translationWalk w ecc => Sys2Proof.Machine.execTranslationWalk w ecc s
  | .pageRequestResponse value => Sys2Proof.Machine.execPageRequestResponse value s
  | .faultRecordWrite => Sys2Proof.Machine.execFaultRecordWrite s
  | .accessCounterDecay => Sys2Proof.Machine.execAccessCounterDecay s
  | .acClear index => Sys2Proof.Machine.execAcClear index s
  | .acClearAll => Sys2Proof.Machine.execAcClearAll s
  | .mirrorGo => Sys2Proof.Machine.execMirrorGo s
  | .mirrorDone => Sys2Proof.Machine.execMirrorDone s
  | .invalidateAll => Sys2Proof.Machine.execInvalidateAll s
  | .invalidatePasid pasid => Sys2Proof.Machine.execInvalidatePasid pasid s
  | .invalidatePasidRange pasid => Sys2Proof.Machine.execInvalidatePasidRange pasid s
  | .invalidateDomain domain => Sys2Proof.Machine.execInvalidateDomain domain s
  | .invalidateDomainRange domain => Sys2Proof.Machine.execInvalidateDomainRange domain s
  | .invalidatePasidEntry pasid => Sys2Proof.Machine.execInvalidatePasidEntry pasid s
  | .invalidationComplete => Sys2Proof.Machine.execInvalidationComplete s
  | .forerunnerModeSet on => Sys2Proof.Machine.execForerunnerModeSet on s
  | .translationRegionSet value => Sys2Proof.Machine.execTranslationRegionSet value s
  | .keySlotLoad slot => Sys2Proof.Machine.execKeySlotLoad slot s
  | .keySlotClear slot => Sys2Proof.Machine.execKeySlotClear slot s
  | .keySlotEffect => Sys2Proof.Machine.execKeySlotEffect s
  | .ceCounterHalving => Sys2Proof.Machine.execCeCounterHalving s
  | .ashTest unit deferred => Sys2Proof.Machine.execAshTest unit deferred s
  | .ashTestResult unit pass repair => Sys2Proof.Machine.execAshTestResult unit pass repair s
  | .ashWatchSet unit => Sys2Proof.Machine.execAshWatchSet unit s
  | .ashWatchClear unit => Sys2Proof.Machine.execAshWatchClear unit s
  | .unitMarkOut unit => Sys2Proof.Machine.execUnitMarkOut unit s
  | .digestGo => Sys2Proof.Machine.execDigestGo s
  | .digestDone => Sys2Proof.Machine.execDigestDone s
  | .powerWindow watts => Sys2Proof.Machine.execPowerWindow watts s
  | .linkLossEffectiveTick part => Sys2Proof.Machine.execLinkLossEffectiveTick part s
  | .readinessDeadline part => Sys2Proof.Machine.execReadinessDeadline part s
  | .partitionResetDone part => Sys2Proof.Machine.execPartitionResetDone part s
  | .wrapperInstructionUpdate instruction => Sys2Proof.Machine.execWrapperInstructionUpdate instruction s
  | .poweredDownDomainAccess offset write => Sys2Proof.Machine.execPoweredDownDomainAccess offset write s

end Sys2Proof.Machine
end

