-- ==== Sys2Proof/Machine/CoreEncode.lean ====
section
/-! DEFINITION. The words of the 128-bit core instructions, field by field from the encodings of R159 to R173. -/

namespace Sys2Proof.Machine

/-- Fields of a width and a value, the first in the lowest bits. -/
def pack (l : List (Nat × Nat)) : Nat :=
  match l with
  | [] => 0
  | (w, v) :: r => v % 2 ^ w + 2 ^ w * pack r

/-- R160: a control instruction; fields that it does not use are 0. -/
def encControl (op : Nat) (dw : Bool) (d a b cond target imm : Nat) : Nat :=
  pack [(4, 0), (8, op), (1, b2n dw), (4, d), (4, a), (4, b), (3, cond), (4, 0), (14, target), (18, 0), (64, imm)]

/-- R161: a tile instruction. -/
def encTile (op : Nat) (dw : Bool) (f : TileFields) : Nat :=
  pack [(4, 1), (8, op), (1, b2n dw), (2, f.arrays), (4, f.fmtA), (4, f.fmtW), (4, f.fmtOut), (3, f.dest), (1, b2n f.asym),
    (1, b2n f.clamp), (1, b2n f.statClear), (12, f.mBlk), (8, f.kAct), (7, f.nAct), (15, f.actAddr), (12, f.wAddr), (10, f.accRow),
    (15, f.outAddr), (4, f.xg), (8, f.imm8), (4, f.ab)]

/-- R164: a select instruction. -/
def encSelect (dw : Bool) (f : SelectFields) : Nat :=
  pack [(4, 2), (8, 0), (1, b2n dw), (1, b2n f.largest), (1, b2n f.int32), (9, f.k), (17, f.rows), (14, f.rowBase), (4, f.a), (4, f.b)]

/-- R165: a vector instruction. -/
def encVec (op : Nat) (dw : Bool) (f : VecFields) : Nat :=
  pack [(4, 3), (8, op), (1, b2n dw), (5, f.vd), (5, f.va), (5, f.vb), (5, f.vc), (4, f.fmt), (1, b2n f.tiled), (1, b2n f.acc),
    (15, f.addr), (4, f.ab), (4, f.ga), (32, f.imm32.toNat)]

/-- The word of a core instruction; none for a command that is no core instruction. -/
def encodeCore (i : Instr) : Option Nat :=
  match i with
  | .controlNop _ dw => some (encControl 0x00 dw 0 0 0 0 0 0)
  | .li _ dw d imm => some (encControl 0x01 dw d 0 0 0 0 imm.toNat)
  | .addi _ dw d a imm => some (encControl 0x02 dw d a 0 0 0 imm.toNat)
  | .add _ dw d a b => some (encControl 0x03 dw d a b 0 0 0)
  | .sub _ dw d a b => some (encControl 0x04 dw d a b 0 0 0)
  | .cmp _ dw a b => some (encControl 0x05 dw 0 a b 0 0 0)
  | .br _ dw cond target => some (encControl 0x06 dw 0 0 0 cond target 0)
  | .loop _ dw a target => some (encControl 0x07 dw 0 a 0 0 target 0)
  | .sync _ dw => some (encControl 0x08 dw 0 0 0 0 0 0)
  | .twait _ dw imm => some (encControl 0x09 dw 0 0 0 0 0 imm.toNat)
  | .rdtick _ dw d => some (encControl 0x0A dw d 0 0 0 0 0)
  | .halt _ dw => some (encControl 0x0B dw 0 0 0 0 0 0)
  | .tileMatrix _ dw f _ => some (encTile 0x00 dw f)
  | .tileL1 _ dw f _ => some (encTile 0x01 dw f)
  | .tileL2 _ dw f _ => some (encTile 0x02 dw f)
  | .tileDot _ dw f _ => some (encTile 0x03 dw f)
  | .tileHamming _ dw f _ => some (encTile 0x04 dw f)
  | .tileMaxPlus _ dw f _ => some (encTile 0x05 dw f)
  | .tileMinPlus _ dw f _ => some (encTile 0x06 dw f)
  | .tileConvolution _ dw f _ => some (encTile 0x07 dw f)
  | .tileEq _ dw f _ => some (encTile 0x08 dw f)
  | .tileNe _ dw f _ => some (encTile 0x09 dw f)
  | .tileLt _ dw f _ => some (encTile 0x0A dw f)
  | .tileLe _ dw f _ => some (encTile 0x0B dw f)
  | .tileGt _ dw f _ => some (encTile 0x0C dw f)
  | .tileGe _ dw f _ => some (encTile 0x0D dw f)
  | .selectBegin _ dw f => some (encSelect dw f)
  | .selectEnd _ dw emitPairs emitIds outAddr stream _ =>
    some (pack ([(4, 2), (8, 0x01), (1, b2n dw), (1, b2n emitPairs), (1, b2n emitIds), (15, outAddr), (16, stream)]))
  | .merge _ dw srcAddr nInM1 _ => some (pack [(4, 2), (8, 0x02), (1, b2n dw), (15, srcAddr), (16, nInM1)])
  | .vld _ dw f _ => some (encVec 0x00 dw f)
  | .vst _ dw f => some (encVec 0x01 dw f)
  | .vimm _ dw f => some (encVec 0x02 dw f)
  | .vidx _ dw f => some (encVec 0x03 dw f)
  | .fadd _ dw f => some (encVec 0x10 dw f)
  | .fsub _ dw f => some (encVec 0x11 dw f)
  | .fmul _ dw f => some (encVec 0x12 dw f)
  | .ffma _ dw f => some (encVec 0x13 dw f)
  | .fmax _ dw f => some (encVec 0x14 dw f)
  | .fmin _ dw f => some (encVec 0x15 dw f)
  | .fabs _ dw f => some (encVec 0x16 dw f)
  | .fneg _ dw f => some (encVec 0x17 dw f)
  | .frelu _ dw f => some (encVec 0x18 dw f)
  | .fsel _ dw f => some (encVec 0x19 dw f)
  | .flt _ dw f => some (encVec 0x1A dw f)
  | .feq _ dw f => some (encVec 0x1B dw f)
  | .fmuls _ dw f => some (encVec 0x1C dw f)
  | .fadds _ dw f => some (encVec 0x1D dw f)
  | .fexp2 _ dw f => some (encVec 0x20 dw f)
  | .flog2 _ dw f => some (encVec 0x21 dw f)
  | .frecip _ dw f => some (encVec 0x22 dw f)
  | .frsqrt _ dw f => some (encVec 0x23 dw f)
  | .fexp _ dw f => some (encVec 0x24 dw f)
  | .fsigmoid _ dw f => some (encVec 0x25 dw f)
  | .ftanh _ dw f => some (encVec 0x26 dw f)
  | .fsum _ dw f => some (encVec 0x30 dw f)
  | .fmaxr _ dw f => some (encVec 0x31 dw f)
  | .fminr _ dw f => some (encVec 0x32 dw f)
  | .iadd _ dw f => some (encVec 0x40 dw f)
  | .isub _ dw f => some (encVec 0x41 dw f)
  | .imul _ dw f => some (encVec 0x42 dw f)
  | .imax _ dw f => some (encVec 0x43 dw f)
  | .imin _ dw f => some (encVec 0x44 dw f)
  | .ishl _ dw f => some (encVec 0x45 dw f)
  | .ishr _ dw f => some (encVec 0x46 dw f)
  | .cvtif _ dw f => some (encVec 0x48 dw f)
  | .cvtfi _ dw f => some (encVec 0x49 dw f)
  | .mxst _ dw f => some (encVec 0x50 dw f)
  | .localMove _ dw f _ =>
    some (pack [(4, 4), (8, 0), (1, b2n dw), (3, f.srcSpace), (3, f.dstSpace), (22, f.srcAddr), (22, f.dstAddr), (22, f.length), (4, f.ab)])
  | .tsend _ dw stream space srcAddr ab =>
    some (pack [(4, 5), (8, 0x00), (1, b2n dw), (16, stream), (2, space), (22, srcAddr), (4, ab)])
  | .rarm _ dw stream => some (pack [(4, 5), (8, 0x01), (1, b2n dw), (16, stream)])
  | .rwait _ dw stream => some (pack [(4, 5), (8, 0x02), (1, b2n dw), (16, stream)])
  | .alloc _ dw d sizeLog2 must => some (pack [(4, 6), (8, 0x00), (1, b2n dw), (4, d), (5, sizeLog2), (1, b2n must)])
  | .free _ dw a => some (pack [(4, 6), (8, 0x01), (1, b2n dw), (4, 0), (4, a)])
  | .fsig _ dw fence a => some (pack [(4, 7), (8, 0x00), (1, b2n dw), (20, fence), (4, a)])
  | .fwait _ dw fence a ignoreErr => some (pack [(4, 7), (8, 0x01), (1, b2n dw), (20, fence), (4, a), (1, b2n ignoreErr)])
  | .yield _ dw => some (pack [(4, 8), (8, 0x00), (1, b2n dw)])
  | .lateFeatureTest _ dw feature writeMask maskAddr ab =>
    some (pack [(4, 9), (8, 0x00), (1, b2n dw), (10, feature), (1, b2n writeMask), (15, maskAddr), (4, ab)])
  | _ => none

/-- The ECC outcome of a core instruction's operand reads, which its word does not hold and R180 adds to the command, is
the good one. -/
def goodReads (i : Instr) : Bool :=
  match i with
  | .tileMatrix _ _ _ ecc => ecc == .good
  | .tileL1 _ _ _ ecc => ecc == .good
  | .tileL2 _ _ _ ecc => ecc == .good
  | .tileDot _ _ _ ecc => ecc == .good
  | .tileHamming _ _ _ ecc => ecc == .good
  | .tileMaxPlus _ _ _ ecc => ecc == .good
  | .tileMinPlus _ _ _ ecc => ecc == .good
  | .tileConvolution _ _ _ ecc => ecc == .good
  | .tileEq _ _ _ ecc => ecc == .good
  | .tileNe _ _ _ ecc => ecc == .good
  | .tileLt _ _ _ ecc => ecc == .good
  | .tileLe _ _ _ ecc => ecc == .good
  | .tileGt _ _ _ ecc => ecc == .good
  | .tileGe _ _ _ ecc => ecc == .good
  | .selectEnd _ _ _ _ _ _ ecc => ecc == .good
  | .merge _ _ _ _ ecc => ecc == .good
  | .vld _ _ _ ecc => ecc == .good
  | .localMove _ _ _ ecc => ecc == .good
  | _ => true

end Sys2Proof.Machine
end

