-- ==== Sys2Proof/Safety.lean ====
section
/-! DEFINITION. What a safe state is, and the words in which statements say when a command has its effect. -/

namespace Sys2Proof.Machine

/-! ### Safe states -/

/-- The core memories of R113 and the weight planes of R117 in canonical form. -/
def coreMemOk (k : Core) : Prop :=
  (Memory.wf k.weight = true ∧ Memory.wf k.act = true ∧ Memory.wf k.acc = true ∧ Memory.wf k.prog = true) ∧
  Memory.wf k.planeA = true ∧ Memory.wf k.shadowA = true ∧ Memory.wf k.planeB = true ∧ Memory.wf k.shadowB = true

/-- The memories outside the cores in canonical form. -/
def memoriesOk (m : Memories) : Prop :=
  Memory.wf m.hbm = true ∧ Memory.wf m.host = true ∧ Memory.wf m.flash = true ∧ Memory.wf m.bootStore = true ∧
  Memory.wf m.ctrlSram = true ∧ Memory.wf m.codebook = true

/-- Every memory of the block and of its outside is in canonical form. -/
def memOk (s : State) : Prop := memoriesOk s.mem ∧ ∀ c, coreMemOk (coreOf s c)

/-! ### Core instructions -/

/-- R151, R153: core `c` has a task that stands at `i`, no issued tile is incomplete, and no g register awaits an alloc. -/
def atCommand (s : State) (c : Nat) (i : Instr) : Prop :=
  c < 64 ∧ (coreOf s c).task.isSome = true ∧ decodeCore c (wordAt s c (coreOf s c).pc) = some i ∧ (coreOf s c).tiles = [] ∧
  (coreOf s c).gWait = []

/-- R154: the word at an instruction index is no reserved encoding. -/
def legalAt (s : State) (c pc : Nat) : Prop := (decodeCore c (wordAt s c (pc % 16384))).isSome = true

/-- The index after the current instruction's. -/
def nextPc (s : State) (c : Nat) : Nat := ((coreOf s c).pc + 1) % 16384

/-- The state in which core `c` holds `k` and goes on at `pc`; nothing else has changed. -/
def goneOn (s : State) (c : Nat) (k : Core) (pc : Nat) : State := putCore s c { k with pc := pc, waitAt := none }

/-- R161: the tile instruction of a mode. -/
def tileCmd (mode : TileMode) (c : Nat) (dw : Bool) (f : TileFields) (ecc : SramEcc) : Instr :=
  match mode with
  | .matrix => .tileMatrix c dw f ecc
  | .l1 => .tileL1 c dw f ecc
  | .l2 => .tileL2 c dw f ecc
  | .dot => .tileDot c dw f ecc
  | .hamming => .tileHamming c dw f ecc
  | .maxPlus => .tileMaxPlus c dw f ecc
  | .minPlus => .tileMinPlus c dw f ecc
  | .convolution => .tileConvolution c dw f ecc
  | .eq => .tileEq c dw f ecc
  | .ne => .tileNe c dw f ecc
  | .lt => .tileLt c dw f ecc
  | .le => .tileLe c dw f ecc
  | .gt => .tileGt c dw f ecc
  | .ge => .tileGe c dw f ecc

/-- R12: no row of its own stands at a register's offset. -/
def plainAt (a : Nat) : Prop := ∀ who w s, rowWrite who a w s = s

/-- R216: the command that brings a control message of a type on port `q`. -/
def messageCmd (type q : Nat) (fec : RxMark) (bs : List Byte) : Instr :=
  match type with
  | 2 => .flipFlit q fec bs
  | 3 => .snapshotAnnouncement q fec bs
  | 4 => .resetFlit q fec bs
  | 5 => .resetDone q fec bs
  | 6 => .idleInsertionMessage q fec bs
  | 7 => .slipFlit q fec bs
  | 8 => .linkLossNotice q fec bs
  | 9 => .abandonFlit q fec bs
  | _ => .management q fec bs

/-- R165: core `c` has gone on, lane `l` of its vector register `r` holds `g l`, and nothing else has changed
(`waitAt`, the tick an instruction first waited at, is dropped as the core goes on). -/
def wroteLanes (s : State) (c r : Nat) (g : Nat → BitVec 32) (s' : State) : Prop :=
  (coreOf s' c).pc = nextPc s c ∧ (∀ l, l < 128 → vLane (coreOf s' c) r l = g l) ∧
  (∀ q l, q ≠ r → l < 128 → vLane (coreOf s' c) q l = vLane (coreOf s c) q l) ∧
  { coreOf s' c with v := (coreOf s c).v, pc := (coreOf s c).pc, waitAt := (coreOf s c).waitAt } = coreOf s c ∧
  (∀ d, d ≠ c → coreOf s' d = coreOf s d) ∧ { s' with cores := s.cores } = s

/-! ### Dispatched commands -/

/-- R278: the command just dispatched is job `j`, it is `x`, its opcode is `op`, and its effect is still to come. -/
def dispatchedAs (s : State) (j op : Nat) (x : Job) : Prop :=
  jobOf s j = some x ∧ s.front.executing = some j ∧ dOpcode x.desc = op ∧ x.status = .dispatched

/-- The state in which the effect of the command just dispatched begins. -/
def begun (s : State) : State := { s with front.executing := none }

/-- R279: job `j` is complete with a code. -/
def doneWith (s : State) (j : Nat) (code : Code) : Prop :=
  ∃ x, jobOf s j = some x ∧ x.status = .done ∧ x.code = code

end Sys2Proof.Machine
end

