-- ==== Sys2Proof/WellFormed.lean ====
section
/-! DEFINITION. Which commands are well formed: those that name units which exist, and whose core instruction has operand
fields that fit its encoding and that the encoding does not reserve. -/

namespace Sys2Proof

/-- R161: the fields of a tile instruction fit their widths and hold no reserved value. -/
def TileFields.wf (f : TileFields) : Bool :=
  decide (0 < f.arrays ∧ f.arrays < 4 ∧ f.fmtA ≤ 0xD ∧ f.fmtW ≤ 0xD ∧ f.fmtOut < 16 ∧ f.dest ≤ 5 ∧ f.mBlk < 4096 ∧ f.kAct < 256 ∧
    f.nAct < 128) &&
  decide (f.actAddr < 2 ^ 15 ∧ f.wAddr < 4096 ∧ f.accRow < 1024 ∧ f.outAddr < 2 ^ 15 ∧ f.xg < 16 ∧ f.imm8 < 256 ∧ f.ab < 16)

/-- R164: the fields of select-begin fit their widths and hold no reserved value. -/
def SelectFields.wf (f : SelectFields) : Bool :=
  decide (1 ≤ f.k ∧ f.k ≤ 256 ∧ 1 ≤ f.rows ∧ f.rows ≤ 65536 ∧ f.rowBase < 2 ^ 14 ∧ f.a < 16 ∧ f.b < 16)

/-- R165: the fields of a vector instruction fit their widths. -/
def VecFields.wf (f : VecFields) : Bool :=
  decide (f.vd < 32 ∧ f.va < 32 ∧ f.vb < 32 ∧ f.vc < 32 ∧ f.fmt < 16 ∧ f.addr < 2 ^ 15 ∧ f.ab < 16 ∧ f.ga < 16)

/-- R168: the fields of a local move fit their widths, name spaces that exist and are multiples of 32 bytes. -/
def MoveFields.wf (f : MoveFields) : Bool :=
  decide (f.srcSpace ≤ 4 ∧ f.srcSpace ≠ 3 ∧ f.dstSpace ≤ 3 ∧ f.srcAddr < 2 ^ 22 ∧ f.srcAddr % 32 = 0) &&
  decide (f.dstAddr < 2 ^ 22 ∧ f.dstAddr % 32 = 0 ∧ 1 ≤ f.length ∧ f.length ≤ 131072 ∧ f.ab < 16)

/-- R13: every unit that a command names exists. -/
def Instr.unitsExist (i : Instr) : Bool :=
  match i with
  | .coldReset => true
  | .coldResetRelease _ _ => true
  | .warmReset => true
  | .warmResetShort => true
  | .warmResetRelease => true
  | .clockLoss => true
  | .powerBudgetCapture _ => true
  | .pwrStateRun => true
  | .pwrStateHold => true
  | .pwrStatePrepareOff => true
  | .prepareOffDone => true
  | .pwrStateOff => true
  | .powerRemoved => true
  | .thermalAlarm => true
  | .thermalReaise => true
  | .thermalRelease => true
  | .tpulseEdge _ _ => true
  | .tpulseHoldover => true
  | .functionLevelReset function => decide (function < 16)
  | .functionResetComplete function => decide (function < 16)
  | .functionResetBound function => decide (function < 16)
  | .atsInvalidate _ _ _ => true
  | .atsInvalidateDone => true
  | .atsCompletion a => decide (a.engine < 102)
  | .priResponse entry _ => decide (entry < 16)
  | .registerWrite _ _ _ _ => true
  | .counterRead _ _ _ => true
  | .doorbellSqTail _ offset _ _ => decide (offset < 0x1000000)
  | .doorbellCq _ offset _ _ => decide (offset < 0x1000000)
  | .doorbellEq _ offset _ _ => decide (offset < 0x1000000)
  | .admqTailWrite _ => true
  | .admcqHeadWrite _ => true
  | .admeqHeadWrite _ => true
  | .descriptorFetch _ => true
  | .dispatch _ => true
  | .commandRetire _ _ => true
  | .queueTimeoutCheck => true
  | .msixModerationExpire vector => decide (vector < 2048)
  | .nop _ => true
  | .copy _ => true
  | .fill _ => true
  | .execBuffer _ => true
  | .launchStep _ => true
  | .createObject _ => true
  | .freeObject _ => true
  | .objectRelease index => decide (index < 1048576)
  | .createFence _ => true
  | .destroyFence _ => true
  | .fenceFree fence => decide (fence < 1048576)
  | .queryCapabilities _ => true
  | .loadProgram _ => true
  | .unloadProgram _ => true
  | .grantArena _ => true
  | .revokeArena _ => true
  | .bindTable _ => true
  | .unbindTable _ => true
  | .loadCodebook _ => true
  | .update _ => true
  | .bindStream _ => true
  | .unbindStream _ => true
  | .sealEpoch _ => true
  | .sealComplete _ => true
  | .flip _ => true
  | .readTick _ => true
  | .readSnapshot _ => true
  | .createContext _ => true
  | .destroyContext _ => true
  | .destroyComplete ctx => decide (ctx < 4096)
  | .destroyWatchdog ctx => decide (ctx < 4096)
  | .partitionResetOverrun part => decide (part < 64)
  | .createPartition _ => true
  | .resizePartition _ => true
  | .destroyPartition _ => true
  | .loadGroup _ => true
  | .unloadGroup _ => true
  | .setContextSched _ => true
  | .setCalibration _ => true
  | .readAccounting _ => true
  | .grantPages _ => true
  | .revokePages _ => true
  | .resetInstance _ => true
  | .replayHoldingRing _ => true
  | .setQueue _ => true
  | .partitionStepBoundary part => decide (part < 64)
  | .stepLaunch part => decide (part < 64)
  | .timedPointMiss part core => decide (part < 64 ∧ core < 64)
  | .slip part => decide (part < 64)
  | .idleInsertion part => decide (part < 64)
  | .tealFlip _ => true
  | .snapshotLatch => true
  | .domainResetFire => true
  | .domainResetLocalDone => true
  | .domainResetDeadline => true
  | .sliceEnd part => decide (part < 64)
  | .stepSuspend part => decide (part < 64)
  | .groupClaim part => decide (part < 64)
  | .controlNop core _ => decide (core < 64)
  | .li core _ _ _ => decide (core < 64)
  | .addi core _ _ _ _ => decide (core < 64)
  | .add core _ _ _ _ => decide (core < 64)
  | .sub core _ _ _ _ => decide (core < 64)
  | .cmp core _ _ _ => decide (core < 64)
  | .br core _ _ _ => decide (core < 64)
  | .loop core _ _ _ => decide (core < 64)
  | .sync core _ => decide (core < 64)
  | .twait core _ _ => decide (core < 64)
  | .rdtick core _ _ => decide (core < 64)
  | .halt core _ => decide (core < 64)
  | .tileMatrix core _ _ _ => decide (core < 64)
  | .tileL1 core _ _ _ => decide (core < 64)
  | .tileL2 core _ _ _ => decide (core < 64)
  | .tileDot core _ _ _ => decide (core < 64)
  | .tileHamming core _ _ _ => decide (core < 64)
  | .tileMaxPlus core _ _ _ => decide (core < 64)
  | .tileMinPlus core _ _ _ => decide (core < 64)
  | .tileConvolution core _ _ _ => decide (core < 64)
  | .tileEq core _ _ _ => decide (core < 64)
  | .tileNe core _ _ _ => decide (core < 64)
  | .tileLt core _ _ _ => decide (core < 64)
  | .tileLe core _ _ _ => decide (core < 64)
  | .tileGt core _ _ _ => decide (core < 64)
  | .tileGe core _ _ _ => decide (core < 64)
  | .tileComplete core => decide (core < 64)
  | .selectBegin core _ _ => decide (core < 64)
  | .selectEnd core _ _ _ _ _ _ => decide (core < 64)
  | .merge core _ _ _ _ => decide (core < 64)
  | .vld core _ _ _ => decide (core < 64)
  | .vst core _ _ => decide (core < 64)
  | .vimm core _ _ => decide (core < 64)
  | .vidx core _ _ => decide (core < 64)
  | .fadd core _ _ => decide (core < 64)
  | .fsub core _ _ => decide (core < 64)
  | .fmul core _ _ => decide (core < 64)
  | .ffma core _ _ => decide (core < 64)
  | .fmax core _ _ => decide (core < 64)
  | .fmin core _ _ => decide (core < 64)
  | .fabs core _ _ => decide (core < 64)
  | .fneg core _ _ => decide (core < 64)
  | .frelu core _ _ => decide (core < 64)
  | .fsel core _ _ => decide (core < 64)
  | .flt core _ _ => decide (core < 64)
  | .feq core _ _ => decide (core < 64)
  | .fmuls core _ _ => decide (core < 64)
  | .fadds core _ _ => decide (core < 64)
  | .fexp2 core _ _ => decide (core < 64)
  | .flog2 core _ _ => decide (core < 64)
  | .frecip core _ _ => decide (core < 64)
  | .frsqrt core _ _ => decide (core < 64)
  | .fexp core _ _ => decide (core < 64)
  | .fsigmoid core _ _ => decide (core < 64)
  | .ftanh core _ _ => decide (core < 64)
  | .fsum core _ _ => decide (core < 64)
  | .fmaxr core _ _ => decide (core < 64)
  | .fminr core _ _ => decide (core < 64)
  | .iadd core _ _ => decide (core < 64)
  | .isub core _ _ => decide (core < 64)
  | .imul core _ _ => decide (core < 64)
  | .imax core _ _ => decide (core < 64)
  | .imin core _ _ => decide (core < 64)
  | .ishl core _ _ => decide (core < 64)
  | .ishr core _ _ => decide (core < 64)
  | .cvtif core _ _ => decide (core < 64)
  | .cvtfi core _ _ => decide (core < 64)
  | .mxst core _ _ => decide (core < 64)
  | .localMove core _ _ _ => decide (core < 64)
  | .tsend core _ _ _ _ _ => decide (core < 64)
  | .rarm core _ _ => decide (core < 64)
  | .rwait core _ _ => decide (core < 64)
  | .alloc core _ _ _ _ => decide (core < 64)
  | .free core _ _ => decide (core < 64)
  | .slabServe => true
  | .fsig core _ _ _ => decide (core < 64)
  | .fwait core _ _ _ _ => decide (core < 64)
  | .yield core _ => decide (core < 64)
  | .lateFeatureTest core _ _ _ _ _ => decide (core < 64)
  | .timedSend part _ _ => decide (part < 64)
  | .deliveryLanded part _ => decide (part < 64)
  | .featureReady part _ => decide (part < 64)
  | .lookupId part _ _ _ _ => decide (part < 64)
  | .promotionCopyDone _ _ => true
  | .sketchHalving => true
  | .sketchClear => true
  | .crimsonQuotaWrite part _ => decide (part < 64)
  | .exchangeServe part _ _ _ => decide (part < 64)
  | .carryAreaFinal part => decide (part < 64)
  | .twinCatchupDone _ => true
  | .deltaMergePassEnd tableGroup => decide (tableGroup < 8)
  | .timedFlit port _ _ => decide (port < 60)
  | .bestEffortFlit port _ _ => decide (port < 60)
  | .beRetryTimeout port => decide (port < 60)
  | .bePacketTimeout _ => true
  | .updateStreamPacket _ _ => true
  | .greyLaneRecord _ _ => true
  | .greyLaneReturn _ _ => true
  | .promotionFetch _ _ => true
  | .promotionData _ _ => true
  | .firmwareManagement _ _ => true
  | .markerFlit port _ _ _ => decide (port < 60)
  | .syncMarkerSend => true
  | .markerHoldover => true
  | .unaligned => true
  | .masterTakeover => true
  | .flipFlit port _ _ => decide (port < 60)
  | .snapshotAnnouncement port _ _ => decide (port < 60)
  | .resetFlit port _ _ => decide (port < 60)
  | .resetDone port _ _ => decide (port < 60)
  | .idleInsertionMessage port _ _ => decide (port < 60)
  | .slipFlit port _ _ => decide (port < 60)
  | .linkLossNotice port _ _ => decide (port < 60)
  | .abandonFlit port _ _ => decide (port < 60)
  | .management port _ _ => decide (port < 60)
  | .linkPcsDown port => decide (port < 60)
  | .stackReadBeat stack _ _ _ => decide (stack < 20)
  | .stackReadTimeout stack => decide (stack < 20)
  | .refreshWindow part _ => decide (part < 64)
  | .spRefUrgent stack pc _ => decide (stack < 20 ∧ pc < 64)
  | .fuseLoad => true
  | .flashRead _ => true
  | .verify => true
  | .firmwareStart => true
  | .hbmTrainDone stack _ => decide (stack < 20)
  | .hbmTrainFail stack => decide (stack < 20)
  | .bistAndRepair _ => true
  | .linkTraining port _ _ _ _ => decide (port < 60)
  | .linkPortUp port _ _ _ _ => decide (port < 60)
  | .linkRetry => true
  | .syncWaitEvent => true
  | .loadState _ => true
  | .startStateLimit => true
  | .startHeld => true
  | .capabilityRewriteDone => true
  | .cpHoldSet cp => decide (cp < 4)
  | .cpHoldClear cp => decide (cp < 4)
  | .watchdogKick cp => decide (cp < 4)
  | .watchdogExpire cp => decide (cp < 4)
  | .firmwareAccess cp _ _ => decide (cp < 4)
  | .flashCommandRelease => true
  | .mailboxLockRead _ mailbox => decide (mailbox < 64)
  | .mailboxRelease _ mailbox => decide (mailbox < 64)
  | .mailboxRing _ mailbox => decide (mailbox < 64)
  | .mailboxAck _ mailbox _ => decide (mailbox < 64)
  | .mailboxUnpowered mailbox _ => decide (mailbox < 64)
  | .getStatus mailbox => decide (mailbox < 64)
  | .pushBundle mailbox => decide (mailbox < 64)
  | .flashUpdate mailbox _ => decide (mailbox < 64)
  | .retrainPort mailbox _ _ _ => decide (mailbox < 64)
  | .domainReset mailbox => decide (mailbox < 64)
  | .armSnapshot mailbox => decide (mailbox < 64)
  | .addSoftRepair mailbox => decide (mailbox < 64)
  | .commandUnknown mailbox => decide (mailbox < 64)
  | .snapshotArm => true
  | .domainResetArm => true
  | .nocOwnershipWrite word _ => decide (word < 128)
  | .slotOwnershipWrite port word _ => decide (port < 60 ∧ word < 140)
  | .translationWalk w _ => decide (w.engine < 102)
  | .pageRequestResponse _ => true
  | .faultRecordWrite => true
  | .accessCounterDecay => true
  | .acClear index => decide (index < 131072)
  | .acClearAll => true
  | .mirrorGo => true
  | .mirrorDone => true
  | .invalidateAll => true
  | .invalidatePasid _ => true
  | .invalidatePasidRange _ => true
  | .invalidateDomain _ => true
  | .invalidateDomainRange _ => true
  | .invalidatePasidEntry _ => true
  | .invalidationComplete => true
  | .forerunnerModeSet _ => true
  | .translationRegionSet _ => true
  | .keySlotLoad _ => true
  | .keySlotClear _ => true
  | .keySlotEffect => true
  | .ceCounterHalving => true
  | .ashTest _ _ => true
  | .ashTestResult _ _ _ => true
  | .ashWatchSet _ => true
  | .ashWatchClear _ => true
  | .unitMarkOut _ => true
  | .digestGo => true
  | .digestDone => true
  | .powerWindow _ => true
  | .linkLossEffectiveTick part => decide (part < 64)
  | .readinessDeadline part => decide (part < 64)
  | .partitionResetDone part => decide (part < 64)
  | .wrapperInstructionUpdate _ => true
  | .poweredDownDomainAccess _ _ => true

/-- R159 to R173: the operands of a core instruction are ones that its encoding can hold. -/
def Instr.encodable (i : Instr) : Bool :=
  match i with
  | .coldReset => true
  | .coldResetRelease _ _ => true
  | .warmReset => true
  | .warmResetShort => true
  | .warmResetRelease => true
  | .clockLoss => true
  | .powerBudgetCapture _ => true
  | .pwrStateRun => true
  | .pwrStateHold => true
  | .pwrStatePrepareOff => true
  | .prepareOffDone => true
  | .pwrStateOff => true
  | .powerRemoved => true
  | .thermalAlarm => true
  | .thermalReaise => true
  | .thermalRelease => true
  | .tpulseEdge _ _ => true
  | .tpulseHoldover => true
  | .functionLevelReset _ => true
  | .functionResetComplete _ => true
  | .functionResetBound _ => true
  | .atsInvalidate _ _ _ => true
  | .atsInvalidateDone => true
  | .atsCompletion _ => true
  | .priResponse _ _ => true
  | .registerWrite _ _ _ _ => true
  | .counterRead _ _ _ => true
  | .doorbellSqTail _ _ _ _ => true
  | .doorbellCq _ _ _ _ => true
  | .doorbellEq _ _ _ _ => true
  | .admqTailWrite _ => true
  | .admcqHeadWrite _ => true
  | .admeqHeadWrite _ => true
  | .descriptorFetch _ => true
  | .dispatch _ => true
  | .commandRetire _ _ => true
  | .queueTimeoutCheck => true
  | .msixModerationExpire _ => true
  | .nop _ => true
  | .copy _ => true
  | .fill _ => true
  | .execBuffer _ => true
  | .launchStep _ => true
  | .createObject _ => true
  | .freeObject _ => true
  | .objectRelease _ => true
  | .createFence _ => true
  | .destroyFence _ => true
  | .fenceFree _ => true
  | .queryCapabilities _ => true
  | .loadProgram _ => true
  | .unloadProgram _ => true
  | .grantArena _ => true
  | .revokeArena _ => true
  | .bindTable _ => true
  | .unbindTable _ => true
  | .loadCodebook _ => true
  | .update _ => true
  | .bindStream _ => true
  | .unbindStream _ => true
  | .sealEpoch _ => true
  | .sealComplete _ => true
  | .flip _ => true
  | .readTick _ => true
  | .readSnapshot _ => true
  | .createContext _ => true
  | .destroyContext _ => true
  | .destroyComplete _ => true
  | .destroyWatchdog _ => true
  | .partitionResetOverrun _ => true
  | .createPartition _ => true
  | .resizePartition _ => true
  | .destroyPartition _ => true
  | .loadGroup _ => true
  | .unloadGroup _ => true
  | .setContextSched _ => true
  | .setCalibration _ => true
  | .readAccounting _ => true
  | .grantPages _ => true
  | .revokePages _ => true
  | .resetInstance _ => true
  | .replayHoldingRing _ => true
  | .setQueue _ => true
  | .partitionStepBoundary _ => true
  | .stepLaunch _ => true
  | .timedPointMiss _ _ => true
  | .slip _ => true
  | .idleInsertion _ => true
  | .tealFlip _ => true
  | .snapshotLatch => true
  | .domainResetFire => true
  | .domainResetLocalDone => true
  | .domainResetDeadline => true
  | .sliceEnd _ => true
  | .stepSuspend _ => true
  | .groupClaim _ => true
  | .controlNop _ _ => true
  | .li _ _ d _ => decide (d < 16)
  | .addi _ _ d a _ => decide (d < 16 ∧ a < 16)
  | .add _ _ d a b => decide (d < 16 ∧ a < 16 ∧ b < 16)
  | .sub _ _ d a b => decide (d < 16 ∧ a < 16 ∧ b < 16)
  | .cmp _ _ a b => decide (a < 16 ∧ b < 16)
  | .br _ _ cond target => decide (cond < 8 ∧ target < 16384)
  | .loop _ _ a target => decide (a < 16 ∧ target < 16384)
  | .sync _ _ => true
  | .twait _ _ _ => true
  | .rdtick _ _ d => decide (d < 16)
  | .halt _ _ => true
  | .tileMatrix _ _ f _ => f.wf
  | .tileL1 _ _ f _ => f.wf
  | .tileL2 _ _ f _ => f.wf
  | .tileDot _ _ f _ => f.wf
  | .tileHamming _ _ f _ => f.wf
  | .tileMaxPlus _ _ f _ => f.wf
  | .tileMinPlus _ _ f _ => f.wf
  | .tileConvolution _ _ f _ => f.wf
  | .tileEq _ _ f _ => f.wf
  | .tileNe _ _ f _ => f.wf
  | .tileLt _ _ f _ => f.wf
  | .tileLe _ _ f _ => f.wf
  | .tileGt _ _ f _ => f.wf
  | .tileGe _ _ f _ => f.wf
  | .tileComplete _ => true
  | .selectBegin _ _ f => f.wf
  | .selectEnd _ _ _ _ outAddr stream _ => decide (outAddr < 2 ^ 15 ∧ stream < 65536)
  | .merge _ _ srcAddr nInM1 _ => decide (srcAddr < 2 ^ 15 ∧ nInM1 < 65536)
  | .vld _ _ f _ => f.wf && Machine.vecLegal 0x00 f
  | .vst _ _ f => f.wf && Machine.vecLegal 0x01 f
  | .vimm _ _ f => f.wf
  | .vidx _ _ f => f.wf
  | .fadd _ _ f => f.wf
  | .fsub _ _ f => f.wf
  | .fmul _ _ f => f.wf
  | .ffma _ _ f => f.wf
  | .fmax _ _ f => f.wf
  | .fmin _ _ f => f.wf
  | .fabs _ _ f => f.wf
  | .fneg _ _ f => f.wf
  | .frelu _ _ f => f.wf
  | .fsel _ _ f => f.wf
  | .flt _ _ f => f.wf
  | .feq _ _ f => f.wf
  | .fmuls _ _ f => f.wf
  | .fadds _ _ f => f.wf
  | .fexp2 _ _ f => f.wf
  | .flog2 _ _ f => f.wf
  | .frecip _ _ f => f.wf
  | .frsqrt _ _ f => f.wf
  | .fexp _ _ f => f.wf
  | .fsigmoid _ _ f => f.wf
  | .ftanh _ _ f => f.wf
  | .fsum _ _ f => f.wf
  | .fmaxr _ _ f => f.wf
  | .fminr _ _ f => f.wf
  | .iadd _ _ f => f.wf
  | .isub _ _ f => f.wf
  | .imul _ _ f => f.wf
  | .imax _ _ f => f.wf
  | .imin _ _ f => f.wf
  | .ishl _ _ f => f.wf
  | .ishr _ _ f => f.wf
  | .cvtif _ _ f => f.wf
  | .cvtfi _ _ f => f.wf
  | .mxst _ _ f => f.wf && Machine.vecLegal 0x50 f
  | .localMove _ _ f _ => f.wf
  | .tsend _ _ stream space srcAddr ab => decide (stream < 65536 ∧ space < 2 ∧ srcAddr < 2 ^ 22 ∧ srcAddr % 32 = 0 ∧ ab < 16)
  | .rarm _ _ stream => decide (stream < 65536)
  | .rwait _ _ stream => decide (stream < 65536)
  | .alloc _ _ d sizeLog2 _ => decide (d < 16 ∧ 12 ≤ sizeLog2 ∧ sizeLog2 ≤ 24)
  | .free _ _ a => decide (a < 16)
  | .slabServe => true
  | .fsig _ _ fence a => decide (fence < 2 ^ 20 ∧ a < 16)
  | .fwait _ _ fence a _ => decide (fence < 2 ^ 20 ∧ a < 16)
  | .yield _ _ => true
  | .lateFeatureTest _ _ feature _ maskAddr ab => decide (feature < 1024 ∧ maskAddr < 2 ^ 15 ∧ ab < 16)
  | .timedSend _ _ _ => true
  | .deliveryLanded _ _ => true
  | .featureReady _ _ => true
  | .lookupId _ _ _ _ _ => true
  | .promotionCopyDone _ _ => true
  | .sketchHalving => true
  | .sketchClear => true
  | .crimsonQuotaWrite _ _ => true
  | .exchangeServe _ _ _ _ => true
  | .carryAreaFinal _ => true
  | .twinCatchupDone _ => true
  | .deltaMergePassEnd _ => true
  | .timedFlit _ _ _ => true
  | .bestEffortFlit _ _ _ => true
  | .beRetryTimeout _ => true
  | .bePacketTimeout _ => true
  | .updateStreamPacket _ _ => true
  | .greyLaneRecord _ _ => true
  | .greyLaneReturn _ _ => true
  | .promotionFetch _ _ => true
  | .promotionData _ _ => true
  | .firmwareManagement _ _ => true
  | .markerFlit _ _ _ _ => true
  | .syncMarkerSend => true
  | .markerHoldover => true
  | .unaligned => true
  | .masterTakeover => true
  | .flipFlit _ _ _ => true
  | .snapshotAnnouncement _ _ _ => true
  | .resetFlit _ _ _ => true
  | .resetDone _ _ _ => true
  | .idleInsertionMessage _ _ _ => true
  | .slipFlit _ _ _ => true
  | .linkLossNotice _ _ _ => true
  | .abandonFlit _ _ _ => true
  | .management _ _ _ => true
  | .linkPcsDown _ => true
  | .stackReadBeat _ _ _ _ => true
  | .stackReadTimeout _ => true
  | .refreshWindow _ _ => true
  | .spRefUrgent _ _ _ => true
  | .fuseLoad => true
  | .flashRead _ => true
  | .verify => true
  | .firmwareStart => true
  | .hbmTrainDone _ _ => true
  | .hbmTrainFail _ => true
  | .bistAndRepair _ => true
  | .linkTraining _ _ _ _ _ => true
  | .linkPortUp _ _ _ _ _ => true
  | .linkRetry => true
  | .syncWaitEvent => true
  | .loadState _ => true
  | .startStateLimit => true
  | .startHeld => true
  | .capabilityRewriteDone => true
  | .cpHoldSet _ => true
  | .cpHoldClear _ => true
  | .watchdogKick _ => true
  | .watchdogExpire _ => true
  | .firmwareAccess _ _ _ => true
  | .flashCommandRelease => true
  | .mailboxLockRead _ _ => true
  | .mailboxRelease _ _ => true
  | .mailboxRing _ _ => true
  | .mailboxAck _ _ _ => true
  | .mailboxUnpowered _ _ => true
  | .getStatus _ => true
  | .pushBundle _ => true
  | .flashUpdate _ _ => true
  | .retrainPort _ _ _ _ => true
  | .domainReset _ => true
  | .armSnapshot _ => true
  | .addSoftRepair _ => true
  | .commandUnknown _ => true
  | .snapshotArm => true
  | .domainResetArm => true
  | .nocOwnershipWrite _ _ => true
  | .slotOwnershipWrite _ _ _ => true
  | .translationWalk _ _ => true
  | .pageRequestResponse _ => true
  | .faultRecordWrite => true
  | .accessCounterDecay => true
  | .acClear _ => true
  | .acClearAll => true
  | .mirrorGo => true
  | .mirrorDone => true
  | .invalidateAll => true
  | .invalidatePasid _ => true
  | .invalidatePasidRange _ => true
  | .invalidateDomain _ => true
  | .invalidateDomainRange _ => true
  | .invalidatePasidEntry _ => true
  | .invalidationComplete => true
  | .forerunnerModeSet _ => true
  | .translationRegionSet _ => true
  | .keySlotLoad _ => true
  | .keySlotClear _ => true
  | .keySlotEffect => true
  | .ceCounterHalving => true
  | .ashTest _ _ => true
  | .ashTestResult _ _ _ => true
  | .ashWatchSet _ => true
  | .ashWatchClear _ => true
  | .unitMarkOut _ => true
  | .digestGo => true
  | .digestDone => true
  | .powerWindow _ => true
  | .linkLossEffectiveTick _ => true
  | .readinessDeadline _ => true
  | .partitionResetDone _ => true
  | .wrapperInstructionUpdate _ => true
  | .poweredDownDomainAccess _ _ => true

/-- A well-formed command. -/
def Instr.wf (i : Instr) : Bool := i.unitsExist && i.encodable

end Sys2Proof
end

