-- ==== Sys2Proof/Certificates/Slice0/Obligations.lean ====
section
/-! DEFINITION. The statements about the model, from the numbered rules of the spec. -/

open Sys2Proof Sys2Proof.Machine

/-! ### The queue -/

/-- A command at the front of the queue takes effect on the state with the rest of the queue (the model's own queue, log 5). -/
def Obligations.StepRunsFront : Prop :=
  ∀ (s : State) (c : Instr) (rest : List Instr), s.pending = c :: rest → step s = exec c { s with pending := rest }

/-- R185, R186, R199: on an empty queue one ACLK edge passes (the model's choice, logs 23 and 166): what the tick has left to
do is done, the tick counter moves by 1, or by 0 or 2 where the servo adjusts it, which it does not within 1,023 edges of an
adjustment, and what has fallen due takes effect: snapshots, domain resets, flips, slips, idle insertions and launches, in that
order. A stopped clock leaves the state alone. -/
def Obligations.IdleIsOneEdge : Prop :=
  ∀ (s : State), s.pending = [] →
    (aclkRuns s = false → step s = .next s) ∧
    (aclkRuns s = true → step s = .next (fireBefore 7 (beginTick (aclkEdge (if edgeAmount s = 0 then s else endTick s))))) ∧
    (∀ u, let t := aclkEdge u
      { t with time := u.time, health := u.health, freeCount := u.freeCount } = u ∧ u.time.tick ≤ t.time.tick ∧ t.time.tick ≤ u.time.tick + 2 ∧
      (aclkRuns u = true → u.time.sinceAdjust < 1023 → t.time.tick = u.time.tick + 1)) ∧
    (∀ u, let a := resetsDue (latchDue u)
      let b := each (mkeys a.upd.groups) (fun g s => tealFlip s g) a
      let c := each (liveParts b) (fun p s => slipsDue s p) b
      let d := each (liveParts c) (fun p s => insertionsDue s p) c
      fireBefore 7 u = each (liveParts d) (fun p s => launchesDue s p) d)

/-! ### Core instructions (R151 to R173) -/

/-- R151: g0 reads 0 and a write to it is ignored; any other g register reads what was written last. R160: li, addi, add, sub
and rdtick write their g register and go on at the next instruction; nothing else changes. -/
def Obligations.ControlWritesRegister : Prop :=
  (∀ (k : Core) (d r : Nat) (v : BitVec 64),
    gReg k 0 = 0 ∧ setG k 0 v = k ∧ (d ≠ 0 → gReg (setG k d v) d = v) ∧ (r ≠ d → gReg (setG k d v) r = gReg k r)) ∧
  (∀ (s : State) (c : Nat) (dw : Bool) (d a b : Nat) (imm : W64), legalAt s c (nextPc s c) →
    let k := coreOf s c
    (atCommand s c (.li c dw d imm) → exec (.li c dw d imm) s = .next (goneOn s c (setG k d imm) (nextPc s c))) ∧
    (atCommand s c (.addi c dw d a imm) →
      exec (.addi c dw d a imm) s = .next (goneOn s c (setG k d (gReg k a + imm)) (nextPc s c))) ∧
    (atCommand s c (.add c dw d a b) →
      exec (.add c dw d a b) s = .next (goneOn s c (setG k d (gReg k a + gReg k b)) (nextPc s c))) ∧
    (atCommand s c (.sub c dw d a b) →
      exec (.sub c dw d a b) s = .next (goneOn s c (setG k d (gReg k a - gReg k b)) (nextPc s c))) ∧
    (atCommand s c (.rdtick c dw d) → ∀ r, runOf s k.part = some r →
      exec (.rdtick c dw d) s = .next (goneOn s c (setG k d (BitVec.ofNat 64 (s.time.tick - r.base))) (nextPc s c))))

/-- R160: nop goes on; cmp sets z and n alone; br goes to its target where its condition holds; loop counts its g register down
and goes to its target while it is not 0. R160: the conditions of br: 0 always, 1 z, 2 not z, 3 n, 4 late, 5 not late, 6 subst,
7 fail. -/
def Obligations.ControlFlow : Prop :=
  (∀ (s : State) (c : Nat) (dw : Bool) (a b cond target : Nat), target < 16384 → legalAt s c (nextPc s c) → legalAt s c target →
    let k := coreOf s c
    (atCommand s c (.controlNop c dw) → exec (.controlNop c dw) s = .next (goneOn s c k (nextPc s c))) ∧
    (atCommand s c (.cmp c dw a b) → exec (.cmp c dw a b) s =
      .next (goneOn s c { k with z := decide (gReg k a = gReg k b), n := decide ((gReg k a).toNat < (gReg k b).toNat) } (nextPc s c))) ∧
    (atCommand s c (.br c dw cond target) →
      exec (.br c dw cond target) s = .next (goneOn s c k (if condHolds k cond then target else nextPc s c))) ∧
    (atCommand s c (.loop c dw a target) → a ≠ 0 → exec (.loop c dw a target) s =
      .next (goneOn s c (setG k a (gReg k a - 1)) (if gReg k a - 1 ≠ 0 then target else nextPc s c)))) ∧
  (∀ (k : Core), condHolds k 0 = true ∧ condHolds k 1 = k.z ∧ condHolds k 2 = !k.z ∧ condHolds k 3 = k.n ∧
    condHolds k 4 = k.late ∧ condHolds k 5 = !k.late ∧ condHolds k 6 = k.subst ∧ condHolds k 7 = k.fail)

/-- R153, R160: sync goes on when every unit of the core is idle, and holds the core while an allocation or a timed send is
outstanding; twait goes on when the step's elapsed tick has reached its operand, and holds the core before. R149, R160: halt
ends its task and frees its core; the other tasks of the step go on. -/
def Obligations.SyncTwaitHalt : Prop :=
  (∀ (s : State) (c : Nat) (dw : Bool) (imm : W64), legalAt s c (nextPc s c) →
    (atCommand s c (.sync c dw) →
      ((coreOf s c).allocs = 0 → coreSends s c = 0 → exec (.sync c dw) s = .next (goneOn s c (coreOf s c) (nextPc s c))) ∧
      ((coreOf s c).allocs ≠ 0 ∨ coreSends s c ≠ 0 → exec (.sync c dw) s = .next s)) ∧
    (atCommand s c (.twait c dw imm) → ∀ r, runOf s (coreOf s c).part = some r →
      (imm.toNat % 2 ^ 32 ≤ s.time.tick - r.base → exec (.twait c dw imm) s = .next (goneOn s c (coreOf s c) (nextPc s c))) ∧
      (s.time.tick - r.base < imm.toNat % 2 ^ 32 → exec (.twait c dw imm) s = .next s))) ∧
  (∀ (s : State) (c : Nat) (dw : Bool) (r : StepRun) (i : Nat) (t u : Task), atCommand s c (.halt c dw) →
    (coreOf s c).sel = none → (coreOf s c).allocs = 0 → coreSends s c = 0 → (coreOf s c).task = some i → runOf s (coreOf s c).part = some r →
    t ∈ r.tasks → t.index = i → u ∈ r.tasks → u.index ≠ i → u.state = .running → (∀ x ∈ r.tasks, x.state ≠ .waiting) →
    ∃ s', exec (.halt c dw) s = .next s' ∧ (coreOf s' c).task = none ∧
      (∃ r', runOf s' (coreOf s c).part = some r' ∧
        r'.tasks = r.tasks.map (fun x => if x.index = i then { x with state := .halted, saved := [] } else x)) ∧
      ∀ d, d ≠ c → coreOf s' d = coreOf s d)

/-- R115, R117, R161: a tile instruction of any mode that its fields make legal loads its weight planes, issues one tile and
goes on; no memory is written before the tile completes. R154, R161: a tile whose fields are not legal in its mode ends its
step with program_fault. -/
def Obligations.TileIssues : Prop :=
  (∀ (s : State) (c : Nat) (dw : Bool) (mode : TileMode) (f : TileFields), atCommand s c (tileCmd mode c dw f .good) →
    legalAt s c (nextPc s c) → tileLegal mode f = true → (mode = .convolution → convGeo (gReg (coreOf s c) f.xg) ≠ none) →
    (variantOf s = .jujorS → isDistance mode = false) → (f.dest = 4 ∨ f.dest = 5 → (coreOf s c).sel ≠ none) →
    ∃ s' t, exec (tileCmd mode c dw f .good) s = .next s' ∧ t.mode = mode ∧ t.fields = f ∧
      coreOf s' c = { loadWeights (coreOf s c) (winOf s c) f with tiles := [t], pc := nextPc s c, waitAt := none } ∧
      (let k := loadWeights (coreOf s c) (winOf s c) f
       { k with planeA := (coreOf s c).planeA, shadowA := (coreOf s c).shadowA, planeB := (coreOf s c).planeB, shadowB := (coreOf s c).shadowB } =
         coreOf s c) ∧
      (∀ d, d ≠ c → coreOf s' d = coreOf s d) ∧ { s' with cores := s.cores, regs := s.regs } = s) ∧
  (∀ (s : State) (c : Nat) (dw : Bool) (mode : TileMode) (f : TileFields), atCommand s c (tileCmd mode c dw f .good) →
    (variantOf s = .jujorS → isDistance mode = false) → tileLegal mode f = false →
    exec (tileCmd mode c dw f .good) s = .next (stepFail s (coreOf s c).part 0x0103))

/-- R115, R123: TILE_COMPLETE drains the oldest tile of the core and leaves the younger ones. R131: the drain of an output
writes the accumulator: its raw value with acc_write; the sum with what the accumulator held, saturated to 32 bits, with
acc_add of integer results; and leaves it alone where the tile does not accumulate. -/
def Obligations.TileCompletes : Prop :=
  (∀ (s : State) (c : Nat) (t : Tile) (rest : List Tile), c < 64 → (coreOf s c).tiles = t :: rest →
    ∃ s', exec (.tileComplete c) s = .next s' ∧ (coreOf s' c).tiles = rest ∧ (coreOf s' c).pc = (coreOf s c).pc ∧
      (coreOf s' c).g = (coreOf s c).g ∧ (coreOf s' c).prog = (coreOf s c).prog ∧ (coreOf s' c).weight = (coreOf s c).weight ∧
      (∀ d, d ≠ c → coreOf s' d = coreOf s d) ∧ s'.mem = s.mem ∧ s'.front = s.front ∧ s'.steps = s.steps) ∧
  (∀ (w : Win) (t : Tile) (x m n : Nat) (d : Drain), t.intResult = true → t.mode ≠ .maxPlus → t.mode ≠ .minPlus →
    let addr := x * 524288 + winRow w ((t.accRow + m) % 1024) * 512 + 4 * n
    let raw : BitVec 32 := mget t.raw (256 * m + 128 * x + n)
    let old : Int := (BitVec.ofNat 32 (rdLE d.core.acc addr 4)).toInt
    let new := (drainOne w t x m n d).core.acc
    (t.fields.dest = 0 → rdLE new addr 4 = raw.toNat) ∧
    ((t.fields.dest = 1 ∨ t.fields.dest = 2 ∨ t.fields.dest = 5) →
      rdLE new addr 4 = (BitVec.ofInt 32 (max (-(2 ^ 31)) (min (2 ^ 31 - 1) (old + raw.toInt)))).toNat) ∧
    ((t.fields.dest = 3 ∨ t.fields.dest = 4) → new = d.core.acc) ∧
    (∀ a, a < addr ∨ addr + 4 ≤ a → rd8 new a = rd8 d.core.acc a))

/-- R139, R141, R164: select-begin opens a selection with empty lists; select-end closes it and writes its pairs; merge offers
the pairs of the activation buffer. R140: a list of a selection never holds more than k candidates. -/
def Obligations.SelectionLife : Prop :=
  (∀ (s : State) (c : Nat) (dw pairs : Bool) (f : SelectFields) (outAddr stream srcAddr n : Nat), legalAt s c (nextPc s c) →
    let k := coreOf s c
    (atCommand s c (.selectBegin c dw f) → k.sel = none → f.rows * f.k ≤ 65536 →
      exec (.selectBegin c dw f) s = .next (goneOn s c { k with sel := some { largest := f.largest, int32 := f.int32, k := f.k, rows := f.rows, rowBase := f.rowBase, idOffset := gReg k f.a, padId := gReg k f.b } } (nextPc s c))) ∧
    (atCommand s c (.selectEnd c dw pairs false outAddr stream .good) → ∀ sel, k.sel = some sel →
      exec (.selectEnd c dw pairs false outAddr stream .good) s =
        .next (goneOn s c { (if pairs then emitPairsTo k (winOf s c) sel (64 * outAddr) else k) with sel := none } (nextPc s c))) ∧
    (atCommand s c (.merge c dw srcAddr n .good) → ∀ sel, k.sel = some sel →
      exec (.merge c dw srcAddr n .good) s =
        .next (goneOn s c { k with sel := some (mergePairs k (winOf s c) sel (64 * srcAddr) (n + 1)) } (nextPc s c)))) ∧
  (∀ (sel : Selection) (l : Nat) (x : BitVec 32 × BitVec 32), (∀ i, (mget sel.lists i).length ≤ sel.k) →
    ∀ i, (mget (offer sel l x).lists i).length ≤ sel.k)

/-! ### The vector unit, local moves and timed instructions (R165 to R173) -/

/-- R166: the floating-point vector instructions: what lane `l` of vd becomes from the lanes of va, vb and vc. Each instruction
completes, and changes nothing but vd and the pc. -/
def Obligations.VectorFloatLanes : Prop :=
  ∀ (s : State) (c : Nat) (dw : Bool) (f : VecFields), legalAt s c (nextPc s c) →
    let A := fun l => vLane (coreOf s c) f.va l
    let B := fun l => vLane (coreOf s c) f.vb l
    let C := fun l => vLane (coreOf s c) f.vc l
    let done := fun (i : Instr) (g : Nat → BitVec 32) => atCommand s c i → ∃ s', exec i s = .next s' ∧ wroteLanes s c f.vd g s'
    done (.fadd c dw f) (fun l => addF32 (A l) (B l)) ∧
    done (.fsub c dw f) (fun l => toF32 ((ofF32 (A l)).add (ofF32 (B l)).neg)) ∧
    done (.fmul c dw f) (fun l => toF32 ((ofF32 (A l)).mul (ofF32 (B l)))) ∧
    done (.ffma c dw f) (fun l => toF32 (((ofF32 (A l)).mul (ofF32 (B l))).add (ofF32 (C l)))) ∧
    done (.fmax c dw f) (fun l => maxF32 (A l) (B l)) ∧
    done (.fmin c dw f) (fun l => minF32 (A l) (B l)) ∧
    done (.fabs c dw f) (fun l => canon (A l &&& 0x7FFFFFFF)) ∧
    done (.fneg c dw f) (fun l => canon (A l ^^^ 0x80000000)) ∧
    done (.frelu c dw f) (fun l => if (ofF32 (A l)).lt (.fin false 0 0) ∨ A l = 0x80000000 then 0 else canon (A l)) ∧
    done (.flt c dw f) (fun l => if (ofF32 (A l)).lt (ofF32 (B l)) then 1 else 0) ∧
    done (.feq c dw f) (fun l => if (ofF32 (A l)).eqv (ofF32 (B l)) then 1 else 0) ∧
    done (.fmuls c dw f) (fun l => toF32 ((ofF32 (A l)).mul (ofF32 f.imm32))) ∧
    done (.fadds c dw f) (fun l => addF32 (A l) f.imm32) ∧
    done (.cvtif c dw f) (fun l => i32ToF32 (A l)) ∧
    done (.cvtfi c dw f) (fun l => f32ToI32 (A l))

/-- R166: the vector instructions on words: immediates, lane numbers, selection and INT32 arithmetic, which wraps; shifts take
the shift count's low 5 bits. -/
def Obligations.VectorIntegerLanes : Prop :=
  ∀ (s : State) (c : Nat) (dw : Bool) (f : VecFields), legalAt s c (nextPc s c) →
    let A := fun l => vLane (coreOf s c) f.va l
    let B := fun l => vLane (coreOf s c) f.vb l
    let C := fun l => vLane (coreOf s c) f.vc l
    let done := fun (i : Instr) (g : Nat → BitVec 32) => atCommand s c i → ∃ s', exec i s = .next s' ∧ wroteLanes s c f.vd g s'
    done (.vimm c dw f) (fun _ => f.imm32) ∧
    done (.vidx c dw f) (fun l => BitVec.ofNat 32 l) ∧
    done (.fsel c dw f) (fun l => if C l ≠ 0 then A l else B l) ∧
    done (.iadd c dw f) (fun l => A l + B l) ∧
    done (.isub c dw f) (fun l => A l - B l) ∧
    done (.imul c dw f) (fun l => A l * B l) ∧
    done (.imax c dw f) (fun l => if (A l).toInt < (B l).toInt then B l else A l) ∧
    done (.imin c dw f) (fun l => if (B l).toInt < (A l).toInt then B l else A l) ∧
    done (.ishl c dw f) (fun l => A l <<< (f.imm32.toNat % 32)) ∧
    done (.ishr c dw f) (fun l => (A l).sshiftRight (f.imm32.toNat % 32))

/-- R166, R167: the special functions give lane by lane the value of the function (a free value within the spec's bound, log
7); the reductions combine adjacent lanes pairwise in seven levels and give every lane the result. -/
def Obligations.VectorSpecialAndReduced : Prop :=
  ∀ (s : State) (c : Nat) (dw : Bool) (f : VecFields), legalAt s c (nextPc s c) →
    let A := fun l => vLane (coreOf s c) f.va l
    let all := (List.range 128).map A
    let done := fun (i : Instr) (g : Nat → BitVec 32) => atCommand s c i → ∃ s', exec i s = .next s' ∧ wroteLanes s c f.vd g s'
    done (.fexp2 c dw f) (fun l => special 0x20 (A l)) ∧
    done (.flog2 c dw f) (fun l => special 0x21 (A l)) ∧
    done (.frecip c dw f) (fun l => special 0x22 (A l)) ∧
    done (.frsqrt c dw f) (fun l => special 0x23 (A l)) ∧
    done (.fexp c dw f) (fun l => special 0x24 (A l)) ∧
    done (.fsigmoid c dw f) (fun l => special 0x25 (A l)) ∧
    done (.ftanh c dw f) (fun l => special 0x26 (A l)) ∧
    done (.fsum c dw f) (fun _ => reduceLanes addF32 all) ∧
    done (.fmaxr c dw f) (fun _ => reduceLanes maxF32 all) ∧
    done (.fminr c dw f) (fun _ => reduceLanes minF32 all)

/-- R166, R424: vld loads 128 lanes from core memory and stores nothing. R166, R167, R424: vst and mxst store to the activation
buffer (vst to the accumulator where its space says so) and go on. Every byte of core memory outside the places of the 128
lanes, and for mxst of their scales, is unchanged. -/
def Obligations.VectorLoadAndStore : Prop :=
  (∀ (s : State) (c : Nat) (dw : Bool) (f : VecFields), legalAt s c (nextPc s c) → atCommand s c (.vld c dw f .good) →
    ∃ s', exec (.vld c dw f .good) s = .next s' ∧ wroteLanes s c f.vd (fun l => loadLane (coreOf s c) (winOf s c) f l) s') ∧
  (∀ (s : State) (c : Nat) (dw : Bool) (f : VecFields), legalAt s c (nextPc s c) →
    let k := coreOf s c
    let w := winOf s c
    let lanePlace := fun (a : Nat) => ∃ l j, l < 128 ∧ j < 4 ∧ a = winAct w (vecLaneAddr k f l + j)
    (atCommand s c (.vst c dw f) → ∃ s', exec (.vst c dw f) s = .next s' ∧ (coreOf s' c).pc = nextPc s c ∧
      { coreOf s' c with act := k.act, acc := k.acc, pc := k.pc, waitAt := k.waitAt } = k ∧ { s' with cores := s.cores } = s ∧
      (∀ d, d ≠ c → coreOf s' d = coreOf s d) ∧
      (f.acc = true → (coreOf s' c).act = k.act ∧
        (∀ a, a < vecAccAddr k w f ∨ vecAccAddr k w f + 512 ≤ a → rd8 (coreOf s' c).acc a = rd8 k.acc a) ∧
        (∀ l, l < 128 → rdLE (coreOf s' c).acc (vecAccAddr k w f + 4 * l) 4 = (vLane k f.va l).toNat)) ∧
      (f.acc = false → (coreOf s' c).acc = k.acc ∧ ∀ a, ¬ lanePlace a → rd8 (coreOf s' c).act a = rd8 k.act a)) ∧
    (atCommand s c (.mxst c dw f) → ∃ s', exec (.mxst c dw f) s = .next s' ∧ (coreOf s' c).pc = nextPc s c ∧
      { coreOf s' c with act := k.act, pc := k.pc, waitAt := k.waitAt } = k ∧ { s' with cores := s.cores } = s ∧
      (∀ d, d ≠ c → coreOf s' d = coreOf s d) ∧
      (∀ a, ¬ lanePlace a → (∀ b, b < 4 → a ≠ winAct w (vecScaleAddr k f (32 * b))) →
        rd8 (coreOf s' c).act a = rd8 k.act a)))

/-- R168: a local move reads its source first and then writes `32 * length` bytes, each place wrapping at the end of its
memory; program memory that it moves to is fetched from next. -/
def Obligations.LocalMove : Prop :=
  ∀ (s : State) (c : Nat) (dw : Bool) (f : MoveFields), atCommand s c (.localMove c dw f .good) →
    let k := moveBytes (winOf s c) f (coreOf s c)
    legalAt (putCore s c k) c (nextPc s c) →
    ∃ s', exec (.localMove c dw f .good) s = .next s' ∧ (coreOf s' c).pc = nextPc s c ∧
      (coreOf s' c).act = k.act ∧ (coreOf s' c).acc = k.acc ∧ (coreOf s' c).weight = k.weight ∧ (coreOf s' c).prog = k.prog ∧
      (f.dstSpace ≠ 0 → (coreOf s' c).act = (coreOf s c).act) ∧ (f.dstSpace ≠ 1 → (coreOf s' c).acc = (coreOf s c).acc) ∧
      (f.dstSpace ≠ 2 → (coreOf s' c).weight = (coreOf s c).weight) ∧ (f.dstSpace ≠ 3 → (coreOf s' c).prog = (coreOf s c).prog) ∧
      (∀ d, d ≠ c → coreOf s' d = coreOf s d) ∧ { s' with cores := s.cores } = s

/-- R152, R169: tsend queues its stream's next delivery, and is held while its unit's queue holds eight; rarm declares a ring
slot free, and is held while the ring is full of deliveries not waited for; rwait takes the oldest unwaited delivery when it
has landed, is held before, and ends the step where it was lost. -/
def Obligations.TimedInstructions : Prop :=
  ∀ (s : State) (c : Nat) (dw : Bool) (stream space a ab : Nat) (r : StepRun) (t : StreamRun), legalAt s c (nextPc s c) →
    let p := (coreOf s c).part
    runOf s p = some r → streamOf r stream = some t →
    let became := fun (g : StreamRun → StreamRun) (s' : State) =>
      coreOf s' c = { coreOf s c with pc := nextPc s c, waitAt := none } ∧ (∀ d, d ≠ c → coreOf s' d = coreOf s d) ∧
      runOf s' p = some { r with streams := r.streams.map (fun x => if x.number = stream then g x else x) } ∧
      { s' with cores := s.cores, steps.running := s.steps.running } = s
    let task := (coreOf s c).task.getD 0
    (atCommand s c (.tsend c dw stream space a ab) →
      (coreSends s c < 8 → ∃ s', exec (.tsend c dw stream space a ab) s = .next s' ∧
        became (fun x => { x with sends := x.sends ++ [(space, a + bits (gReg (coreOf s c) ab).toNat 0 22, s.time.tick, task)] }) s') ∧
      (8 ≤ coreSends s c → exec (.tsend c dw stream space a ab) s = .next s)) ∧
    (atCommand s c (.rarm c dw stream) →
      (t.armed < t.waited + t.ring → ∃ s', exec (.rarm c dw stream) s = .next s' ∧
        became (fun x => { x with armed := x.armed + 1, arms := x.arms ++ [s.time.tick], armTasks := x.armTasks ++ [task] }) s') ∧
      (t.waited + t.ring ≤ t.armed → exec (.rarm c dw stream) s = .next s)) ∧
    (atCommand s c (.rwait c dw stream) →
      (mfind t.landed t.waited = some 0 → ∃ s', exec (.rwait c dw stream) s = .next s' ∧
        became (fun x => { x with landed := mdel x.landed x.waited, waited := x.waited + 1, armTasks := x.armTasks.drop 1 }) s') ∧
      (mfind t.landed t.waited = none → exec (.rwait c dw stream) s = .next s) ∧
      (∀ st, mfind t.landed t.waited = some (st + 1) →
        exec (.rwait c dw stream) s = .next (stepFail s p (deliveryCode (st + 1)))))

/-- R14, R170, R258: alloc and free queue a request to the slab unit, behind those of earlier ticks and in core order among
those of its own tick, and go on; alloc's g register awaits its value. R170, R257, R258: the slab unit serves the oldest
request, at most one every 3 ticks: an alloc that finds a block takes it from its context's arena and writes its device
address; one that finds none, and is not a must, writes 0 and sets fail; a free returns its block. R257: a block that the buddy
rules hand out lies in a page of the arena at an offset they record as used, of the order asked for. -/
def Obligations.SlabUnit : Prop :=
  (∀ (s : State) (c : Nat) (dw must : Bool) (d a order : Nat), legalAt s c (nextPc s c) →
    let k := coreOf s c
    (atCommand s c (.alloc c dw d order must) → ∃ s', exec (.alloc c dw d order must) s = .next s' ∧
      coreOf s' c = { k with allocs := k.allocs + 1, gWait := if d = 0 then [] else [d], pc := nextPc s c, waitAt := none } ∧
      s'.front.slab = insertSlab { isAlloc := true, core := c, ctx := ctxOfCore s c, part := k.part, order := order, must := must, dest := d,
                                   came := s.time.tick } s.front.slab ∧
      (∀ e, e ≠ c → coreOf s' e = coreOf s e) ∧ s'.mem = s.mem ∧ s'.steps = s.steps) ∧
    (atCommand s c (.free c dw a) → ∃ s', exec (.free c dw a) s = .next s' ∧
      coreOf s' c = { k with allocs := k.allocs + 1, pc := nextPc s c, waitAt := none } ∧
      s'.front.slab = insertSlab { isAlloc := false, core := c, ctx := ctxOfCore s c, part := k.part, addr := gReg k a,
                                   came := s.time.tick } s.front.slab ∧
      (∀ e, e ≠ c → coreOf s' e = coreOf s e) ∧ s'.mem = s.mem ∧ s'.steps = s.steps)) ∧
  ((∀ (s : State) (q : SlabReq) (rest : List SlabReq), s.front.slab = q :: rest → q.core < 64 →
    (s.front.slabLast = none ∨ ∃ t, s.front.slabLast = some t ∧ t + 3 ≤ s.time.tick) →
    let c := ctxOf s q.ctx
    (q.isAlloc = true → ∀ a arena, buddyAlloc c.arena q.order = some (a, arena) →
      ∃ s', exec .slabServe s = .next s' ∧ s'.front.slab = rest ∧ ctxOf s' q.ctx = { c with arena := arena } ∧
        (q.dest ≠ 0 → gReg (coreOf s' q.core) q.dest = BitVec.ofNat 64 a) ∧ (coreOf s' q.core).allocs = (coreOf s q.core).allocs - 1 ∧
        s'.mem = s.mem) ∧
    (q.isAlloc = true → q.must = false → buddyAlloc c.arena q.order = none →
      ∃ s', exec .slabServe s = .next s' ∧ s'.front.slab = rest ∧ (coreOf s' q.core).fail = true ∧
        gReg (coreOf s' q.core) q.dest = 0 ∧ s'.mem = s.mem) ∧
    (q.isAlloc = false → ∀ arena, buddyFree c.arena q.addr.toNat = some arena →
      ∃ s', exec .slabServe s = .next s' ∧ s'.front.slab = rest ∧ ctxOf s' q.ctx = { c with arena := arena } ∧ s'.mem = s.mem)) ∧
  (∀ (arena arena' : List ArenaPage) (k a : Nat), buddyAlloc arena k = some (a, arena') →
    arena'.length = arena.length ∧ ∃ i off, i < arena.length ∧ a = (arena.getD i default).va.toNat + off ∧
      (k, off) ∈ (arena'.getD i default).used ∧ (arena'.getD i default).va = (arena.getD i default).va ∧
      ∀ j, j ≠ i → arena'.getD j default = arena.getD j default))

/-- R171, R249, R283, R284: fsig signals a fence of its context with a g register's value; fsig or fwait of another context's
fence ends the step with 0x0307. In a tick that has not updated the fence, fwait goes on when the fence's value has been
reached, is held while the fence waits, and at an error sets fail where it ignores errors and ends the step with the fence's
code where it does not. -/
def Obligations.FenceInstructions : Prop :=
  ∀ (s : State) (c : Nat) (dw : Bool) (fence a : Nat), legalAt s c (nextPc s c) →
    let k := coreOf s c
    let f := fenceOf s fence
    (atCommand s c (.fsig c dw fence a) → k.allocs = 0 → coreSends s c = 0 →
      (maySignal s (ctxOfCore s c) fence = true → f.state = .pending ∨ f.state = .signalled → f.upAt ≠ some s.time.tick →
        gReg k a ≠ BitVec.allOnes 64 → f.value.toNat ≤ (gReg k a).toNat → ∃ s', exec (.fsig c dw fence a) s = .next s' ∧
          coreOf s' c = { k with pc := nextPc s c, waitAt := none } ∧ (fenceOf s' fence).value = gReg k a ∧
          (fenceOf s' fence).state = .signalled ∧ (∀ i, i ≠ fence → fenceOf s' i = fenceOf s i)) ∧
      (maySignal s (ctxOfCore s c) fence = false → exec (.fsig c dw fence a) s = .next (stepFail s k.part 0x0307))) ∧
    (∀ ig, atCommand s c (.fwait c dw fence a ig) →
      (maySignal s (ctxOfCore s c) fence = false → exec (.fwait c dw fence a ig) s = .next (stepFail s k.part 0x0307)) ∧
      (maySignal s (ctxOfCore s c) fence = true → f.upAt ≠ some s.time.tick →
        ((gReg k a).toNat ≤ f.value.toNat → f.state ≠ .error →
          exec (.fwait c dw fence a ig) s = .next (goneOn s c k (nextPc s c))) ∧
        (f.value.toNat < (gReg k a).toNat → f.state ≠ .error →
          exec (.fwait c dw fence a ig) s = .next (putCore s c { k with waitAt := some (k.waitAt.getD s.time.tick) })) ∧
        (f.value.toNat < (gReg k a).toNat → f.state = .error →
          exec (.fwait c dw fence a ig) s = .next (if ig = true then goneOn s c { k with fail := true } (nextPc s c)
            else stepFail s k.part f.error))))

/-- R172: a yield is ignored in a group step, and where no pre-emption is wanted the task goes on with its g registers and its
core memories; a yield that is not ignored leaves the vector registers undefined (a free value, log 4). R160, R173: the
late-feature test copies a ready feature's late and subst bits to the flags and goes on, and is held until the feature is
ready. -/
def Obligations.YieldAndLateFeatures : Prop :=
  (∀ (s : State) (c : Nat) (dw : Bool), atCommand s c (.yield c dw) → legalAt s c (nextPc s c) → (coreOf s c).sel = none →
    (yieldIgnored s c = true → exec (.yield c dw) s = .next (goneOn s c (coreOf s c) (nextPc s c))) ∧
    (yieldIgnored s c = false → (coreOf s c).allocs = 0 → coreSends s c = 0 → preemptWanted s (coreOf s c).part = false →
      ∃ s', exec (.yield c dw) s = .next s' ∧ (coreOf s' c).pc = nextPc s c ∧ (coreOf s' c).g = (coreOf s c).g ∧
        (coreOf s' c).act = (coreOf s c).act ∧ (coreOf s' c).acc = (coreOf s c).acc ∧ (coreOf s' c).weight = (coreOf s c).weight ∧
        (coreOf s' c).prog = (coreOf s c).prog ∧ (∀ r l, vLane (coreOf s' c) r l = Config.freeLane s.freeCount r l) ∧
        (∀ d, d ≠ c → coreOf s' d = coreOf s d) ∧ { s' with cores := s.cores, freeCount := s.freeCount } = s)) ∧
  (∀ (s : State) (c : Nat) (dw : Bool) (feature a ab : Nat) (r : StepRun) (f : FeatureRun), legalAt s c (nextPc s c) →
    atCommand s c (.lateFeatureTest c dw feature false a ab) → runOf s (coreOf s c).part = some r → r.features[feature]? = some f →
    (f.ready = true → exec (.lateFeatureTest c dw feature false a ab) s =
      .next (goneOn s c { coreOf s c with late := f.lateBit, subst := f.substBit } (nextPc s c))) ∧
    (f.ready = false → exec (.lateFeatureTest c dw feature false a ab) s = .next s))

/-! ### Queues and commands (R231 to R301) -/

/-- R11, R16, R275, R276, R296: context n's doorbell page is the 4 KiB at n times 0x1000; a 32-bit or 64-bit write to one of
its words with a value in range moves that register of a context that takes doorbells, and nothing else; a write with other
byte enables, or through another function, changes nothing. -/
def Obligations.DoorbellsMove : Prop :=
  ∀ (s : State) (fn n q : Nat) (v : BitVec 64) (be : BitVec 8), n < 4096 → q < 4 →
    let c := ctxOf s n
    let x := v.toNat % 65536
    let page := n * 0x1000
    (c.function = fn → c.state = .active ∨ c.state = .broken → be = 0x0F#8 ∨ be = 0xFF#8 →
      ((mget c.sq q).log2 ≠ 0 → x < 2 ^ (mget c.sq q).log2 →
        exec (.doorbellSqTail fn (page + 8 * q) v be) s = .next (putCtx s n { c with sq := mset c.sq q { mget c.sq q with tail := x } })) ∧
      (x < 2 ^ c.cq.log2 → exec (.doorbellCq fn (page + 0x20) v be) s = .next (putCtx s n { c with cq.head := x })) ∧
      (x < 2 ^ c.eq.log2 → c.state = .broken ∨ c.eq.dropped = 0 →
        exec (.doorbellEq fn (page + 0x28) v be) s = .next (putCtx s n { c with eq.head := x }))) ∧
    (c.function ≠ fn ∨ (be ≠ 0x0F#8 ∧ be ≠ 0xFF#8) →
      exec (.doorbellSqTail fn (page + 8 * q) v be) s = .next s ∧ exec (.doorbellCq fn (page + 0x20) v be) s = .next s ∧
      exec (.doorbellEq fn (page + 0x28) v be) s = .next s)

/-- R298: the administrator's index registers take a value in range while the host port answers, and nothing else changes. R47,
R49: before the host port answers, a write through it changes nothing. -/
def Obligations.AdministratorIndices : Prop :=
  (∀ (s : State) (v : W32), s.bound.hostAnswers = true →
    let x := v.toNat % 65536
    (x < admDepth s qfAdmqLog2 16 → exec (.admqTailWrite v) s = .next (setF s qfAdmqTail x) ∧ getF (setF s qfAdmqTail x) qfAdmqTail = x) ∧
    (x < admDepth s qfAdmcqLog2 16 → exec (.admcqHeadWrite v) s = .next (setF s qfAdmcqHead x) ∧ getF (setF s qfAdmcqHead x) qfAdmcqHead = x) ∧
    (x < admDepth s qfAdmeqLog2 12 → s.front.admDropped = 0 →
      exec (.admeqHeadWrite v) s = .next (setF s qfAdmeqHead x) ∧ getF (setF s qfAdmeqHead x) qfAdmeqHead = x)) ∧
  (∀ (s : State) (v : W32) (i : Nat), s.bound.hostAnswers = false →
    exec (.admqTailWrite v) s = .next s ∧ exec (.admcqHeadWrite v) s = .next s ∧ exec (.admeqHeadWrite v) s = .next s ∧
    exec .acClearAll s = .next s ∧ exec .snapshotArm s = .next s ∧ exec .domainResetArm s = .next s ∧
    exec (.unitMarkOut i) s = .next s ∧ exec (.ashWatchSet i) s = .next s ∧ exec (.ashWatchClear i) s = .next s ∧ exec .digestGo s = .next s)

/-- R277, R298: a fetch on the administrator queue in green stage takes the descriptor at the head, where one is announced and
the buffer and the completion ring have room. -/
def Obligations.AdministratorFetch : Prop :=
  ∀ (s : State), s.bound.stage = 2 → frontRuns s = true → getF s qfAdmqTail ≠ getF s qfAdmqHead → s.front.admFetched = [] →
    admReserved s < admDepth s qfAdmcqLog2 16 - 1 →
    ∃ t d, exec (.descriptorFetch true) s = .next t ∧ t.front.admFetched = [d] ∧ d.slot = getF s qfAdmqHead ∧
      d.raw = rdBytes s.mem.host (getF64 s qfAdmqLo + 64 * getF s qfAdmqHead) 64 ∧ d.headAt = some s.time.tick ∧
      t.mem = s.mem ∧ t.front.jobs = s.front.jobs ∧ t.cores = s.cores

/-- R278, R298: a command at the head of the administrator queue that passed its checks, waits on nothing and is not serial
takes a free dispatch slot. R278: the dispatch slot admits one command every 4 ticks, and none before the effect of the last
one has begun. -/
def Obligations.AdministratorDispatch : Prop :=
  (∀ (s : State) (d : Desc), s.front.admFetched = [d] → slotFree s = true → d.headCode = 0 → dWaitEn d = false → dSerial d = false →
    ∃ t x, exec (.dispatch true) s = .next t ∧ t.front.admFetched = [] ∧ t.front.executing = some s.front.jobNext ∧
      t.front.lastDispatch = some s.time.tick ∧ jobOf t s.front.jobNext = some x ∧ x.admin = true ∧ x.desc = d ∧
      x.status = .dispatched ∧ (∀ i, i ≠ s.front.jobNext → jobOf t i = jobOf s i) ∧ t.cores = s.cores) ∧
  (∀ (s : State) (a : Bool), (s.front.executing ≠ none ∨ ∃ t, s.front.lastDispatch = some t ∧ s.time.tick < t + 4) →
    exec (.dispatch a) s = .next s)

/-- R279, R280, R298: a complete administrator command without a fence, an engine or an interrupt retires: its entry is written
at the tail of the completion ring, which moves, and it leaves the table of commands. -/
def Obligations.AdministratorRetire : Prop :=
  ∀ (s : State) (j : Nat) (x : Job), jobOf s j = some x → x.status = .done → x.code = 0 → x.admin = true → x.parent = none →
    x.refs = [] → x.copyEngine = none → x.servedAt = none → dSignalEn x.desc = false → dIrq x.desc = false → dOpcode x.desc = 0x80 →
    let tail := getF s qfAdmcqTail
    let depth := admDepth s qfAdmcqLog2 16
    ∃ t, exec (.commandRetire j .good) s = .next t ∧ jobOf t j = none ∧ (∀ i, i ≠ j → jobOf t i = jobOf s i) ∧
      getF t qfAdmcqTail = (tail + 1) % depth ∧
      t.mem.host = wrBytes s.mem.host (getF64 s qfAdmcqLo + 32 * tail)
        (entryBytes { x with endAt := s.time.tick } (getF s qfAdmqHead) (phaseBit s.front.admCqWraps) 0) ∧
      t.mem.hbm = s.mem.hbm ∧ t.cores = s.cores

/-- R289, R290: timeouts are judged at multiples of 1,024 ticks alone. R294: a pending vector whose interval has ended sends
one message, and is no longer pending. -/
def Obligations.QueueTimers : Prop :=
  (∀ (s : State), (s.time.tick % 1024 ≠ 0 → exec .queueTimeoutCheck s = .next s) ∧
    (s.time.tick % 1024 = 0 → s.front.ctxs = [] → ∀ j x, s.front.jobs = [(j, x)] → x.admin = false → x.parent = none →
      x.limit ≠ 0 → x.status = .waiting → x.timerAt + x.limit ≤ s.time.tick → dOpcode x.desc = 1 →
      ∃ t, exec .queueTimeoutCheck s = .next t ∧ doneWith t j 0x0401)) ∧
  (∀ (s : State) (v : Nat), v < 2048 → s.bound.stage ≠ 0 → v ∉ s.bound.msixMasked → (mget s.front.vectors v).pending = true →
    (∀ t, (mget s.front.vectors v).lastAt = some t → t + 64 * getF s qfInterval v ≤ s.time.tick) →
    ∃ t, exec (.msixModerationExpire v) s = .next t ∧ t.bound.msixOut = s.bound.msixOut ++ [v] ∧
      (mget t.front.vectors v).pending = false ∧ (mget t.front.vectors v).lastAt = some s.time.tick ∧
      (∀ u, u ≠ v → mget t.front.vectors u = mget s.front.vectors u))

/-! ### Objects, fences, arenas, copies (R239 to R259, R273) -/

/-- R240, R242, R244: create-object makes the object at the next index and writes its handle, or fails without one; free-object
moves the generation on and waits; the release of a freed object that nothing references ends the commands that freed it. -/
def Obligations.ObjectCommands : Prop :=
  ∀ (s : State) (j : Nat) (x : Job),
    let b := begun s
    let d := x.desc
    let va := d8 d 0x20
    let size := d8 d 0x28
    let type := bits (d8 d 0x30) 0 8
    (dispatchedAs s j 0x10 x →
      (objPlaceOk b type va size = false ∨ objOverlaps b x.ctx va size = true → exec (.createObject j) s = .next (finishJob b j 0x030D)) ∧
      (objPlaceOk b type va size = true → objOverlaps b x.ctx va size = false → objQuotaOk b x.ctx = false ∨ s.front.objAlloc.take = none →
        exec (.createObject j) s = .next (finishJob b j 0x0306)) ∧
      (∀ i a, objPlaceOk b type va size = true → objOverlaps b x.ctx va size = false → objQuotaOk b x.ctx = true →
        s.front.objAlloc.take = some (i, a) →
        let o : Obj := { gen := (objOf s i).gen, va := BitVec.ofNat 64 va, size := BitVec.ofNat 64 size, type := type, ctx := x.ctx, pinned := bit (d8 d 0x30) 8, allocated := true }
        let w := vaWrite (putObj { b with front.objAlloc := a } i o) x.ctx (d8 d 0x38) (leBytes 8 (i + o.gen * 2 ^ 32 + type * 2 ^ 56))
        exec (.createObject j) s = .next (if w.1 = 0 then finishJob w.2 j 0 else finishJob b j w.1))) ∧
    (dispatchedAs s j 0x11 x →
      let i := hIndex va
      let o := objOf s i
      (o.bindings ≠ 0 → exec (.freeObject j) s = .next (finishJob b j 0x0309)) ∧
      (o.bindings = 0 → ∃ t, exec (.freeObject j) s = .next t ∧
        objOf t i = { o with gen := o.gen + 1, freed := true, freeJobs := o.freeJobs ++ [j] } ∧ (∀ k, k ≠ i → objOf t k = objOf s k) ∧
        jobOf t j = some { x with status := .waiting } ∧ t.front.fences = s.front.fences ∧ t.front.ctxs = s.front.ctxs ∧ t.cores = s.cores)) ∧
    (∀ i, i < 1048576 → (objOf s i).allocated = true → (objOf s i).freed = true → (objOf s i).refs = 0 → (objOf s i).freeJobs = [j] →
      (objOf s i).gen ≤ 0xFFFFFF → jobOf s j = some x → x.status = .waiting →
      ∃ t, exec (.objectRelease i) s = .next t ∧ objOf t i = { gen := (objOf s i).gen } ∧ (∀ k, k ≠ i → objOf t k = objOf s k) ∧
        doneWith t j 0 ∧ t.front.objAlloc.released = s.front.objAlloc.released ++ [i] ∧ t.front.objAlloc.next = s.front.objAlloc.next)

/-- R249, R251, R255, R256: create-fence makes a pending fence with its value and writes its ID; destroy-fence puts it in error
and waits until nothing names it; grant-arena and revoke-arena add and take an object's pages and its binding. R14, R249, R252,
R254, R283: in a tick that has not updated it, a signal raises a fence's value and never lowers it (a lower one is counted); a
value of all ones puts it in error; a fence in error keeps its code, and a free one is not touched. Two updates of one tick act
in the order of their requester numbers, whichever comes first. -/
def Obligations.FenceAndArenaCommands : Prop :=
  (∀ (s : State) (j : Nat) (x : Job),
    let b := begun s
    let d := x.desc
    (dispatchedAs s j 0x12 x →
      (fenceQuotaOk b x.ctx = false → exec (.createFence j) s = .next (finishJob b j 0x0308)) ∧
      (∀ i a, fenceQuotaOk b x.ctx = true → s.front.fenceAlloc.take = some (i, a) →
        let f : Fence := { value := BitVec.ofNat 64 (d8 d 0x20), state := .pending, ctx := x.ctx }
        let w := vaWrite (putFence { b with front.fenceAlloc := a } i f) x.ctx (d8 d 0x38) (leBytes 8 i)
        exec (.createFence j) s = .next (if w.1 = 0 then finishJob w.2 j 0 else finishJob b j w.1))) ∧
    (dispatchedAs s j 0x13 x →
      let i := bits (d4 d 0x20) 0 20
      let f := fenceOf s i
      (maySignal b x.ctx i = false → exec (.destroyFence j) s = .next (finishJob b j 0x0307)) ∧
      (maySignal b x.ctx i = true → f.state ≠ .error → f.upAt ≠ some s.time.tick →
        ∃ t, exec (.destroyFence j) s = .next t ∧
          (let g := fenceOf t i
           g.state = .error ∧ g.error = 0x030B ∧ g.origin = i ∧ g.value = f.value ∧ g.errorAt = s.time.tick ∧ g.valueAt = f.valueAt ∧
           g.destroying = true ∧ g.destroyJobs = f.destroyJobs ++ [j] ∧ g.ctx = f.ctx ∧ g.ooo = f.ooo) ∧
          (∀ k, k ≠ i → fenceOf t k = fenceOf s k) ∧ jobOf t j = some { x with status := .waiting })) ∧
    (∀ i, i < 1048576 → (fenceOf s i).destroying = true → (fenceOf s i).state ≠ .free → fenceNamed s i = false →
      (fenceOf s i).destroyJobs = [j] → jobOf s j = some x → x.status = .waiting →
      ∃ t, exec (.fenceFree i) s = .next t ∧ fenceOf t i = {} ∧ (∀ k, k ≠ i → fenceOf t k = fenceOf s k) ∧ doneWith t j 0 ∧
        t.front.fenceAlloc.released = s.front.fenceAlloc.released ++ [i]) ∧
    (dispatchedAs s j 0x22 x →
      let i := hIndex (d8 d 0x20)
      let o := objOf s i
      let c := ctxOf s x.ctx
      let n := o.size.toNat / 2 ^ 25
      let pages := (List.range n).map (fun k => ({ obj := i, va := BitVec.ofNat 64 (o.va.toNat + k * 2 ^ 25), free := [(25, 0)] } : ArenaPage))
      (c.arena.any (fun a => a.obj == i) = true → exec (.grantArena j) s = .next (finishJob b j 0x030D)) ∧
      (c.arena.any (fun a => a.obj == i) = false → 4096 < c.arena.length + n → exec (.grantArena j) s = .next (finishJob b j 0x0306)) ∧
      (c.arena.any (fun a => a.obj == i) = false → c.arena.length + n ≤ 4096 →
        ∃ t, exec (.grantArena j) s = .next t ∧ ctxOf t x.ctx = { c with arena := c.arena ++ pages } ∧
          objOf t i = { o with bindings := o.bindings + 1 } ∧ jobOf t j = some { x with status := .done, code := 0 } ∧
          (∀ m, m ≠ x.ctx → ctxOf t m = ctxOf s m) ∧ (∀ k, k ≠ i → objOf t k = objOf s k))) ∧
    (dispatchedAs s j 0x23 x →
      let i := hIndex (d8 d 0x20)
      let o := objOf s i
      let c := ctxOf s x.ctx
      let mine := c.arena.filter (fun a => a.obj == i)
      (mine = [] → exec (.revokeArena j) s = .next (finishJob b j 0x0301)) ∧
      (mine ≠ [] → mine.any (fun a => !a.used.isEmpty) = true → exec (.revokeArena j) s = .next (finishJob b j 0x030C)) ∧
      (mine ≠ [] → mine.any (fun a => !a.used.isEmpty) = false →
        ∃ t, exec (.revokeArena j) s = .next t ∧ ctxOf t x.ctx = { c with arena := c.arena.filter (fun a => a.obj != i) } ∧
          objOf t i = { o with bindings := o.bindings - 1 } ∧ jobOf t j = some { x with status := .done, code := 0 }))) ∧
  (∀ (s : State) (i : Nat) (v : BitVec 64) (code : Code) (origin : Nat),
    let f := fenceOf s i
    let g := fenceOf (fenceSignal s i v) i
    f.upAt ≠ some s.time.tick →
    (f.state = .error ∨ f.state = .free → fenceSignal s i v = s ∧ fenceError s i code origin = s) ∧
    (f.state = .pending ∨ f.state = .signalled →
      (v ≠ BitVec.allOnes 64 → f.value.toNat ≤ v.toNat → g.value = v ∧ g.state = .signalled) ∧
      (v ≠ BitVec.allOnes 64 → v.toNat < f.value.toNat → g.value = f.value ∧ g.state = f.state ∧ g.ooo = satAdd 0xFFFF f.ooo 1) ∧
      (v = BitVec.allOnes 64 → g.state = .error ∧ g.error = 0x030A ∧ g.value = f.value) ∧
      (fenceOf (fenceError s i code origin) i).state = .error ∧ (fenceOf (fenceError s i code origin) i).error = code ∧
      (∀ a b, a.req < b.req →
        (fenceOf (fenceUpdate (fenceUpdate s i a) i b) i).vals = (fenceOf (fenceUpdate (fenceUpdate s i b) i a) i).vals)))

/-! ### Transfers, time, programs, updates (R65, R89 to R103, R184, R247, R263, R273, R286, R287) -/

/-- R93, R273: a copy, a fill or an update that stands alone and whose pages all translate moves its bytes on copy engine 0 and
is complete (an update when its records are). Which engine takes a transfer, and that it moves as a whole, are the model's
choices (log 39, log 40). -/
def Obligations.TransferCommands : Prop :=
  ∀ (s : State) (j : Nat) (x : Job), s.front.jobs = [(j, x)] → attached s j = false →
    let d := x.desc
    let n := dLen d
    let u : State := { begun s with
      front.jobs := [(j, { x with status := .waiting, copyEngine := some 0, servedAt := some (x.servedAt.getD s.time.tick) })] }
    (dispatchedAs s j 1 x → ∀ src dst, objRange s (d8 d 0x20) (dOff d 0x30) n = (0, src) → objRange s (d8 d 0x28) (dOff d 0x38) n = (0, dst) →
      Span.bad u (engCopy 0) x.ctx ⟨src, n, false⟩ = none → Span.bad u (engCopy 0) x.ctx ⟨dst, n, true⟩ = none →
      exec (.copy j) s = .next (finishJob (vaWriteE (touchRead u (engCopy 0) x.ctx src n) (engCopy 0) x.ctx dst
        (vaReadE u (engCopy 0) x.ctx src n).2).2 j 0)) ∧
    (dispatchedAs s j 2 x → ∀ dst, objRange s (d8 d 0x20) (dOff d 0x28) n = (0, dst) → Span.bad u (engCopy 0) x.ctx ⟨dst, n, true⟩ = none →
      exec (.fill j) s = .next (finishJob (vaWriteE u (engCopy 0) x.ctx dst ((List.range (n / 8)).flatMap (fun _ => leBytes 8 (d8 d 0x30)))).2 j 0)) ∧
    (dispatchedAs s j 0x33 x → Span.bad u (engCopy 0) x.ctx ⟨d8 d 0x20, n, false⟩ = none →
      exec (.update j) s = .next (ingest (updJob (touchRead u (engCopy 0) x.ctx (d8 d 0x20) n) j (fun x => { x with copyEngine := none }))
        ((splitRecords (n / 32) (vaReadE u (engCopy 0) x.ctx (d8 d 0x20) n).2).map (fun r => { bytes := r, ctx := x.ctx, job := some j }))))

/-- R65, R263, R264, R273, R286, R421: nop, read-tick, read-snapshot, load-codebook, query-capabilities and exec-buffer. -/
def Obligations.PlainCommands : Prop :=
  ∀ (s : State) (j : Nat) (x : Job),
    let b := begun s
    let d := x.desc
    let n := dLen d
    let put := fun (w : Code × State) => if w.1 = 0 then finishJob w.2 j 0 else finishJob b j w.1
    (dispatchedAs s j 0 x → exec (.nop j) s = .next (finishJob b j 0) ∧ doneWith (finishJob b j 0) j 0) ∧
    (∀ t, dispatchedAs s j 0x40 x → x.start = some t → exec (.readTick j) s = .next (put (vaWrite b x.ctx (d8 d 0x38) (leBytes 8 t)))) ∧
    (dispatchedAs s j 0x41 x → ∀ va, objRange b (d8 d 0x20) (dOff d 0x28) ((snapshotBytes s).take n).length = (0, va) →
      exec (.readSnapshot j) s = .next (put (vaWrite b x.ctx va ((snapshotBytes s).take n)))) ∧
    (dispatchedAs s j 0x14 x →
      (s.front.capBusy = true → ∃ t, exec (.queryCapabilities j) s = .next t ∧ t.front.capJobs = s.front.capJobs ++ [j] ∧
        jobOf t j = some { x with status := .waiting } ∧ t.mem = s.mem) ∧
      (s.front.capBusy = false → x.admin = true → ∃ t, exec (.queryCapabilities j) s = .next t ∧ doneWith t j 0 ∧
        t.mem.host = wrBytes s.mem.host (d8 d 0x20 + dOff d 0x28) ((capTable s).take n))) ∧
    (dispatchedAs s j 0x32 x → ∀ va bs, objRange b (d8 d 0x20) (dOff d 0x28) n = (0, va) →
      let slot := bits (d8 d 0x30) 0 6
      let units := bits (d8 d 0x30) 8 8
      (64 < slot + units ∨ units * 65536 < n ∨ codebookUsed s slot units = true → exec (.loadCodebook j) s = .next (finishJob b j 0x0B04)) ∧
      (slot + units ≤ 64 → n ≤ units * 65536 → codebookUsed s slot units = false → vaRead b x.ctx va n = (0, bs) →
        ∃ t, exec (.loadCodebook j) s = .next t ∧ t.mem.codebook = wrBytes (touchRead b engFront x.ctx va n).mem.codebook (slot * 65536) bs)) ∧
    (dispatchedAs s j 3 x → x.parent = none → ∀ va, objRange b (d8 d 0x20) (dOff d 0x28) (64 * n) = (0, va) →
      (List.range n).all (fun k => (vaRead b x.ctx (va + 64 * k) 64).1 == 0 && bufferItemOk b (vaRead b x.ctx (va + 64 * k) 64).2) = true →
      exec (.execBuffer j) s = .next (updSubq (awaitJob (touchRead b engFront x.ctx va (64 * n)) j) x.ctx x.queue (fun q => { q with buffer := some j })))

/-- R247: load-program fails with the code of its first failing check and else places the image; unload-program waits until its
last launch has ended. R287: a launch-step takes its place among the submissions with its first launch tick. -/
def Obligations.ProgramCommands : Prop :=
  ∀ (s : State) (j : Nat) (x : Job),
    let b := begun s
    let d := x.desc
    let i := hIndex (d8 d 0x20)
    (dispatchedAs s j 0x20 x → ∀ h m, vaRead b x.ctx (objOf s i).va.toNat 128 = (0, h) → 128 ≤ imgBytes h → imgBytes h ≤ (objOf s i).size.toNat →
      vaRead b x.ctx (objOf s i).va.toNat (imgBytes h) = (0, m) →
      let u := touchRead b engFront x.ctx (objOf s i).va.toNat (imgBytes h)
      (loadCode u x.ctx i m ≠ 0 → exec (.loadProgram j) s = .next (finishJob u j (loadCode u x.ctx i m))) ∧
      (loadCode u x.ctx i m = 0 → exec (.loadProgram j) s = .next (finishJob (loadImage u x.ctx i m) j 0))) ∧
    (dispatchedAs s j 0x21 x → exec (.unloadProgram j) s =
      .next (unloadDone (awaitJob { b with steps.programs := mupd s.steps.programs i (fun g => { g with unloading := true, unloadJobs := g.unloadJobs ++ [j] }) } j) i)) ∧
    (dispatchedAs s j 4 x → ∀ g l, mfind s.steps.programs i = some g → imgGroup g.image = (ctxOf s x.ctx).group →
      bits (d8 d 0x30) 0 4 < imgVariants g.image → settleLaunch g.image d (s.front.lastDispatch.getD s.time.tick) = (0, l) →
      ∃ t, exec (.launchStep j) s = .next t ∧ jobOf t j = some { x with status := .waiting } ∧ t.cores = s.cores ∧ t.mem = s.mem ∧
        t.steps.subs = s.steps.subs ++ [{ job := j, ctx := x.ctx, part := (ctxOf s x.ctx).partition, program := i, variant := bits (d8 d 0x30) 0 4, next := l, dueNext := l, count := dLen d, period := imgPeriod g.image, group := (ctxOf s x.ctx).group, came := s.front.lastDispatch.getD s.time.tick }])

/-- R89 to R103: the commands of update streams, seals and flips. -/
def Obligations.UpdateCommands : Prop :=
  ∀ (s : State) (j : Nat) (x : Job),
    let b := begun s
    let d := x.desc
    let n := bits (d8 d 0x20) 0 8
    (dispatchedAs s j 0x34 x →
      let g := bits (d8 d 0x20) 8 8
      ((mget s.upd.streams n).bound = true ∨ ownGroup s x.ctx g = false → exec (.bindStream j) s = .next (finishJob b j 0x0101)) ∧
      ((mget s.upd.streams n).bound = false → ownGroup s x.ctx g = true → ∃ t, exec (.bindStream j) s = .next t ∧ doneWith t j 0 ∧
        mget t.upd.streams n = { ctx := x.ctx, group := g, bound := true } ∧ (∀ k, k ≠ n → mget t.upd.streams k = mget s.upd.streams k))) ∧
    (dispatchedAs s j 0x35 x →
      ((mget s.upd.streams n).bound = true → (mget s.upd.streams n).ctx = x.ctx → ∃ t, exec (.unbindStream j) s = .next t ∧ doneWith t j 0 ∧
        mget t.upd.streams n = default ∧ (∀ k, k ≠ n → mget t.upd.streams k = mget s.upd.streams k)) ∧
      ((mget s.upd.streams n).bound = false ∨ (mget s.upd.streams n).ctx ≠ x.ctx → exec (.unbindStream j) s = .next (finishJob b j 0x0101))) ∧
    (dispatchedAs s j 0x36 x →
      (ownGroup s x.ctx n = true → d4 d 0x24 = (groupOf s n).active + 1 → ∃ t, exec (.sealEpoch j) s = .next t ∧
        groupOf t n = { groupOf s n with sealJobs := (groupOf s n).sealJobs ++ [j] } ∧ jobOf t j = some { x with status := .waiting }) ∧
      (ownGroup s x.ctx n = false ∨ d4 d 0x24 ≠ (groupOf s n).active + 1 → exec (.sealEpoch j) s = .next (finishJob b j 0x0A06))) ∧
    (∀ g, (groupOf s g).sealJobs = [j] → sealReady s g j = true → jobOf s j = some x → x.status = .waiting →
      ∃ t, exec (.sealComplete g) s = .next t ∧ doneWith t j 0 ∧
        ((groupOf s g).announced = none → groupOf t g = { groupOf s g with staging := .sealed, sealJobs := [] }) ∧
        (∀ e tf delay, (groupOf s g).announced = some (e, tf, delay) → (groupOf s g).armed = none → s.time.tick < tf →
          groupOf t g = { groupOf s g with staging := .sealed, sealJobs := [], armed := some (tf, delay) })) ∧
    (∀ tk, dispatchedAs s j 0x37 x → x.start = some tk →
      let epoch := d4 d 0x24
      let tf := d8 d 0x28
      let delay := if d8 d 0x30 = 0 then 1048576 else d8 d 0x30
      (tf < tk + domainB s → exec (.flip j) s = .next (finishJob b j 0x0A01)) ∧
      (tk + domainB s ≤ tf → ownGroup s x.ctx n = false ∨ (groupOf s n).armed ≠ none ∨ epoch ≠ (groupOf s n).active + 1 →
        exec (.flip j) s = .next (finishJob b j 0x0A06)) ∧
      (tk + domainB s ≤ tf → ownGroup s x.ctx n = true → (groupOf s n).armed = none →
        epoch = (groupOf s n).active + 1 → (groupOf s n).active + 1 < 2 ^ 32 → 2 * domainB s ≤ delay →
        exec (.flip j) s = .next (announceFlip (awaitJob (updGroup (ctlSend b 2 0xFFFF (n + epoch * 2 ^ 32) tf (delay % 2 ^ 32)) n
          (fun y => { y with flipJobs := y.flipJobs ++ [j] })) j) n epoch tf delay)))

/-! ### Contexts and partitions (R232 to R238, R260, R261, R289, R293, R299, R307 to R314, R327, R328, R330) -/

/-- R233, R260, R289, R293, R299, R314, R327, R328: the administrator's commands on a context. -/
def Obligations.ContextCommands : Prop :=
  ∀ (s : State) (j : Nat) (x : Job),
    let b := begun s
    let d := x.desc
    let n := bits (d4 d 0x20) 0 12
    let c := ctxOf s n
    let m := bits (d8 d 0x20) 0 12
    (dispatchedAs s j 0x80 x →
      let p := rdBytes s.mem.host (d8 d 0x20) 128
      let k := bits (fieldAt p 0 4) 0 12
      (createCode b p ≠ 0 → exec (.createContext j) s = .next (finishJob b j (createCode b p))) ∧
      (createCode b p = 0 → ∃ t, exec (.createContext j) s = .next t ∧ ctxOf t k = pbContext b p ∧ (∀ i, i ≠ k → ctxOf t i = ctxOf s i) ∧
        doneWith t j 0 ∧ t.mem = s.mem ∧ t.parts = s.parts)) ∧
    (dispatchedAs s j 0x81 x →
      ((ctxOf s m).state = .free ∨ (ctxOf s m).state = .destroying → exec (.destroyContext j) s = .next (finishJob b j 0x030E)) ∧
      ((ctxOf s m).state ≠ .free → (ctxOf s m).state ≠ .destroying →
        exec (.destroyContext j) s = .next (awaitJob (forceAbort b m 0x0801 (some j)) j))) ∧
    (∀ i, i < 4096 → (ctxOf s i).state = .destroying → ctxReleased s i = true → ∃ t, exec (.destroyComplete i) s = .next t ∧
      ctxOf t i = {} ∧ (∀ k, k ≠ i → ctxOf t k = ctxOf s k) ∧
      (∀ f, jobOf s j = some x → x.status = .waiting → (ctxOf s i).abort.map (fun a => (a.job, a.forced)) = some (some j, f) →
        doneWith t j (if f then 0x0806 else 0))) ∧
    (dispatchedAs s j 0x87 x →
      let share := bits (d4 d 0x24) 0 10
      let base := bits (d4 d 0x28) 0 4
      let count := bits (d4 d 0x28) 4 5
      let code := schedCode b n share base count (bit (d4 d 0x28) 9)
      (code ≠ 0 → exec (.setContextSched j) s = .next (finishJob b j code)) ∧
      (code = 0 → ∃ t, exec (.setContextSched j) s = .next t ∧ doneWith t j 0 ∧
        ctxOf t n = (if bit (d4 d 0x28) 9 then { c with share := share } else { c with share := share, sramBase := base, sramCount := count }) ∧
        (∀ k, k ≠ n → ctxOf t k = ctxOf s k))) ∧
    (dispatchedAs s j 0x88 x → c.state ≠ .free → s.steps.programs.any (fun e => e.1 == d4 d 0x24 && e.2.ctx == n) = true →
      ∃ t, exec (.setCalibration j) s = .next t ∧ doneWith t j 0 ∧ (∀ k, k ≠ n → ctxOf t k = ctxOf s k) ∧
        (d4 d 0x28 ≠ 0 → mfind (ctxOf t n).calib (d4 d 0x24) = some (d4 d 0x28)) ∧
        (d4 d 0x28 = 0 → d4 d 0x24 ∈ (ctxOf t n).calibWanted ∧ (ctxOf t n).calib = c.calib)) ∧
    (dispatchedAs s j 0x89 x → dLen d ≠ 0 → n + dLen d ≤ 4096 → exec (.readAccounting j) s =
      .next (finishJob { b with mem.host := wrBytes s.mem.host (d8 d 0x28) ((List.range (dLen d)).flatMap (fun i => accountBytes s (n + i))) } j 0)) ∧
    (dispatchedAs s j 0x90 x →
      ((ctxOf s m).state ≠ .broken → exec (.replayHoldingRing j) s = .next (finishJob b j 0x010A)) ∧
      ((ctxOf s m).state = .broken → (ctxOf s m).holding = [] → ∃ t, exec (.replayHoldingRing j) s = .next t ∧ doneWith t j 0 ∧
        (ctxOf t m).state = .active ∧ (∀ k, k ≠ m → ctxOf t k = ctxOf s k))) ∧
    (dispatchedAs s j 0x91 x → (ctxOf s m).state ≠ .free → bits (d4 d 0x24) 0 26 ≤ 60000000 →
      let q := bits (d8 d 0x20) 12 2
      ∃ t, exec (.setQueue j) s = .next t ∧ doneWith t j 0 ∧ (∀ k, k ≠ m → ctxOf t k = ctxOf s k) ∧
        subqOf t m q = { subqOf s m q with fetchLimit := bits (d8 d 0x28) 0 8, timeoutUs := if bits (d4 d 0x24) 0 26 = 0 then 2000000 else bits (d4 d 0x24) 0 26 } ∧
        (∀ r, r ≠ q → subqOf t m r = subqOf s m r))

/-- R307 to R312: the administrator's commands on partitions, groups and pages; what awaits a boundary is applied there. -/
def Obligations.PartitionCommands : Prop :=
  ∀ (s : State) (j : Nat) (x : Job),
    let b := begun s
    let d := x.desc
    let k := readPartBlock s (d8 d 0x20)
    let p := bits (d8 d 0x20) 0 6
    let y := partOf s p
    (dispatchedAs s j 0x82 x →
      ((partOf s k.partition).state ≠ .absent → exec (.createPartition j) s = .next (finishJob b j 0x030E)) ∧
      ((partOf s k.partition).state = .absent → masksOk b k = false → exec (.createPartition j) s = .next (finishJob b j 0x0101)) ∧
      ((partOf s k.partition).state = .absent → masksOk b k = true → exec (.createPartition j) s = .next (finishJob (makePartition b k) j 0))) ∧
    (dispatchedAs s j 0x83 x → (partOf s k.partition).state = .active → (partOf s k.partition).resize = none → (partOf s k.partition).resizeRest = none →
      (partOf s k.partition).destroyJob = none →
      (resizeOk b k = false → exec (.resizePartition j) s = .next (finishJob b j 0x0101)) ∧
      (resizeOk b k = true → exec (.resizePartition j) s =
        .next (boundary (awaitJob (updPart b k.partition (fun y => { y with resize := some (k, j) })) j) k.partition))) ∧
    (dispatchedAs s j 0x84 x →
      (y.state ≠ .active ∨ y.destroyJob ≠ none ∨ y.group ≠ none ∨ ctxsOf b p ≠ [] → exec (.destroyPartition j) s = .next (finishJob b j 0x030E)) ∧
      (y.state = .active → y.destroyJob = none → y.group = none → ctxsOf b p = [] → exec (.destroyPartition j) s =
        .next (boundary (awaitJob (updPart b p (fun y => { y with destroyJob := some j })) j) p))) ∧
    (dispatchedAs s j 0x85 x →
      (memberBit s = false → exec (.loadGroup j) s = .next (finishJob b j 0x0607)) ∧
      (memberBit s = true → y.state ≠ .active ∨ y.group ≠ none → exec (.loadGroup j) s = .next (finishJob b j 0x030E)) ∧
      (memberBit s = true → y.state = .active → y.group = none → readGroup b (d8 d 0x28) = none → exec (.loadGroup j) s = .next (finishJob b j 0x0101)) ∧
      (∀ g, memberBit s = true → y.state = .active → y.group = none → readGroup b (d8 d 0x28) = some g →
        let u := capChange (setF (updPart b p (fun y => { y with group := some g })) tbGroupLead (105 * g.hops) p) [p]
        exec (.loadGroup j) s = .next (awaitJob { u with front.capJobs := u.front.capJobs ++ [j] } j))) ∧
    (dispatchedAs s j 0x86 x →
      (y.group = none ∨ hasGroupCtx s p = true → exec (.unloadGroup j) s = .next (finishJob b j 0x030E)) ∧
      (y.group ≠ none → hasGroupCtx s p = false → p < 64 → ∃ t, exec (.unloadGroup j) s = .next t ∧ doneWith t j 0 ∧ partOf t p = { y with group := none } ∧
        (∀ q, q ≠ p → partOf t q = partOf s q) ∧ getF t tbGroupLead p = 0)) ∧
    (dispatchedAs s j 0x8A x → y.state = .active → dLen d ≠ 0 → dLen d ≤ 512 →
      ((dPages d).all (pageGrantable s p) = false → exec (.grantPages j) s = .next (finishJob b j 0x0101)) ∧
      ((dPages d).all (pageGrantable s p) = true → ∃ t, exec (.grantPages j) s = .next t ∧ doneWith t j 0 ∧
        (∀ i, i ∈ dPages d → pageOwner t i = p) ∧ (∀ i, i ∉ dPages d → pageOwner t i = pageOwner s i))) ∧
    (dispatchedAs s j 0x8B x → y.state ≠ .absent → dLen d ≠ 0 → dLen d ≤ 512 →
      ((dPages d).all (fun i => pageExists s i && pageOwner s i == p) = false → exec (.revokePages j) s = .next (finishJob b j 0x0101)) ∧
      ((dPages d).all (fun i => pageExists s i && pageOwner s i == p) = true → exec (.revokePages j) s =
        .next (boundary (awaitJob (updPart b p (fun y => { y with revokes := y.revokes ++ [(j, bits (d8 d 0x28) 0 16, dLen d, s.time.tick)] })) j) p)))

/-- R260, R261, R330: the watchdog of a destroy, partition resets, and instance resets. -/
def Obligations.ResetsAndWatchdog : Prop :=
  ∀ (s : State),
    (∀ n a, n < 4096 → (ctxOf s n).abort = some a → (ctxOf s n).state = .destroying → a.job ≠ none → a.forced = false → a.since + 1400000 ≤ s.time.tick →
      let u := updCtx (addF (eventAdm s n (watchdogEvent s n)) qfDestroyWd) n (fun c => { c with abort := some { a with forced := true } })
      exec (.destroyWatchdog n) s = .next (if (partOf u (ctxOf s n).partition).resetUntil.isSome then u else resetPartition u (ctxOf s n).partition)) ∧
    (∀ n, n < 4096 → (ctxOf s n).state ≠ .destroying → exec (.destroyWatchdog n) s = .next s) ∧
    (∀ p t, p < 64 → (partOf s p).resetUntil = some t →
      (s.time.tick ≤ t → exec (.partitionResetDone p) s = .next (finishForced (updPart s p (fun x => { x with resetUntil := none })) p)) ∧
      (t < s.time.tick → exec (.partitionResetDone p) s = .next s ∧ exec (.partitionResetOverrun p) s = .next (failPartition s p)) ∧
      (s.time.tick ≤ t → exec (.partitionResetOverrun p) s = .next s)) ∧
    (∀ f, 0 < f → f < 16 → fnCtxs s f true = [] → ∃ t, exec (.functionLevelReset f) s = .next t ∧
      t.bound.instResets = s.bound.instResets ++ [(f, s.time.tick, none)] ∧ t.bound.flrDone = s.bound.flrDone &&& ~~~(1#16 <<< f) ∧
      t.front = s.front ∧ t.regs = s.regs) ∧
    (∀ j x, dispatchedAs s j 0x8C x → exec (.resetInstance j) s = .next (awaitJob (beginReset (begun s) (bits (d8 x.desc 0x20) 0 4) (some j)) j)) ∧
    (∀ f tk, 0 < f → f < 16 → s.bound.instResets = [(f, tk, none)] → fnCtxs s f true = [] → ∃ t, exec (.functionResetComplete f) s = .next t ∧
      t.bound.instResets = [] ∧ t.bound.fnSilent = s.bound.fnSilent ||| (1#16 <<< f) ∧ t.bound.flrDone = s.bound.flrDone ||| (1#16 <<< f)) ∧
    (∀ f n tk, f < 16 → s.bound.instResets = [(f, tk, none)] → tk + 1400000 ≤ s.time.tick → fnCtxs s f true = [n] → (ctxOf s n).partition < 64 →
      let u := updCtx s n (fun c => { c with abort := c.abort.map (fun a => { a with forced := true }) })
      exec (.functionResetBound f) s = .next (if (partOf u (ctxOf s n).partition).resetUntil.isSome then u else resetPartition u (ctxOf s n).partition))

/-! ### Tables, epochs, steps, lookups (R55, R56, R60 to R107, R174 to R184, R202, R217 to R226, R306, R317 to R323) -/

/-- R55, R56, R97, R102 to R105, R351: a bind fails with the code of its first failing check and else awaits its boundary with
its pages in the page map; an unbind awaits it; a catch-up ends; a merge pass rebuilds the filter; a group flips at its tick,
or has missed it. -/
def Obligations.TableCommands : Prop :=
  ∀ (s : State),
    (∀ j x va bs, dispatchedAs s j 0x30 x → objRange (begun s) (d8 x.desc 0x20) (dOff x.desc 0x28) 64 = (0, va) → vaRead (begun s) x.ctx va 64 = (0, bs) →
      let u := touchRead (begun s) engFront x.ctx va 64
      let d := ownDesc bs x.ctx
      let t : Table := { desc := d, ctx := x.ctx, part := (ctxOf u x.ctx).partition, obj := hIndex (tdHandle d), bindJob := some j }
      let tid := fieldAt bs 0 2
      (bindCode u x.ctx tid t ≠ 0 → exec (.bindTable j) s = .next (finishJob u j (bindCode u x.ctx tid t))) ∧
      (∀ l i, bindCode u x.ctx tid t = 0 → walkPages u x.ctx (objPages (objOf u t.obj)) = (0, l) → pmapRoom u l.length = some i →
        let v := placeBind u j tid i t l
        exec (.bindTable j) s = .next (boundary v t.part) ∧ v.emb.binds = u.emb.binds ++ [(tid, { t with pages := bindIds i l })] ∧
        objOf v t.obj = { objOf u t.obj with bindings := (objOf u t.obj).bindings + 1 })) ∧
    (∀ j x, dispatchedAs s j 0x31 x →
      let tid := bits (d8 x.desc 0x20) 0 16
      (tableFor s x.ctx tid = none → exec (.unbindTable j) s = .next (finishJob (begun s) j 0x0B02)) ∧
      (∀ t, tableFor s x.ctx tid = some t → exec (.unbindTable j) s =
        .next (boundary (awaitJob (putTable (begun s) tid { t with unbinding := true, unbindJobs := t.unbindJobs ++ [j] }) j) t.part))) ∧
    (∀ tid t, tableOf s tid = some t →
      (tid ∉ s.upd.catchup → exec (.twinCatchupDone tid) s = .next s) ∧
      (tid ∈ s.upd.catchup → ∀ x,
        let c := catchUp s tid t (catchEpoch (groupOf s (tdGroup t.desc)))
        let u : State := { c with upd.catchup := c.upd.catchup.filter (· != tid), upd.unread := c.upd.unread.filter (fun x => !(x.1 == tid && !x.2.2)) }
        tableOf u tid = some x → exec (.twinCatchupDone tid) s = .next (drainHeld (putTable u tid { x with busy := false })))) ∧
    (∀ g, g < 8 → deltaTables s g = [] → ∃ t, exec (.deltaMergePassEnd g) s = .next t ∧ t.mem = s.mem ∧ t.emb = s.emb ∧ t.parts = s.parts ∧
      t.upd.filterShadow = s.upd.filterShadow.filter (fun e => e.1 / 4194304 != g) ∧ t.upd.filterActive = s.upd.filterActive) ∧
    (∀ g tid t, g < 8 → deltaTables s g = [tid] → tableOf s tid = some t →
      let old := if (groupOf s (tdGroup t.desc)).retained then (groupOf s (tdGroup t.desc)).active - 1 else (groupOf s (tdGroup t.desc)).active
      let m := each (deltaPlaces t) (fun p s => mergeEntry s tid t old p) s
      ∃ u, exec (.deltaMergePassEnd g) s = .next u ∧ u.mem = m.mem ∧ u.emb = m.emb ∧ u.regs = m.regs) ∧
    (let u := resetsDue (latchDue s)
     (∀ g tf d, (groupOf u g).armed = some (tf, d) →
      (u.time.tick < tf → exec (.tealFlip g) s = .next u) ∧ (tf ≤ u.time.tick → exec (.tealFlip g) s = .next (switchGroup u g))) ∧
     (∀ g e tf d, (groupOf u g).armed = none → (groupOf u g).announced = some (e, tf, d) →
      (u.time.tick < tf ∨ (groupOf u g).missed = true → exec (.tealFlip g) s = .next u) ∧
      (tf ≤ u.time.tick → (groupOf u g).missed = false → exec (.tealFlip g) s = .next (missFlip u g e 0x0A05))))

/-- R5, R174, R175, R199, R202, R219, R220, R224, R306, R318, R320, R323: what happens to steps at their ticks. A slip, an idle
insertion or a launch takes effect after what is due in the tick and stands before it (`fireBefore`). -/
def Obligations.StepSchedule : Prop :=
  ∀ (s : State) (p : Nat), p < 64 →
    (atBoundary s p = true → exec (.partitionStepBoundary p) s = .next (chooseHolder (applyChanges s p) p)) ∧
    (atBoundary s p = false → exec (.partitionStepBoundary p) s = .next s) ∧
    (let u := fireBefore 6 s
     (dueSubs u p ≠ [] → launchesOn u = true → exec (.stepLaunch p) s = .next (slipsDue (launchDue u p) p)) ∧
     (dueSubs u p = [] ∨ launchesOn u = false → exec (.stepLaunch p) s = .next u)) ∧
    (∀ u, s.steps.subs = [u] → u.part = p → u.group = true → u.index < u.count → u.next ≤ s.time.tick + groupLead s p → u.judged ≠ some u.next →
      launchesOn s = true → exec (.readinessDeadline p) s = .next (judgeGroup s u)) ∧
    (∀ c r, c < 64 → runOf s p = some r →
      ((corePoints s p r c).filter (fun d => decide (d ≤ s.time.tick) && !notMissed s p r d) = [] → exec (.timedPointMiss p c) s = .next s) ∧
      (∀ d, (corePoints s p r c).filter (fun d => decide (d ≤ s.time.tick) && !notMissed s p r d) = [d] →
        exec (.timedPointMiss p c) s = .next (if r.maxSlips ≤ r.slips then stepFail s p 0x0402
          else issueSlip s p { tEff := d + leadOf s p r.group, step := r.number, origin := blockIndex s p, cause := 1, group := r.group }))) ∧
    (let u := fireBefore 4 s
     ∀ n, (partOf u p).slips = [n] → n.tEff ≤ u.time.tick → exec (.slip p) s = .next (applySlip (updPart u p (fun x => { x with slips := [] })) p n)) ∧
    (let v := fireBefore 5 s
     ∀ a, v.time.armed = [a] → a.kind = .idleInsertion → a.scope = p → a.tick ≤ v.time.tick → ∃ t, exec (.idleInsertion p) s = .next t ∧ t.time.armed = [] ∧
      t.steps.subs = v.steps.subs.map (fun u => if u.part = p ∧ u.group = a.domainWide ∧ a.tick ≤ u.next then
        { u with next := u.next + a.amount, dueNext := u.dueNext + a.amount } else u) ∧ t.steps.running = v.steps.running ∧ t.cores = v.cores) ∧
    (∀ n, (partOf s p).holder = some n → (partOf s p).sliceOver = false → (partOf s p).claimed = false → (partOf s p).sliceEnd ≤ s.time.tick →
      exec (.sliceEnd p) s = .next (endSlice s p n)) ∧
    (∀ r, runOf s p = some r → mayLeave s p r = true → exec (.stepSuspend p) s = .next (suspendStep s p r)) ∧
    (∀ u, s.steps.subs = [u] → u.part = p → u.group = true → u.claimDone = false → u.index < u.count → u.next ≤ s.time.tick + groupLead s p + 8192 →
      exec (.groupClaim p) s = .next (claim s u)) ∧
    (∀ r q t, runOf s p = some r → r.lossAt = [(q, t)] →
      exec (.linkLossEffectiveTick p) s = .next (if t ≤ s.time.tick then stepEnd s p 0x0602 else s))

/-- R62, R73 to R75, R81, R84, R85, R88: resolving IDs, features that become ready, promotions, the sketch and the quotas. -/
def Obligations.LookupCommands : Prop :=
  ∀ (s : State) (p : Nat), p < 64 →
    (∀ r i f, runOf s p = some r → r.features[i]? = some f → f.ready = false →
      (∀ bag pos e, bag < f.batch →
        (lookupWaits s p r i f bag pos e = false → exec (.lookupId p i bag pos e) s = .next (greyFaultsDue (lookupId s p r i f bag pos e))) ∧
        (lookupWaits s p r i f bag pos e = true → exec (.lookupId p i bag pos e) s = .next s)) ∧
      (s.time.tick < f.readyAt → exec (.featureReady p i) s = .next s) ∧
      (∀ t, f.readyAt ≤ s.time.tick → featureResolved s p r f = (0, true) → tableFor s r.ctx f.tableId = some t →
        exec (.featureReady p i) s = .next (readyFeature s p r i f t)) ∧
      (∀ c b, f.readyAt ≤ s.time.tick → featureResolved s p r f = (c, b) → c ≠ 0 →
        exec (.featureReady p i) s = .next (laneFault s p r.ctx f.offsetsVa.toNat false c))) ∧
    (∀ tid row q t loc, s.emb.promos.find? (fun q => q.table == tid && q.row == row && promoTurn s q) = some q → tableOf s tid = some t →
      ownerOf s t row = (none, loc) →
      exec (.promotionCopyDone tid row) s = .next (installRow s q (rowStored s t loc q.epoch true))) ∧
    (s.time.tick % 2 ^ max 16 (getF s eeDecayLog2) = 0 → rising s.emb.sketch = true → ∃ t, exec .sketchHalving s = .next t ∧
      (∀ k, mget t.emb.sketch k = mget s.emb.sketch k / 2) ∧ { t with emb.sketch := s.emb.sketch } = s) ∧
    (s.time.tick % 2 ^ max 16 (getF s eeDecayLog2) ≠ 0 → exec .sketchHalving s = .next s) ∧
    (exec .sketchClear s = .next (setF s eeSketchClear 1) ∧ getF (setF s eeSketchClear 1) eeSketchClear = 1) ∧
    (getF s eeSketchClear = 1 → (sketchTick s).emb.sketch = [] ∧ getF (sketchTick s) eeSketchClear = 0) ∧
    (∀ v : W32,
      let q := v.toNat % 4096
      let others := (List.range 64).foldl (fun n k => if k = p then n else n + getF s eeQuotaUnits k) 0
      (hasCrimson s = false ∨ crimsonUnits s < others + q → exec (.crimsonQuotaWrite p v) s = .next s) ∧
      (hasCrimson s = true → others + q ≤ crimsonUnits s → crimsonUsed (setF s eeQuotaUnits q p) p ≤ crimsonQuota (setF s eeQuotaUnits q p) p →
        exec (.crimsonQuotaWrite p v) s = .next (setF s eeQuotaUnits q p) ∧ getF (setF s eeQuotaUnits q p) eeQuotaUnits p = q)) ∧
    (∀ r q i e t,
      let v := varEntry (runEntry s p r).1 q r.variant
      let f := imgFeature (runEntry s p r).1 v 0 i
      let l := (mget r.inRecords q).filter (fun x => recordFeature x == i)
      let u := updRun s p (fun y => { y with inRecords := mset y.inRecords q ((mget r.inRecords q).filter (fun x => recordFeature x != i)) })
      runOf s p = some r → r.group = true → i < v.features → q < imgBlocks (runEntry s p r).1 → l ≠ [] → tableFor u r.ctx f.tableId = some t →
      exec (.exchangeServe p q i e) s = .next (if epochServedRemote (groupOf u (tdGroup t.desc)) e = true then
          pushReturn (countServed u t f.tableId e l) p q (serveRecords u t f.tableId f.poolOp f.outFormat i e l)
        else pushReturn (addF u eeEpochUnavail l.length) p q (leBytes 8 (refusedTag i)))) ∧
    (∀ a, carryDue s p = some a → exec (.carryAreaFinal p) s = .next (greyFaultsDue (carryFinal s a)))

/-- R57: in direct mode the row is the ID; an ID out of range ends the step with 0x0B03, or contributes the default row, sets
the substitution bit of its feature and is counted in EE_OOB_CNT, by the table's policy. -/
def Obligations.IdsInDirectMode : Prop :=
  ∀ (s : State) (r r' : StepRun) (f f' : FeatureRun) (l : Looked) (id : Nat) (ecc : SramEcc) (t : Table),
    tableFor s r.ctx f.tableId = some t → runOf s l.part = some r' → r'.features[l.fi]? = some f' → tdHashed t.desc = false →
    let e := mget r.epochs (tdGroup t.desc)
    (id < tdRows t.desc → rowOfId t.desc id = some id ∧
      resolveId s r f l id ecc = resolveRow (telemAdd s 3 1) r f t { l with epoch := e, row := id } ecc) ∧
    (tdRows t.desc ≤ id → tdSubst t.desc = false → resolveId s r f l id ecc = stepFail (telemAdd s 3 1) l.part 0x0B03) ∧
    (tdRows t.desc ≤ id → tdSubst t.desc = true → ∃ u q g, resolveId s r f l id ecc = addF u eeOob ∧ runOf u l.part = some q ∧
      q.features[l.fi]? = some g ∧ g.substBit = true ∧ mget g.contrib l.bag = mget f'.contrib l.bag ++
      [{ pos := l.pos, values := decodeRow s t (defaultRow s t e), weight := l.weight }])

/-- R58: in hashed mode an ID's row is the high half of its hash times the rows; the seed is made odd; every ID has a row in
range, and IDs of one row share it. -/
def Obligations.IdsInHashedMode : Prop :=
  ∀ (s : State) (r : StepRun) (f : FeatureRun) (l : Looked) (id : Nat) (ecc : SramEcc) (t : Table),
    tableFor s r.ctx f.tableId = some t → tdHashed t.desc = true → 0 < tdRows t.desc →
    let n := tdRows t.desc
    let x := id ^^^ (id >>> 29)
    let h := (x * (tdSeed t.desc ||| 1)) % 2 ^ 64
    (tdSeed t.desc ||| 1) % 2 = 1 ∧ rowOfId t.desc id = some (h * n / 2 ^ 64) ∧ h * n / 2 ^ 64 < n ∧
    resolveId s r f l id ecc = resolveRow (telemAdd s 3 1) r f t { l with epoch := mget r.epochs (tdGroup t.desc), row := h * n / 2 ^ 64 } ecc

/-- R59: a row belongs to the block that the shard map of its partition lists at its number modulo the entries, where its local
number is the quotient; a table without a shard map has one entry, this block; its bytes start at that many strides from the
start of its rows (in a twin table, of the slot of its epoch). R61: this block's copy of a table's default row stands at the
local number of the rows divided by the entries, rounded up; every row of the table lies below it on its owner, and one lies
just below it. -/
def Obligations.RowsHaveOwners : Prop :=
  (∀ (s : State) (t : Table) (r e : Nat),
    let own := match (partOf s t.part).group with | some g => g.index | none => 0
    let m := mget (partOf s t.part).shardMaps (tdShard t.desc)
    let start := if tdDelta t.desc then 0 else e % 2 * mainBytes s t
    (tdShard t.desc = 0xFFFF → shardCount s t = 1 ∧ ownerOf s t r = (none, r)) ∧
    (∀ j, tdShard t.desc ≠ 0xFFFF → m[r % m.length]? = some j → shardCount s t = m.length ∧
      (j = own → ownerOf s t r = (none, r / m.length)) ∧ (j ≠ own → ownerOf s t r = (some j, r / m.length))) ∧
    (∀ k, k % shardCount s t = r % shardCount s t → (ownerOf s t k).1 = (ownerOf s t r).1) ∧
    mainRowAt s t (ownerOf s t r).2 e = start + r / shardCount s t * 2 ^ tdLog t.desc ∧
    rowStored s t (ownerOf s t r).2 e false = tabRead s t (start + r / shardCount s t * 2 ^ tdLog t.desc) (2 ^ tdLog t.desc)) ∧
  (∀ (s : State) (t : Table) (e : Nat),
    nLocal s t = (tdRows t.desc + shardCount s t - 1) / shardCount s t ∧
    defaultRow s t e = rowStored s t ((tdRows t.desc + shardCount s t - 1) / shardCount s t) e true ∧
    (∀ r, r < tdRows t.desc → (ownerOf s t r).2 < nLocal s t) ∧
    (0 < tdRows t.desc → ∃ r, r < tdRows t.desc ∧ (ownerOf s t r).2 + 1 = nLocal s t))

/-! ### Links, packets, messages and the domain's time (R27 to R29, R82, R83, R93, R169, R188 to R201, R205, R208 to R216, R222 to R226) -/

/-- R29, R169, R205, R208, R210, R213, R214, R224, R230: what the link engine does at its slots and with what a port receives,
and the writes of its ownership tables. -/
def Obligations.LinkCommands : Prop :=
  ∀ (s : State) (q : Nat), q < 60 →
    (∀ w (v : W32), w < 128 → s.bound.hostAnswers = true →
      let es := (List.range 4).map (fun b => (4 * w + b, bits v.toNat (8 * b) 8))
      let next := es.foldl (fun m (e : Nat × Nat) => mput m e.1 e.2) s.links.nocNext
      (384 < nocOwned next s → exec (.nocOwnershipWrite w v) s = .next s) ∧
      (nocOwned next s ≤ 384 → es.all (fun e => ownerOk e.2) = true → exec (.nocOwnershipWrite w v) s =
        .next (ownersChange { s with links.nocNext := next } (es.flatMap (fun e => [e.2, nocOwner s e.1]))))) ∧
    (∀ w (v : W32), w < 140 → s.bound.hostAnswers = true → portPresent s q = true →
      let es := ((List.range 4).map (fun b => (4 * w + b, bits v.toNat (8 * b) 8))).filter (fun e => e.1 % 8 != 0 && ownerOk e.2)
      exec (.slotOwnershipWrite q w v) s = .next (ownersChange { s with links.slotNext := es.foldl (fun m (e : Nat × Nat) => mput m (560 * q + e.1) e.2) s.links.slotNext }
        (es.flatMap (fun e => [e.2, slotOwner s q e.1])))) ∧
    (let v := fireBefore 7 s
     ∀ p n r t ecc, p < 64 → n < 65536 → runOf v p = some r → streamOf r n = some t →
      (sendDue v r t = false → exec (.timedSend p n ecc) s = .next v) ∧
      (sendDue v r t = true → t.kind = 3 → exec (.timedSend p n .good) s =
        .next (stepProgress (updStream (sendFlits v p r t (withIndigo v p r t (coreRdN (coreOf v ((coreAt v p t.srcCore).getD 0))
          (winOf v ((coreAt v p t.srcCore).getD 0)) (t.sends.headD (0, 0, 0, 0)).1 (t.sends.headD (0, 0, 0, 0)).2.1 t.bytes))) p t.number
          (fun t => t.pop)) p)) ∧
      (sendDue v r t = true → t.kind ≤ 3 ∨ t.kind = 6 → exec (.timedSend p n ecc) s = .next (sendDelivery v p r t ecc))) ∧
    (∀ p n r t, p < 64 → runOf s p = some r → streamOf r n = some t → exec (.deliveryLanded p n) s = .next (stepProgress (landDelivery s p r t) p)) ∧
    (∀ fec bs, (portOf s q).out = false → (portOf s q).overBudget = false →
      let c := countFec s q fec (flitGood fec bs)
      let rx := fun (tick lost own : Nat) (v : State) =>
        let u := updPort c q (fun y => { y with timedRx := y.timedRx ++ [(slotAt tick, lost)], rxTick := some tick })
        (resvFor u q tick = none → v = u) ∧
        (∀ p r y, resvFor u q tick = some (p, r, y) →
          v = if y.kind = 2 then forwardFlit u y tick (slotAt tick) lost own bs else stepProgress (receiveFlit u p r y lost own bs) p)
      (flitGood fec bs = true → bits (fieldAt bs 0 4) 0 2 = 0 → ∃ v, exec (.timedFlit q fec bs) s = .next v ∧
        rx (slotTickOf c (bits (fieldAt bs 0 4) 15 6) (bits (fieldAt bs 0 4) 5 10)) (bits (fieldAt bs 0 4) 2 2) 0 v) ∧
      (flitGood fec bs = false → nextSlot c q = none → exec (.timedFlit q fec bs) s = .next c) ∧
      (∀ tick, flitGood fec bs = false → nextSlot c q = some tick → ∃ v, exec (.timedFlit q fec bs) s = .next v ∧ rx tick 1 1 v)) ∧
    (∀ fec bs, ((portOf s q).up = false → exec (.bestEffortFlit q fec bs) s = .next s) ∧
      ((portOf s q).up = true → flitGood fec bs = true → bits (fieldAt bs 0 4) 0 2 = 1 →
        exec (.bestEffortFlit q fec bs) s = .next (beFlitIn (countFec s q fec true) q bs)) ∧
      ((portOf s q).up = true → flitGood fec bs = false → ∃ t, exec (.bestEffortFlit q fec bs) s = .next t ∧ (portOf t q).nak = true ∧
        (∀ k, k ≠ q → portOf t k = portOf s k) ∧ t.cores = s.cores ∧ t.mem = s.mem)) ∧
    ((portOf s q).retry = [] → exec (.beRetryTimeout q) s = .next s) ∧
    (∀ e l, (portOf s q).retry = e :: l →
      ((∀ t, e.sentAt = some t → s.time.tick < t + 2048) → exec (.beRetryTimeout q) s = .next s) ∧
      (∀ t0, e.sentAt = some t0 → t0 + 2048 ≤ s.time.tick →
        ((∀ x ∈ e :: l, x.sentAt ≠ none → x.resends < 16) → ∃ t, exec (.beRetryTimeout q) s = .next t ∧
          (portOf t q).retry = { e with sentAt := none, resends := e.resends + 1 } :: l ∧ (∀ k, k ≠ q → portOf t k = portOf s k) ∧
          t.links.flitsOut = s.links.flitsOut ∧ t.cores = s.cores ∧ t.mem = s.mem) ∧
        (16 ≤ e.resends → exec (.beRetryTimeout q) s = .next (markPortOut s q)))) ∧
    (∀ i p, s.links.beOut[i]? = some p →
      (s.time.tick < p.born + 1000000 → exec (.bePacketTimeout i) s = .next s) ∧
      (p.born + 1000000 ≤ s.time.tick → p.src = s.start.record.coord → exec (.bePacketTimeout i) s =
        .next (eventCtx (addF { s with links.beOut := s.links.beOut.eraseIdx i } lkBeDrop) p.ctx
          { type := 0x000C, code := 0x0606, payload := leBytes 4 (packCoord p.dst) }))) ∧
    ((portOf s q).up = true → exec (.linkPcsDown q) s = .next (markPortOut s q)) ∧
    ((portOf s q).up = false → exec (.linkPcsDown q) s = .next s)

/-- R74, R82, R83, R93, R214: a packet of 1 to 64 flits whose kind is at most 5 is delivered at its destination in the order of
its flow, a copy is discarded, and a packet for another block is routed onward; one of another number of flits is dropped and
counted. -/
def Obligations.PacketCommands : Prop :=
  ∀ (s : State) (p : BeHeader) (d : List Byte),
    (p.flits = 0 ∨ 64 < p.flits → let t := addF s lkBeDrop
      exec (.updateStreamPacket p d) s = .next t ∧ exec (.greyLaneRecord p d) s = .next t ∧ exec (.greyLaneReturn p d) s = .next t ∧
      exec (.promotionFetch p d) s = .next t ∧ exec (.promotionData p d) s = .next t ∧ exec (.firmwareManagement p d) s = .next t) ∧
    (1 ≤ p.flits → p.flits ≤ 64 → p.dst = s.start.record.coord →
      exec (.updateStreamPacket p d) s = .next (bePacketArrive s (packetOf p 0 d)) ∧ exec (.greyLaneRecord p d) s = .next (bePacketArrive s (packetOf p 1 d)) ∧
      exec (.greyLaneReturn p d) s = .next (bePacketArrive s (packetOf p 2 d)) ∧ exec (.promotionFetch p d) s = .next (bePacketArrive s (packetOf p 3 d)) ∧
      exec (.promotionData p d) s = .next (bePacketArrive s (packetOf p 4 d)) ∧ exec (.firmwareManagement p d) s = .next (bePacketArrive s (packetOf p 5 d))) ∧
    (∀ k, k ≤ 5 → let key := flowKey p.src k p.flow
      (2 ^ 31 ≤ (p.seq + 2 ^ 32 - mget s.links.flowRx key) % 2 ^ 32 → bePacketArrive s (packetOf p k d) = s) ∧
      (p.seq = mget s.links.flowRx key → s.links.flowHeld = [] → bePacketArrive s (packetOf p k d) =
        beDeliver { s with links.flowRx := mset s.links.flowRx key ((p.seq + 1) % 2 ^ 32) } (packetOf p k d))) ∧
    (1 ≤ p.flits → p.flits ≤ 64 → p.dst = s.start.record.coord → p.seq = mget s.links.flowRx (flowKey p.src 5 p.flow) → s.links.flowHeld = [] →
      ∃ t, exec (.firmwareManagement p d) s = .next t ∧ t.links.fwInbox = s.links.fwInbox ++ [packetOf p 5 d] ∧
        t.cores = s.cores ∧ t.mem = s.mem ∧ t.emb = s.emb ∧ t.regs = s.regs) ∧
    (1 ≤ p.flits → p.flits ≤ 64 → p.dst ≠ s.start.record.coord →
      let onward := fun k => beRoute s { packetOf p k d with born := s.time.tick }
      exec (.updateStreamPacket p d) s = .next (onward 0) ∧ exec (.greyLaneRecord p d) s = .next (onward 1) ∧
      exec (.greyLaneReturn p d) s = .next (onward 2) ∧ exec (.promotionFetch p d) s = .next (onward 3) ∧
      exec (.promotionData p d) s = .next (onward 4) ∧ exec (.firmwareManagement p d) s = .next (onward 5))

/-- R200, R201, R202, R211, R215, R216, R222, R224, R226: a block of a domain acts on the first copy of a control message and
forwards it with one hop more; it discards a message that it has seen or issued; a flit that fails is lost, and a reserved type
or a non-zero reserved field is counted in LK_BE_DROP. -/
def Obligations.MessageCommands : Prop :=
  ∀ (s : State) (q : Nat) (fec : RxMark) (bs : List Byte), q < 60 → (portOf s q).up = true →
    let cmd := fun (k : Nat) => messageCmd k q fec bs
    let u := countFec s q fec true
    (∀ k,
      (flitGood fec bs = false → exec (cmd k) s = .next (countFec s q fec false)) ∧
      (flitGood fec bs = true → bits (fieldAt bs 0 4) 0 2 ≠ 2 → exec (cmd k) s = .next u) ∧
      (flitGood fec bs = true → bits (fieldAt bs 0 4) 0 2 = 2 → ctlRead bs = none → exec (cmd k) s = .next (addF u lkBeDrop))) ∧
    (∀ m, flitGood fec bs = true → bits (fieldAt bs 0 4) 0 2 = 2 → ctlRead bs = some m →
      (2 ≤ m.type → domainMember s = false ∨ ctlSeen s m = true → exec (cmd m.type) s = .next u) ∧
      (domainMember s = true → ctlSeen s m = false →
        let v := ctlForward u q m
        let here := fun (c : Coord) => c = s.start.record.coord
        (m.type = 2 → exec (cmd 2) s = .next (announceFlip v (bits m.a 0 8) (bits m.a 32 32) m.b m.c)) ∧
        (m.type = 3 → s.time.armed.length < 64 → ∃ t, exec (cmd 3) s = .next t ∧ t.time.armed = s.time.armed ++
          [{ kind := .snapshot, tick := m.a, number := m.b, domainWide := true }] ∧
          t.time.forwarded = s.time.forwarded ++ [{ m with port := q, hops := m.hops + 1 }]) ∧
        (m.type = 4 → s.time.armed.length < 64 → ∃ t, exec (cmd 4) s = .next t ∧ t.time.armed = s.time.armed ++
          [{ kind := .domainReset, tick := m.a, origin := m.origin, domainWide := true }] ∧ t.steps = s.steps ∧ t.cores = s.cores) ∧
        (m.type = 5 → (here (unpackCoord m.b) → exec (cmd 5) s = .next (reportDone v m.origin m.a)) ∧
          (¬ here (unpackCoord m.b) → exec (cmd 5) s = .next v)) ∧
        (m.type = 6 → exec (cmd 6) s = .next (each (groupParts v m.group) (fun p s => armIdle s m.a p m.b true) v)) ∧
        (m.type = 7 → exec (cmd 7) s =
          .next (each (groupParts v m.group) (fun p s => hearSlip s p m.a m.b (bits m.c 0 16) (bits m.c 16 4)) v)) ∧
        (m.type = 8 → exec (cmd 8) s = .next (each (groupParts v m.group) (fun p s =>
          updRun s p (fun r => if r.group then { r with lossAt := r.lossAt ++ [(m.b, m.a)] } else r)) v)) ∧
        (∀ k r, m.type = 9 → groupParts v m.group = [k] → runOf v k = some r →
          exec (cmd 9) s = .next (if r.group && r.number == m.a then stepEnd v k 0x0604 else v)) ∧
        (m.type = 10 → (here (unpackCoord (bits m.a 0 16)) → ∃ t, exec (cmd 10) s = .next t ∧
            t.links.fwMsgs = s.links.fwMsgs ++ [(m.origin, m.data)] ∧ t.time.forwarded = s.time.forwarded) ∧
          (¬ here (unpackCoord (bits m.a 0 16)) → exec (cmd 10) s = .next v))))

/-- R188, R189, R193, R195, R198, R200, R201: markers, mastership and alignment; snapshots and domain resets are armed, fire at
their ticks and are reported. -/
def Obligations.DomainTimeCommands : Prop :=
  ∀ (s : State),
    (∀ q frac fec bs, q < 60 →
      ((portOf s q).up = false → exec (.markerFlit q frac fec bs) s = .next s) ∧
      (∀ m, (portOf s q).up = true → flitGood fec bs = true → bits (fieldAt bs 0 4) 0 2 = 2 → ctlRead bs = some m → m.type = 1 →
        let u := countFec s q fec true
        (domainMember s = true → exec (.markerFlit q frac fec bs) s =
          .next (syncReached (hearMarker u q m.a (bits m.b 0 2) (bits m.b 8 8) (16 * s.time.tick + frac % 16)))) ∧
        (domainMember s = false → exec (.markerFlit q frac fec bs) s = .next u))) ∧
    (s.time.tick % 65536 ≠ 0 → exec .syncMarkerSend s = .next s) ∧
    (domainMember s = true → s.time.tick % 65536 = 0 → getF s tbMaster = 1 → exec .syncMarkerSend s =
      .next (each ((List.range 60).filter (fun q => (portOf s q).up)) (fun q u => ctlSend u 1 0xFFFF u.time.tick (getF u tbMasterRank + 256) 0 q) s)) ∧
    (getF s tbMaster = 0 → getF s tbSyncState = 1 ∨ getF s tbSyncState = 2 → s.time.lastMarker + 262144 ≤ s.time.tick → bestUpstream s = none →
      let u : State := { setF (setF s tbSyncState 3) tbUpstream 0x3F with
        time.holdoverAt := s.time.tick, time.reacquire := none, time.missCounted := 4 }
      exec .markerHoldover s = .next (healthEvent (addF (addF u tbHoldovers) tbMarkersMissed (4 - s.time.missCounted)) { source := 11 }) ∧ getF u tbSyncState = 3 ∧ getF u tbUpstream = 0x3F) ∧
    (s.time.tick < s.time.lastMarker + 262144 → exec .markerHoldover s = .next s) ∧
    (getF s tbSyncState = 3 → s.time.holdoverAt + 60000000 ≤ s.time.tick → getF s tbUnaligned = 0 → s.steps.running = [] →
      exec .unaligned s = .next (setF s tbUnaligned 1)) ∧
    (s.time.tick < s.time.holdoverAt + 60000000 → exec .unaligned s = .next s) ∧
    (∀ k, ownRank s = some k → domainMember s = true → getF s tbMaster = 0 → 1 ≤ k → 9 ≤ getF s bcState →
      s.start.startTick + (4 + 4 * k) * 65536 ≤ s.time.tick → rankSilent s k = true →
      exec .masterTakeover s = .next (syncReached (capChange (becomeMaster s k) []))) ∧
    (ownRank s = none → exec .masterTakeover s = .next s) ∧
    (s.bound.hostAnswers = true →
      (getF64 s tbSnapAtLo < s.time.tick → exec .snapshotArm s = .next (setF s tbSnapRefused 1)) ∧
      (s.time.tick ≤ getF64 s tbSnapAtLo → getF s tbSnapDomain = 0 → s.time.armed.length < 64 →
        ∃ t, exec .snapshotArm s = .next t ∧ getF t tbSnapRefused = 0 ∧ getF t tbSnapArm = 1 ∧
        t.time.armed = s.time.armed ++ [{ kind := .snapshot, tick := getF64 s tbSnapAtLo, number := getF s tbSnapNumber, domainWide := false, own := true }]) ∧
      (64 ≤ s.time.armed.length → exec .domainResetArm s = .next s) ∧
      (s.time.armed.length < 64 → ∃ t, exec .domainResetArm s = .next t ∧ getF t tbResetBusy = 1 ∧ getF t tbResetIncomplete = 0 ∧
        t.time.resetAt = s.time.tick + getF s tbDomainB ∧ t.time.resetReports = [] ∧ t.time.armed = s.time.armed ++
        [{ kind := .domainReset, tick := s.time.tick + getF s tbDomainB, origin := s.start.record.coord, domainWide := true }])) ∧
    (∀ a, s.time.armed = [a] →
      (a.kind = .snapshot → a.tick ≤ s.time.tick → ∃ t, exec .snapshotLatch s = .next t ∧ t.time.armed = [] ∧
        getF t tbSnapArm = (if a.own = true then 0 else getF s tbSnapArm) ∧
        getF t hpSnapNumber = a.number % 256 ∧ getF64 t tbSnapTickLo = s.time.tick % 2 ^ 64 ∧
        (∀ i, i < 24 → i ≠ 1 → mget t.health.snap i = mget s.health.telem i) ∧ t.health.telem = s.health.telem) ∧
      (s.time.tick < a.tick → exec .snapshotLatch s = .next s ∧ exec .domainResetFire s = .next s) ∧
      (a.kind = .domainReset → a.tick ≤ s.time.tick → exec .domainResetFire s = .next (fireReset { s with time.armed := [] } a))) ∧
    (s.time.resetRunning = false → exec .domainResetLocalDone s = .next s) ∧
    (s.time.resetRunning = true → let u : State := { s with time.resetRunning := false }
      exec .domainResetLocalDone s = .next (if s.time.resetOrigin = s.start.record.coord then reportDone u s.start.record.coord s.time.resetAt
        else ctlSend u 5 0xFFFF s.time.resetAt (packCoord s.time.resetOrigin) 0)) ∧
    (getF s tbResetBusy = 1 → s.time.resetAt + 14000 + getF s tbDomainB ≤ s.time.tick → s.time.resetMailbox = none →
      ∃ t, exec .domainResetDeadline s = .next t ∧ getF t tbResetBusy = 0 ∧ getF t tbResetIncomplete = 1) ∧
    (getF s tbResetBusy = 0 → exec .domainResetDeadline s = .next s)

/-! ### Staged start (R22, R27, R35, R264, R374, R384 to R396) -/

/-- R22, R264, R374, R387, R388, R390, R392, R394: start goes from the fuses to the stacks; a command of another state than the
block's changes nothing. -/
def Obligations.StartCommands : Prop :=
  ∀ (s : State),
    (getF s bcState = 1 → ∃ t, exec .fuseLoad s = .next t ∧ t.start.shadow = some s.start.fuses ∧ getF t bcState = 2 ∧ t.bound.stage = 1 ∧
      t.bound.hostAnswers = true ∧ bit (getF t ccRunning) 0 = true ∧ t.mem = s.mem) ∧
    (getF s bcState ≠ 1 → exec .fuseLoad s = .next s) ∧
    (∀ a, (getF s bcState = 2 → ∃ t, exec (.flashRead a) s = .next t ∧ getF t bcState = 3 ∧ t.start.flashAnswered = a ∧
        (a = false → t.mem = s.mem) ∧ (a = true → t.mem.bootStore = (let h := rdBytes s.mem.flash 0 256
          copyCells s.mem.flash (recImageOffset h) (min (recImageBytes h) 8388608)
            (copyCells s.mem.flash 0 (min (recBytes h) 262144) s.mem.bootStore 0) 262144))) ∧
      (getF s bcState ≠ 2 → exec (.flashRead a) s = .next s)) ∧
    (getF s bcState ≠ 3 → exec .verify s = .next s) ∧
    (getF s bcState = 3 →
      let u := setF s bcBootLock 1
      let code := bundleCode u s.start.flashAnswered (storedRecord u) (storedImage u) (leBytes 48 s.start.imageDigest.toNat)
      exec .verify s = .next (judgeBundle u code (storedRecord u) (storedImage u)) ∧
      (code ≠ 0 → ∃ t, exec .verify s = .next t ∧ getF t bcState = 4 ∧ getF t bcCode = code.toNat ∧ getF t bcBootLock = 1 ∧
        t.start.record = s.start.record)) ∧
    (getF s bcState = 5 → let m := BitVec.ofNat 20 (maskOf 20 (stackPresent s))
      exec .firmwareStart s = .next (advanceStart (setF { cpStart (cpStart (cpStart s 1) 2) 3 with bound.spRstN := m, bound.spTrainStart := m } bcState 6))) ∧
    (getF s bcState ≠ 5 → exec .firmwareStart s = .next s) ∧
    (∀ k (c : W32), k < 20 →
      (stackTrains s k = true → exec (.hbmTrainDone k c) s =
          .next (advanceStart { s with bound.stackUp := s.bound.stackUp ||| (1#20 <<< k), bound.spCfg := mset s.bound.spCfg k c }) ∧
        exec (.hbmTrainFail k) s = .next (advanceStart { s with bound.stackLost := s.bound.stackLost ||| (1#20 <<< k) })) ∧
      (stackTrains s k = false → exec (.hbmTrainDone k c) s = .next s ∧ exec (.hbmTrainFail k) s = .next s)) ∧
    (∀ l, (getF s bcState ≠ 7 → exec (.bistAndRepair l) s = .next s) ∧
      (getF s bcState = 7 → exec (.bistAndRepair l) s = .next (leaveBist (each (repairSources s l) addRepair s)))) ∧
    (s.front.capBusy = false → exec .capabilityRewriteDone s = .next s) ∧
    (s.front.capBusy = true → s.front.capMore = true → ∃ t, exec .capabilityRewriteDone s = .next t ∧ t.front.capBusy = true ∧ t.front.capMore = false ∧
      t.front.capGen = (s.front.capGen + 1) % 2 ^ 32) ∧
    (s.front.capBusy = true → s.front.capMore = false → s.front.capJobs = [] → ∃ t, exec .capabilityRewriteDone s = .next t ∧ t.front.capBusy = false ∧
      t.front.capGen = (s.front.capGen + 1) % 2 ^ 32)

/-- R27, R35, R225, R390, R392, R393: ports train and come up, the limits of the states of start, and the way to green. -/
def Obligations.LinkStartCommands : Prop :=
  ∀ (s : State),
    (∀ q f d c k, q < 60 →
      (portTrains s q = false → exec (.linkTraining q f d c k) s = .next s ∧ exec (.linkPortUp q f d c k) s = .next s) ∧
      (portTrains s q = true → let m := measurePort s q f d c k
        ((portOf m q).flight = f % 256 ∧ ((portOf m q).overBudget = true ↔ 14 < f) ∧ (portOf m q).peer = some (c, k)) ∧
        (wrongPeer s q c k = false → exec (.linkTraining q f d c k) s = .next m ∧ exec (.linkPortUp q f d c k) s = .next (portUp m q)) ∧
        (wrongPeer s q c k = true → exec (.linkTraining q f d c k) s = .next (refusePeer m q) ∧
          exec (.linkPortUp q f d c k) s = .next (refusePeer m q)))) ∧
    (8 ≤ getF s bcState → getF s bcState ≤ 11 → portsWait s = true → s.links.retryAt + 7000000000 ≤ s.time.tick →
      exec .linkRetry s = .next { s with links.retryAt := s.time.tick }) ∧
    (s.time.tick < s.links.retryAt + 7000000000 → exec .linkRetry s = .next s) ∧
    (getF s bcState = 9 → exec .syncWaitEvent s = .next (healthEvent s { source := 11 })) ∧
    (getF s bcState ≠ 9 → exec .syncWaitEvent s = .next s) ∧
    (getF s bcState ≠ 10 → ∀ b, exec (.loadState b) s = .next s) ∧
    (getF s bcState = 10 →
      (∃ t, exec (.loadState false) s = .next t ∧ getF t bcState = 4 ∧ getF t bcCode = 0x090A ∧ t.bound.stage = s.bound.stage) ∧
      (s.start.record.partitions = [] → ∃ t, exec (.loadState true) s = .next t ∧ getF t bcState = 11 ∧ t.bound.stage = 2 ∧ t.mem.bootStore = [] ∧
        t.front.capBusy = true)) ∧
    (getF s bcState = 8 → exec .startStateLimit s = .next (enterSync s)) ∧
    (getF s bcState = 10 → ∃ t, exec .startStateLimit s = .next t ∧ getF t bcState = 4 ∧ getF t bcCode = 0x090A) ∧
    (11 ≤ getF s bcState → exec .startStateLimit s = .next s) ∧
    (s.bound.pwr = 0 ∨ getF s bcState = 0 ∨ 10 < getF s bcState → exec .startHeld s = .next s) ∧
    (s.bound.pwr ≠ 0 → 1 ≤ getF s bcState → getF s bcState ≤ 10 → ∃ t, exec .startHeld s = .next t ∧ getF t bcState = 12 ∧
      t.start.resume = getF s bcState ∧ t.bound = s.bound ∧ t.mem = s.mem)

/-! ### Control processors, firmware and mailboxes (R201, R224, R373 to R383, R389, R396) -/

/-- R373 to R375, R377, R378: processors are held, released, kicked and restarted, and firmware's accesses reach what the
limiter allows. -/
def Obligations.FirmwareCommands : Prop :=
  ∀ (s : State) (c : Nat), c < 4 →
    (s.bound.hostAnswers = true → s.ctrl.powered = true →
      exec (.cpHoldSet c) s = .next (cpStop s c) ∧
      (bit (getF s ccHold) c = true → exec (.cpHoldClear c) s = .next (cpStart s c)) ∧
      (bit (getF s ccHold) c = false → exec (.cpHoldClear c) s = .next s) ∧
      exec (.watchdogKick c) s = .next { s with ctrl.kicked := mset s.ctrl.kicked c s.time.tick }) ∧
    (s.bound.hostAnswers = true → s.ctrl.powered = false → exec (.cpHoldSet c) s = .next (unpowered s 0x1400004 true) ∧
      exec (.cpHoldClear c) s = .next (unpowered s 0x1400004 true) ∧ exec (.watchdogKick c) s = .next (unpowered s (0x1400008 + 4 * c) true)) ∧
    ((cpRuns s c = true → 0 < getF s ccPeriod c → mget s.ctrl.kicked c + getF s ccPeriod c * 2048 ≤ s.time.tick → exec (.watchdogExpire c) s = .next (expireCp s c)) ∧
      (cpRuns s c = false ∨ getF s ccPeriod c = 0 ∨ s.time.tick < mget s.ctrl.kicked c + getF s ccPeriod c * 2048 → exec (.watchdogExpire c) s = .next s)) ∧
    (∀ a ecc, cpRuns s c = false → exec (.firmwareAccess c a ecc) s = .next s) ∧
    (∀ a : FwAccess, cpRuns s c = true →
      (a.kind = .read → a.addr + a.len ≤ 0x200000 → ∃ t, exec (.firmwareAccess c a .good) s = .next t ∧
        mget t.ctrl.cpRead c = BitVec.ofNat 64 (leNat ((rdBytes s.mem.ctrlSram a.addr a.len).take 8)) ∧ t.mem = s.mem ∧ t.regs = s.regs) ∧
      (a.kind = .write → a.addr + a.data.length ≤ 0x200000 → exec (.firmwareAccess c a .good) s =
        .next { s with mem.ctrlSram := wrBytes s.mem.ctrlSram a.addr a.data }) ∧
      (a.kind = .write → 0x100000000000 ≤ a.addr → inWindow s (a.addr - 0x100000000000) a.data.length = false →
        exec (.firmwareAccess c a .good) s = .next (limiterRefuse s c 0x0903 ccDma (a.addr - 0x100000000000))) ∧
      (a.kind = .write → 0x100000000000 ≤ a.addr → inWindow s (a.addr - 0x100000000000) a.data.length = true →
        onRing s true (winBase s + (a.addr - 0x100000000000)) a.data.length = false → exec (.firmwareAccess c a .good) s =
        .next { s with mem.host := wrBytes s.mem.host (winBase s + (a.addr - 0x100000000000)) a.data }) ∧
      (a.kind = .flashProgram → flashAllowed s = false → exec (.firmwareAccess c a .good) s = .next (limiterRefuse s c 0x0908 ccFlash a.addr)) ∧
      (a.kind = .flashProgram → flashAllowed s = true → s.steps.running = [] → s.ctrl.heldFlash = [] → exec (.firmwareAccess c a .good) s =
        .next { s with mem.flash := wrBytes s.mem.flash a.addr a.data }) ∧
      (a.kind = .flashProgram → flashAllowed s = true → s.steps.running ≠ [] → ∃ t, exec (.firmwareAccess c a .good) s = .next t ∧
        t.ctrl.heldFlash = s.ctrl.heldFlash ++ [(0, a.addr, a.data)] ∧ t.mem = s.mem)) ∧
    (s.steps.running ≠ [] → exec .flashCommandRelease s = .next s) ∧
    (∀ a bs, s.steps.running = [] → s.ctrl.heldFlash = [(0, a, bs)] → ∃ t, exec .flashCommandRelease s = .next t ∧ t.ctrl.heldFlash = [] ∧
      t.mem.flash = wrBytes s.mem.flash a bs ∧ t.mem.hbm = s.mem.hbm)

/-- R14, R379 to R382: a mailbox is locked by its sender (of the reads of one tick, the lowest), rung by its owner, and
acknowledged by its receiver; what another sends it is counted and ignored. -/
def Obligations.MailboxCommands : Prop :=
  ∀ (s : State) (w m : Nat), m < 64 →
    (s.ctrl.powered = true →
      ((mboxOf s m).readAt ≠ s.time.tick ∨ (mboxOf s m).readers = [] →
        ((mboxOf s m).lock = 0 → mbSender m w = true → w ≠ 0 → ∃ t, exec (.mailboxLockRead w m) s = .next t ∧ (mboxOf t m).lock = w ∧
          (isCp w = true → mget t.ctrl.cpRead (w - 1) = 0) ∧ (isCp w = false → t.reply.data = 0) ∧ (∀ k, k ≠ m → mboxOf t k = mboxOf s k) ∧
          (∀ w', mbSender m w' = true → w' ≠ 0 → ∃ v, exec (.mailboxLockRead w' m) t = .next v ∧ (mboxOf v m).lock = min w w')) ∧
        ((mboxOf s m).lock ≠ 0 → (mboxOf s m).lock ≠ w → isCp w = false → ∃ t, exec (.mailboxLockRead w m) s = .next t ∧
          t.reply.data = BitVec.ofNat 64 (mboxOf s m).lock ∧ (mboxOf t m).lock = (mboxOf s m).lock ∧ (∀ k, k ≠ m → mboxOf t k = mboxOf s k)) ∧
        ((mboxOf s m).lock = 0 → mbSender m w = false → isCp w = false → ∃ t, exec (.mailboxLockRead w m) s = .next t ∧
          t.reply.data = 0xFFFF ∧ (mboxOf t m).lock = 0)) ∧
      (mbOwner s m w = true → (mboxOf s m).readAt ≠ s.time.tick ∨ (mboxOf s m).before = 0 →
        ∃ t, exec (.mailboxRelease w m) s = .next t ∧ mboxOf t m = {} ∧ (∀ k, k ≠ m → mboxOf t k = mboxOf s k)) ∧
      (mbOwner s m w = true → exec (.mailboxRing w m) s = .next (mbRing s m) ∧ (mboxOf (mbRing s m) m).pending = true ∧
        (mboxOf (mbRing s m) m).lock = (mboxOf s m).lock) ∧
      (mbOwner s m w = false → exec (.mailboxRelease w m) s = .next (addF s ccMbBad) ∧ exec (.mailboxRing w m) s = .next (addF s ccMbBad)) ∧
      (∀ c, (w ≠ mbReceiver m → exec (.mailboxAck w m c) s = .next (addF s ccMbBad)) ∧
        (w = mbReceiver m → exec (.mailboxAck w m c) s = .next (mbAck s m c) ∧ ((mboxOf s m).pending = true → (mboxOf (mbAck s m c) m).pending = false ∧
          (mboxOf (mbAck s m c) m).done = true ∧ (mboxOf (mbAck s m c) m).code = c))) ∧
      (∀ b, exec (.mailboxUnpowered m b) s = .next s)) ∧
    (s.ctrl.powered = false → (∀ b, exec (.mailboxUnpowered m b) s = .next (unpowered s (0x1401000 + 32 * m) b)) ∧
      exec (.mailboxRing w m) s = .next (unpowered s (0x1401000 + 32 * m) true) ∧
      ∃ t, exec (.mailboxLockRead w m) s = .next t ∧ t.reply.data = 0xFFFFFFFF)

/-- R198, R201, R224, R377, R383, R389, R396: firmware serves the message of a pending mailbox by its command. -/
def Obligations.ServiceCommands : Prop :=
  ∀ (s : State) (m : Nat), m < 64 →
    (mboxMsg s m = none → exec (.getStatus m) s = .next s ∧ exec (.pushBundle m) s = .next s ∧ (∀ b, exec (.flashUpdate m b) s = .next s) ∧
      (∀ b f d, exec (.retrainPort m b f d) s = .next s) ∧ exec (.domainReset m) s = .next s ∧ exec (.armSnapshot m) s = .next s ∧
      exec (.addSoftRepair m) s = .next s ∧ exec (.commandUnknown m) s = .next s) ∧
    (∀ x, mboxMsg s m = some x →
      (x.command = 1 → exec (.getStatus m) s = .next (mbAck (if x.result = 0 then s else fwHostWrite s x.cp x.result (statusBytes s x.seq)) m 0)) ∧
      (x.command = 2 →
        (getF s bcState ≠ 4 → exec (.pushBundle m) s = .next (mbAck s m 0x090D)) ∧
        (getF s bcState = 4 → pushInside s x = true → let r := verifyStore (pushCopy s x) true
          exec (.pushBundle m) s = .next (mbAck (if r.1 = 0 then setF r.2 bcPushed 1 else r.2) m r.1))) ∧
      (x.command = 3 → ∀ b,
        (greenFw s = false → exec (.flashUpdate m b) s = .next (mbAck s m 0x090D)) ∧
        (greenFw s = true → flashAllowed s = false → exec (.flashUpdate m b) s = .next (mbAck (limiterRefuse s x.cp 0x0908 ccFlash 0) m 0x090D)) ∧
        (greenFw s = true → flashAllowed s = true → pushInside s x = true → s.steps.running = [] →
          exec (.flashUpdate m true) s = .next (mbAck (flashNew s x) m 0))) ∧
      (x.command = 4 → ∀ b f d, let q := payAt s x 0 4
        (greenFw s = false ∨ retrainOk s q = false → exec (.retrainPort m b f d) s = .next (mbAck s m 0x090D)) ∧
        (greenFw s = true → retrainOk s q = true → bit s.start.record.allowed.toNat q = false →
          exec (.retrainPort m b f d) s = .next (mbAck (limiterEvent s x.cp 0x0906 ccPort q) m 0x090D)) ∧
        (greenFw s = true → retrainOk s q = true → bit s.start.record.allowed.toNat q = true → 48 ≤ q →
          let p := (portOf s q).peer.getD ({}, 0)
          exec (.retrainPort m true f d) s = .next (mbAck (portUp (measurePort s q f d p.1 p.2) q) m 0))) ∧
      (x.command = 5 → greenFw s = true → s.time.resetMailbox = none → getF s tbResetBusy = 0 →
        (∀ t, armReset s (some m) = some t → exec (.domainReset m) s = .next t) ∧
        (armReset s (some m) = none → exec (.domainReset m) s = .next (mbAck s m 0x0407))) ∧
      (x.command = 6 → greenFw s = true → let a := armSnapshot s (payAt s x 0 8) (payAt s x 8 4 % 256) (bit (payAt s x 0xC 4) 0)
        (∀ t, a = some t → exec (.armSnapshot m) s = .next (mbAck t m 0)) ∧ (a = none → exec (.armSnapshot m) s = .next (mbAck s m 0x0407))) ∧
      (x.command = 7 → s.ctrl.imageRuns = true → bit (getF s bcPolicy) 2 = true →
        (∀ i, pendingSlot s = some i → exec (.addSoftRepair m) s = .next (mbAck (setF s bcEntry600 (payAt s x 0 4) i) m 0)) ∧
        (pendingSlot s = none → exec (.addSoftRepair m) s = .next (mbAck s m 0x090E))) ∧
      (x.command = 0 ∨ 7 < x.command → exec (.commandUnknown m) s = .next (mbAck s m (if s.ctrl.imageRuns then 0x090C else 0x090D))))

/-! ### Translation (R336, R337, R341 to R369, R372) -/

/-- R341, R347 to R349, R353, R355, R357, R358, R366 to R369: walks and their answers. After a walk that finds a translation
the engine's lookup of the address gives it; a walk that finds none is a fault of its engine. -/
def Obligations.WalkCommands : Prop :=
  ∀ (s : State),
    (∀ (w : WalkRequest) ecc, w.engine < 102 →
      let c := ctxOf s w.ctx
      let x := walk s c.pasid c.partition w.va.toNat w.write
      (c.state = .free → exec (.translationWalk w ecc) s = .next s) ∧
      (c.state ≠ .free → tlbHit s w.engine c.pasid w.va.toNat = none → atsAddress s w.va.toNat = false →
        (x.code = 0 → w.engine < 84 → ∃ t, exec (.translationWalk w .good) s = .next t ∧
          tlbHit t w.engine c.pasid w.va.toNat = some (entryOf c.pasid w.va.toNat x) ∧ t.mem = s.mem ∧ t.cores = s.cores) ∧
        (x.code ≠ 0 → exec (.translationWalk w .good) s =
          .next (walkFails (addF (addF (addF s tuL2Miss) tuWalkReads x.reads) tuUtlbMiss) w.engine w.ctx w.va.toNat w.write x)))) ∧
    (∀ v : W32, s.bound.hostAnswers = true → let e := bits v.toNat 0 4
      ((mget s.trans.preqs e).used = false → exec (.pageRequestResponse v) s = .next (addF s tuPrespIgnored)) ∧
      ((mget s.trans.preqs e).used = true → bit v.toNat 8 = true → exec (.pageRequestResponse v) s = .next (failPage s e)) ∧
      ((mget s.trans.preqs e).used = true → bit v.toNat 8 = false → exec (.pageRequestResponse v) s = .next (answerPage s e) ∧
        answerPage s e = runEngines (releasePage s e))) ∧
    (∀ e, e < 16 → ((mget s.trans.preqs e).used = false → ∀ r, exec (.priResponse e r) s = .next s) ∧
      ((mget s.trans.preqs e).used = true → exec (.priResponse e .success) s = .next (retryAts s e) ∧ exec (.priResponse e .invalid) s = .next (failPage s e) ∧
        exec (.priResponse e .failure) s = .next (failPage { s with trans.priStopped := true } e))) ∧
    (∀ a : AtsReply, a.engine < 102 → (ctxOf s a.ctx).state ≠ .free → atsAddress s a.va.toNat = true →
      (a.denied = true ∨ (if a.write then a.writeOk else a.readOk) = false →
        exec (.atsCompletion a) s = .next (atsDenied s a.engine a.ctx a.va.toNat a.write)) ∧
      (a.denied = false → (if a.write then a.writeOk else a.readOk) = true → a.engine < 84 → ∃ t e, exec (.atsCompletion a) s = .next t ∧
        tlbHit t a.engine (ctxOf s a.ctx).pasid a.va.toNat = some e ∧ e.hostPage = true ∧ e.read = a.readOk ∧ e.write = a.writeOk ∧
        e.pa = a.pa / 2 ^ e.sizeLog2 * 2 ^ e.sizeLog2)) ∧
    (∀ p va len, ∃ t, exec (.atsInvalidate p va len) s = .next t ∧ t.bound.atsInvDone = false ∧ t.trans.atsDrain = true ∧ t.mem = s.mem ∧
      (∀ e, e ∈ t.trans.atc ↔ e ∈ s.trans.atc ∧ ¬(e.hostPage = true ∧ e.pasid = p ∧ e.overlaps va len = true)) ∧
      (∀ k l, (k, l) ∈ t.trans.utlb → ∀ e ∈ l, ¬(e.hostPage = true ∧ e.pasid = p ∧ e.overlaps va len = true))) ∧
    (s.trans.atsDrain = false → exec .atsInvalidateDone s = .next s) ∧
    (s.trans.atsDrain = true → ∃ t, exec .atsInvalidateDone s = .next t ∧ t.bound.atsInvDone = true ∧ t.trans.atsDrain = false) ∧
    (s.trans.fqHeld = [] → exec .faultRecordWrite s = .next s) ∧
    (∀ b l, s.trans.fqHeld = b :: l → (fqFull s = true → exec .faultRecordWrite s = .next s) ∧
      (fqFull s = false → s.trans.acPending = [] → ∃ t, exec .faultRecordWrite s = .next t ∧ t.trans.fqHeld = l ∧ getF t tuFqTail = (getF s tuFqTail + 1) % fqDepth s % 65536 ∧
        t.mem.host = wrBytes s.mem.host (getF64 s tuFqLo / 4096 * 4096 + 32 * getF s tuFqTail) b))

/-- R360, R364, R365: the access counters halve at their ticks and are cleared, alone or together; the mirror engine takes a
copy, refuses one that breaks its rules, ignores one while it runs, and writes the bytes when it ends. -/
def Obligations.CountersAndMirror : Prop :=
  ∀ (s : State),
    (getF s tuDecayLog2 ≠ 0 → s.time.tick % 2 ^ max 16 (getF s tuDecayLog2) = 0 → rising s.trans.acs = true →
      ∃ t, exec .accessCounterDecay s = .next t ∧ (∀ k, mget t.trans.acs k = mget s.trans.acs k / 2) ∧ { t with trans.acs := s.trans.acs } = s) ∧
    (getF s tuDecayLog2 = 0 ∨ s.time.tick % 2 ^ max 16 (getF s tuDecayLog2) ≠ 0 → exec .accessCounterDecay s = .next s) ∧
    (s.bound.hostAnswers = true →
      (∀ i, i < 131072 → ∃ t, exec (.acClear i) s = .next t ∧ mget t.trans.acs i = 0 ∧ mget t.trans.acNotified i = false ∧
        (∀ k, k ≠ i → mget t.trans.acs k = mget s.trans.acs k ∧ mget t.trans.acNotified k = mget s.trans.acNotified k) ∧
        { t with trans.acs := s.trans.acs, trans.acNotified := s.trans.acNotified, trans.acPending := s.trans.acPending } = s) ∧
      (∃ t, exec .acClearAll s = .next t ∧ (∀ k, mget t.trans.acs k = 0 ∧ mget t.trans.acNotified k = false) ∧
        { t with trans.acs := s.trans.acs, trans.acNotified := s.trans.acNotified, trans.acPending := s.trans.acPending } = s) ∧
      (s.trans.mirror ≠ none → exec .mirrorGo s = .next s) ∧
      (s.trans.mirror = none → mirrorRefused s (getF64 s tuSrcLo) (getF64 s tuDstLo) (getF s tuLen) = true → exec .mirrorGo s = .next (setF s tuError 1)) ∧
      (s.trans.mirror = none → mirrorRefused s (getF64 s tuSrcLo) (getF64 s tuDstLo) (getF s tuLen) = false → ∃ t, exec .mirrorGo s = .next t ∧
        t.trans.mirror = some (getF64 s tuSrcLo, getF64 s tuDstLo, getF s tuLen) ∧ getF t tuGo = 1 ∧ getF t tuError = 0 ∧ t.mem = s.mem)) ∧
    (s.trans.mirror = none → exec .mirrorDone s = .next s) ∧
    (∀ a b n, s.trans.mirror = some (a, b, n) → ∃ t, exec .mirrorDone s = .next t ∧ t.mem.hbm = wrBytes s.mem.hbm b (rdBytes s.mem.host a n) ∧
      t.mem.host = s.mem.host ∧ t.trans.mirror = none ∧ getF t tuGo = 0 ∧ t.cores = s.cores)

/-- R336, R343, R346, R362, R363, R366: an invalidation is queued and completes in its turn; the region, the mode and the key
slots change while the rules allow it. -/
def Obligations.InvalidationsAndKeys : Prop :=
  ∀ (s : State),
    (s.bound.hostAnswers = true →
      (∀ n, exec .invalidateAll s = .next (invQueue s 0 0 0) ∧ exec (.invalidatePasid n) s = .next (invQueue s 1 0 n) ∧
        exec (.invalidatePasidRange n) s = .next (invQueue s 2 0 n) ∧ exec (.invalidateDomain n) s = .next (invQueue s 3 n 0) ∧
        exec (.invalidateDomainRange n) s = .next (invQueue s 4 n 0) ∧ exec (.invalidatePasidEntry n) s = .next (invQueue s 5 0 n)) ∧
      (∀ k d p, 16 ≤ s.trans.invQ.length → invQueue s k d p = setF s tuDropped 1) ∧
      (∀ k d p, s.trans.invQ ≠ [] → s.trans.invQ.length < 16 →
        let n := (s.trans.invSeq + 1) % 65536
        (invQueue s k d p).trans.invQ = s.trans.invQ ++
          [{ scope := k, domain := d % 256, pasid := p % 1048576, addr := getF64 s tuInvAddrLo, len := getF s tuInvLen, seq := n }] ∧
        (invQueue s k d p).trans.invSeq = n ∧ (invQueue s k d p).mem = s.mem) ∧
      (s.trans.invQ = [] → s.emb.pmap = [] → ∃ t, exec .invalidateAll s = .next t ∧ t.trans.utlb = [] ∧ t.trans.l2 = [] ∧ t.trans.atc = [] ∧ t.trans.wcache = [] ∧
        t.trans.invSeq = (s.trans.invSeq + 1) % 65536 ∧ t.mem = s.mem) ∧
      (∀ b, (noContexts s = true → bit (getF s bcPolicy) 0 = true → exec (.forerunnerModeSet b) s = .next (setF s tuForerunner (b2n b))) ∧
        (noContexts s = false ∨ bit (getF s bcPolicy) 0 = false → exec (.forerunnerModeSet b) s = .next s)) ∧
      (∀ v : W32, let f := bits v.toNat 0 16
        let n := bits v.toNat 16 16
        (regionOk s f n = false → exec (.translationRegionSet v) s = .next s) ∧
        (regionOk s f n = true → ∃ t, exec (.translationRegionSet v) s = .next t ∧ getF t tuFirstPage = f ∧ getF t tuPages = n)) ∧
      (∀ k, (keysReady s = false → exec (.keySlotLoad k) s = .next s ∧ exec (.keySlotClear k) s = .next s) ∧
        (keysReady s = true →
          (∃ t, exec (.keySlotLoad k) s = .next t ∧ t.trans.keyPending = some (k % 64, true, s.trans.keyData) ∧ getF t mpBusy = 1 ∧ getF t mpSlot = k % 64) ∧
          (∃ t, exec (.keySlotClear k) s = .next t ∧ t.trans.keyPending = some (k % 64, false, s.trans.keyData) ∧ getF t mpBusy = 1)))) ∧
    (s.trans.invQ = [] → exec .invalidationComplete s = .next s) ∧
    (∀ c l, s.trans.invQ = c :: l →
      (invWaits s c = true → exec .invalidationComplete s = .next s) ∧
      (invWaits s c = false → l = [] → ∃ t, exec .invalidationComplete s = .next t ∧ t.trans.invQ = [] ∧ t.trans.invDone = c.seq ∧
        getF t tuCompleted = c.seq % 65536)) ∧
    (s.trans.keyPending = none → exec .keySlotEffect s = .next s) ∧
    (∀ k b d, s.trans.keyPending = some (k, b, d) → ∃ t, exec .keySlotEffect s = .next t ∧ t.trans.keyPending = none ∧ getF t mpBusy = 0 ∧
      mget t.trans.keys k = (if b then { loaded := true, data := d } else {}) ∧ (∀ i, i ≠ k → mget t.trans.keys i = mget s.trans.keys i))

/-! ### Health (R25, R26, R40, R401 to R419) -/

/-- R401 to R403, R408 to R416: corrected errors, tests and ash watch, units marked out, and weight digests. -/
def Obligations.HealthCommands : Prop :=
  ∀ (s : State),
    (s.time.tick % 2 ^ 41 = 0 → ∃ t, exec .ceCounterHalving s = .next t ∧ t.health.ceRaised = [] ∧
      (∀ c, c < 64 → getF t hpCount400 c = getF s hpCount400 c / 2) ∧ (∀ c, c < 20 → getF t hpCount500 c = getF s hpCount500 c / 2) ∧
      (∀ c, c < 20 → getF t hpCount580 c = getF s hpCount580 c / 2)) ∧
    (s.time.tick % 2 ^ 41 ≠ 0 → exec .ceCounterHalving s = .next s) ∧
    (∀ u d, let ok := ashUnit s u && ashMayRun s u && ashIsDue s u && !s.health.ashRunning.contains u
      (ok = false → exec (.ashTest u d) s = .next s) ∧
      (ok = true → ∃ t, exec (.ashTest u d) s = .next t ∧ t.health.ashRunning = s.health.ashRunning ++ [u] ∧
        (mfind t.health.ashLast u).map (·.1) = some s.time.tick ∧ t.cores = s.cores ∧ t.mem = s.mem)) ∧
    (∀ u b w, (s.health.ashRunning.contains u = false → exec (.ashTestResult u b w) s = .next s) ∧
      (s.health.ashRunning.contains u = true → let v : State := { s with health.ashRunning := s.health.ashRunning.filter (· != u) }
        exec (.ashTestResult u true w) s = .next v ∧ exec (.ashTestResult u false w) s = .next (ashFailed v u w))) ∧
    (s.bound.hostAnswers = true →
      (∀ u, (ashUnit s u = true → exec (.ashWatchSet u) s = .next (ashEnter s u)) ∧ (ashUnit s u = false → exec (.ashWatchSet u) s = .next s) ∧
        exec (.ashWatchClear u) s = .next (ashPut s u false)) ∧
      (∀ c, c < 64 → exec (.unitMarkOut (0x1000 + c)) s = .next (markCoreOut s c) ∧ (corePresent s c = false ∨ coreOut s c = true → markCoreOut s c = s)) ∧
      (∀ l, l < 2560 → exec (.unitMarkOut (0x2000 + l)) s = .next (markLaneOut s l)) ∧
      (∀ k, k < 20 → exec (.unitMarkOut (0x4000 + k)) s = .next (markStackOut s k)) ∧
      (∀ q, q < 60 → portPresent s q = true → exec (.unitMarkOut (0x5000 + q)) s = .next (markPortOut s q)) ∧
      (s.health.digest ≠ none → exec .digestGo s = .next s) ∧
      (∀ c i va, s.health.digest = none → digestRange s (getF s hpCtx) (getF64 s hpHandleLo) (getF64 s hpOffsetLo) (getF64 s hpLenLo) = (c, i, va) →
        (c ≠ 0 → exec .digestGo s = .next (setF s hpStatus c.toNat)) ∧
        (c = 0 → ∃ t, exec .digestGo s = .next t ∧ t.health.digest = some { ctx := getF s hpCtx, obj := i, va := va, len := getF64 s hpLenLo } ∧
          getF t hpGo21C = 1))) ∧
    (s.health.digest = none → exec .digestDone s = .next s) ∧
    (∀ d r, s.health.digest = some d → vaReadE s 102 d.ctx d.va d.len = r → ∃ t, exec .digestDone s = .next t ∧ t.health.digest = none ∧
      getF t hpStatus = r.1.toNat ∧ getF t hpGo21C = 0) ∧
    (∀ k b r a, k < 20 →
      (exec (.stackReadBeat k 0 r a) s = .next s ∧ exec (.stackReadBeat k 1 r a) s = .next (ceCount s (unitStack k)) ∧
        exec (.stackReadBeat k 2 r a) s = .next (beatFails s k r a)) ∧
      (exec (.stackReadTimeout k) s = .next (markStackOut s k)) ∧
      (stackPresent s k = false ∨ bit s.bound.stackLost.toNat k = true → exec (.stackReadTimeout k) s = .next s) ∧
      (b < 64 → exec (.spRefUrgent k b true) s = .next s ∧ (refGranted s k b = true → exec (.spRefUrgent k b false) s = .next s) ∧
        (refGranted s k b = false → ∃ t, exec (.spRefUrgent k b false) s = .next t ∧
          mget t.bound.refUrgent k = mget s.bound.refUrgent k ||| (1#64 <<< b) ∧ mget t.bound.urgentCount k = mget s.bound.urgentCount k + 1 ∧
          (∀ i, i ≠ k → mget t.bound.refUrgent i = mget s.bound.refUrgent i)))) ∧
    (∀ p i, p < 64 → (refreshEntry s p i = none → exec (.refreshWindow p i) s = .next s) ∧
      (∀ r w, runOf s p = some r → refreshEntry s p i = some w →
        (s.time.tick < r.base + w.start ∨ i ∈ r.refDone → exec (.refreshWindow p i) s = .next s) ∧
        (r.base + w.start ≤ s.time.tick → i ∉ r.refDone → ∃ t, exec (.refreshWindow p i) s = .next t ∧
          t.bound.refGrant = s.bound.refGrant ++ [(w.group, w.mask)] ∧ runOf t p = some { r with refDone := r.refDone ++ [i] } ∧
          t.cores = s.cores ∧ t.mem = s.mem)))

/-- R40, R417 to R419: at each window of the power limiter the ratio follows the power of the window that ends, and idle
insertions are armed while it is not 0; a window at or below the limit ends the backstop. -/
def Obligations.PowerCommands : Prop :=
  ∀ (s : State) (w : Nat),
    let u := telemAdd { applyBudget s with health.windowAt := s.time.tick } 0 w
    let limit := getF u bcEffectiveW
    let old := getF u hpRatio
    let r := idleRatio w (shadowOf u).idleW limit old
    let v := setF (setF u hpEstW (min 1023 w)) hpRatio r
    (r = 0 → old = 0 → w ≤ limit → exec (.powerWindow w) s = .next (judgeBackstop v w limit)) ∧
    (r ≠ 0 → old ≠ 0 → limit < w → exec (.powerWindow w) s =
      .next (judgeBackstop (iter 64 (fun p s => armWindow (armWindow s p false r) p true r) (addF v hpOverWindows)) w limit)) ∧
    (w ≤ limit → (judgeBackstop v w limit).health.overRun = 0 ∧ getF (judgeBackstop v w limit) hpBackstop = 0) ∧
    getF v hpRatio = r % 16384 ∧ getF v hpEstW = min 1023 w

/-! ### Sideband (R33, R37 to R48, R50, R262, R390, R420) -/

/-- R33, R37 to R39, R41, R47, R50, R242, R251, R264, R390: a cold reset keeps only what lies outside the block; a warm reset
keeps the tick, the health and power domain, the bytes of the stacks and the indices of handles and fences that are used or
retired, and raises the generation; the releases begin staged start. -/
def Obligations.ResetCommands : Prop :=
  ∀ (s : State),
    (∃ t, exec .coldReset s = .next t ∧ t.time.tick = 0 ∧ t.mem.hbm = [] ∧ t.mem.ctrlSram = [] ∧ t.mem.host = s.mem.host ∧ t.mem.flash = s.mem.flash ∧
      t.start.fuses = s.start.fuses ∧ t.cores = [] ∧ t.bound.stage = 0 ∧ t.bound.hostAnswers = false ∧ t.bound.pwr = s.bound.pwr ∧
      getF t bcPwrState = s.bound.pwr % 4 ∧ t.front = State.reset.front ∧ t.emb = State.reset.emb ∧ t.pending = s.pending) ∧
    (∀ o e, s.bound.powered = true → s.bound.porLow = true → ∃ t, exec (.coldResetRelease o e) s = .next t ∧ getF t bcState = 1 ∧ t.bound.porLow = false ∧
      t.start.startTick = s.time.tick ∧ getF t bcFlOctal = b2n o ∧ getF t bcTestEn = b2n e ∧ t.mem = s.mem) ∧
    (∀ o e, s.bound.powered = false ∨ s.bound.porLow = false → exec (.coldResetRelease o e) s = .next s) ∧
    (s.bound.powered = true → s.bound.porLow = false → s.bound.warmHeld = false →
      (∃ t, exec .warmReset s = .next t ∧ t.bound.warmHeld = true ∧ t.time.tick = s.time.tick ∧ t.mem.hbm = s.mem.hbm ∧ t.mem.host = s.mem.host ∧
        t.mem.ctrlSram = [] ∧ t.cores = [] ∧ t.bound.stage = 0 ∧ t.front.capGen = (s.front.capGen + 1) % 2 ^ 32 ∧ t.front.jobs = [] ∧ t.front.ctxs = [] ∧
        t.front.objAlloc = (fencesGone (objectsGone s)).front.objAlloc ∧ t.front.fenceAlloc = (fencesGone (objectsGone s)).front.fenceAlloc ∧ t.start.shadow = some s.start.fuses ∧
        t.health.telem = s.health.telem ∧ t.emb = State.reset.emb ∧ t.steps = State.reset.steps) ∧
      exec .warmResetShort s = .next (addF s bcWrstShort)) ∧
    (s.bound.powered = false ∨ s.bound.porLow = true ∨ s.bound.warmHeld = true → exec .warmReset s = .next s ∧ exec .warmResetShort s = .next s ∧
      (s.bound.warmHeld = false → exec .clockLoss s = .next s)) ∧
    (s.bound.warmHeld = true → ∃ t, exec .clockLoss s = .next t ∧ t.bound.clockLost = true ∧ getF t bcRootClkLost = 1 ∧ t.bound.warmHeld = true ∧ t.mem = s.mem) ∧
    (s.bound.warmHeld = true → s.bound.clockLost = true → exec .warmResetRelease s =
      .next { s with bound.warmHeld := false, start.startTick := s.time.tick }) ∧
    (s.bound.warmHeld = true → s.bound.clockLost = false → ∃ t, exec .warmResetRelease s = .next t ∧ t.bound.warmHeld = false ∧ getF t bcState = 2 ∧ t.bound.stage = 1 ∧
      t.bound.hostAnswers = true ∧ t.start.startTick = s.time.tick ∧ t.mem = s.mem) ∧
    (s.bound.warmHeld = false → exec .warmResetRelease s = .next s) ∧
    (s.bound.powered = true → s.bound.porLow = false → s.bound.warmHeld = false → s.bound.clockLost = false → ∃ t, exec .clockLoss s = .next t ∧
      t.bound.clockLost = true ∧ getF t bcRootClkLost = 1 ∧ t.time.tick = s.time.tick ∧ t.cores = [] ∧ t.start.shadow = s.start.shadow) ∧
    (∃ t, exec .powerRemoved s = .next t ∧ t.bound.powered = false ∧ t.mem.hbm = [] ∧ t.mem.host = s.mem.host ∧ t.mem.flash = s.mem.flash ∧ t.cores = [] ∧
      t.regs = State.reset.regs)

/-- R40 to R45, R382, R393, R420: the power budget and the power states, the thermal alarm and the time pulse; before the
always-on domains see their inputs nothing happens. -/
def Obligations.SidebandCommands : Prop :=
  ∀ (s : State),
    (sideOn s = false → (∀ w, exec (.powerBudgetCapture w) s = .next s) ∧ exec .pwrStateRun s = .next s ∧ exec .pwrStateHold s = .next s ∧
      exec .pwrStatePrepareOff s = .next s ∧ exec .pwrStateOff s = .next s ∧ exec .thermalAlarm s = .next s ∧ exec .thermalReaise s = .next s ∧
      exec .thermalRelease s = .next s ∧ (∀ b k, exec (.tpulseEdge b k) s = .next s) ∧ exec .tpulseHoldover s = .next s) ∧
    (sideOn s = true →
      (∀ w, ∃ t, exec (.powerBudgetCapture w) s = .next t ∧ getF t bcCapturedW = w.toNat ∧ t.bound.budgetPending = true ∧
        getF t bcEffectiveW = getF s bcEffectiveW) ∧
      (getF s bcPwrAck ≠ 3 →
        (exec .pwrStateRun s = .next (resumeRun s 0) ∧ exec .pwrStateHold s = .next (resumeRun s 1)) ∧
        (getF s bcState ≤ 7 → ∃ t, exec .pwrStateHold s = .next t ∧ getF t bcPwrState = 1 ∧ getF t bcPwrAck = 1 ∧ t.bound.fetchStopped = false) ∧
        (∃ t, exec .pwrStatePrepareOff s = .next t ∧ getF t bcPwrState = 2 ∧ t.bound.fetchStopped = true ∧ t.bound.prepareOff = true ∧ t.mem = s.mem) ∧
        (getF s bcPwrAck = 2 → ∃ t, exec .pwrStateOff s = .next t ∧ getF t bcPwrAck = 3 ∧ t.bound.noAction = true ∧ t.ctrl.powered = false) ∧
        (getF s bcPwrAck ≠ 2 → ∃ t, exec .pwrStateOff s = .next t ∧ getF t bcPwrState = 3 ∧ t.bound.prepareOff = true ∧ t.ctrl = s.ctrl)) ∧
      (getF s bcPwrAck = 3 → exec .pwrStateRun s = .next s ∧ exec .pwrStateHold s = .next s ∧ exec .pwrStatePrepareOff s = .next s ∧
        exec .pwrStateOff s = .next s) ∧
      (s.bound.thermActive = false → exec .thermalAlarm s =
        .next (thermLevel (setF { addF s bcThermFalls with bound.thermActive := true } bcThermAlarm 1) 1)) ∧
      (s.bound.thermActive = true → exec .thermalAlarm s = .next (addF s bcThermFalls) ∧
        exec .thermalReaise s = .next (thermLevel s (min 3 (getF s hpLevel + 1))) ∧
        ∃ t, exec .thermalRelease s = .next t ∧ t.bound.thermActive = false ∧ t.bound.thermGate = 0 ∧ getF t hpLevel = 0 ∧ getF t bcThermAlarm = 0) ∧
      (s.bound.thermActive = false → exec .thermalReaise s = .next s ∧ exec .thermalRelease s = .next s) ∧
      (s.start.record.tpulseEn = true →
        (∀ k, (∀ t, s.bound.lastTpulse = some t → t + 50000000 ≤ k) → ∃ u, exec (.tpulseEdge true k) s = .next u ∧ u.bound.lastTpulse = some k ∧
          getF u bcTpulseHoldover = 0) ∧
        (∀ k t, s.bound.lastTpulse = some t → k < t + 50000000 → exec (.tpulseEdge true k) s = .next (addF s bcTpulseIgnored)) ∧
        (∃ u, exec .tpulseHoldover s = .next u ∧ getF u bcTpulseHoldover = 1))) ∧
    (s.bound.prepareOff = false ∨ s.steps.running ≠ [] ∨ 2 ≤ getF s bcPwrAck → exec .prepareOffDone s = .next s) ∧
    (s.bound.prepareOff = true → s.steps.running = [] → getF s bcPwrAck < 2 → s.front.ctxs = [] → s.bound.pwr = 2 →
      ∃ t, exec .prepareOffDone s = .next t ∧ getF t bcPwrAck = 2 ∧ t.bound.lkTxEn = 0)

/-- R10 to R12, R15, R20, R46: reads and writes of registers by words and aligned pairs, the test wrapper, and units without
power. -/
def Obligations.RegisterCommands : Prop :=
  ∀ (s : State) (a : Nat),
    (s.bound.hostAnswers = true → unitOff s a = false → a % 4 = 0 →
      (∀ w (v : BitVec 64), let x := v.toNat % 2 ^ 32
        exec (.registerWrite w a v 0x0F#8) s = .next (rowWrite w a x (writeWord s w a x))) ∧
      (lockWord a = none → ∃ t, exec (.counterRead false a 0x0F#8) s = .next t ∧ t.reply.data = BitVec.ofNat 64 (readWord s a) ∧ t.mem = s.mem) ∧
      (∀ w f (v : BitVec 64), plainAt a → fieldsAt a = [f] → f.stride = 0 → f.off = a → writable s w f = true → f.acc = .rw → f ≠ mpKeyData → f ≠ ccPeriod →
        ¬(0x1401000 ≤ a ∧ a < 0x1401800) → f.lo + f.width ≤ 32 → ∃ t, exec (.registerWrite w a v 0x0F#8) s = .next t ∧
        getF t f = keptBits f (bits v.toNat f.lo f.width) % 2 ^ f.width ∧ (∀ g j, g.at j ≠ a → getF t g j = getF s g j) ∧ t.mem = s.mem ∧ t.cores = s.cores) ∧
      (a % 8 = 0 →
        (∀ w (v : BitVec 64), exec (.registerWrite w a v 0xFF#8) s =
          .next (busWrite (busWrite s w a (v.toNat % 2 ^ 32)) w (a + 4) (v.toNat / 2 ^ 32))) ∧
        (lockWord a = none → lockWord (a + 4) = none → unitOff (clearRc s a) (a + 4) = false → ∃ t, exec (.counterRead false a 0xFF#8) s = .next t ∧
          t.reply.data = BitVec.ofNat 64 (readWord s a + readWord (clearRc s a) (a + 4) * 2 ^ 32) ∧ t.mem = s.mem))) ∧
    (s.bound.hostAnswers = true →
      (∀ w (v : BitVec 64) (e : BitVec 8), wholeWords a e = false → exec (.registerWrite w a v e) s = .next s) ∧
      (∀ b (e : BitVec 8), b = true ∨ wholeWords a e = false → exec (.counterRead b a e) s = .next { s with reply.data := 0 })) ∧
    (s.bound.hostAnswers = true → unitOff s a = true → (∀ b, exec (.poweredDownDomainAccess a b) s = .next (unpowered s a b)) ∧
      (unpowered s a false).reply.data = 0xFFFFFFFF ∧
      (a % 4 = 0 → (∀ w (v : BitVec 64), exec (.registerWrite w a v 0x0F#8) s = .next (unpowered s a true)) ∧
        exec (.counterRead false a 0x0F#8) s = .next (unpowered s a false))) ∧
    (unitOff s a = false → ∀ b, exec (.poweredDownDomainAccess a b) s = .next s) ∧
    (∀ i, ∃ t, exec (.wrapperInstructionUpdate i) s = .next t ∧
      t.bound.wir = (if getF s bcTestEn = 1 ∧ s.bound.bypassForced = false then i else 0) ∧ { t with bound := s.bound } = s)

/-! ### The whole machine (R13, R154, R159 to R173) -/

/-- R159 to R165, R168 to R171, R173: words written out from the tables of the spec and the instructions that they are; a
reserved bit, mode, space or size is refused. -/
def Obligations.DecodeWords : Prop :=
  decodeCore 5 0x123456789abcdef00000000000006010 = some (.li 5 false 3 0x123456789abcdef0) ∧
  decodeCore 5 0x1abc04000060 = some (.br 5 false 2 0x1abc) ∧ decodeCore 5 0x500121070 = some (.loop 5 true 9 5) ∧
  decodeCore 5 0x69c55554aad5e1234c8fe07f4bc0f001 =
    some (.tileMatrix 5 true ⟨3, 1, 8, 7, 1, true, false, true, 63, 127, 100, 0x1234, 0xabc, 0x155, 0x2aaa, 5, 0x9c, 6⟩ .good) ∧
  decodeCore 5 0x3a60030000802002 = some (.selectBegin 5 false ⟨true, false, 256, 65536, 0x3001, 4, 7⟩) ∧
  decodeCore 5 0x2fbbe190c012 = some (.selectEnd 5 false false true 0x4321 0xbeef .good) ∧
  decodeCore 5 0x1e107e133 = some (.ffma 5 false ⟨31, 1, 2, 30, 0, false, false, 0, 0, 0, 0⟩) ∧
  decodeCore 5 0x30f800b000440013 = some (.vst 5 false ⟨0, 17, 0, 0, 8, true, false, 0x7001, 3, 12, 0⟩) ∧
  decodeCore 5 0x12100007fffc00002038004 = some (.localMove 5 false ⟨4, 3, 0x40, 0x3fffe0, 131072, 9⟩ .good) ∧
  decodeCore 5 0x11ffff03fffe005 = some (.tsend 5 false 65535 1 0x3fffe0 8) ∧ decodeCore 5 0x714006 = some (.alloc 5 false 10 24 true) ∧
  decodeCore 5 0x37ffffe017 = some (.fwait 5 false 0xfffff 11 true) ∧ decodeCore 5 0x8 = some (.yield 5 false) ∧
  decodeCore 5 0x6ffffffe009 = some (.lateFeatureTest 5 false 1023 true 0x7fff 13) ∧
  decodeCore 5 0x10000010 = none ∧ decodeCore 5 0x20e1 = none ∧ decodeCore 5 0x8000000000006004 = none ∧ decodeCore 5 0x160006 = none ∧
  decodeCore 5 0xA = none

/-- R159 to R173: every well-formed core instruction has a word, and the word's fields read back as that instruction, with
every operand; the ECC outcome of its reads is no part of the word and is taken as good. -/
def Obligations.EncodeDecode : Prop :=
  ∀ (i : Instr) (w : Nat), i.wf = true → goodReads i = true → encodeCore i = some w → ∃ c, c < 64 ∧ decodeCore c w = some i

/-- R13: every command that names units which exist is served, in every state, with a next state; a command that names another
unit is the only one that stops. -/
def Obligations.EveryCommandServed : Prop :=
  ∀ (i : Instr) (s : State), (i.unitsExist = true → ∃ t, exec i s = .next t) ∧ (i.unitsExist = false → exec i s = .fault .noSuchUnit)

/-- R112, R304, R334, R373, R387: a step from any state whose memories are in canonical form (addresses rising, no listed byte
0, log 1) leaves every memory in canonical form: the stacks, host memory, flash, the boot store, the control SRAM, the codebook
SRAM and the four memories and the weight planes of every core. -/
def Obligations.MemoriesStayCanonical : Prop :=
  ∀ (s t : State), memOk s → step s = .next t → memOk t

/-- R20, R37, R41, R112: at reset no command waits, the tick is 0 and every register field reads as its reset value; every
memory is in canonical form and lists nothing, and a byte that nothing has written reads as 0 (the model's choice, log 1); no
core has a task and every g register reads 0 (the model's choice, log 4). -/
def Obligations.ResetValues : Prop :=
  State.reset.pending = [] ∧ State.reset.time.tick = 0 ∧ memOk State.reset ∧ (∀ a, rd8 State.reset.mem.hbm a = 0) ∧
  (∀ f i, getF State.reset f i = bits (f.rst % 2 ^ 32) f.lo f.width) ∧
  (∀ c r, (coreOf State.reset c).task = none ∧ gReg (coreOf State.reset c) r = 0)
end

