-- ==== Sys2Proof/Laws/SMap.lean ====
section
/-! SUPPORT. Laws of the sparse maps and of the byte memories: reading after writing, and the canonical form. -/

namespace Sys2Proof.Machine

variable {α : Type}

@[simp] theorem mfind_mput_self (m : SMap α) (k : Nat) (v : α) : mfind (mput m k v) k = some v := by
  induction m with
  | nil => simp [mput, mfind]
  | cons e r ih =>
    obtain ⟨j, x⟩ := e
    simp only [mput]
    split
    · simp [mfind]
    · split
      · simp [mfind]
      · rename_i h _
        simp [mfind, h, ih]

theorem mfind_mput_ne (m : SMap α) {k j : Nat} (v : α) (h : j ≠ k) : mfind (mput m k v) j = mfind m j := by
  induction m with
  | nil => simp [mput, mfind, Ne.symm h]
  | cons e r ih =>
    obtain ⟨i, x⟩ := e
    simp only [mput]
    split
    · rename_i hi
      have hij : i ≠ j := fun e => h (e.symm.trans hi)
      simp [mfind, Ne.symm h, hij]
    · split
      · simp [mfind, Ne.symm h]
      · simp [mfind, ih]

@[simp] theorem mfind_mdel_self (m : SMap α) (k : Nat) : mfind (mdel m k) k = none := by
  induction m with
  | nil => rfl
  | cons e r ih =>
    obtain ⟨j, x⟩ := e
    simp only [mdel]
    split
    · exact ih
    · rename_i h
      simp [mfind, h, ih]

theorem mfind_mdel_ne (m : SMap α) {k j : Nat} (h : j ≠ k) : mfind (mdel m k) j = mfind m j := by
  induction m with
  | nil => rfl
  | cons e r ih =>
    obtain ⟨i, x⟩ := e
    simp only [mdel]
    split
    · rename_i hi
      have hij : i ≠ j := fun e => h (e.symm.trans hi)
      simp [mfind, hij, ih]
    · simp [mfind, ih]

theorem mfind_mupd_self (m : SMap α) (k : Nat) (f : α → α) : mfind (mupd m k f) k = (mfind m k).map f := by
  unfold mupd
  cases h : mfind m k with
  | none => simp [h]
  | some x => simp

theorem mfind_mupd_ne (m : SMap α) {k j : Nat} (f : α → α) (h : j ≠ k) : mfind (mupd m k f) j = mfind m j := by
  unfold mupd
  cases mfind m k with
  | none => rfl
  | some x => exact mfind_mput_ne m (f x) h

@[simp] theorem mgetD_msetD_self [DecidableEq α] (d : α) (m : SMap α) (k : Nat) (v : α) : mgetD d (msetD d m k v) k = v := by
  unfold mgetD msetD
  split
  · rename_i h
    simp [h]
  · simp

theorem mgetD_msetD_ne [DecidableEq α] (d : α) (m : SMap α) {k j : Nat} (v : α) (h : j ≠ k) :
    mgetD d (msetD d m k v) j = mgetD d m j := by
  unfold mgetD msetD
  split
  · rw [mfind_mdel_ne m h]
  · rw [mfind_mput_ne m v h]

@[simp] theorem mget_mset_self [DecidableEq α] [Inhabited α] (m : SMap α) (k : Nat) (v : α) : mget (mset m k v) k = v :=
  mgetD_msetD_self default m k v

theorem mget_mset_ne [DecidableEq α] [Inhabited α] (m : SMap α) {k j : Nat} (v : α) (h : j ≠ k) :
    mget (mset m k v) j = mget m j := mgetD_msetD_ne default m v h

/-! ### Rising keys -/

theorem risingFrom_weaken {m : SMap α} {lo hi : Nat} (h : risingFrom hi m = true) (l : lo ≤ hi) : risingFrom lo m = true := by
  cases m with
  | nil => rfl
  | cons e r =>
    simp only [risingFrom, Bool.and_eq_true, decide_eq_true_eq] at h ⊢
    exact ⟨Nat.lt_of_le_of_lt l h.1, h.2⟩

theorem risingFrom_mput {m : SMap α} {lo k : Nat} (v : α) (h : risingFrom lo m = true) (hk : lo < k) :
    risingFrom lo (mput m k v) = true := by
  induction m generalizing lo with
  | nil => simp [mput, risingFrom, hk]
  | cons e r ih =>
    obtain ⟨j, x⟩ := e
    simp only [risingFrom, Bool.and_eq_true, decide_eq_true_eq] at h
    simp only [mput]
    split
    · rename_i e
      subst e
      simp [risingFrom, h.1, h.2]
    · split
      · rename_i hkj
        simp [risingFrom, hk, hkj, h.2]
      · rename_i hne hlt
        simp [risingFrom, h.1, ih h.2 (by omega)]

theorem rising_mput {m : SMap α} {k : Nat} (v : α) (h : rising m = true) : rising (mput m k v) = true := by
  cases m with
  | nil => rfl
  | cons e r =>
    obtain ⟨j, x⟩ := e
    simp only [rising] at h
    simp only [mput]
    split
    · rename_i e
      subst e
      simpa [rising] using h
    · split
      · rename_i hkj
        simp [rising, risingFrom, hkj, h]
      · rename_i hne hlt
        have hjk : j < k := by omega
        simp [rising, risingFrom_mput v h hjk]

theorem risingFrom_mdel {m : SMap α} {lo : Nat} (k : Nat) (h : risingFrom lo m = true) : risingFrom lo (mdel m k) = true := by
  induction m generalizing lo with
  | nil => rfl
  | cons e r ih =>
    obtain ⟨j, x⟩ := e
    simp only [risingFrom, Bool.and_eq_true, decide_eq_true_eq] at h
    simp only [mdel]
    split
    · exact ih (risingFrom_weaken h.2 (Nat.le_of_lt h.1))
    · simp [risingFrom, h.1, ih h.2]

theorem rising_of_risingFrom {m : SMap α} {lo : Nat} (h : risingFrom lo m = true) : rising m = true := by
  cases m with
  | nil => rfl
  | cons e r => simp only [risingFrom, Bool.and_eq_true] at h; exact h.2

theorem rising_mdel {m : SMap α} (k : Nat) (h : rising m = true) : rising (mdel m k) = true := by
  cases m with
  | nil => rfl
  | cons e r =>
    obtain ⟨j, x⟩ := e
    simp only [rising] at h
    simp only [mdel]
    split
    · exact rising_of_risingFrom (risingFrom_mdel k h)
    · simp [rising, risingFrom_mdel k h]

/-! ### Memories -/

theorem all_mput {m : SMap α} (p : Nat × α → Bool) (k : Nat) (v : α) (h : m.all p = true) (hv : p (k, v) = true) :
    (mput m k v).all p = true := by
  induction m with
  | nil => simp [mput, hv]
  | cons e r ih =>
    obtain ⟨j, x⟩ := e
    simp only [List.all_cons, Bool.and_eq_true] at h
    simp only [mput]
    split
    · simp only [List.all_cons, hv, h.2, Bool.and_self]
    · split
      · simp only [List.all_cons, hv, h.1, h.2, Bool.and_self]
      · simp only [List.all_cons, h.1, ih h.2, Bool.and_self]

theorem all_mdel {m : SMap α} (p : Nat × α → Bool) (k : Nat) (h : m.all p = true) : (mdel m k).all p = true := by
  induction m with
  | nil => rfl
  | cons e r ih =>
    obtain ⟨j, x⟩ := e
    simp only [List.all_cons, Bool.and_eq_true] at h
    simp only [mdel]
    split
    · exact ih h.2
    · simp only [List.all_cons, h.1, ih h.2, Bool.and_self]

/-- Writing a byte keeps the canonical form. -/
theorem wf_wr8 {m : List Host.Cell} (a : Nat) (b : Byte) (h : Memory.wf m = true) : Memory.wf (wr8 m a b) = true := by
  simp only [Memory.wf, Bool.and_eq_true] at h ⊢
  unfold wr8 msetD
  split
  · exact ⟨rising_mdel a h.1, all_mdel _ a h.2⟩
  · rename_i hb
    exact ⟨rising_mput b h.1, all_mput _ a b h.2 (by simpa using hb)⟩

/-- Writing bytes keeps the canonical form. -/
theorem wf_wrBytes {m : List Host.Cell} (a : Nat) (bs : List Byte) (h : Memory.wf m = true) : Memory.wf (wrBytes m a bs) = true := by
  induction bs generalizing m a with
  | nil => exact h
  | cons b r ih => exact ih (a + 1) (wf_wr8 a b h)

/-- Writing a number keeps the canonical form. -/
theorem wf_wrLE {m : List Host.Cell} (a n v : Nat) (h : Memory.wf m = true) : Memory.wf (wrLE m a n v) = true :=
  wf_wrBytes a _ h

theorem risingFrom_filter {m : SMap α} {lo : Nat} (p : Nat × α → Bool) (h : risingFrom lo m = true) :
    risingFrom lo (m.filter p) = true := by
  induction m generalizing lo with
  | nil => rfl
  | cons e r ih =>
    obtain ⟨j, x⟩ := e
    simp only [risingFrom, Bool.and_eq_true, decide_eq_true_eq] at h
    rw [List.filter_cons]
    split
    · simp [risingFrom, h.1, ih h.2]
    · exact ih (risingFrom_weaken h.2 (Nat.le_of_lt h.1))

theorem rising_filter {m : SMap α} (p : Nat × α → Bool) (h : rising m = true) : rising (m.filter p) = true := by
  cases m with
  | nil => rfl
  | cons e r =>
    obtain ⟨j, x⟩ := e
    simp only [rising] at h
    rw [List.filter_cons]
    split
    · simp [rising, risingFrom_filter p h]
    · exact rising_of_risingFrom (risingFrom_filter p h)

/-- Leaving cells out keeps the canonical form. -/
theorem wf_filter {m : List Host.Cell} (p : Host.Cell → Bool) (h : Memory.wf m = true) : Memory.wf (m.filter p) = true := by
  simp only [Memory.wf, Bool.and_eq_true] at h ⊢
  refine ⟨rising_filter p h.1, ?_⟩
  rw [List.all_eq_true] at h ⊢
  exact fun x hx => h.2 x (List.mem_of_mem_filter hx)

/-- Clearing a range keeps the canonical form. -/
theorem wf_clearBytes {m : List Host.Cell} (lo n : Nat) (h : Memory.wf m = true) : Memory.wf (clearBytes m lo n) = true :=
  wf_filter _ h

@[simp] theorem rd8_wr8_self (m : List Host.Cell) (a : Nat) (b : Byte) : rd8 (wr8 m a b) a = b := mgetD_msetD_self 0 m a b

theorem rd8_wr8_ne (m : List Host.Cell) {a x : Nat} (b : Byte) (h : x ≠ a) : rd8 (wr8 m a b) x = rd8 m x :=
  mgetD_msetD_ne 0 m b h

/-- A byte outside the written range reads as before. -/
theorem rd8_wrBytes_outside (m : List Host.Cell) (a x : Nat) (bs : List Byte) (h : x < a ∨ a + bs.length ≤ x) :
    rd8 (wrBytes m a bs) x = rd8 m x := by
  induction bs generalizing m a with
  | nil => rfl
  | cons b r ih =>
    simp only [List.length_cons] at h
    simp only [wrBytes]
    rw [ih (wr8 m a b) (a + 1) (by omega), rd8_wr8_ne m b (by omega)]

/-- A byte of the written range reads as written. -/
theorem rd8_wrBytes_inside (m : List Host.Cell) (a i : Nat) (bs : List Byte) (h : i < bs.length) :
    rd8 (wrBytes m a bs) (a + i) = bs[i] := by
  induction bs generalizing m a i with
  | nil => simp at h
  | cons b r ih =>
    simp only [wrBytes]
    cases i with
    | zero => simp [rd8_wrBytes_outside (wr8 m a b) (a + 1) a r (by omega)]
    | succ i =>
      have e : a + (i + 1) = a + 1 + i := by omega
      rw [e, ih (wr8 m a b) (a + 1) i (by simpa using h)]
      simp

/-- Reading back the bytes that were written. -/
theorem rdBytes_wrBytes (m : List Host.Cell) (a : Nat) (bs : List Byte) : rdBytes (wrBytes m a bs) a bs.length = bs := by
  apply List.ext_getElem
  · simp [rdBytes]
  · intro i h1 h2
    simp only [rdBytes, List.getElem_map, List.getElem_range]
    exact rd8_wrBytes_inside m a i bs h2

@[simp] theorem leBytes_length (n v : Nat) : (leBytes n v).length = n := by
  induction n generalizing v with
  | zero => rfl
  | succ k ih => simp [leBytes, ih]

/-- R9: the number that the bytes of a number hold. -/
theorem leNat_leBytes (n v : Nat) : leNat (leBytes n v) = v % 256 ^ n := by
  induction n generalizing v with
  | zero => simp [leBytes, leNat, Nat.mod_one]
  | succ k ih =>
    simp only [leBytes, leNat, ih]
    have e : (BitVec.ofNat 8 v).toNat = v % 256 := by simp
    rw [e, Nat.pow_succ', Nat.mod_mul]

/-- Reading back a number that was written. -/
theorem rdLE_wrLE (m : List Host.Cell) (a n v : Nat) : rdLE (wrLE m a n v) a n = v % 256 ^ n := by
  have h := rdBytes_wrBytes m a (leBytes n v)
  rw [leBytes_length] at h
  simp only [rdLE, wrLE, h, leNat_leBytes]

end Sys2Proof.Machine
end

