-- ==== Sys2Proof/Laws/State.lean ====
section
/-! SUPPORT. Laws of the named updates of the state: what each one leaves unchanged, component by component. -/

namespace Sys2Proof.Machine

@[simp] theorem putCtx_pending (s : State) (n : Nat) (c : Context) : (putCtx s n c).pending = s.pending := by rw [putCtx]
@[simp] theorem putCtx_mem (s : State) (n : Nat) (c : Context) : (putCtx s n c).mem = s.mem := by rw [putCtx]
@[simp] theorem putCtx_regs (s : State) (n : Nat) (c : Context) : (putCtx s n c).regs = s.regs := by rw [putCtx]
@[simp] theorem putCtx_bound (s : State) (n : Nat) (c : Context) : (putCtx s n c).bound = s.bound := by rw [putCtx]
@[simp] theorem putCtx_start (s : State) (n : Nat) (c : Context) : (putCtx s n c).start = s.start := by rw [putCtx]
@[simp] theorem putCtx_time (s : State) (n : Nat) (c : Context) : (putCtx s n c).time = s.time := by rw [putCtx]
@[simp] theorem putCtx_links (s : State) (n : Nat) (c : Context) : (putCtx s n c).links = s.links := by rw [putCtx]
@[simp] theorem putCtx_parts (s : State) (n : Nat) (c : Context) : (putCtx s n c).parts = s.parts := by rw [putCtx]
@[simp] theorem putCtx_steps (s : State) (n : Nat) (c : Context) : (putCtx s n c).steps = s.steps := by rw [putCtx]
@[simp] theorem putCtx_cores (s : State) (n : Nat) (c : Context) : (putCtx s n c).cores = s.cores := by rw [putCtx]
@[simp] theorem putCtx_emb (s : State) (n : Nat) (c : Context) : (putCtx s n c).emb = s.emb := by rw [putCtx]
@[simp] theorem putCtx_upd (s : State) (n : Nat) (c : Context) : (putCtx s n c).upd = s.upd := by rw [putCtx]
@[simp] theorem putCtx_trans (s : State) (n : Nat) (c : Context) : (putCtx s n c).trans = s.trans := by rw [putCtx]
@[simp] theorem putCtx_ctrl (s : State) (n : Nat) (c : Context) : (putCtx s n c).ctrl = s.ctrl := by rw [putCtx]
@[simp] theorem putCtx_health (s : State) (n : Nat) (c : Context) : (putCtx s n c).health = s.health := by rw [putCtx]
@[simp] theorem putCtx_freeCount (s : State) (n : Nat) (c : Context) : (putCtx s n c).freeCount = s.freeCount := by rw [putCtx]
@[simp] theorem putCtx_reply (s : State) (n : Nat) (c : Context) : (putCtx s n c).reply = s.reply := by rw [putCtx]

@[simp] theorem updCtx_pending (s : State) (n : Nat) (f : Context → Context) : (updCtx s n f).pending = s.pending := by rw [updCtx, putCtx_pending]
@[simp] theorem updCtx_mem (s : State) (n : Nat) (f : Context → Context) : (updCtx s n f).mem = s.mem := by rw [updCtx, putCtx_mem]
@[simp] theorem updCtx_regs (s : State) (n : Nat) (f : Context → Context) : (updCtx s n f).regs = s.regs := by rw [updCtx, putCtx_regs]
@[simp] theorem updCtx_bound (s : State) (n : Nat) (f : Context → Context) : (updCtx s n f).bound = s.bound := by rw [updCtx, putCtx_bound]
@[simp] theorem updCtx_start (s : State) (n : Nat) (f : Context → Context) : (updCtx s n f).start = s.start := by rw [updCtx, putCtx_start]
@[simp] theorem updCtx_time (s : State) (n : Nat) (f : Context → Context) : (updCtx s n f).time = s.time := by rw [updCtx, putCtx_time]
@[simp] theorem updCtx_links (s : State) (n : Nat) (f : Context → Context) : (updCtx s n f).links = s.links := by rw [updCtx, putCtx_links]
@[simp] theorem updCtx_parts (s : State) (n : Nat) (f : Context → Context) : (updCtx s n f).parts = s.parts := by rw [updCtx, putCtx_parts]
@[simp] theorem updCtx_steps (s : State) (n : Nat) (f : Context → Context) : (updCtx s n f).steps = s.steps := by rw [updCtx, putCtx_steps]
@[simp] theorem updCtx_cores (s : State) (n : Nat) (f : Context → Context) : (updCtx s n f).cores = s.cores := by rw [updCtx, putCtx_cores]
@[simp] theorem updCtx_emb (s : State) (n : Nat) (f : Context → Context) : (updCtx s n f).emb = s.emb := by rw [updCtx, putCtx_emb]
@[simp] theorem updCtx_upd (s : State) (n : Nat) (f : Context → Context) : (updCtx s n f).upd = s.upd := by rw [updCtx, putCtx_upd]
@[simp] theorem updCtx_trans (s : State) (n : Nat) (f : Context → Context) : (updCtx s n f).trans = s.trans := by rw [updCtx, putCtx_trans]
@[simp] theorem updCtx_ctrl (s : State) (n : Nat) (f : Context → Context) : (updCtx s n f).ctrl = s.ctrl := by rw [updCtx, putCtx_ctrl]
@[simp] theorem updCtx_health (s : State) (n : Nat) (f : Context → Context) : (updCtx s n f).health = s.health := by rw [updCtx, putCtx_health]
@[simp] theorem updCtx_freeCount (s : State) (n : Nat) (f : Context → Context) : (updCtx s n f).freeCount = s.freeCount := by rw [updCtx, putCtx_freeCount]
@[simp] theorem updCtx_reply (s : State) (n : Nat) (f : Context → Context) : (updCtx s n f).reply = s.reply := by rw [updCtx, putCtx_reply]

@[simp] theorem putPart_pending (s : State) (p : Nat) (x : Partition) : (putPart s p x).pending = s.pending := by rw [putPart]
@[simp] theorem putPart_mem (s : State) (p : Nat) (x : Partition) : (putPart s p x).mem = s.mem := by rw [putPart]
@[simp] theorem putPart_regs (s : State) (p : Nat) (x : Partition) : (putPart s p x).regs = s.regs := by rw [putPart]
@[simp] theorem putPart_bound (s : State) (p : Nat) (x : Partition) : (putPart s p x).bound = s.bound := by rw [putPart]
@[simp] theorem putPart_start (s : State) (p : Nat) (x : Partition) : (putPart s p x).start = s.start := by rw [putPart]
@[simp] theorem putPart_time (s : State) (p : Nat) (x : Partition) : (putPart s p x).time = s.time := by rw [putPart]
@[simp] theorem putPart_links (s : State) (p : Nat) (x : Partition) : (putPart s p x).links = s.links := by rw [putPart]
@[simp] theorem putPart_front (s : State) (p : Nat) (x : Partition) : (putPart s p x).front = s.front := by rw [putPart]
@[simp] theorem putPart_steps (s : State) (p : Nat) (x : Partition) : (putPart s p x).steps = s.steps := by rw [putPart]
@[simp] theorem putPart_cores (s : State) (p : Nat) (x : Partition) : (putPart s p x).cores = s.cores := by rw [putPart]
@[simp] theorem putPart_emb (s : State) (p : Nat) (x : Partition) : (putPart s p x).emb = s.emb := by rw [putPart]
@[simp] theorem putPart_upd (s : State) (p : Nat) (x : Partition) : (putPart s p x).upd = s.upd := by rw [putPart]
@[simp] theorem putPart_trans (s : State) (p : Nat) (x : Partition) : (putPart s p x).trans = s.trans := by rw [putPart]
@[simp] theorem putPart_ctrl (s : State) (p : Nat) (x : Partition) : (putPart s p x).ctrl = s.ctrl := by rw [putPart]
@[simp] theorem putPart_health (s : State) (p : Nat) (x : Partition) : (putPart s p x).health = s.health := by rw [putPart]
@[simp] theorem putPart_freeCount (s : State) (p : Nat) (x : Partition) : (putPart s p x).freeCount = s.freeCount := by rw [putPart]
@[simp] theorem putPart_reply (s : State) (p : Nat) (x : Partition) : (putPart s p x).reply = s.reply := by rw [putPart]

@[simp] theorem updPart_pending (s : State) (p : Nat) (f : Partition → Partition) : (updPart s p f).pending = s.pending := by rw [updPart, putPart_pending]
@[simp] theorem updPart_mem (s : State) (p : Nat) (f : Partition → Partition) : (updPart s p f).mem = s.mem := by rw [updPart, putPart_mem]
@[simp] theorem updPart_regs (s : State) (p : Nat) (f : Partition → Partition) : (updPart s p f).regs = s.regs := by rw [updPart, putPart_regs]
@[simp] theorem updPart_bound (s : State) (p : Nat) (f : Partition → Partition) : (updPart s p f).bound = s.bound := by rw [updPart, putPart_bound]
@[simp] theorem updPart_start (s : State) (p : Nat) (f : Partition → Partition) : (updPart s p f).start = s.start := by rw [updPart, putPart_start]
@[simp] theorem updPart_time (s : State) (p : Nat) (f : Partition → Partition) : (updPart s p f).time = s.time := by rw [updPart, putPart_time]
@[simp] theorem updPart_links (s : State) (p : Nat) (f : Partition → Partition) : (updPart s p f).links = s.links := by rw [updPart, putPart_links]
@[simp] theorem updPart_front (s : State) (p : Nat) (f : Partition → Partition) : (updPart s p f).front = s.front := by rw [updPart, putPart_front]
@[simp] theorem updPart_steps (s : State) (p : Nat) (f : Partition → Partition) : (updPart s p f).steps = s.steps := by rw [updPart, putPart_steps]
@[simp] theorem updPart_cores (s : State) (p : Nat) (f : Partition → Partition) : (updPart s p f).cores = s.cores := by rw [updPart, putPart_cores]
@[simp] theorem updPart_emb (s : State) (p : Nat) (f : Partition → Partition) : (updPart s p f).emb = s.emb := by rw [updPart, putPart_emb]
@[simp] theorem updPart_upd (s : State) (p : Nat) (f : Partition → Partition) : (updPart s p f).upd = s.upd := by rw [updPart, putPart_upd]
@[simp] theorem updPart_trans (s : State) (p : Nat) (f : Partition → Partition) : (updPart s p f).trans = s.trans := by rw [updPart, putPart_trans]
@[simp] theorem updPart_ctrl (s : State) (p : Nat) (f : Partition → Partition) : (updPart s p f).ctrl = s.ctrl := by rw [updPart, putPart_ctrl]
@[simp] theorem updPart_health (s : State) (p : Nat) (f : Partition → Partition) : (updPart s p f).health = s.health := by rw [updPart, putPart_health]
@[simp] theorem updPart_freeCount (s : State) (p : Nat) (f : Partition → Partition) : (updPart s p f).freeCount = s.freeCount := by rw [updPart, putPart_freeCount]
@[simp] theorem updPart_reply (s : State) (p : Nat) (f : Partition → Partition) : (updPart s p f).reply = s.reply := by rw [updPart, putPart_reply]

@[simp] theorem putJob_pending (s : State) (j : Nat) (x : Job) : (putJob s j x).pending = s.pending := by rw [putJob]
@[simp] theorem putJob_mem (s : State) (j : Nat) (x : Job) : (putJob s j x).mem = s.mem := by rw [putJob]
@[simp] theorem putJob_regs (s : State) (j : Nat) (x : Job) : (putJob s j x).regs = s.regs := by rw [putJob]
@[simp] theorem putJob_bound (s : State) (j : Nat) (x : Job) : (putJob s j x).bound = s.bound := by rw [putJob]
@[simp] theorem putJob_start (s : State) (j : Nat) (x : Job) : (putJob s j x).start = s.start := by rw [putJob]
@[simp] theorem putJob_time (s : State) (j : Nat) (x : Job) : (putJob s j x).time = s.time := by rw [putJob]
@[simp] theorem putJob_links (s : State) (j : Nat) (x : Job) : (putJob s j x).links = s.links := by rw [putJob]
@[simp] theorem putJob_parts (s : State) (j : Nat) (x : Job) : (putJob s j x).parts = s.parts := by rw [putJob]
@[simp] theorem putJob_steps (s : State) (j : Nat) (x : Job) : (putJob s j x).steps = s.steps := by rw [putJob]
@[simp] theorem putJob_cores (s : State) (j : Nat) (x : Job) : (putJob s j x).cores = s.cores := by rw [putJob]
@[simp] theorem putJob_emb (s : State) (j : Nat) (x : Job) : (putJob s j x).emb = s.emb := by rw [putJob]
@[simp] theorem putJob_upd (s : State) (j : Nat) (x : Job) : (putJob s j x).upd = s.upd := by rw [putJob]
@[simp] theorem putJob_trans (s : State) (j : Nat) (x : Job) : (putJob s j x).trans = s.trans := by rw [putJob]
@[simp] theorem putJob_ctrl (s : State) (j : Nat) (x : Job) : (putJob s j x).ctrl = s.ctrl := by rw [putJob]
@[simp] theorem putJob_health (s : State) (j : Nat) (x : Job) : (putJob s j x).health = s.health := by rw [putJob]
@[simp] theorem putJob_freeCount (s : State) (j : Nat) (x : Job) : (putJob s j x).freeCount = s.freeCount := by rw [putJob]
@[simp] theorem putJob_reply (s : State) (j : Nat) (x : Job) : (putJob s j x).reply = s.reply := by rw [putJob]

@[simp] theorem updJob_pending (s : State) (j : Nat) (f : Job → Job) : (updJob s j f).pending = s.pending := by rw [updJob]
@[simp] theorem updJob_mem (s : State) (j : Nat) (f : Job → Job) : (updJob s j f).mem = s.mem := by rw [updJob]
@[simp] theorem updJob_regs (s : State) (j : Nat) (f : Job → Job) : (updJob s j f).regs = s.regs := by rw [updJob]
@[simp] theorem updJob_bound (s : State) (j : Nat) (f : Job → Job) : (updJob s j f).bound = s.bound := by rw [updJob]
@[simp] theorem updJob_start (s : State) (j : Nat) (f : Job → Job) : (updJob s j f).start = s.start := by rw [updJob]
@[simp] theorem updJob_time (s : State) (j : Nat) (f : Job → Job) : (updJob s j f).time = s.time := by rw [updJob]
@[simp] theorem updJob_links (s : State) (j : Nat) (f : Job → Job) : (updJob s j f).links = s.links := by rw [updJob]
@[simp] theorem updJob_parts (s : State) (j : Nat) (f : Job → Job) : (updJob s j f).parts = s.parts := by rw [updJob]
@[simp] theorem updJob_steps (s : State) (j : Nat) (f : Job → Job) : (updJob s j f).steps = s.steps := by rw [updJob]
@[simp] theorem updJob_cores (s : State) (j : Nat) (f : Job → Job) : (updJob s j f).cores = s.cores := by rw [updJob]
@[simp] theorem updJob_emb (s : State) (j : Nat) (f : Job → Job) : (updJob s j f).emb = s.emb := by rw [updJob]
@[simp] theorem updJob_upd (s : State) (j : Nat) (f : Job → Job) : (updJob s j f).upd = s.upd := by rw [updJob]
@[simp] theorem updJob_trans (s : State) (j : Nat) (f : Job → Job) : (updJob s j f).trans = s.trans := by rw [updJob]
@[simp] theorem updJob_ctrl (s : State) (j : Nat) (f : Job → Job) : (updJob s j f).ctrl = s.ctrl := by rw [updJob]
@[simp] theorem updJob_health (s : State) (j : Nat) (f : Job → Job) : (updJob s j f).health = s.health := by rw [updJob]
@[simp] theorem updJob_freeCount (s : State) (j : Nat) (f : Job → Job) : (updJob s j f).freeCount = s.freeCount := by rw [updJob]
@[simp] theorem updJob_reply (s : State) (j : Nat) (f : Job → Job) : (updJob s j f).reply = s.reply := by rw [updJob]

@[simp] theorem putFence_pending (s : State) (i : Nat) (f : Fence) : (putFence s i f).pending = s.pending := by rw [putFence]
@[simp] theorem putFence_regs (s : State) (i : Nat) (f : Fence) : (putFence s i f).regs = s.regs := by rw [putFence]
@[simp] theorem putFence_bound (s : State) (i : Nat) (f : Fence) : (putFence s i f).bound = s.bound := by rw [putFence]
@[simp] theorem putFence_start (s : State) (i : Nat) (f : Fence) : (putFence s i f).start = s.start := by rw [putFence]
@[simp] theorem putFence_time (s : State) (i : Nat) (f : Fence) : (putFence s i f).time = s.time := by rw [putFence]
@[simp] theorem putFence_links (s : State) (i : Nat) (f : Fence) : (putFence s i f).links = s.links := by rw [putFence]
@[simp] theorem putFence_parts (s : State) (i : Nat) (f : Fence) : (putFence s i f).parts = s.parts := by rw [putFence]
@[simp] theorem putFence_steps (s : State) (i : Nat) (f : Fence) : (putFence s i f).steps = s.steps := by rw [putFence]
@[simp] theorem putFence_cores (s : State) (i : Nat) (f : Fence) : (putFence s i f).cores = s.cores := by rw [putFence]
@[simp] theorem putFence_emb (s : State) (i : Nat) (f : Fence) : (putFence s i f).emb = s.emb := by rw [putFence]
@[simp] theorem putFence_upd (s : State) (i : Nat) (f : Fence) : (putFence s i f).upd = s.upd := by rw [putFence]
@[simp] theorem putFence_trans (s : State) (i : Nat) (f : Fence) : (putFence s i f).trans = s.trans := by rw [putFence]
@[simp] theorem putFence_ctrl (s : State) (i : Nat) (f : Fence) : (putFence s i f).ctrl = s.ctrl := by rw [putFence]
@[simp] theorem putFence_health (s : State) (i : Nat) (f : Fence) : (putFence s i f).health = s.health := by rw [putFence]
@[simp] theorem putFence_freeCount (s : State) (i : Nat) (f : Fence) : (putFence s i f).freeCount = s.freeCount := by rw [putFence]
@[simp] theorem putFence_reply (s : State) (i : Nat) (f : Fence) : (putFence s i f).reply = s.reply := by rw [putFence]

@[simp] theorem putObj_pending (s : State) (i : Nat) (o : Obj) : (putObj s i o).pending = s.pending := by rw [putObj]
@[simp] theorem putObj_regs (s : State) (i : Nat) (o : Obj) : (putObj s i o).regs = s.regs := by rw [putObj]
@[simp] theorem putObj_bound (s : State) (i : Nat) (o : Obj) : (putObj s i o).bound = s.bound := by rw [putObj]
@[simp] theorem putObj_start (s : State) (i : Nat) (o : Obj) : (putObj s i o).start = s.start := by rw [putObj]
@[simp] theorem putObj_time (s : State) (i : Nat) (o : Obj) : (putObj s i o).time = s.time := by rw [putObj]
@[simp] theorem putObj_links (s : State) (i : Nat) (o : Obj) : (putObj s i o).links = s.links := by rw [putObj]
@[simp] theorem putObj_parts (s : State) (i : Nat) (o : Obj) : (putObj s i o).parts = s.parts := by rw [putObj]
@[simp] theorem putObj_steps (s : State) (i : Nat) (o : Obj) : (putObj s i o).steps = s.steps := by rw [putObj]
@[simp] theorem putObj_cores (s : State) (i : Nat) (o : Obj) : (putObj s i o).cores = s.cores := by rw [putObj]
@[simp] theorem putObj_emb (s : State) (i : Nat) (o : Obj) : (putObj s i o).emb = s.emb := by rw [putObj]
@[simp] theorem putObj_upd (s : State) (i : Nat) (o : Obj) : (putObj s i o).upd = s.upd := by rw [putObj]
@[simp] theorem putObj_trans (s : State) (i : Nat) (o : Obj) : (putObj s i o).trans = s.trans := by rw [putObj]
@[simp] theorem putObj_ctrl (s : State) (i : Nat) (o : Obj) : (putObj s i o).ctrl = s.ctrl := by rw [putObj]
@[simp] theorem putObj_health (s : State) (i : Nat) (o : Obj) : (putObj s i o).health = s.health := by rw [putObj]
@[simp] theorem putObj_freeCount (s : State) (i : Nat) (o : Obj) : (putObj s i o).freeCount = s.freeCount := by rw [putObj]
@[simp] theorem putObj_reply (s : State) (i : Nat) (o : Obj) : (putObj s i o).reply = s.reply := by rw [putObj]

@[simp] theorem updObj_pending (s : State) (i : Nat) (f : Obj → Obj) : (updObj s i f).pending = s.pending := by rw [updObj, putObj_pending]
@[simp] theorem updObj_regs (s : State) (i : Nat) (f : Obj → Obj) : (updObj s i f).regs = s.regs := by rw [updObj, putObj_regs]
@[simp] theorem updObj_bound (s : State) (i : Nat) (f : Obj → Obj) : (updObj s i f).bound = s.bound := by rw [updObj, putObj_bound]
@[simp] theorem updObj_start (s : State) (i : Nat) (f : Obj → Obj) : (updObj s i f).start = s.start := by rw [updObj, putObj_start]
@[simp] theorem updObj_time (s : State) (i : Nat) (f : Obj → Obj) : (updObj s i f).time = s.time := by rw [updObj, putObj_time]
@[simp] theorem updObj_links (s : State) (i : Nat) (f : Obj → Obj) : (updObj s i f).links = s.links := by rw [updObj, putObj_links]
@[simp] theorem updObj_parts (s : State) (i : Nat) (f : Obj → Obj) : (updObj s i f).parts = s.parts := by rw [updObj, putObj_parts]
@[simp] theorem updObj_steps (s : State) (i : Nat) (f : Obj → Obj) : (updObj s i f).steps = s.steps := by rw [updObj, putObj_steps]
@[simp] theorem updObj_cores (s : State) (i : Nat) (f : Obj → Obj) : (updObj s i f).cores = s.cores := by rw [updObj, putObj_cores]
@[simp] theorem updObj_emb (s : State) (i : Nat) (f : Obj → Obj) : (updObj s i f).emb = s.emb := by rw [updObj, putObj_emb]
@[simp] theorem updObj_upd (s : State) (i : Nat) (f : Obj → Obj) : (updObj s i f).upd = s.upd := by rw [updObj, putObj_upd]
@[simp] theorem updObj_trans (s : State) (i : Nat) (f : Obj → Obj) : (updObj s i f).trans = s.trans := by rw [updObj, putObj_trans]
@[simp] theorem updObj_ctrl (s : State) (i : Nat) (f : Obj → Obj) : (updObj s i f).ctrl = s.ctrl := by rw [updObj, putObj_ctrl]
@[simp] theorem updObj_health (s : State) (i : Nat) (f : Obj → Obj) : (updObj s i f).health = s.health := by rw [updObj, putObj_health]
@[simp] theorem updObj_freeCount (s : State) (i : Nat) (f : Obj → Obj) : (updObj s i f).freeCount = s.freeCount := by rw [updObj, putObj_freeCount]
@[simp] theorem updObj_reply (s : State) (i : Nat) (f : Obj → Obj) : (updObj s i f).reply = s.reply := by rw [updObj, putObj_reply]

@[simp] theorem putCore_pending (s : State) (c : Nat) (k : Core) : (putCore s c k).pending = s.pending := by rw [putCore]
@[simp] theorem putCore_mem (s : State) (c : Nat) (k : Core) : (putCore s c k).mem = s.mem := by rw [putCore]
@[simp] theorem putCore_regs (s : State) (c : Nat) (k : Core) : (putCore s c k).regs = s.regs := by rw [putCore]
@[simp] theorem putCore_bound (s : State) (c : Nat) (k : Core) : (putCore s c k).bound = s.bound := by rw [putCore]
@[simp] theorem putCore_start (s : State) (c : Nat) (k : Core) : (putCore s c k).start = s.start := by rw [putCore]
@[simp] theorem putCore_time (s : State) (c : Nat) (k : Core) : (putCore s c k).time = s.time := by rw [putCore]
@[simp] theorem putCore_links (s : State) (c : Nat) (k : Core) : (putCore s c k).links = s.links := by rw [putCore]
@[simp] theorem putCore_front (s : State) (c : Nat) (k : Core) : (putCore s c k).front = s.front := by rw [putCore]
@[simp] theorem putCore_parts (s : State) (c : Nat) (k : Core) : (putCore s c k).parts = s.parts := by rw [putCore]
@[simp] theorem putCore_steps (s : State) (c : Nat) (k : Core) : (putCore s c k).steps = s.steps := by rw [putCore]
@[simp] theorem putCore_emb (s : State) (c : Nat) (k : Core) : (putCore s c k).emb = s.emb := by rw [putCore]
@[simp] theorem putCore_upd (s : State) (c : Nat) (k : Core) : (putCore s c k).upd = s.upd := by rw [putCore]
@[simp] theorem putCore_trans (s : State) (c : Nat) (k : Core) : (putCore s c k).trans = s.trans := by rw [putCore]
@[simp] theorem putCore_ctrl (s : State) (c : Nat) (k : Core) : (putCore s c k).ctrl = s.ctrl := by rw [putCore]
@[simp] theorem putCore_health (s : State) (c : Nat) (k : Core) : (putCore s c k).health = s.health := by rw [putCore]
@[simp] theorem putCore_freeCount (s : State) (c : Nat) (k : Core) : (putCore s c k).freeCount = s.freeCount := by rw [putCore]
@[simp] theorem putCore_reply (s : State) (c : Nat) (k : Core) : (putCore s c k).reply = s.reply := by rw [putCore]

@[simp] theorem putMbox_pending (s : State) (m : Nat) (b : Mailbox) : (putMbox s m b).pending = s.pending := by rw [putMbox]
@[simp] theorem putMbox_mem (s : State) (m : Nat) (b : Mailbox) : (putMbox s m b).mem = s.mem := by rw [putMbox]
@[simp] theorem putMbox_regs (s : State) (m : Nat) (b : Mailbox) : (putMbox s m b).regs = s.regs := by rw [putMbox]
@[simp] theorem putMbox_bound (s : State) (m : Nat) (b : Mailbox) : (putMbox s m b).bound = s.bound := by rw [putMbox]
@[simp] theorem putMbox_start (s : State) (m : Nat) (b : Mailbox) : (putMbox s m b).start = s.start := by rw [putMbox]
@[simp] theorem putMbox_time (s : State) (m : Nat) (b : Mailbox) : (putMbox s m b).time = s.time := by rw [putMbox]
@[simp] theorem putMbox_links (s : State) (m : Nat) (b : Mailbox) : (putMbox s m b).links = s.links := by rw [putMbox]
@[simp] theorem putMbox_front (s : State) (m : Nat) (b : Mailbox) : (putMbox s m b).front = s.front := by rw [putMbox]
@[simp] theorem putMbox_parts (s : State) (m : Nat) (b : Mailbox) : (putMbox s m b).parts = s.parts := by rw [putMbox]
@[simp] theorem putMbox_steps (s : State) (m : Nat) (b : Mailbox) : (putMbox s m b).steps = s.steps := by rw [putMbox]
@[simp] theorem putMbox_cores (s : State) (m : Nat) (b : Mailbox) : (putMbox s m b).cores = s.cores := by rw [putMbox]
@[simp] theorem putMbox_emb (s : State) (m : Nat) (b : Mailbox) : (putMbox s m b).emb = s.emb := by rw [putMbox]
@[simp] theorem putMbox_upd (s : State) (m : Nat) (b : Mailbox) : (putMbox s m b).upd = s.upd := by rw [putMbox]
@[simp] theorem putMbox_trans (s : State) (m : Nat) (b : Mailbox) : (putMbox s m b).trans = s.trans := by rw [putMbox]
@[simp] theorem putMbox_health (s : State) (m : Nat) (b : Mailbox) : (putMbox s m b).health = s.health := by rw [putMbox]
@[simp] theorem putMbox_freeCount (s : State) (m : Nat) (b : Mailbox) : (putMbox s m b).freeCount = s.freeCount := by rw [putMbox]
@[simp] theorem putMbox_reply (s : State) (m : Nat) (b : Mailbox) : (putMbox s m b).reply = s.reply := by rw [putMbox]

@[simp] theorem updPort_pending (s : State) (q : Nat) (f : Port → Port) : (updPort s q f).pending = s.pending := by rw [updPort]
@[simp] theorem updPort_mem (s : State) (q : Nat) (f : Port → Port) : (updPort s q f).mem = s.mem := by rw [updPort]
@[simp] theorem updPort_regs (s : State) (q : Nat) (f : Port → Port) : (updPort s q f).regs = s.regs := by rw [updPort]
@[simp] theorem updPort_bound (s : State) (q : Nat) (f : Port → Port) : (updPort s q f).bound = s.bound := by rw [updPort]
@[simp] theorem updPort_start (s : State) (q : Nat) (f : Port → Port) : (updPort s q f).start = s.start := by rw [updPort]
@[simp] theorem updPort_time (s : State) (q : Nat) (f : Port → Port) : (updPort s q f).time = s.time := by rw [updPort]
@[simp] theorem updPort_front (s : State) (q : Nat) (f : Port → Port) : (updPort s q f).front = s.front := by rw [updPort]
@[simp] theorem updPort_parts (s : State) (q : Nat) (f : Port → Port) : (updPort s q f).parts = s.parts := by rw [updPort]
@[simp] theorem updPort_steps (s : State) (q : Nat) (f : Port → Port) : (updPort s q f).steps = s.steps := by rw [updPort]
@[simp] theorem updPort_cores (s : State) (q : Nat) (f : Port → Port) : (updPort s q f).cores = s.cores := by rw [updPort]
@[simp] theorem updPort_emb (s : State) (q : Nat) (f : Port → Port) : (updPort s q f).emb = s.emb := by rw [updPort]
@[simp] theorem updPort_upd (s : State) (q : Nat) (f : Port → Port) : (updPort s q f).upd = s.upd := by rw [updPort]
@[simp] theorem updPort_trans (s : State) (q : Nat) (f : Port → Port) : (updPort s q f).trans = s.trans := by rw [updPort]
@[simp] theorem updPort_ctrl (s : State) (q : Nat) (f : Port → Port) : (updPort s q f).ctrl = s.ctrl := by rw [updPort]
@[simp] theorem updPort_health (s : State) (q : Nat) (f : Port → Port) : (updPort s q f).health = s.health := by rw [updPort]
@[simp] theorem updPort_freeCount (s : State) (q : Nat) (f : Port → Port) : (updPort s q f).freeCount = s.freeCount := by rw [updPort]
@[simp] theorem updPort_reply (s : State) (q : Nat) (f : Port → Port) : (updPort s q f).reply = s.reply := by rw [updPort]

@[simp] theorem updPortTime_pending (s : State) (q : Nat) (f : PortTime → PortTime) : (updPortTime s q f).pending = s.pending := by rw [updPortTime]
@[simp] theorem updPortTime_mem (s : State) (q : Nat) (f : PortTime → PortTime) : (updPortTime s q f).mem = s.mem := by rw [updPortTime]
@[simp] theorem updPortTime_regs (s : State) (q : Nat) (f : PortTime → PortTime) : (updPortTime s q f).regs = s.regs := by rw [updPortTime]
@[simp] theorem updPortTime_bound (s : State) (q : Nat) (f : PortTime → PortTime) : (updPortTime s q f).bound = s.bound := by rw [updPortTime]
@[simp] theorem updPortTime_start (s : State) (q : Nat) (f : PortTime → PortTime) : (updPortTime s q f).start = s.start := by rw [updPortTime]
@[simp] theorem updPortTime_links (s : State) (q : Nat) (f : PortTime → PortTime) : (updPortTime s q f).links = s.links := by rw [updPortTime]
@[simp] theorem updPortTime_front (s : State) (q : Nat) (f : PortTime → PortTime) : (updPortTime s q f).front = s.front := by rw [updPortTime]
@[simp] theorem updPortTime_parts (s : State) (q : Nat) (f : PortTime → PortTime) : (updPortTime s q f).parts = s.parts := by rw [updPortTime]
@[simp] theorem updPortTime_steps (s : State) (q : Nat) (f : PortTime → PortTime) : (updPortTime s q f).steps = s.steps := by rw [updPortTime]
@[simp] theorem updPortTime_cores (s : State) (q : Nat) (f : PortTime → PortTime) : (updPortTime s q f).cores = s.cores := by rw [updPortTime]
@[simp] theorem updPortTime_emb (s : State) (q : Nat) (f : PortTime → PortTime) : (updPortTime s q f).emb = s.emb := by rw [updPortTime]
@[simp] theorem updPortTime_upd (s : State) (q : Nat) (f : PortTime → PortTime) : (updPortTime s q f).upd = s.upd := by rw [updPortTime]
@[simp] theorem updPortTime_trans (s : State) (q : Nat) (f : PortTime → PortTime) : (updPortTime s q f).trans = s.trans := by rw [updPortTime]
@[simp] theorem updPortTime_ctrl (s : State) (q : Nat) (f : PortTime → PortTime) : (updPortTime s q f).ctrl = s.ctrl := by rw [updPortTime]
@[simp] theorem updPortTime_health (s : State) (q : Nat) (f : PortTime → PortTime) : (updPortTime s q f).health = s.health := by rw [updPortTime]
@[simp] theorem updPortTime_freeCount (s : State) (q : Nat) (f : PortTime → PortTime) : (updPortTime s q f).freeCount = s.freeCount := by rw [updPortTime]
@[simp] theorem updPortTime_reply (s : State) (q : Nat) (f : PortTime → PortTime) : (updPortTime s q f).reply = s.reply := by rw [updPortTime]

@[simp] theorem putRun_pending (s : State) (p : Nat) (r : StepRun) : (putRun s p r).pending = s.pending := by rw [putRun]
@[simp] theorem putRun_mem (s : State) (p : Nat) (r : StepRun) : (putRun s p r).mem = s.mem := by rw [putRun]
@[simp] theorem putRun_regs (s : State) (p : Nat) (r : StepRun) : (putRun s p r).regs = s.regs := by rw [putRun]
@[simp] theorem putRun_bound (s : State) (p : Nat) (r : StepRun) : (putRun s p r).bound = s.bound := by rw [putRun]
@[simp] theorem putRun_start (s : State) (p : Nat) (r : StepRun) : (putRun s p r).start = s.start := by rw [putRun]
@[simp] theorem putRun_time (s : State) (p : Nat) (r : StepRun) : (putRun s p r).time = s.time := by rw [putRun]
@[simp] theorem putRun_links (s : State) (p : Nat) (r : StepRun) : (putRun s p r).links = s.links := by rw [putRun]
@[simp] theorem putRun_front (s : State) (p : Nat) (r : StepRun) : (putRun s p r).front = s.front := by rw [putRun]
@[simp] theorem putRun_parts (s : State) (p : Nat) (r : StepRun) : (putRun s p r).parts = s.parts := by rw [putRun]
@[simp] theorem putRun_cores (s : State) (p : Nat) (r : StepRun) : (putRun s p r).cores = s.cores := by rw [putRun]
@[simp] theorem putRun_emb (s : State) (p : Nat) (r : StepRun) : (putRun s p r).emb = s.emb := by rw [putRun]
@[simp] theorem putRun_upd (s : State) (p : Nat) (r : StepRun) : (putRun s p r).upd = s.upd := by rw [putRun]
@[simp] theorem putRun_trans (s : State) (p : Nat) (r : StepRun) : (putRun s p r).trans = s.trans := by rw [putRun]
@[simp] theorem putRun_ctrl (s : State) (p : Nat) (r : StepRun) : (putRun s p r).ctrl = s.ctrl := by rw [putRun]
@[simp] theorem putRun_health (s : State) (p : Nat) (r : StepRun) : (putRun s p r).health = s.health := by rw [putRun]
@[simp] theorem putRun_freeCount (s : State) (p : Nat) (r : StepRun) : (putRun s p r).freeCount = s.freeCount := by rw [putRun]
@[simp] theorem putRun_reply (s : State) (p : Nat) (r : StepRun) : (putRun s p r).reply = s.reply := by rw [putRun]

@[simp] theorem updRun_pending (s : State) (p : Nat) (f : StepRun → StepRun) : (updRun s p f).pending = s.pending := by rw [updRun]
@[simp] theorem updRun_mem (s : State) (p : Nat) (f : StepRun → StepRun) : (updRun s p f).mem = s.mem := by rw [updRun]
@[simp] theorem updRun_regs (s : State) (p : Nat) (f : StepRun → StepRun) : (updRun s p f).regs = s.regs := by rw [updRun]
@[simp] theorem updRun_bound (s : State) (p : Nat) (f : StepRun → StepRun) : (updRun s p f).bound = s.bound := by rw [updRun]
@[simp] theorem updRun_start (s : State) (p : Nat) (f : StepRun → StepRun) : (updRun s p f).start = s.start := by rw [updRun]
@[simp] theorem updRun_time (s : State) (p : Nat) (f : StepRun → StepRun) : (updRun s p f).time = s.time := by rw [updRun]
@[simp] theorem updRun_links (s : State) (p : Nat) (f : StepRun → StepRun) : (updRun s p f).links = s.links := by rw [updRun]
@[simp] theorem updRun_front (s : State) (p : Nat) (f : StepRun → StepRun) : (updRun s p f).front = s.front := by rw [updRun]
@[simp] theorem updRun_parts (s : State) (p : Nat) (f : StepRun → StepRun) : (updRun s p f).parts = s.parts := by rw [updRun]
@[simp] theorem updRun_cores (s : State) (p : Nat) (f : StepRun → StepRun) : (updRun s p f).cores = s.cores := by rw [updRun]
@[simp] theorem updRun_emb (s : State) (p : Nat) (f : StepRun → StepRun) : (updRun s p f).emb = s.emb := by rw [updRun]
@[simp] theorem updRun_upd (s : State) (p : Nat) (f : StepRun → StepRun) : (updRun s p f).upd = s.upd := by rw [updRun]
@[simp] theorem updRun_trans (s : State) (p : Nat) (f : StepRun → StepRun) : (updRun s p f).trans = s.trans := by rw [updRun]
@[simp] theorem updRun_ctrl (s : State) (p : Nat) (f : StepRun → StepRun) : (updRun s p f).ctrl = s.ctrl := by rw [updRun]
@[simp] theorem updRun_health (s : State) (p : Nat) (f : StepRun → StepRun) : (updRun s p f).health = s.health := by rw [updRun]
@[simp] theorem updRun_freeCount (s : State) (p : Nat) (f : StepRun → StepRun) : (updRun s p f).freeCount = s.freeCount := by rw [updRun]
@[simp] theorem updRun_reply (s : State) (p : Nat) (f : StepRun → StepRun) : (updRun s p f).reply = s.reply := by rw [updRun]

@[simp] theorem updSubs_pending (s : State) (f : Submission → Submission) : (updSubs s f).pending = s.pending := by rw [updSubs]
@[simp] theorem updSubs_mem (s : State) (f : Submission → Submission) : (updSubs s f).mem = s.mem := by rw [updSubs]
@[simp] theorem updSubs_regs (s : State) (f : Submission → Submission) : (updSubs s f).regs = s.regs := by rw [updSubs]
@[simp] theorem updSubs_bound (s : State) (f : Submission → Submission) : (updSubs s f).bound = s.bound := by rw [updSubs]
@[simp] theorem updSubs_start (s : State) (f : Submission → Submission) : (updSubs s f).start = s.start := by rw [updSubs]
@[simp] theorem updSubs_time (s : State) (f : Submission → Submission) : (updSubs s f).time = s.time := by rw [updSubs]
@[simp] theorem updSubs_links (s : State) (f : Submission → Submission) : (updSubs s f).links = s.links := by rw [updSubs]
@[simp] theorem updSubs_front (s : State) (f : Submission → Submission) : (updSubs s f).front = s.front := by rw [updSubs]
@[simp] theorem updSubs_parts (s : State) (f : Submission → Submission) : (updSubs s f).parts = s.parts := by rw [updSubs]
@[simp] theorem updSubs_cores (s : State) (f : Submission → Submission) : (updSubs s f).cores = s.cores := by rw [updSubs]
@[simp] theorem updSubs_emb (s : State) (f : Submission → Submission) : (updSubs s f).emb = s.emb := by rw [updSubs]
@[simp] theorem updSubs_upd (s : State) (f : Submission → Submission) : (updSubs s f).upd = s.upd := by rw [updSubs]
@[simp] theorem updSubs_trans (s : State) (f : Submission → Submission) : (updSubs s f).trans = s.trans := by rw [updSubs]
@[simp] theorem updSubs_ctrl (s : State) (f : Submission → Submission) : (updSubs s f).ctrl = s.ctrl := by rw [updSubs]
@[simp] theorem updSubs_health (s : State) (f : Submission → Submission) : (updSubs s f).health = s.health := by rw [updSubs]
@[simp] theorem updSubs_freeCount (s : State) (f : Submission → Submission) : (updSubs s f).freeCount = s.freeCount := by rw [updSubs]
@[simp] theorem updSubs_reply (s : State) (f : Submission → Submission) : (updSubs s f).reply = s.reply := by rw [updSubs]

@[simp] theorem putSub_pending (s : State) (u : Submission) : (putSub s u).pending = s.pending := by rw [putSub, updSubs_pending]
@[simp] theorem putSub_mem (s : State) (u : Submission) : (putSub s u).mem = s.mem := by rw [putSub, updSubs_mem]
@[simp] theorem putSub_regs (s : State) (u : Submission) : (putSub s u).regs = s.regs := by rw [putSub, updSubs_regs]
@[simp] theorem putSub_bound (s : State) (u : Submission) : (putSub s u).bound = s.bound := by rw [putSub, updSubs_bound]
@[simp] theorem putSub_start (s : State) (u : Submission) : (putSub s u).start = s.start := by rw [putSub, updSubs_start]
@[simp] theorem putSub_time (s : State) (u : Submission) : (putSub s u).time = s.time := by rw [putSub, updSubs_time]
@[simp] theorem putSub_links (s : State) (u : Submission) : (putSub s u).links = s.links := by rw [putSub, updSubs_links]
@[simp] theorem putSub_front (s : State) (u : Submission) : (putSub s u).front = s.front := by rw [putSub, updSubs_front]
@[simp] theorem putSub_parts (s : State) (u : Submission) : (putSub s u).parts = s.parts := by rw [putSub, updSubs_parts]
@[simp] theorem putSub_cores (s : State) (u : Submission) : (putSub s u).cores = s.cores := by rw [putSub, updSubs_cores]
@[simp] theorem putSub_emb (s : State) (u : Submission) : (putSub s u).emb = s.emb := by rw [putSub, updSubs_emb]
@[simp] theorem putSub_upd (s : State) (u : Submission) : (putSub s u).upd = s.upd := by rw [putSub, updSubs_upd]
@[simp] theorem putSub_trans (s : State) (u : Submission) : (putSub s u).trans = s.trans := by rw [putSub, updSubs_trans]
@[simp] theorem putSub_ctrl (s : State) (u : Submission) : (putSub s u).ctrl = s.ctrl := by rw [putSub, updSubs_ctrl]
@[simp] theorem putSub_health (s : State) (u : Submission) : (putSub s u).health = s.health := by rw [putSub, updSubs_health]
@[simp] theorem putSub_freeCount (s : State) (u : Submission) : (putSub s u).freeCount = s.freeCount := by rw [putSub, updSubs_freeCount]
@[simp] theorem putSub_reply (s : State) (u : Submission) : (putSub s u).reply = s.reply := by rw [putSub, updSubs_reply]

@[simp] theorem putWord_pending (s : State) (off rst : Nat) (w : W32) : (putWord s off rst w).pending = s.pending := by rw [putWord]
@[simp] theorem putWord_mem (s : State) (off rst : Nat) (w : W32) : (putWord s off rst w).mem = s.mem := by rw [putWord]
@[simp] theorem putWord_bound (s : State) (off rst : Nat) (w : W32) : (putWord s off rst w).bound = s.bound := by rw [putWord]
@[simp] theorem putWord_start (s : State) (off rst : Nat) (w : W32) : (putWord s off rst w).start = s.start := by rw [putWord]
@[simp] theorem putWord_time (s : State) (off rst : Nat) (w : W32) : (putWord s off rst w).time = s.time := by rw [putWord]
@[simp] theorem putWord_links (s : State) (off rst : Nat) (w : W32) : (putWord s off rst w).links = s.links := by rw [putWord]
@[simp] theorem putWord_front (s : State) (off rst : Nat) (w : W32) : (putWord s off rst w).front = s.front := by rw [putWord]
@[simp] theorem putWord_parts (s : State) (off rst : Nat) (w : W32) : (putWord s off rst w).parts = s.parts := by rw [putWord]
@[simp] theorem putWord_steps (s : State) (off rst : Nat) (w : W32) : (putWord s off rst w).steps = s.steps := by rw [putWord]
@[simp] theorem putWord_cores (s : State) (off rst : Nat) (w : W32) : (putWord s off rst w).cores = s.cores := by rw [putWord]
@[simp] theorem putWord_emb (s : State) (off rst : Nat) (w : W32) : (putWord s off rst w).emb = s.emb := by rw [putWord]
@[simp] theorem putWord_upd (s : State) (off rst : Nat) (w : W32) : (putWord s off rst w).upd = s.upd := by rw [putWord]
@[simp] theorem putWord_trans (s : State) (off rst : Nat) (w : W32) : (putWord s off rst w).trans = s.trans := by rw [putWord]
@[simp] theorem putWord_ctrl (s : State) (off rst : Nat) (w : W32) : (putWord s off rst w).ctrl = s.ctrl := by rw [putWord]
@[simp] theorem putWord_health (s : State) (off rst : Nat) (w : W32) : (putWord s off rst w).health = s.health := by rw [putWord]
@[simp] theorem putWord_freeCount (s : State) (off rst : Nat) (w : W32) : (putWord s off rst w).freeCount = s.freeCount := by rw [putWord]
@[simp] theorem putWord_reply (s : State) (off rst : Nat) (w : W32) : (putWord s off rst w).reply = s.reply := by rw [putWord]

@[simp] theorem setF_pending (s : State) (f : Fld) (v i : Nat) : (setF s f v i).pending = s.pending := by rw [setF, putWord_pending]
@[simp] theorem setF_mem (s : State) (f : Fld) (v i : Nat) : (setF s f v i).mem = s.mem := by rw [setF, putWord_mem]
@[simp] theorem setF_bound (s : State) (f : Fld) (v i : Nat) : (setF s f v i).bound = s.bound := by rw [setF, putWord_bound]
@[simp] theorem setF_start (s : State) (f : Fld) (v i : Nat) : (setF s f v i).start = s.start := by rw [setF, putWord_start]
@[simp] theorem setF_time (s : State) (f : Fld) (v i : Nat) : (setF s f v i).time = s.time := by rw [setF, putWord_time]
@[simp] theorem setF_links (s : State) (f : Fld) (v i : Nat) : (setF s f v i).links = s.links := by rw [setF, putWord_links]
@[simp] theorem setF_front (s : State) (f : Fld) (v i : Nat) : (setF s f v i).front = s.front := by rw [setF, putWord_front]
@[simp] theorem setF_parts (s : State) (f : Fld) (v i : Nat) : (setF s f v i).parts = s.parts := by rw [setF, putWord_parts]
@[simp] theorem setF_steps (s : State) (f : Fld) (v i : Nat) : (setF s f v i).steps = s.steps := by rw [setF, putWord_steps]
@[simp] theorem setF_cores (s : State) (f : Fld) (v i : Nat) : (setF s f v i).cores = s.cores := by rw [setF, putWord_cores]
@[simp] theorem setF_emb (s : State) (f : Fld) (v i : Nat) : (setF s f v i).emb = s.emb := by rw [setF, putWord_emb]
@[simp] theorem setF_upd (s : State) (f : Fld) (v i : Nat) : (setF s f v i).upd = s.upd := by rw [setF, putWord_upd]
@[simp] theorem setF_trans (s : State) (f : Fld) (v i : Nat) : (setF s f v i).trans = s.trans := by rw [setF, putWord_trans]
@[simp] theorem setF_ctrl (s : State) (f : Fld) (v i : Nat) : (setF s f v i).ctrl = s.ctrl := by rw [setF, putWord_ctrl]
@[simp] theorem setF_health (s : State) (f : Fld) (v i : Nat) : (setF s f v i).health = s.health := by rw [setF, putWord_health]
@[simp] theorem setF_freeCount (s : State) (f : Fld) (v i : Nat) : (setF s f v i).freeCount = s.freeCount := by rw [setF, putWord_freeCount]
@[simp] theorem setF_reply (s : State) (f : Fld) (v i : Nat) : (setF s f v i).reply = s.reply := by rw [setF, putWord_reply]

@[simp] theorem setF64_pending (s : State) (f : Fld) (v i : Nat) : (setF64 s f v i).pending = s.pending := by rw [setF64, putWord_pending, putWord_pending]
@[simp] theorem setF64_mem (s : State) (f : Fld) (v i : Nat) : (setF64 s f v i).mem = s.mem := by rw [setF64, putWord_mem, putWord_mem]
@[simp] theorem setF64_bound (s : State) (f : Fld) (v i : Nat) : (setF64 s f v i).bound = s.bound := by rw [setF64, putWord_bound, putWord_bound]
@[simp] theorem setF64_start (s : State) (f : Fld) (v i : Nat) : (setF64 s f v i).start = s.start := by rw [setF64, putWord_start, putWord_start]
@[simp] theorem setF64_time (s : State) (f : Fld) (v i : Nat) : (setF64 s f v i).time = s.time := by rw [setF64, putWord_time, putWord_time]
@[simp] theorem setF64_links (s : State) (f : Fld) (v i : Nat) : (setF64 s f v i).links = s.links := by rw [setF64, putWord_links, putWord_links]
@[simp] theorem setF64_front (s : State) (f : Fld) (v i : Nat) : (setF64 s f v i).front = s.front := by rw [setF64, putWord_front, putWord_front]
@[simp] theorem setF64_parts (s : State) (f : Fld) (v i : Nat) : (setF64 s f v i).parts = s.parts := by rw [setF64, putWord_parts, putWord_parts]
@[simp] theorem setF64_steps (s : State) (f : Fld) (v i : Nat) : (setF64 s f v i).steps = s.steps := by rw [setF64, putWord_steps, putWord_steps]
@[simp] theorem setF64_cores (s : State) (f : Fld) (v i : Nat) : (setF64 s f v i).cores = s.cores := by rw [setF64, putWord_cores, putWord_cores]
@[simp] theorem setF64_emb (s : State) (f : Fld) (v i : Nat) : (setF64 s f v i).emb = s.emb := by rw [setF64, putWord_emb, putWord_emb]
@[simp] theorem setF64_upd (s : State) (f : Fld) (v i : Nat) : (setF64 s f v i).upd = s.upd := by rw [setF64, putWord_upd, putWord_upd]
@[simp] theorem setF64_trans (s : State) (f : Fld) (v i : Nat) : (setF64 s f v i).trans = s.trans := by rw [setF64, putWord_trans, putWord_trans]
@[simp] theorem setF64_ctrl (s : State) (f : Fld) (v i : Nat) : (setF64 s f v i).ctrl = s.ctrl := by rw [setF64, putWord_ctrl, putWord_ctrl]
@[simp] theorem setF64_health (s : State) (f : Fld) (v i : Nat) : (setF64 s f v i).health = s.health := by rw [setF64, putWord_health, putWord_health]
@[simp] theorem setF64_freeCount (s : State) (f : Fld) (v i : Nat) : (setF64 s f v i).freeCount = s.freeCount := by rw [setF64, putWord_freeCount, putWord_freeCount]
@[simp] theorem setF64_reply (s : State) (f : Fld) (v i : Nat) : (setF64 s f v i).reply = s.reply := by rw [setF64, putWord_reply, putWord_reply]

@[simp] theorem addF_pending (s : State) (f : Fld) (n i : Nat) : (addF s f n i).pending = s.pending := by rw [addF, setF_pending]
@[simp] theorem addF_mem (s : State) (f : Fld) (n i : Nat) : (addF s f n i).mem = s.mem := by rw [addF, setF_mem]
@[simp] theorem addF_bound (s : State) (f : Fld) (n i : Nat) : (addF s f n i).bound = s.bound := by rw [addF, setF_bound]
@[simp] theorem addF_start (s : State) (f : Fld) (n i : Nat) : (addF s f n i).start = s.start := by rw [addF, setF_start]
@[simp] theorem addF_time (s : State) (f : Fld) (n i : Nat) : (addF s f n i).time = s.time := by rw [addF, setF_time]
@[simp] theorem addF_links (s : State) (f : Fld) (n i : Nat) : (addF s f n i).links = s.links := by rw [addF, setF_links]
@[simp] theorem addF_front (s : State) (f : Fld) (n i : Nat) : (addF s f n i).front = s.front := by rw [addF, setF_front]
@[simp] theorem addF_parts (s : State) (f : Fld) (n i : Nat) : (addF s f n i).parts = s.parts := by rw [addF, setF_parts]
@[simp] theorem addF_steps (s : State) (f : Fld) (n i : Nat) : (addF s f n i).steps = s.steps := by rw [addF, setF_steps]
@[simp] theorem addF_cores (s : State) (f : Fld) (n i : Nat) : (addF s f n i).cores = s.cores := by rw [addF, setF_cores]
@[simp] theorem addF_emb (s : State) (f : Fld) (n i : Nat) : (addF s f n i).emb = s.emb := by rw [addF, setF_emb]
@[simp] theorem addF_upd (s : State) (f : Fld) (n i : Nat) : (addF s f n i).upd = s.upd := by rw [addF, setF_upd]
@[simp] theorem addF_trans (s : State) (f : Fld) (n i : Nat) : (addF s f n i).trans = s.trans := by rw [addF, setF_trans]
@[simp] theorem addF_ctrl (s : State) (f : Fld) (n i : Nat) : (addF s f n i).ctrl = s.ctrl := by rw [addF, setF_ctrl]
@[simp] theorem addF_health (s : State) (f : Fld) (n i : Nat) : (addF s f n i).health = s.health := by rw [addF, setF_health]
@[simp] theorem addF_freeCount (s : State) (f : Fld) (n i : Nat) : (addF s f n i).freeCount = s.freeCount := by rw [addF, setF_freeCount]
@[simp] theorem addF_reply (s : State) (f : Fld) (n i : Nat) : (addF s f n i).reply = s.reply := by rw [addF, setF_reply]

@[simp] theorem addF64_pending (s : State) (f : Fld) (n i : Nat) : (addF64 s f n i).pending = s.pending := by rw [addF64, setF64_pending]
@[simp] theorem addF64_mem (s : State) (f : Fld) (n i : Nat) : (addF64 s f n i).mem = s.mem := by rw [addF64, setF64_mem]
@[simp] theorem addF64_bound (s : State) (f : Fld) (n i : Nat) : (addF64 s f n i).bound = s.bound := by rw [addF64, setF64_bound]
@[simp] theorem addF64_start (s : State) (f : Fld) (n i : Nat) : (addF64 s f n i).start = s.start := by rw [addF64, setF64_start]
@[simp] theorem addF64_time (s : State) (f : Fld) (n i : Nat) : (addF64 s f n i).time = s.time := by rw [addF64, setF64_time]
@[simp] theorem addF64_links (s : State) (f : Fld) (n i : Nat) : (addF64 s f n i).links = s.links := by rw [addF64, setF64_links]
@[simp] theorem addF64_front (s : State) (f : Fld) (n i : Nat) : (addF64 s f n i).front = s.front := by rw [addF64, setF64_front]
@[simp] theorem addF64_parts (s : State) (f : Fld) (n i : Nat) : (addF64 s f n i).parts = s.parts := by rw [addF64, setF64_parts]
@[simp] theorem addF64_steps (s : State) (f : Fld) (n i : Nat) : (addF64 s f n i).steps = s.steps := by rw [addF64, setF64_steps]
@[simp] theorem addF64_cores (s : State) (f : Fld) (n i : Nat) : (addF64 s f n i).cores = s.cores := by rw [addF64, setF64_cores]
@[simp] theorem addF64_emb (s : State) (f : Fld) (n i : Nat) : (addF64 s f n i).emb = s.emb := by rw [addF64, setF64_emb]
@[simp] theorem addF64_upd (s : State) (f : Fld) (n i : Nat) : (addF64 s f n i).upd = s.upd := by rw [addF64, setF64_upd]
@[simp] theorem addF64_trans (s : State) (f : Fld) (n i : Nat) : (addF64 s f n i).trans = s.trans := by rw [addF64, setF64_trans]
@[simp] theorem addF64_ctrl (s : State) (f : Fld) (n i : Nat) : (addF64 s f n i).ctrl = s.ctrl := by rw [addF64, setF64_ctrl]
@[simp] theorem addF64_health (s : State) (f : Fld) (n i : Nat) : (addF64 s f n i).health = s.health := by rw [addF64, setF64_health]
@[simp] theorem addF64_freeCount (s : State) (f : Fld) (n i : Nat) : (addF64 s f n i).freeCount = s.freeCount := by rw [addF64, setF64_freeCount]
@[simp] theorem addF64_reply (s : State) (f : Fld) (n i : Nat) : (addF64 s f n i).reply = s.reply := by rw [addF64, setF64_reply]

@[simp] theorem finishJob_pending (s : State) (j : Nat) (code : Code) : (finishJob s j code).pending = s.pending := by rw [finishJob, updJob_pending]
@[simp] theorem finishJob_mem (s : State) (j : Nat) (code : Code) : (finishJob s j code).mem = s.mem := by rw [finishJob, updJob_mem]
@[simp] theorem finishJob_regs (s : State) (j : Nat) (code : Code) : (finishJob s j code).regs = s.regs := by rw [finishJob, updJob_regs]
@[simp] theorem finishJob_bound (s : State) (j : Nat) (code : Code) : (finishJob s j code).bound = s.bound := by rw [finishJob, updJob_bound]
@[simp] theorem finishJob_start (s : State) (j : Nat) (code : Code) : (finishJob s j code).start = s.start := by rw [finishJob, updJob_start]
@[simp] theorem finishJob_time (s : State) (j : Nat) (code : Code) : (finishJob s j code).time = s.time := by rw [finishJob, updJob_time]
@[simp] theorem finishJob_links (s : State) (j : Nat) (code : Code) : (finishJob s j code).links = s.links := by rw [finishJob, updJob_links]
@[simp] theorem finishJob_parts (s : State) (j : Nat) (code : Code) : (finishJob s j code).parts = s.parts := by rw [finishJob, updJob_parts]
@[simp] theorem finishJob_steps (s : State) (j : Nat) (code : Code) : (finishJob s j code).steps = s.steps := by rw [finishJob, updJob_steps]
@[simp] theorem finishJob_cores (s : State) (j : Nat) (code : Code) : (finishJob s j code).cores = s.cores := by rw [finishJob, updJob_cores]
@[simp] theorem finishJob_emb (s : State) (j : Nat) (code : Code) : (finishJob s j code).emb = s.emb := by rw [finishJob, updJob_emb]
@[simp] theorem finishJob_upd (s : State) (j : Nat) (code : Code) : (finishJob s j code).upd = s.upd := by rw [finishJob, updJob_upd]
@[simp] theorem finishJob_trans (s : State) (j : Nat) (code : Code) : (finishJob s j code).trans = s.trans := by rw [finishJob, updJob_trans]
@[simp] theorem finishJob_ctrl (s : State) (j : Nat) (code : Code) : (finishJob s j code).ctrl = s.ctrl := by rw [finishJob, updJob_ctrl]
@[simp] theorem finishJob_health (s : State) (j : Nat) (code : Code) : (finishJob s j code).health = s.health := by rw [finishJob, updJob_health]
@[simp] theorem finishJob_freeCount (s : State) (j : Nat) (code : Code) : (finishJob s j code).freeCount = s.freeCount := by rw [finishJob, updJob_freeCount]
@[simp] theorem finishJob_reply (s : State) (j : Nat) (code : Code) : (finishJob s j code).reply = s.reply := by rw [finishJob, updJob_reply]

@[simp] theorem awaitJob_pending (s : State) (j : Nat) : (awaitJob s j).pending = s.pending := by rw [awaitJob, updJob_pending]
@[simp] theorem awaitJob_mem (s : State) (j : Nat) : (awaitJob s j).mem = s.mem := by rw [awaitJob, updJob_mem]
@[simp] theorem awaitJob_regs (s : State) (j : Nat) : (awaitJob s j).regs = s.regs := by rw [awaitJob, updJob_regs]
@[simp] theorem awaitJob_bound (s : State) (j : Nat) : (awaitJob s j).bound = s.bound := by rw [awaitJob, updJob_bound]
@[simp] theorem awaitJob_start (s : State) (j : Nat) : (awaitJob s j).start = s.start := by rw [awaitJob, updJob_start]
@[simp] theorem awaitJob_time (s : State) (j : Nat) : (awaitJob s j).time = s.time := by rw [awaitJob, updJob_time]
@[simp] theorem awaitJob_links (s : State) (j : Nat) : (awaitJob s j).links = s.links := by rw [awaitJob, updJob_links]
@[simp] theorem awaitJob_parts (s : State) (j : Nat) : (awaitJob s j).parts = s.parts := by rw [awaitJob, updJob_parts]
@[simp] theorem awaitJob_steps (s : State) (j : Nat) : (awaitJob s j).steps = s.steps := by rw [awaitJob, updJob_steps]
@[simp] theorem awaitJob_cores (s : State) (j : Nat) : (awaitJob s j).cores = s.cores := by rw [awaitJob, updJob_cores]
@[simp] theorem awaitJob_emb (s : State) (j : Nat) : (awaitJob s j).emb = s.emb := by rw [awaitJob, updJob_emb]
@[simp] theorem awaitJob_upd (s : State) (j : Nat) : (awaitJob s j).upd = s.upd := by rw [awaitJob, updJob_upd]
@[simp] theorem awaitJob_trans (s : State) (j : Nat) : (awaitJob s j).trans = s.trans := by rw [awaitJob, updJob_trans]
@[simp] theorem awaitJob_ctrl (s : State) (j : Nat) : (awaitJob s j).ctrl = s.ctrl := by rw [awaitJob, updJob_ctrl]
@[simp] theorem awaitJob_health (s : State) (j : Nat) : (awaitJob s j).health = s.health := by rw [awaitJob, updJob_health]
@[simp] theorem awaitJob_freeCount (s : State) (j : Nat) : (awaitJob s j).freeCount = s.freeCount := by rw [awaitJob, updJob_freeCount]
@[simp] theorem awaitJob_reply (s : State) (j : Nat) : (awaitJob s j).reply = s.reply := by rw [awaitJob, updJob_reply]

@[simp] theorem putPwr_pending (s : State) (pwr ack : Nat) : (putPwr s pwr ack).pending = s.pending := by rw [putPwr, setF_pending, setF_pending]
@[simp] theorem putPwr_mem (s : State) (pwr ack : Nat) : (putPwr s pwr ack).mem = s.mem := by rw [putPwr, setF_mem, setF_mem]
@[simp] theorem putPwr_start (s : State) (pwr ack : Nat) : (putPwr s pwr ack).start = s.start := by rw [putPwr, setF_start, setF_start]
@[simp] theorem putPwr_time (s : State) (pwr ack : Nat) : (putPwr s pwr ack).time = s.time := by rw [putPwr, setF_time, setF_time]
@[simp] theorem putPwr_links (s : State) (pwr ack : Nat) : (putPwr s pwr ack).links = s.links := by rw [putPwr, setF_links, setF_links]
@[simp] theorem putPwr_front (s : State) (pwr ack : Nat) : (putPwr s pwr ack).front = s.front := by rw [putPwr, setF_front, setF_front]
@[simp] theorem putPwr_parts (s : State) (pwr ack : Nat) : (putPwr s pwr ack).parts = s.parts := by rw [putPwr, setF_parts, setF_parts]
@[simp] theorem putPwr_steps (s : State) (pwr ack : Nat) : (putPwr s pwr ack).steps = s.steps := by rw [putPwr, setF_steps, setF_steps]
@[simp] theorem putPwr_cores (s : State) (pwr ack : Nat) : (putPwr s pwr ack).cores = s.cores := by rw [putPwr, setF_cores, setF_cores]
@[simp] theorem putPwr_emb (s : State) (pwr ack : Nat) : (putPwr s pwr ack).emb = s.emb := by rw [putPwr, setF_emb, setF_emb]
@[simp] theorem putPwr_upd (s : State) (pwr ack : Nat) : (putPwr s pwr ack).upd = s.upd := by rw [putPwr, setF_upd, setF_upd]
@[simp] theorem putPwr_trans (s : State) (pwr ack : Nat) : (putPwr s pwr ack).trans = s.trans := by rw [putPwr, setF_trans, setF_trans]
@[simp] theorem putPwr_ctrl (s : State) (pwr ack : Nat) : (putPwr s pwr ack).ctrl = s.ctrl := by rw [putPwr, setF_ctrl, setF_ctrl]
@[simp] theorem putPwr_health (s : State) (pwr ack : Nat) : (putPwr s pwr ack).health = s.health := by rw [putPwr, setF_health, setF_health]
@[simp] theorem putPwr_freeCount (s : State) (pwr ack : Nat) : (putPwr s pwr ack).freeCount = s.freeCount := by rw [putPwr, setF_freeCount, setF_freeCount]
@[simp] theorem putPwr_reply (s : State) (pwr ack : Nat) : (putPwr s pwr ack).reply = s.reply := by rw [putPwr, setF_reply, setF_reply]

end Sys2Proof.Machine
end

