-- ==== Sys2Proof/Laws/Regs.lean ====
section
/-! SUPPORT. Reading a register's field after one was written. -/

namespace Sys2Proof.Machine

/-- A bit field reads what was put into it. -/
theorem bits_setBits_self (x lo n v : Nat) (h : lo + n ≤ 32) : bits (setBits x lo n v % 2 ^ 32) lo n = v % 2 ^ n := by
  obtain ⟨r, hr⟩ : ∃ r, 32 = lo + n + r := ⟨32 - (lo + n), by omega⟩
  rw [bits, setBits, bits, hr, Nat.pow_add, Nat.pow_add]
  generalize hL : 2 ^ lo = L
  generalize hW : 2 ^ n = W
  generalize 2 ^ r = R
  have hL0 : 0 < L := hL ▸ Nat.two_pow_pos lo
  have hW0 : 0 < W := hW ▸ Nat.two_pow_pos n
  have h1 : x - x / L % W * L + v % W * L = x % L + L * (v % W + W * (x / L / W)) := by
    have a := Nat.div_add_mod x L
    have b := Nat.div_add_mod (x / L) W
    have c : x = x % L + L * (x / L % W) + L * (W * (x / L / W)) := by
      conv_lhs => rw [← a, ← b, Nat.mul_add]
      omega
    have d : x / L % W * L = L * (x / L % W) := Nat.mul_comm ..
    rw [d, Nat.mul_comm (v % W) L, Nat.mul_add]
    omega
  rw [h1, Nat.mul_assoc, Nat.mod_mul_right_div_self, Nat.mod_mul_right_mod, Nat.add_mul_div_left _ _ hL0,
    Nat.div_eq_of_lt (Nat.mod_lt _ hL0), Nat.zero_add, Nat.add_mul_mod_self_left, Nat.mod_mod]

theorem wordD_putWord_self (s : State) (off rst : Nat) (w : W32) : wordD (putWord s off rst w) off rst = w := by
  rw [wordD, putWord]
  by_cases h : w = BitVec.ofNat 32 rst
  · simp [h]
  · simp [h]

theorem wordD_putWord_ne (s : State) {off o : Nat} (rst r : Nat) (w : W32) (h : o ≠ off) :
    wordD (putWord s off rst w) o r = wordD s o r := by
  rw [wordD, putWord, wordD]
  by_cases e : w = BitVec.ofNat 32 rst
  · simp [e, mfind_mdel_ne _ h]
  · simp [e, mfind_mput_ne _ _ h]

/-- A field reads what was put into it, in its width. -/
theorem getF_setF_self (s : State) (f : Fld) (v i : Nat) (h : f.lo + f.width ≤ 32) :
    getF (setF s f v i) f i = v % 2 ^ f.width := by
  rw [getF, setF, wordD_putWord_self, BitVec.toNat_ofNat]
  generalize (wordD s (f.at i) f.rst).toNat = x
  exact bits_setBits_self x f.lo f.width v h

/-- A field of another word does not change. -/
theorem getF_setF_ne (s : State) (f g : Fld) (v i j : Nat) (h : g.at j ≠ f.at i) : getF (setF s f v i) g j = getF s g j := by
  rw [getF, setF, wordD_putWord_ne _ _ _ _ h, getF]

theorem getF64_setF_ne (s : State) (f g : Fld) (v i j : Nat) (h : g.at j ≠ f.at i) (h' : g.at j + 4 ≠ f.at i) :
    getF64 (setF s f v i) g j = getF64 s g j := by
  rw [getF64, setF, wordD_putWord_ne _ _ _ _ h, wordD_putWord_ne _ _ _ _ h', getF64]

theorem getF_addF_ne (s : State) (f g : Fld) (n i j : Nat) (h : g.at j ≠ f.at i) : getF (addF s f n i) g j = getF s g j := by
  rw [addF, getF_setF_ne _ _ _ _ _ _ h]

theorem getF_setF64_ne (s : State) (f g : Fld) (v i j : Nat) (h : g.at j ≠ f.at i) (h' : g.at j ≠ f.at i + 4) :
    getF (setF64 s f v i) g j = getF s g j := by
  rw [getF, setF64, wordD_putWord_ne _ _ _ _ h', wordD_putWord_ne _ _ _ _ h, getF]

theorem getF_addF64_ne (s : State) (f g : Fld) (n i j : Nat) (h : g.at j ≠ f.at i) (h' : g.at j ≠ f.at i + 4) :
    getF (addF64 s f n i) g j = getF s g j := by
  rw [addF64, getF_setF64_ne _ _ _ _ _ _ h h']

/-- What a register reads depends on the register file alone. -/
theorem getF_congr {s t : State} (h : t.regs = s.regs) (f : Fld) (i : Nat) : getF t f i = getF s f i := by
  rw [getF, wordD, h, getF, wordD]

theorem getF64_congr {s t : State} (h : t.regs = s.regs) (f : Fld) (i : Nat) : getF64 t f i = getF64 s f i := by
  rw [getF64, wordD, wordD, h, getF64, wordD, wordD]

/-- A bit field keeps its value where another that does not overlap it is written. -/
theorem bits_setBits_disj (x lo n v k m : Nat) (h : lo + n ≤ k ∨ k + m ≤ lo) (hk : k + m ≤ 32) :
    bits (setBits x lo n v % 2 ^ 32) k m = bits x k m := by
  obtain ⟨r, hr⟩ : ∃ r, 32 = k + (m + r) := ⟨32 - (k + m), by omega⟩
  have e1 : ∀ y, bits (y % 2 ^ 32) k m = bits y k m := by
    intro y
    rw [bits, bits, hr, Nat.pow_add, Nat.mod_mul_right_div_self, Nat.pow_add, Nat.mod_mul_right_mod]
  rw [e1]
  have hb : bits x lo n * 2 ^ lo ≤ x := by
    rw [bits]
    exact Nat.le_trans (Nat.mul_le_mul_right _ (Nat.mod_le _ _)) (Nat.div_mul_le_self _ _)
  obtain h | h := h
  · obtain ⟨q, hq⟩ : ∃ q, k = lo + n + q := ⟨k - (lo + n), by omega⟩
    have e2 : setBits x lo n v / 2 ^ (lo + n) = x / 2 ^ (lo + n) := by
      rw [setBits, bits, Nat.pow_add]
      generalize hL : 2 ^ lo = L
      generalize hW : 2 ^ n = W
      have hL0 : 0 < L := hL ▸ Nat.two_pow_pos lo
      have hW0 : 0 < W := hW ▸ Nat.two_pow_pos n
      have h1 : x - x / L % W * L + v % W * L = x % L + L * (v % W + W * (x / L / W)) := by
        have a := Nat.div_add_mod x L
        have b := Nat.div_add_mod (x / L) W
        have c : x = x % L + L * (x / L % W) + L * (W * (x / L / W)) := by
          conv_lhs => rw [← a, ← b, Nat.mul_add]
          omega
        have d : x / L % W * L = L * (x / L % W) := Nat.mul_comm ..
        rw [d, Nat.mul_comm (v % W) L, Nat.mul_add]
        omega
      rw [h1, ← Nat.div_div_eq_div_mul, ← Nat.div_div_eq_div_mul, Nat.add_mul_div_left _ _ hL0, Nat.div_eq_of_lt (Nat.mod_lt _ hL0),
        Nat.zero_add, Nat.add_mul_div_left _ _ hW0, Nat.div_eq_of_lt (Nat.mod_lt _ hW0), Nat.zero_add]
    rw [bits, bits, hq, Nat.pow_add _ (lo + n) q, ← Nat.div_div_eq_div_mul, ← Nat.div_div_eq_div_mul, e2]
  · obtain ⟨q, hq⟩ : ∃ q, lo = k + m + q := ⟨lo - (k + m), by omega⟩
    have e3 : ∀ y, bits y k m = y % 2 ^ (k + m) / 2 ^ k := by
      intro y
      rw [bits, Nat.pow_add, Nat.mod_mul_right_div_self]
    have e4 : setBits x lo n v % 2 ^ (k + m) = x % 2 ^ (k + m) := by
      have hd : 2 ^ lo = 2 ^ (k + m) * 2 ^ q := by rw [hq, Nat.pow_add]
      rw [setBits]
      rw [hd] at hb ⊢
      generalize bits x lo n = B at *
      generalize v % 2 ^ n = C
      generalize 2 ^ (k + m) = A at *
      generalize 2 ^ q = Q at *
      have a1 : ∀ t, t * (A * Q) = A * (t * Q) := fun t => by rw [Nat.mul_left_comm]
      rw [a1] at hb ⊢
      rw [a1, Nat.add_mul_mod_self_left]
      have e5 : x % A = (x - A * (B * Q) + A * (B * Q)) % A := by rw [Nat.sub_add_cancel hb]
      rw [e5, Nat.add_mul_mod_self_left]
    rw [e3, e3, e4]

/-- Another field of the same word does not change. -/
theorem getF_setF_disj (s : State) (f g : Fld) (v i j : Nat) (ha : g.at j = f.at i) (hr : g.rst = f.rst)
    (h : f.lo + f.width ≤ g.lo ∨ g.lo + g.width ≤ f.lo) (hg : g.lo + g.width ≤ 32) : getF (setF s f v i) g j = getF s g j := by
  rw [getF, setF, ha, hr, wordD_putWord_self, BitVec.toNat_ofNat, getF, ha, hr]
  generalize (wordD s (f.at i) f.rst).toNat = x
  exact bits_setBits_disj x f.lo f.width v g.lo g.width h hg

end Sys2Proof.Machine
end

