-- ==== Sys2Proof/Laws/Views.lean ====
section
/-! SUPPORT. What the named readers (a context, a partition, a command, a fence, an object, a core, a step) see of the named setters. -/

namespace Sys2Proof.Machine

@[simp] theorem ctxOf_putPart (s : State) (m : Nat) (c : Partition) (n : Nat) : ctxOf (putPart s m c) n = ctxOf s n := by
  rw [ctxOf, putPart, ctxOf]
@[simp] theorem ctxOf_updPart (s : State) (m : Nat) (f : Partition → Partition) (n : Nat) : ctxOf (updPart s m f) n = ctxOf s n := by
  rw [ctxOf, updPart, putPart, ctxOf]
@[simp] theorem ctxOf_putJob (s : State) (m : Nat) (c : Job) (n : Nat) : ctxOf (putJob s m c) n = ctxOf s n := by
  rw [ctxOf, putJob, ctxOf]
@[simp] theorem ctxOf_updJob (s : State) (m : Nat) (f : Job → Job) (n : Nat) : ctxOf (updJob s m f) n = ctxOf s n := by
  rw [ctxOf, updJob, ctxOf]
@[simp] theorem ctxOf_finishJob (s : State) (m : Nat) (c : Code) (n : Nat) : ctxOf (finishJob s m c) n = ctxOf s n := by
  rw [ctxOf, finishJob, updJob, ctxOf]
@[simp] theorem ctxOf_awaitJob (s : State) (m : Nat) (n : Nat) : ctxOf (awaitJob s m) n = ctxOf s n := by
  rw [ctxOf, awaitJob, updJob, ctxOf]
@[simp] theorem ctxOf_putFence (s : State) (m : Nat) (f : Fence) (n : Nat) : ctxOf (putFence s m f) n = ctxOf s n := by
  rw [ctxOf, putFence, ctxOf]
@[simp] theorem ctxOf_putObj (s : State) (m : Nat) (o : Obj) (n : Nat) : ctxOf (putObj s m o) n = ctxOf s n := by
  rw [ctxOf, putObj, ctxOf]
@[simp] theorem ctxOf_updObj (s : State) (m : Nat) (f : Obj → Obj) (n : Nat) : ctxOf (updObj s m f) n = ctxOf s n := by
  rw [ctxOf, updObj, putObj, ctxOf]
@[simp] theorem ctxOf_bindObj (s : State) (m : Nat) (n : Nat) : ctxOf (bindObj s m) n = ctxOf s n := by
  rw [ctxOf, bindObj, updObj, putObj, ctxOf]
@[simp] theorem ctxOf_unbindObj (s : State) (m : Nat) (n : Nat) : ctxOf (unbindObj s m) n = ctxOf s n := by
  rw [ctxOf, unbindObj, updObj, putObj, ctxOf]
@[simp] theorem ctxOf_putWord (s : State) (a r : Nat) (w : W32) (n : Nat) : ctxOf (putWord s a r w) n = ctxOf s n := by
  rw [ctxOf, putWord, ctxOf]
@[simp] theorem ctxOf_setF (s : State) (f : Fld) (v i : Nat) (n : Nat) : ctxOf (setF s f v i) n = ctxOf s n := by
  rw [ctxOf, setF, putWord, ctxOf]
@[simp] theorem ctxOf_addF (s : State) (f : Fld) (v i : Nat) (n : Nat) : ctxOf (addF s f v i) n = ctxOf s n := by
  rw [ctxOf, addF, setF, putWord, ctxOf]
@[simp] theorem ctxOf_setF64 (s : State) (f : Fld) (v i : Nat) (n : Nat) : ctxOf (setF64 s f v i) n = ctxOf s n := by
  rw [ctxOf, setF64, putWord, putWord, ctxOf]
@[simp] theorem ctxOf_addF64 (s : State) (f : Fld) (v i : Nat) (n : Nat) : ctxOf (addF64 s f v i) n = ctxOf s n := by
  rw [ctxOf, addF64, setF64, putWord, putWord, ctxOf]
@[simp] theorem ctxOf_putCore (s : State) (m : Nat) (k : Core) (n : Nat) : ctxOf (putCore s m k) n = ctxOf s n := by
  rw [ctxOf, putCore, ctxOf]
@[simp] theorem ctxOf_putRun (s : State) (m : Nat) (r : StepRun) (n : Nat) : ctxOf (putRun s m r) n = ctxOf s n := by
  rw [ctxOf, putRun, ctxOf]
@[simp] theorem partOf_putCtx (s : State) (m : Nat) (c : Context) (n : Nat) : partOf (putCtx s m c) n = partOf s n := by
  rw [partOf, putCtx, partOf]
@[simp] theorem partOf_updCtx (s : State) (m : Nat) (f : Context → Context) (n : Nat) : partOf (updCtx s m f) n = partOf s n := by
  rw [partOf, updCtx, putCtx, partOf]
@[simp] theorem partOf_putJob (s : State) (m : Nat) (c : Job) (n : Nat) : partOf (putJob s m c) n = partOf s n := by
  rw [partOf, putJob, partOf]
@[simp] theorem partOf_updJob (s : State) (m : Nat) (f : Job → Job) (n : Nat) : partOf (updJob s m f) n = partOf s n := by
  rw [partOf, updJob, partOf]
@[simp] theorem partOf_finishJob (s : State) (m : Nat) (c : Code) (n : Nat) : partOf (finishJob s m c) n = partOf s n := by
  rw [partOf, finishJob, updJob, partOf]
@[simp] theorem partOf_awaitJob (s : State) (m : Nat) (n : Nat) : partOf (awaitJob s m) n = partOf s n := by
  rw [partOf, awaitJob, updJob, partOf]
@[simp] theorem partOf_putFence (s : State) (m : Nat) (f : Fence) (n : Nat) : partOf (putFence s m f) n = partOf s n := by
  rw [partOf, putFence, partOf]
@[simp] theorem partOf_putObj (s : State) (m : Nat) (o : Obj) (n : Nat) : partOf (putObj s m o) n = partOf s n := by
  rw [partOf, putObj, partOf]
@[simp] theorem partOf_updObj (s : State) (m : Nat) (f : Obj → Obj) (n : Nat) : partOf (updObj s m f) n = partOf s n := by
  rw [partOf, updObj, putObj, partOf]
@[simp] theorem partOf_bindObj (s : State) (m : Nat) (n : Nat) : partOf (bindObj s m) n = partOf s n := by
  rw [partOf, bindObj, updObj, putObj, partOf]
@[simp] theorem partOf_unbindObj (s : State) (m : Nat) (n : Nat) : partOf (unbindObj s m) n = partOf s n := by
  rw [partOf, unbindObj, updObj, putObj, partOf]
@[simp] theorem partOf_putWord (s : State) (a r : Nat) (w : W32) (n : Nat) : partOf (putWord s a r w) n = partOf s n := by
  rw [partOf, putWord, partOf]
@[simp] theorem partOf_setF (s : State) (f : Fld) (v i : Nat) (n : Nat) : partOf (setF s f v i) n = partOf s n := by
  rw [partOf, setF, putWord, partOf]
@[simp] theorem partOf_addF (s : State) (f : Fld) (v i : Nat) (n : Nat) : partOf (addF s f v i) n = partOf s n := by
  rw [partOf, addF, setF, putWord, partOf]
@[simp] theorem partOf_setF64 (s : State) (f : Fld) (v i : Nat) (n : Nat) : partOf (setF64 s f v i) n = partOf s n := by
  rw [partOf, setF64, putWord, putWord, partOf]
@[simp] theorem partOf_addF64 (s : State) (f : Fld) (v i : Nat) (n : Nat) : partOf (addF64 s f v i) n = partOf s n := by
  rw [partOf, addF64, setF64, putWord, putWord, partOf]
@[simp] theorem partOf_putCore (s : State) (m : Nat) (k : Core) (n : Nat) : partOf (putCore s m k) n = partOf s n := by
  rw [partOf, putCore, partOf]
@[simp] theorem partOf_putRun (s : State) (m : Nat) (r : StepRun) (n : Nat) : partOf (putRun s m r) n = partOf s n := by
  rw [partOf, putRun, partOf]
@[simp] theorem jobOf_putCtx (s : State) (m : Nat) (c : Context) (n : Nat) : jobOf (putCtx s m c) n = jobOf s n := by
  rw [jobOf, putCtx, jobOf]
@[simp] theorem jobOf_updCtx (s : State) (m : Nat) (f : Context → Context) (n : Nat) : jobOf (updCtx s m f) n = jobOf s n := by
  rw [jobOf, updCtx, putCtx, jobOf]
@[simp] theorem jobOf_putPart (s : State) (m : Nat) (c : Partition) (n : Nat) : jobOf (putPart s m c) n = jobOf s n := by
  rw [jobOf, putPart, jobOf]
@[simp] theorem jobOf_updPart (s : State) (m : Nat) (f : Partition → Partition) (n : Nat) : jobOf (updPart s m f) n = jobOf s n := by
  rw [jobOf, updPart, putPart, jobOf]
@[simp] theorem jobOf_putFence (s : State) (m : Nat) (f : Fence) (n : Nat) : jobOf (putFence s m f) n = jobOf s n := by
  rw [jobOf, putFence, jobOf]
@[simp] theorem jobOf_putObj (s : State) (m : Nat) (o : Obj) (n : Nat) : jobOf (putObj s m o) n = jobOf s n := by
  rw [jobOf, putObj, jobOf]
@[simp] theorem jobOf_updObj (s : State) (m : Nat) (f : Obj → Obj) (n : Nat) : jobOf (updObj s m f) n = jobOf s n := by
  rw [jobOf, updObj, putObj, jobOf]
@[simp] theorem jobOf_bindObj (s : State) (m : Nat) (n : Nat) : jobOf (bindObj s m) n = jobOf s n := by
  rw [jobOf, bindObj, updObj, putObj, jobOf]
@[simp] theorem jobOf_unbindObj (s : State) (m : Nat) (n : Nat) : jobOf (unbindObj s m) n = jobOf s n := by
  rw [jobOf, unbindObj, updObj, putObj, jobOf]
@[simp] theorem jobOf_putWord (s : State) (a r : Nat) (w : W32) (n : Nat) : jobOf (putWord s a r w) n = jobOf s n := by
  rw [jobOf, putWord, jobOf]
@[simp] theorem jobOf_setF (s : State) (f : Fld) (v i : Nat) (n : Nat) : jobOf (setF s f v i) n = jobOf s n := by
  rw [jobOf, setF, putWord, jobOf]
@[simp] theorem jobOf_addF (s : State) (f : Fld) (v i : Nat) (n : Nat) : jobOf (addF s f v i) n = jobOf s n := by
  rw [jobOf, addF, setF, putWord, jobOf]
@[simp] theorem jobOf_setF64 (s : State) (f : Fld) (v i : Nat) (n : Nat) : jobOf (setF64 s f v i) n = jobOf s n := by
  rw [jobOf, setF64, putWord, putWord, jobOf]
@[simp] theorem jobOf_addF64 (s : State) (f : Fld) (v i : Nat) (n : Nat) : jobOf (addF64 s f v i) n = jobOf s n := by
  rw [jobOf, addF64, setF64, putWord, putWord, jobOf]
@[simp] theorem jobOf_putCore (s : State) (m : Nat) (k : Core) (n : Nat) : jobOf (putCore s m k) n = jobOf s n := by
  rw [jobOf, putCore, jobOf]
@[simp] theorem jobOf_putRun (s : State) (m : Nat) (r : StepRun) (n : Nat) : jobOf (putRun s m r) n = jobOf s n := by
  rw [jobOf, putRun, jobOf]
@[simp] theorem fenceOf_putCtx (s : State) (m : Nat) (c : Context) (n : Nat) : fenceOf (putCtx s m c) n = fenceOf s n := by
  rw [fenceOf, putCtx, fenceOf]
@[simp] theorem fenceOf_updCtx (s : State) (m : Nat) (f : Context → Context) (n : Nat) : fenceOf (updCtx s m f) n = fenceOf s n := by
  rw [fenceOf, updCtx, putCtx, fenceOf]
@[simp] theorem fenceOf_putPart (s : State) (m : Nat) (c : Partition) (n : Nat) : fenceOf (putPart s m c) n = fenceOf s n := by
  rw [fenceOf, putPart, fenceOf]
@[simp] theorem fenceOf_updPart (s : State) (m : Nat) (f : Partition → Partition) (n : Nat) : fenceOf (updPart s m f) n = fenceOf s n := by
  rw [fenceOf, updPart, putPart, fenceOf]
@[simp] theorem fenceOf_putJob (s : State) (m : Nat) (c : Job) (n : Nat) : fenceOf (putJob s m c) n = fenceOf s n := by
  rw [fenceOf, putJob, fenceOf]
@[simp] theorem fenceOf_updJob (s : State) (m : Nat) (f : Job → Job) (n : Nat) : fenceOf (updJob s m f) n = fenceOf s n := by
  rw [fenceOf, updJob, fenceOf]
@[simp] theorem fenceOf_finishJob (s : State) (m : Nat) (c : Code) (n : Nat) : fenceOf (finishJob s m c) n = fenceOf s n := by
  rw [fenceOf, finishJob, updJob, fenceOf]
@[simp] theorem fenceOf_awaitJob (s : State) (m : Nat) (n : Nat) : fenceOf (awaitJob s m) n = fenceOf s n := by
  rw [fenceOf, awaitJob, updJob, fenceOf]
@[simp] theorem fenceOf_putObj (s : State) (m : Nat) (o : Obj) (n : Nat) : fenceOf (putObj s m o) n = fenceOf s n := by
  rw [fenceOf, putObj, fenceOf]
@[simp] theorem fenceOf_updObj (s : State) (m : Nat) (f : Obj → Obj) (n : Nat) : fenceOf (updObj s m f) n = fenceOf s n := by
  rw [fenceOf, updObj, putObj, fenceOf]
@[simp] theorem fenceOf_bindObj (s : State) (m : Nat) (n : Nat) : fenceOf (bindObj s m) n = fenceOf s n := by
  rw [fenceOf, bindObj, updObj, putObj, fenceOf]
@[simp] theorem fenceOf_unbindObj (s : State) (m : Nat) (n : Nat) : fenceOf (unbindObj s m) n = fenceOf s n := by
  rw [fenceOf, unbindObj, updObj, putObj, fenceOf]
@[simp] theorem fenceOf_putWord (s : State) (a r : Nat) (w : W32) (n : Nat) : fenceOf (putWord s a r w) n = fenceOf s n := by
  rw [fenceOf, putWord, fenceOf]
@[simp] theorem fenceOf_setF (s : State) (f : Fld) (v i : Nat) (n : Nat) : fenceOf (setF s f v i) n = fenceOf s n := by
  rw [fenceOf, setF, putWord, fenceOf]
@[simp] theorem fenceOf_addF (s : State) (f : Fld) (v i : Nat) (n : Nat) : fenceOf (addF s f v i) n = fenceOf s n := by
  rw [fenceOf, addF, setF, putWord, fenceOf]
@[simp] theorem fenceOf_setF64 (s : State) (f : Fld) (v i : Nat) (n : Nat) : fenceOf (setF64 s f v i) n = fenceOf s n := by
  rw [fenceOf, setF64, putWord, putWord, fenceOf]
@[simp] theorem fenceOf_addF64 (s : State) (f : Fld) (v i : Nat) (n : Nat) : fenceOf (addF64 s f v i) n = fenceOf s n := by
  rw [fenceOf, addF64, setF64, putWord, putWord, fenceOf]
@[simp] theorem fenceOf_putCore (s : State) (m : Nat) (k : Core) (n : Nat) : fenceOf (putCore s m k) n = fenceOf s n := by
  rw [fenceOf, putCore, fenceOf]
@[simp] theorem fenceOf_putRun (s : State) (m : Nat) (r : StepRun) (n : Nat) : fenceOf (putRun s m r) n = fenceOf s n := by
  rw [fenceOf, putRun, fenceOf]
@[simp] theorem objOf_putCtx (s : State) (m : Nat) (c : Context) (n : Nat) : objOf (putCtx s m c) n = objOf s n := by
  rw [objOf, putCtx, objOf]
@[simp] theorem objOf_updCtx (s : State) (m : Nat) (f : Context → Context) (n : Nat) : objOf (updCtx s m f) n = objOf s n := by
  rw [objOf, updCtx, putCtx, objOf]
@[simp] theorem objOf_putPart (s : State) (m : Nat) (c : Partition) (n : Nat) : objOf (putPart s m c) n = objOf s n := by
  rw [objOf, putPart, objOf]
@[simp] theorem objOf_updPart (s : State) (m : Nat) (f : Partition → Partition) (n : Nat) : objOf (updPart s m f) n = objOf s n := by
  rw [objOf, updPart, putPart, objOf]
@[simp] theorem objOf_putJob (s : State) (m : Nat) (c : Job) (n : Nat) : objOf (putJob s m c) n = objOf s n := by
  rw [objOf, putJob, objOf]
@[simp] theorem objOf_updJob (s : State) (m : Nat) (f : Job → Job) (n : Nat) : objOf (updJob s m f) n = objOf s n := by
  rw [objOf, updJob, objOf]
@[simp] theorem objOf_finishJob (s : State) (m : Nat) (c : Code) (n : Nat) : objOf (finishJob s m c) n = objOf s n := by
  rw [objOf, finishJob, updJob, objOf]
@[simp] theorem objOf_awaitJob (s : State) (m : Nat) (n : Nat) : objOf (awaitJob s m) n = objOf s n := by
  rw [objOf, awaitJob, updJob, objOf]
@[simp] theorem objOf_putFence (s : State) (m : Nat) (f : Fence) (n : Nat) : objOf (putFence s m f) n = objOf s n := by
  rw [objOf, putFence, objOf]
@[simp] theorem objOf_putWord (s : State) (a r : Nat) (w : W32) (n : Nat) : objOf (putWord s a r w) n = objOf s n := by
  rw [objOf, putWord, objOf]
@[simp] theorem objOf_setF (s : State) (f : Fld) (v i : Nat) (n : Nat) : objOf (setF s f v i) n = objOf s n := by
  rw [objOf, setF, putWord, objOf]
@[simp] theorem objOf_addF (s : State) (f : Fld) (v i : Nat) (n : Nat) : objOf (addF s f v i) n = objOf s n := by
  rw [objOf, addF, setF, putWord, objOf]
@[simp] theorem objOf_setF64 (s : State) (f : Fld) (v i : Nat) (n : Nat) : objOf (setF64 s f v i) n = objOf s n := by
  rw [objOf, setF64, putWord, putWord, objOf]
@[simp] theorem objOf_addF64 (s : State) (f : Fld) (v i : Nat) (n : Nat) : objOf (addF64 s f v i) n = objOf s n := by
  rw [objOf, addF64, setF64, putWord, putWord, objOf]
@[simp] theorem objOf_putCore (s : State) (m : Nat) (k : Core) (n : Nat) : objOf (putCore s m k) n = objOf s n := by
  rw [objOf, putCore, objOf]
@[simp] theorem objOf_putRun (s : State) (m : Nat) (r : StepRun) (n : Nat) : objOf (putRun s m r) n = objOf s n := by
  rw [objOf, putRun, objOf]
@[simp] theorem coreOf_putCtx (s : State) (m : Nat) (c : Context) (n : Nat) : coreOf (putCtx s m c) n = coreOf s n := by
  rw [coreOf, putCtx, coreOf]
@[simp] theorem coreOf_updCtx (s : State) (m : Nat) (f : Context → Context) (n : Nat) : coreOf (updCtx s m f) n = coreOf s n := by
  rw [coreOf, updCtx, putCtx, coreOf]
@[simp] theorem coreOf_putPart (s : State) (m : Nat) (c : Partition) (n : Nat) : coreOf (putPart s m c) n = coreOf s n := by
  rw [coreOf, putPart, coreOf]
@[simp] theorem coreOf_updPart (s : State) (m : Nat) (f : Partition → Partition) (n : Nat) : coreOf (updPart s m f) n = coreOf s n := by
  rw [coreOf, updPart, putPart, coreOf]
@[simp] theorem coreOf_putJob (s : State) (m : Nat) (c : Job) (n : Nat) : coreOf (putJob s m c) n = coreOf s n := by
  rw [coreOf, putJob, coreOf]
@[simp] theorem coreOf_updJob (s : State) (m : Nat) (f : Job → Job) (n : Nat) : coreOf (updJob s m f) n = coreOf s n := by
  rw [coreOf, updJob, coreOf]
@[simp] theorem coreOf_finishJob (s : State) (m : Nat) (c : Code) (n : Nat) : coreOf (finishJob s m c) n = coreOf s n := by
  rw [coreOf, finishJob, updJob, coreOf]
@[simp] theorem coreOf_awaitJob (s : State) (m : Nat) (n : Nat) : coreOf (awaitJob s m) n = coreOf s n := by
  rw [coreOf, awaitJob, updJob, coreOf]
@[simp] theorem coreOf_putFence (s : State) (m : Nat) (f : Fence) (n : Nat) : coreOf (putFence s m f) n = coreOf s n := by
  rw [coreOf, putFence, coreOf]
@[simp] theorem coreOf_putObj (s : State) (m : Nat) (o : Obj) (n : Nat) : coreOf (putObj s m o) n = coreOf s n := by
  rw [coreOf, putObj, coreOf]
@[simp] theorem coreOf_updObj (s : State) (m : Nat) (f : Obj → Obj) (n : Nat) : coreOf (updObj s m f) n = coreOf s n := by
  rw [coreOf, updObj, putObj, coreOf]
@[simp] theorem coreOf_bindObj (s : State) (m : Nat) (n : Nat) : coreOf (bindObj s m) n = coreOf s n := by
  rw [coreOf, bindObj, updObj, putObj, coreOf]
@[simp] theorem coreOf_unbindObj (s : State) (m : Nat) (n : Nat) : coreOf (unbindObj s m) n = coreOf s n := by
  rw [coreOf, unbindObj, updObj, putObj, coreOf]
@[simp] theorem coreOf_putWord (s : State) (a r : Nat) (w : W32) (n : Nat) : coreOf (putWord s a r w) n = coreOf s n := by
  rw [coreOf, putWord, coreOf]
@[simp] theorem coreOf_setF (s : State) (f : Fld) (v i : Nat) (n : Nat) : coreOf (setF s f v i) n = coreOf s n := by
  rw [coreOf, setF, putWord, coreOf]
@[simp] theorem coreOf_addF (s : State) (f : Fld) (v i : Nat) (n : Nat) : coreOf (addF s f v i) n = coreOf s n := by
  rw [coreOf, addF, setF, putWord, coreOf]
@[simp] theorem coreOf_setF64 (s : State) (f : Fld) (v i : Nat) (n : Nat) : coreOf (setF64 s f v i) n = coreOf s n := by
  rw [coreOf, setF64, putWord, putWord, coreOf]
@[simp] theorem coreOf_addF64 (s : State) (f : Fld) (v i : Nat) (n : Nat) : coreOf (addF64 s f v i) n = coreOf s n := by
  rw [coreOf, addF64, setF64, putWord, putWord, coreOf]
@[simp] theorem coreOf_putRun (s : State) (m : Nat) (r : StepRun) (n : Nat) : coreOf (putRun s m r) n = coreOf s n := by
  rw [coreOf, putRun, coreOf]
@[simp] theorem runOf_putCtx (s : State) (m : Nat) (c : Context) (n : Nat) : runOf (putCtx s m c) n = runOf s n := by
  rw [runOf, putCtx, runOf]
@[simp] theorem runOf_updCtx (s : State) (m : Nat) (f : Context → Context) (n : Nat) : runOf (updCtx s m f) n = runOf s n := by
  rw [runOf, updCtx, putCtx, runOf]
@[simp] theorem runOf_putPart (s : State) (m : Nat) (c : Partition) (n : Nat) : runOf (putPart s m c) n = runOf s n := by
  rw [runOf, putPart, runOf]
@[simp] theorem runOf_updPart (s : State) (m : Nat) (f : Partition → Partition) (n : Nat) : runOf (updPart s m f) n = runOf s n := by
  rw [runOf, updPart, putPart, runOf]
@[simp] theorem runOf_putJob (s : State) (m : Nat) (c : Job) (n : Nat) : runOf (putJob s m c) n = runOf s n := by
  rw [runOf, putJob, runOf]
@[simp] theorem runOf_updJob (s : State) (m : Nat) (f : Job → Job) (n : Nat) : runOf (updJob s m f) n = runOf s n := by
  rw [runOf, updJob, runOf]
@[simp] theorem runOf_finishJob (s : State) (m : Nat) (c : Code) (n : Nat) : runOf (finishJob s m c) n = runOf s n := by
  rw [runOf, finishJob, updJob, runOf]
@[simp] theorem runOf_awaitJob (s : State) (m : Nat) (n : Nat) : runOf (awaitJob s m) n = runOf s n := by
  rw [runOf, awaitJob, updJob, runOf]
@[simp] theorem runOf_putFence (s : State) (m : Nat) (f : Fence) (n : Nat) : runOf (putFence s m f) n = runOf s n := by
  rw [runOf, putFence, runOf]
@[simp] theorem runOf_putObj (s : State) (m : Nat) (o : Obj) (n : Nat) : runOf (putObj s m o) n = runOf s n := by
  rw [runOf, putObj, runOf]
@[simp] theorem runOf_updObj (s : State) (m : Nat) (f : Obj → Obj) (n : Nat) : runOf (updObj s m f) n = runOf s n := by
  rw [runOf, updObj, putObj, runOf]
@[simp] theorem runOf_bindObj (s : State) (m : Nat) (n : Nat) : runOf (bindObj s m) n = runOf s n := by
  rw [runOf, bindObj, updObj, putObj, runOf]
@[simp] theorem runOf_unbindObj (s : State) (m : Nat) (n : Nat) : runOf (unbindObj s m) n = runOf s n := by
  rw [runOf, unbindObj, updObj, putObj, runOf]
@[simp] theorem runOf_putWord (s : State) (a r : Nat) (w : W32) (n : Nat) : runOf (putWord s a r w) n = runOf s n := by
  rw [runOf, putWord, runOf]
@[simp] theorem runOf_setF (s : State) (f : Fld) (v i : Nat) (n : Nat) : runOf (setF s f v i) n = runOf s n := by
  rw [runOf, setF, putWord, runOf]
@[simp] theorem runOf_addF (s : State) (f : Fld) (v i : Nat) (n : Nat) : runOf (addF s f v i) n = runOf s n := by
  rw [runOf, addF, setF, putWord, runOf]
@[simp] theorem runOf_setF64 (s : State) (f : Fld) (v i : Nat) (n : Nat) : runOf (setF64 s f v i) n = runOf s n := by
  rw [runOf, setF64, putWord, putWord, runOf]
@[simp] theorem runOf_addF64 (s : State) (f : Fld) (v i : Nat) (n : Nat) : runOf (addF64 s f v i) n = runOf s n := by
  rw [runOf, addF64, setF64, putWord, putWord, runOf]
@[simp] theorem runOf_putCore (s : State) (m : Nat) (k : Core) (n : Nat) : runOf (putCore s m k) n = runOf s n := by
  rw [runOf, putCore, runOf]

@[simp] theorem ctxOf_putCtx_self (s : State) (n : Nat) (c : Context) : ctxOf (putCtx s n c) n = c := by rw [putCtx]; exact mget_mset_self ..
theorem ctxOf_putCtx_ne (s : State) {n m : Nat} (c : Context) (h : m ≠ n) : ctxOf (putCtx s n c) m = ctxOf s m := by
  rw [putCtx]; exact mget_mset_ne _ _ h
@[simp] theorem ctxOf_updCtx_self (s : State) (n : Nat) (f : Context → Context) : ctxOf (updCtx s n f) n = f (ctxOf s n) := by
  rw [updCtx, ctxOf_putCtx_self]
theorem ctxOf_updCtx_ne (s : State) {n m : Nat} (f : Context → Context) (h : m ≠ n) : ctxOf (updCtx s n f) m = ctxOf s m := by
  rw [updCtx, ctxOf_putCtx_ne _ _ h]
@[simp] theorem partOf_putPart_self (s : State) (n : Nat) (c : Partition) : partOf (putPart s n c) n = c := by
  rw [putPart]; exact mget_mset_self ..
theorem partOf_putPart_ne (s : State) {n m : Nat} (c : Partition) (h : m ≠ n) : partOf (putPart s n c) m = partOf s m := by
  rw [putPart]; exact mget_mset_ne _ _ h
@[simp] theorem partOf_updPart_self (s : State) (n : Nat) (f : Partition → Partition) : partOf (updPart s n f) n = f (partOf s n) := by
  rw [updPart, partOf_putPart_self]
theorem partOf_updPart_ne (s : State) {n m : Nat} (f : Partition → Partition) (h : m ≠ n) : partOf (updPart s n f) m = partOf s m := by
  rw [updPart, partOf_putPart_ne _ _ h]
@[simp] theorem jobOf_putJob_self (s : State) (j : Nat) (x : Job) : jobOf (putJob s j x) j = some x := by
  rw [jobOf, putJob]; exact mfind_mput_self ..
theorem jobOf_putJob_ne (s : State) {j i : Nat} (x : Job) (h : i ≠ j) : jobOf (putJob s j x) i = jobOf s i := by
  rw [jobOf, putJob]; exact mfind_mput_ne _ _ h
theorem jobOf_updJob_self (s : State) (j : Nat) (f : Job → Job) : jobOf (updJob s j f) j = (jobOf s j).map f := by
  rw [jobOf, updJob]; exact mfind_mupd_self ..
theorem jobOf_updJob_ne (s : State) {j i : Nat} (f : Job → Job) (h : i ≠ j) : jobOf (updJob s j f) i = jobOf s i := by
  rw [jobOf, updJob]; exact mfind_mupd_ne _ _ h
theorem jobOf_finishJob_self (s : State) (j : Nat) (c : Code) (x : Job) (h : jobOf s j = some x) (hs : x.status ≠ .done) :
    jobOf (finishJob s j c) j = some { x with status := .done, code := c } := by
  rw [finishJob, jobOf_updJob_self, h, Option.map_some, if_neg hs]
theorem jobOf_finishJob_ne (s : State) {j i : Nat} (c : Code) (h : i ≠ j) : jobOf (finishJob s j c) i = jobOf s i := by
  rw [finishJob, jobOf_updJob_ne _ _ h]
theorem jobOf_awaitJob_self (s : State) (j : Nat) (x : Job) (h : jobOf s j = some x) (hs : x.status ≠ .done) :
    jobOf (awaitJob s j) j = some { x with status := .waiting } := by
  rw [awaitJob, jobOf_updJob_self, h, Option.map_some, if_neg hs]
theorem jobOf_awaitJob_ne (s : State) {j i : Nat} (h : i ≠ j) : jobOf (awaitJob s j) i = jobOf s i := by
  rw [awaitJob, jobOf_updJob_ne _ _ h]
@[simp] theorem fenceOf_putFence_self (s : State) (i : Nat) (f : Fence) : fenceOf (putFence s i f) i = f := by
  rw [putFence]; exact mget_mset_self ..
theorem fenceOf_putFence_ne (s : State) {i k : Nat} (f : Fence) (h : k ≠ i) : fenceOf (putFence s i f) k = fenceOf s k := by
  rw [putFence]; exact mget_mset_ne _ _ h
@[simp] theorem objOf_putObj_self (s : State) (i : Nat) (o : Obj) : objOf (putObj s i o) i = o := by rw [putObj]; exact mget_mset_self ..
theorem objOf_putObj_ne (s : State) {i k : Nat} (o : Obj) (h : k ≠ i) : objOf (putObj s i o) k = objOf s k := by
  rw [putObj]; exact mget_mset_ne _ _ h
@[simp] theorem objOf_updObj_self (s : State) (i : Nat) (f : Obj → Obj) : objOf (updObj s i f) i = f (objOf s i) := by
  rw [updObj, objOf_putObj_self]
theorem objOf_updObj_ne (s : State) {i k : Nat} (f : Obj → Obj) (h : k ≠ i) : objOf (updObj s i f) k = objOf s k := by
  rw [updObj, objOf_putObj_ne _ _ h]
@[simp] theorem coreOf_putCore_self (s : State) (c : Nat) (k : Core) : coreOf (putCore s c k) c = k := by rw [putCore]; exact mget_mset_self ..
theorem coreOf_putCore_ne (s : State) {c d : Nat} (k : Core) (h : d ≠ c) : coreOf (putCore s c k) d = coreOf s d := by
  rw [putCore]; exact mget_mset_ne _ _ h
@[simp] theorem runOf_putRun_self (s : State) (p : Nat) (r : StepRun) : runOf (putRun s p r) p = some r := by
  rw [runOf, putRun]; exact mfind_mput_self ..
theorem runOf_putRun_ne (s : State) {p q : Nat} (r : StepRun) (h : q ≠ p) : runOf (putRun s p r) q = runOf s q := by
  rw [runOf, putRun]; exact mfind_mput_ne _ _ h

/-- The execution row of a dispatched command has the command's effect. -/
theorem runJob_at {s : State} {j op : Nat} {x : Job} (f : Job → State → State) (h : dispatchedAs s j op x) :
    runJob s j op f = .next (f x (begun s)) := by
  obtain ⟨h1, h2, h3, h4⟩ := h
  rw [runJob, h1]; exact if_pos ⟨h2, h3, h4⟩

theorem doneWith_finishJob (s : State) (j : Nat) (x : Job) (c : Code) (h : jobOf s j = some x) (hs : x.status ≠ .done) :
    doneWith (finishJob s j c) j c := ⟨_, jobOf_finishJob_self s j c x h hs, rfl, rfl⟩

/-- The references that a command takes or drops touch nothing but the objects. -/
theorem updObj_shape (s : State) (i : Nat) (f : Obj → Obj) : ∃ o m, updObj s i f = { s with front.objs := o, mem.hbm := m } :=
  ⟨_, _, by rw [updObj, putObj]⟩
theorem takeRefs_shape (s : State) (l : List Nat) : ∃ o m, takeRefs s l = { s with front.objs := o, mem.hbm := m } := by
  induction l generalizing s with
  | nil => exact ⟨s.front.objs, s.mem.hbm, rfl⟩
  | cons i l ih =>
    obtain ⟨o, m, h⟩ := updObj_shape s i (fun o => { o with refs := o.refs + 1 })
    obtain ⟨o', m', h'⟩ := ih (updObj s i (fun o => { o with refs := o.refs + 1 }))
    refine ⟨o', m', ?_⟩
    change takeRefs (updObj s i (fun o => { o with refs := o.refs + 1 })) l = _
    rw [h', h]

end Sys2Proof.Machine
end

