-- ==== Sys2Proof/Laws/Core.lean ====
section
/-! SUPPORT. Core instructions: what issuing, going on, the drain, the vector unit, moves and streams leave unchanged. -/

namespace Sys2Proof.Machine

theorem exists_next {r : Res} {t : State} {P : State → Prop} (h : r = .next t) (hp : P t) : ∃ t, r = .next t ∧ P t := ⟨t, h, hp⟩

theorem iter_inv {σ : Type} (P : σ → Prop) (n : Nat) (f : Nat → σ → σ) (s : σ) (h0 : P s) (h : ∀ i s, P s → P (f i s)) : P (iter n f s) := by
  unfold iter
  generalize List.range n = l
  induction l generalizing s with
  | nil => exact h0
  | cons a r ih => exact ih _ (h a s h0)

theorem each_inv {σ β : Type} (P : σ → Prop) (l : List β) (f : β → σ → σ) (s : σ) (h0 : P s) (h : ∀ i s, P s → P (f i s)) : P (each l f s) := by
  unfold each
  induction l generalizing s with
  | nil => exact h0
  | cons a r ih => exact ih _ (h a s h0)

theorem winOf_putCore (s : State) (c : Nat) (k : Core) (h : k.part = (coreOf s c).part) :
    winOf (putCore s c k) c = winOf s c := by
  simp only [winOf, coreOf_putCore_self, putCore_steps, putCore_front, h]

theorem wordAt_putCore (s : State) (c pc : Nat) (k : Core) (hp : k.part = (coreOf s c).part) (hg : k.prog = (coreOf s c).prog) :
    wordAt (putCore s c k) c pc = wordAt s c pc := by
  simp only [wordAt, winOf_putCore s c k hp, coreOf_putCore_self, hg]

theorem mput_mput_self {α} (m : SMap α) (k : Nat) (x y : α) : mput (mput m k x) k y = mput m k y := by
  induction m with
  | nil => simp [mput]
  | cons e r ih =>
    obtain ⟨j, z⟩ := e
    simp only [mput]
    split
    · simp [mput]
    · split
      · simp [mput]
      · rename_i h1 h2
        simp [mput, h1, h2, ih]

/-- going on at a legal place after putting a core with the same program memory -/
theorem goTo_putCore (s : State) (c pc : Nat) (k : Core) (hp : k.part = (coreOf s c).part) (hg : k.prog = (coreOf s c).prog)
    (hl : legalAt s c pc) : goTo (putCore s c k) c pc = putCore (putCore s c k) c { k with pc := pc % 16384, waitAt := none } := by
  unfold goTo
  simp only [coreOf_putCore_self]
  have hw : wordAt (putCore (putCore s c k) c { k with pc := pc % 16384, waitAt := none }) c (pc % 16384) = wordAt s c (pc % 16384) := by
    rw [wordAt_putCore _ _ _ _ (by simp) (by simp), wordAt_putCore _ _ _ _ hp hg]
  rw [hw]
  unfold legalAt at hl
  cases h : decodeCore c (wordAt s c (pc % 16384)) with
  | none => simp [h] at hl
  | some i => rfl

theorem ne_default_of_task {k : Core} (h : k.task.isSome = true) : k ≠ default := by
  intro e; rw [e] at h; simp [default] at h; exact absurd h (by decide)

theorem putCore_putCore (s : State) (c : Nat) (k k' : Core) (h : k.task.isSome = true) (h' : k'.task.isSome = true) :
    putCore (putCore s c k) c k' = putCore s c k' := by
  simp only [putCore, mset, msetD, if_neg (ne_default_of_task h), if_neg (ne_default_of_task h'), mput_mput_self]

theorem goTo_goneOn (s : State) (c pc : Nat) (k : Core) (hp : k.part = (coreOf s c).part) (hg : k.prog = (coreOf s c).prog)
    (ht : k.task.isSome = true) (hl : legalAt s c pc) : goTo (putCore s c k) c pc = goneOn s c k (pc % 16384) := by
  rw [goTo_putCore s c pc k hp hg hl, goneOn, putCore_putCore _ _ _ _ ht (by simpa using ht)]

theorem goTo_self (s : State) (c pc : Nat) (hl : legalAt s c pc) : goTo s c pc = goneOn s c (coreOf s c) (pc % 16384) := by
  unfold goTo goneOn
  have hw : wordAt (putCore s c { coreOf s c with pc := pc % 16384, waitAt := none }) c (pc % 16384) = wordAt s c (pc % 16384) := by
    rw [wordAt_putCore _ _ _ _ (by simp) (by simp)]
  simp only [hw]
  unfold legalAt at hl
  cases h : decodeCore c (wordAt s c (pc % 16384)) with
  | none => simp [h] at hl
  | some i => rfl

theorem legalAt_mod (s : State) (c pc : Nat) : legalAt s c (pc % 16384) ↔ legalAt s c pc := by
  unfold legalAt; rw [Nat.mod_mod]

theorem issue_at (s : State) (c : Nat) (i : Instr) (dw : Bool) (reads : List Nat) (eff : State → State)
    (h : atCommand s c i) : issue i c dw reads s eff = .next (eff s) := by
  obtain ⟨hc, ht, hd, hti, hg⟩ := h
  have h1 : atInstr s c i = true := by simp [atInstr, ht, hd]
  have h2 : issueHeld s c dw reads = false := by simp [issueHeld, hti, hg]
  unfold issue
  rw [if_neg (by omega), h1, h2]; rfl

theorem updCoreNext_goneOn (s : State) (c : Nat) (f : Core → Core) (hp : (f (coreOf s c)).part = (coreOf s c).part)
    (hg : (f (coreOf s c)).prog = (coreOf s c).prog) (hpc : (f (coreOf s c)).pc = (coreOf s c).pc)
    (ht : (f (coreOf s c)).task.isSome = true) (hl : legalAt s c (nextPc s c)) :
    updCoreNext s c f = goneOn s c (f (coreOf s c)) (nextPc s c) := by
  unfold updCoreNext advance
  simp only [coreOf_putCore_self, hpc]
  rw [goTo_goneOn s c _ _ hp hg ht ((legalAt_mod _ _ _).1 hl)]; rfl

theorem advance_goneOn (s : State) (c : Nat) (hl : legalAt s c (nextPc s c)) :
    advance s c = goneOn s c (coreOf s c) (nextPc s c) := by
  unfold advance
  rw [goTo_self s c _ ((legalAt_mod _ _ _).1 hl)]; rfl

@[simp] theorem setG_part (k d v) : (setG k d v).part = k.part := by unfold setG; split <;> rfl

@[simp] theorem setG_prog (k d v) : (setG k d v).prog = k.prog := by unfold setG; split <;> rfl

@[simp] theorem setG_pc (k d v) : (setG k d v).pc = k.pc := by unfold setG; split <;> rfl

@[simp] theorem setG_task (k d v) : (setG k d v).task = k.task := by unfold setG; split <;> rfl

theorem gReg_setG_self (k : Core) (d : Nat) (v) (h : d ≠ 0) : gReg (setG k d v) d = v := by
  unfold gReg setG; simp [h]

theorem gReg_setG_ne (k : Core) (d r : Nat) (v) (h : r ≠ d) : gReg (setG k d v) r = gReg k r := by
  unfold gReg setG; split
  · rfl
  · split
    · rfl
    · simp [mget_mset_ne _ _ h]

theorem telemAdd_time (s i n) : (telemAdd s i n).time = s.time := rfl

theorem telemAdd_freeCount (s i n) : (telemAdd s i n).freeCount = s.freeCount := rfl

theorem countGated_frame (s : State) : { countGated s with health := s.health } = s := by
  unfold countGated
  simp only
  split <;> split <;> rfl

theorem countGated_time (s : State) : (countGated s).time = s.time := by
  have := congrArg State.time (countGated_frame s); simpa using this

theorem countGated_free (s : State) : (countGated s).freeCount = s.freeCount := by
  have := congrArg State.freeCount (countGated_frame s); simpa using this

theorem runOf_updRun_self (s : State) (p : Nat) (f : StepRun → StepRun) : runOf (updRun s p f) p = (runOf s p).map f := by
  simp [runOf, updRun, mfind_mupd_self]

/-- R117: loading a tile's weights changes the weight planes alone. -/
theorem loadWeights_frame (k : Core) (w : Win) (f : TileFields) :
    { loadWeights k w f with planeA := k.planeA, shadowA := k.shadowA, planeB := k.planeB, shadowB := k.shadowB } = k := by
  unfold loadWeights
  have h : ∀ (l : List Nat) (x : Core),
      { x with planeA := k.planeA, shadowA := k.shadowA, planeB := k.planeB, shadowB := k.shadowB } = k →
      { l.foldl (fun k' x => swapPlanes (loadShadow k' x (tileCells k' w f.fmtW (tileWUnit f (gReg k' f.ab).toNat x))) x) x with
        planeA := k.planeA, shadowA := k.shadowA, planeB := k.planeB, shadowB := k.shadowB } = k := by
    intro l
    induction l with
    | nil => exact fun x h => h
    | cons a l ih =>
      intro x hx
      refine ih _ ?_
      by_cases e : a = 0 <;> simp only [swapPlanes, loadShadow, e, if_true, if_false] <;> exact hx
  exact h _ k rfl

theorem runOf_telemAdd (s : State) (i n p) : runOf (telemAdd s i n) p = runOf s p := rfl

@[simp] theorem coreOf_telemAdd (s : State) (i n c) : coreOf (telemAdd s i n) c = coreOf s c := rfl

@[simp] theorem coreOf_updRun (s : State) (p f c) : coreOf (updRun s p f) c = coreOf s c := by simp [coreOf]

theorem leaveCore_run (s : State) (p c : Nat) (st : TaskState) (saved) (r : StepRun) (i : Nat) (t : Task)
    (hr : runOf s p = some r) (hi : (coreOf s c).task = some i) (hf : r.tasks.find? (fun t => t.index == i) = some t) :
    runOf (leaveCore s p c st saved) p = some { r with engine := r.engine + (now s - t.placedAt), tasks := r.tasks.map (fun t => if t.index = i then { t with state := st, saved := saved } else t) } := by
  unfold leaveCore
  simp only [hi, chargeTask, hr, hf, runOf_updRun_self, runOf_putCore, runOf_telemAdd, Option.map_some]

theorem leaveCore_core (s : State) (p c : Nat) (st : TaskState) (saved) (r : StepRun) (i : Nat) (t : Task)
    (hr : runOf s p = some r) (hi : (coreOf s c).task = some i) (hf : r.tasks.find? (fun t => t.index == i) = some t) :
    coreOf (leaveCore s p c st saved) c = { coreOf s c with task := none, sel := none, gWait := [], allocs := 0, waitAt := none } ∧ 
    ∀ d, d ≠ c → coreOf (leaveCore s p c st saved) d = coreOf s d := by
  unfold leaveCore
  simp only [hi, chargeTask, hr, hf, coreOf_updRun, coreOf_telemAdd, coreOf_putCore_self, true_and]
  intro d hd
  rw [coreOf_putCore_ne _ _ hd, coreOf_telemAdd, coreOf_updRun]

theorem placeTasks_none (s : State) (p : Nat) (r : StepRun) (hr : runOf s p = some r)
    (h : r.tasks.find? (fun t => t.state == .waiting) = none) : placeTasks s p = s := by
  unfold placeTasks
  rw [hr]
  cases hn : r.tasks.length with
  | zero => simp [placeGo, hn]
  | succ n => simp [placeGo, hn, hr, h]

theorem stepProgress_not (s : State) (p : Nat) (r : StepRun) (hr : runOf s p = some r)
    (h : r.tasks.all (fun t => t.state == .halted) = false) : stepProgress s p = s := by
  unfold stepProgress
  simp [hr, h]

/-- the parts of a core that a drain leaves alone -/
def drainFrame (k k' : Core) : Prop :=
  k'.tiles = k.tiles ∧ k'.pc = k.pc ∧ k'.g = k.g ∧ k'.prog = k.prog ∧ k'.weight = k.weight

theorem drainFrame.refl (k) : drainFrame k k := ⟨rfl, rfl, rfl, rfl, rfl⟩

theorem drainFrame.trans {a b c} (h : drainFrame a b) (g : drainFrame b c) : drainFrame a c :=
  ⟨g.1.trans h.1, g.2.1.trans h.2.1, g.2.2.1.trans h.2.2.1, g.2.2.2.1.trans h.2.2.2.1, g.2.2.2.2.trans h.2.2.2.2⟩

theorem coreWr_act_acc (k w a b) : (coreWr k w 0 a b).acc = k.acc := rfl

theorem drainFrame_coreWr (k w a b) : drainFrame k (coreWr k w 0 a b) := ⟨rfl, rfl, rfl, rfl, rfl⟩

theorem drainFrame_coreWrN (k w a bs) : drainFrame k (coreWrN k w 0 a bs) ∧ (coreWrN k w 0 a bs).acc = k.acc := by
  induction bs generalizing k a with
  | nil => exact ⟨.refl _, rfl⟩
  | cons b r ih => exact ⟨(drainFrame_coreWr k w a b).trans (ih _ _).1, (ih _ _).2⟩

theorem drainFrame_setStat (k i x) : drainFrame k (setStat k i x) ∧ (setStat k i x).acc = k.acc := ⟨⟨rfl, rfl, rfl, rfl, rfl⟩, rfl⟩

theorem drainFrame_measure (k int x n v) : drainFrame k (measure k int x n v) ∧ (measure k int x n v).acc = k.acc := by
  unfold measure
  simp only
  repeat' split
  all_goals exact ⟨⟨rfl, rfl, rfl, rfl, rfl⟩, rfl⟩

theorem drainFrame_flagSat (k x b) : drainFrame k (flagSat k x b) ∧ (flagSat k x b).acc = k.acc := by
  unfold flagSat; split <;> exact ⟨⟨rfl, rfl, rfl, rfl, rfl⟩, rfl⟩

theorem drainFrame_writeOut (k w t x m n c) : drainFrame k (writeOut k w t x m n c) ∧ (writeOut k w t x m n c).acc = k.acc := by
  unfold writeOut
  split
  · exact drainFrame_coreWrN ..
  · exact drainFrame_coreWrN ..
  · exact ⟨drainFrame_coreWr .., rfl⟩
  · exact drainFrame_coreWrN ..
  · exact ⟨drainFrame_coreWr .., rfl⟩

theorem drainFrame_drainAcc (t addr v k) : drainFrame k (drainAcc t addr v k) := by
  unfold drainAcc; split <;> exact ⟨rfl, rfl, rfl, rfl, rfl⟩

theorem drainFrame_drainOut (w t x m n c k) : drainFrame k (drainOut w t x m n c k) ∧ (drainOut w t x m n c k).acc = k.acc := by
  unfold drainOut; split
  · exact drainFrame_writeOut ..
  · exact ⟨.refl _, rfl⟩

theorem drainFrame_drainSelect (t x m n v k) : drainFrame k (drainSelect t x m n v k) ∧ (drainSelect t x m n v k).acc = k.acc := by
  unfold drainSelect; split <;> exact ⟨⟨rfl, rfl, rfl, rfl, rfl⟩, rfl⟩

theorem drainOne_acc (w t x m n d) : (drainOne w t x m n d).core.acc = (drainAcc t (drainAddr w t x m n) (drainValue w t x m n d.core).1 d.core).acc := by
  unfold drainOne
  simp only
  rw [(drainFrame_drainSelect ..).2, (drainFrame_flagSat ..).2, (drainFrame_flagSat ..).2, (drainFrame_drainOut ..).2, (drainFrame_measure ..).2]

theorem drainOne_frame (w t x m n d) : drainFrame d.core (drainOne w t x m n d).core := by
  unfold drainOne
  exact ((((((drainFrame_drainAcc ..).trans (drainFrame_measure ..).1).trans (drainFrame_drainOut ..).1).trans
    (drainFrame_flagSat ..).1).trans (drainFrame_flagSat ..).1).trans (drainFrame_drainSelect ..).1)

theorem drainPad_frame (w t k) : drainFrame k (drainPad w t k) := by
  unfold drainPad
  simp only
  split
  · refine each_inv (drainFrame k) _ _ _ (.refl _) (fun x k' h => ?_)
    refine iter_inv (drainFrame k) _ _ _ h (fun x k' h => ?_)
    exact iter_inv (drainFrame k) _ _ _ h (fun x k' h => h.trans (drainFrame_writeOut ..).1)
  · exact .refl _

theorem drainTile_frame (w t k) : drainFrame k (drainTile w t k).core := by
  unfold drainTile
  have hc : drainFrame k (clearStats t k) := by
    unfold clearStats; split
    · refine each_inv (drainFrame k) _ _ _ (.refl _) (fun x k' h => ?_)
      exact iter_inv (drainFrame k) _ _ _ h (fun i k'' h => h.trans (drainFrame_setStat ..).1)
    · exact .refl _
  simp only
  split
  · unfold drainMasks
    refine each_inv (drainFrame k) _ _ _ hc (fun x k' h => ?_)
    exact iter_inv (drainFrame k) _ _ _ h (fun i k'' h => h.trans (drainFrame_coreWrN ..).1)
  · have h1 := (hc.trans (drainFrame_flagSat (clearStats t k) 0 (decide (0 < t.satA))).1).trans (drainFrame_flagSat _ 1 (decide (0 < t.satB))).1
    have h2 : ∀ d : Drain, drainFrame k d.core → drainFrame k (each (tileArrays t.fields) (fun x d => iter t.rows (fun m d =>
      iter (tileN t.fields) (fun n d => drainOne w t x m n d) d) d) d).core := by
      intro d hd
      refine each_inv (fun d : Drain => drainFrame k d.core) _ _ _ hd (fun x d h => ?_)
      refine iter_inv (fun d : Drain => drainFrame k d.core) _ _ _ h (fun x d h => ?_)
      exact iter_inv (fun d : Drain => drainFrame k d.core) _ _ _ h (fun x d h => h.trans (drainOne_frame ..))
    refine (h2 { core := _, sats := t.satA + t.satB, nan := false } h1).trans ?_
    exact drainPad_frame ..

theorem rdLE_wrLE32 (m a) (v : BitVec 32) : rdLE (wrLE m a 4 v.toNat) a 4 = v.toNat := by
  rw [rdLE_wrLE]; have := v.isLt; omega

theorem rd8_wrLE_outside (m a n v x) (h : x < a ∨ a + n ≤ x) : rd8 (wrLE m a n v) x = rd8 m x := by
  unfold wrLE; exact rd8_wrBytes_outside _ _ _ _ (by simpa using h)

theorem exec_tileCmd (mode c dw f s) : exec (tileCmd mode c dw f .good) s = tileExec (tileCmd mode c dw f .good) mode c dw f .good s := by
  cases mode <;> rfl

theorem putWord_frame (s off rst w) : { putWord s off rst w with regs := s.regs } = s := rfl

theorem addF64_frame (s : State) (f n i) : { addF64 s f n i with regs := s.regs } = s := rfl

theorem legalAt_congr {s s' : State} {c pc : Nat} (h1 : s'.cores = s.cores) (h2 : s'.steps = s.steps) (h3 : s'.front = s.front) : legalAt s' c pc ↔ legalAt s c pc := by
  simp only [legalAt, wordAt, winOf, coreOf, h1, h2, h3]

theorem legalAt_putCore (s : State) (c pc : Nat) (k : Core) (hp : k.part = (coreOf s c).part) (hg : k.prog = (coreOf s c).prog) :
    legalAt (putCore s c k) c pc ↔ legalAt s c pc := by
  simp only [legalAt, wordAt_putCore s c _ k hp hg]

/-- what a store to the activation buffer leaves alone -/
def coreKeep (k k' : Core) : Prop := k'.part = k.part ∧ k'.prog = k.prog ∧ k'.pc = k.pc ∧ k'.task = k.task

theorem coreKeep.refl (k) : coreKeep k k := ⟨rfl, rfl, rfl, rfl⟩

theorem coreKeep.trans {a b c} (h : coreKeep a b) (g : coreKeep b c) : coreKeep a c :=
  ⟨g.1.trans h.1, g.2.1.trans h.2.1, g.2.2.1.trans h.2.2.1, g.2.2.2.trans h.2.2.2⟩

theorem coreKeep_coreWrN (k w a bs) : coreKeep k (coreWrN k w 0 a bs) := by
  induction bs generalizing k a with
  | nil => exact .refl _
  | cons b r ih => exact coreKeep.trans ⟨rfl, rfl, rfl, rfl⟩ (ih (coreWr k w 0 a b) (a + 1))

theorem goneOn_frame (s c k pc) : { goneOn s c k pc with cores := s.cores } = s := rfl

theorem goneOn_core (s c k pc) : coreOf (goneOn s c k pc) c = { k with pc := pc, waitAt := none } := by simp [goneOn]

theorem goneOn_ne (s c d k pc) (h : d ≠ c) : coreOf (goneOn s c k pc) d = coreOf s d := by
  simp [goneOn, coreOf_putCore_ne _ _ h]

theorem foldl_mput_find (g : Nat → BitVec 32) (base : Nat) (l : List Nat) (m : SMap (BitVec 32)) (i : Nat) :
    mfind (l.foldl (fun m l => mput m (base + l) (g l)) m) (base + i) = if i ∈ l then some (g i) else mfind m (base + i) := by
  induction l generalizing m with
  | nil => simp
  | cons a r ih =>
    rw [List.foldl_cons, ih]
    by_cases h : i ∈ r
    · simp [h]
    · by_cases h2 : i = a
      · subst h2; simp [h]
      · simp [h, h2, mfind_mput_ne m (g a) (show base + i ≠ base + a by omega)]

theorem foldl_mput_out (g : Nat → BitVec 32) (base : Nat) (l : List Nat) (m : SMap (BitVec 32)) (x : Nat) (h : ∀ i ∈ l, x ≠ base + i) :
    mfind (l.foldl (fun m l => mput m (base + l) (g l)) m) x = mfind m x := by
  induction l generalizing m with
  | nil => rfl
  | cons a r ih =>
    rw [List.foldl_cons, ih _ (fun i hi => h i (by simp [hi])), mfind_mput_ne m _ (h a (by simp))]

theorem vLane_setLanes_self (k : Core) (r : Nat) (g : Nat → BitVec 32) (l : Nat) (h : l < 128) : vLane (setLanes k r g) r l = g l := by
  have := foldl_mput_find g (128 * r) (List.range 128) k.v l
  simp only [vLane, setLanes, this, List.mem_range, h, if_true, Option.getD_some]

theorem vLane_setLanes_ne (k : Core) (r q : Nat) (g : Nat → BitVec 32) (l : Nat) (h : l < 128) (hq : q ≠ r) : vLane (setLanes k r g) q l = vLane k q l := by
  have := foldl_mput_out g (128 * r) (List.range 128) k.v (128 * q + l) (fun i hi => by rw [List.mem_range] at hi; omega)
  simp only [vLane, setLanes, this]

@[simp] theorem setLanes_part (k : Core) (r g) : (setLanes k r g).part = k.part := by rw [setLanes]

@[simp] theorem setLanes_prog (k : Core) (r g) : (setLanes k r g).prog = k.prog := by rw [setLanes]

@[simp] theorem setLanes_pc (k : Core) (r g) : (setLanes k r g).pc = k.pc := by rw [setLanes]

@[simp] theorem setLanes_task (k : Core) (r g) : (setLanes k r g).task = k.task := by rw [setLanes]

theorem setLanes_frame (k : Core) (r g) : { setLanes k r g with v := k.v } = k := by rw [setLanes]

theorem wroteLanes_goneOn (s : State) (c r : Nat) (g : Nat → BitVec 32) (k : Core)
    (h1 : ∀ l, l < 128 → vLane k r l = g l) (h2 : ∀ q l, q ≠ r → l < 128 → vLane k q l = vLane (coreOf s c) q l)
    (h3 : { k with v := (coreOf s c).v, pc := (coreOf s c).pc, waitAt := (coreOf s c).waitAt } = coreOf s c) : wroteLanes s c r g (goneOn s c k (nextPc s c)) := by
  refine ⟨by rw [goneOn_core], fun l h => ?_, fun q l hq h => ?_, ?_, fun d hd => goneOn_ne _ _ _ _ _ hd, rfl⟩
  · rw [goneOn_core]; exact h1 l h
  · rw [goneOn_core]; exact h2 q l hq h
  · rw [goneOn_core]; exact h3

theorem wroteLanes_updCoreNext (s : State) (c r : Nat) (g : Nat → BitVec 32) (hl : legalAt s c (nextPc s c)) (ht : (coreOf s c).task.isSome = true) :
    wroteLanes s c r g (updCoreNext s c (fun k => setLanes k r g)) := by
  rw [updCoreNext_goneOn s c _ (setLanes_part ..) (setLanes_prog ..) (setLanes_pc ..) (by rw [setLanes_task]; exact ht) hl]
  exact wroteLanes_goneOn s c r g (setLanes (coreOf s c) r g) (fun l h => vLane_setLanes_self _ _ _ _ h)
    (fun q l hq h => vLane_setLanes_ne _ _ _ _ _ h hq) (by rw [setLanes])

theorem vecExec_done (i : Instr) (s : State) (c r : Nat) (dw : Bool) (F : Core → Core) (g : Nat → BitVec 32) (h : atCommand s c i)
    (hl : legalAt s c (nextPc s c)) (hF : F (coreOf s c) = setLanes (coreOf s c) r g) :
    ∃ s', vecExec i c dw s F = .next s' ∧ wroteLanes s c r g s' := by
  refine ⟨updCoreNext s c (fun k => setLanes k r g), ?_, wroteLanes_updCoreNext s c r g hl h.2.1⟩
  unfold vecExec
  rw [issue_at _ _ _ _ _ _ h]
  unfold updCoreNext
  rw [hF]

theorem iter_inv_lt {σ : Type} (P : σ → Prop) (n : Nat) (f : Nat → σ → σ) (s : σ) (h0 : P s) (h : ∀ i s, i < n → P s → P (f i s)) : P (iter n f s) := by
  unfold iter
  have : ∀ l : List Nat, (∀ i ∈ l, i < n) → ∀ s, P s → P (l.foldl (fun s i => f i s) s) := by
    intro l
    induction l with
    | nil => exact fun _ s h => h
    | cons a r ih => exact fun hl s hs => ih (fun i hi => hl i (by simp [hi])) _ (h a s (hl a (by simp)) hs)
  exact this _ (fun i hi => List.mem_range.1 hi) s h0

theorem coreWr_act (k w a b x) (h : x ≠ winAct w a) : rd8 (coreWr k w 0 a b).act x = rd8 k.act x := rd8_wr8_ne _ _ h

theorem coreWrN_act (k w a bs x) (h : ∀ i, i < List.length bs → x ≠ winAct w (a + i)) : rd8 (coreWrN k w 0 a bs).act x = rd8 k.act x := by
  induction bs generalizing k a with
  | nil => rfl
  | cons b r ih =>
    show rd8 (coreWrN (coreWr k w 0 a b) w 0 (a + 1) r).act x = _
    rw [ih _ _ (fun i hi => by have := h (i + 1) (by simp; omega); rwa [show a + (i + 1) = a + 1 + i by omega] at this), coreWr_act _ _ _ _ _ (by simpa using h 0 (by simp))]

theorem coreWrN_only (k w a bs x) : { coreWrN k w 0 a bs with act := x } = { k with act := x } := by
  induction bs generalizing k a with
  | nil => rfl
  | cons b r ih => exact ih (coreWr k w 0 a b) (a + 1)

/-- k' differs from k in the activation buffer alone, and there only at places that satisfy p -/
def onlyAct (k k' : Core) (p : Nat → Prop) : Prop := { k' with act := k.act } = k ∧ ∀ a, ¬ p a → rd8 k'.act a = rd8 k.act a

theorem onlyAct_keep {k k' p} (h : onlyAct k k' p) : coreKeep k k' := by
  have := h.1
  refine ⟨?_, ?_, ?_, ?_⟩
  · rw [← this]
  · rw [← this]
  · rw [← this]
  · rw [← this]

theorem onlyAct_wrN {k k' p} (h : onlyAct k k' p) (w a bs) (hp : ∀ i, i < List.length bs → p (winAct w (a + i))) : onlyAct k (coreWrN k' w 0 a bs) p := by
  refine ⟨(coreWrN_only k' w a bs k.act).trans h.1, fun x hx => ?_⟩
  rw [coreWrN_act, h.2 x hx]
  intro i hi e
  exact hx (e ▸ hp i hi)

theorem onlyAct_wr {k k' p} (h : onlyAct k k' p) (w a b) (hp : p (winAct w a)) : onlyAct k (coreWr k' w 0 a b) p :=
  onlyAct_wrN h w a [b] (fun i hi => by simp at hi; subst hi; exact hp)

theorem onlyAct_putLane {k k' p} (h : onlyAct k k' p) (w f base l code) (hp : ∀ j, j < 4 → p (winAct w (vecLaneAddr base f l + j))) :
    onlyAct k (putLane k' w f base l code) p := by
  unfold putLane
  simp only
  split
  · exact onlyAct_wrN h _ _ _ (fun i hi => hp i (by simpa using hi))
  · exact onlyAct_wrN h _ _ _ (fun i hi => hp i (by simp at hi; omega))
  · exact onlyAct_wr h _ _ _ (hp 0 (by omega))
  · exact onlyAct_wr h _ _ _ (hp 0 (by omega))

theorem foldl_acc (g : Nat → Nat) (base : Nat) (l : List Nat) (m : List Host.Cell) (a : Nat) (h : ∀ i ∈ l, a < base + 4 * i ∨ base + 4 * i + 4 ≤ a) :
    rd8 (l.foldl (fun m l => wrLE m (base + 4 * l) 4 (g l)) m) a = rd8 m a := by
  induction l generalizing m with
  | nil => rfl
  | cons x r ih =>
    rw [List.foldl_cons, ih _ (fun i hi => h i (by simp [hi])), wrLE, rd8_wrBytes_outside]
    simpa using h x (by simp)

theorem rdLE_congr (m m' a n) (h : ∀ i, i < n → rd8 m (a + i) = rd8 m' (a + i)) : rdLE m a n = rdLE m' a n := by
  unfold rdLE rdBytes
  congr 1
  apply List.map_congr_left
  intro i hi
  exact h i (List.mem_range.1 hi)

theorem range_foldl_acc (g : Nat → BitVec 32) (base n l : Nat) (m : List Host.Cell) (h : l < n) :
    rdLE ((List.range n).foldl (fun m l => wrLE m (base + 4 * l) 4 (g l).toNat) m) (base + 4 * l) 4 = (g l).toNat := by
  induction n with
  | zero => omega
  | succ n ih =>
    rw [List.range_succ, List.foldl_append, List.foldl_cons, List.foldl_nil]
    by_cases e : l = n
    · subst e; rw [rdLE_wrLE]; have := (g l).isLt; omega
    · rw [rdLE_congr _ ((List.range n).foldl (fun m l => wrLE m (base + 4 * l) 4 (g l).toNat) m), ih (by omega)]
      intro i hi
      rw [wrLE, rd8_wrBytes_outside]; simp; omega

/-- k' differs from k in the memory of a space alone -/
def onlySpace (sp : Nat) (k k' : Core) : Prop :=
  { k' with act := k.act, acc := k.acc, weight := k.weight, prog := k.prog } = k ∧ (sp ≠ 0 → k'.act = k.act) ∧ (sp ≠ 1 → k'.acc = k.acc) ∧
  (sp ≠ 2 → k'.weight = k.weight) ∧ (sp ≠ 3 → k'.prog = k.prog)

theorem onlySpace_wr {sp k k'} (h : onlySpace sp k k') (w a b) : onlySpace sp k (coreWr k' w sp a b) := by
  obtain ⟨h0, h1, h2, h3, h4⟩ := h
  match sp with
  | 0 => exact ⟨h0, fun h => absurd rfl h, h2, h3, h4⟩
  | 1 => exact ⟨h0, h1, fun h => absurd rfl h, h3, h4⟩
  | 2 => exact ⟨h0, h1, h2, fun h => absurd rfl h, h4⟩
  | 3 => exact ⟨h0, h1, h2, h3, fun h => absurd rfl h⟩
  | n + 4 => exact ⟨h0, h1, h2, h3, h4⟩

theorem onlySpace_move (w f k) : onlySpace f.dstSpace k (moveBytes w f k) := by
  unfold moveBytes
  simp only
  generalize List.map _ _ = data
  have : ∀ (l : List Byte) (p : Core × Nat) (g : Nat → Nat), onlySpace f.dstSpace k p.1 → onlySpace f.dstSpace k (l.foldl (fun (p : Core × Nat) b => (coreWr p.1 w f.dstSpace (g p.2) b, p.2 + 1)) p).1 := by
    intro l
    induction l with
    | nil => exact fun _ _ h => h
    | cons x r ih => exact fun p g h => ih _ g (onlySpace_wr h w _ x)
  exact this data (k, 0) (fun n => (f.dstAddr + bits (gReg k f.ab).toNat 22 22 + n) % (if f.dstSpace = 1 then 1048576 else if f.dstSpace = 2 then 4194304 else if f.dstSpace = 3 then 262144 else 2097152)) ⟨rfl, fun _ => rfl, fun _ => rfl, fun _ => rfl, fun _ => rfl⟩

theorem updStream_run (s : State) (p n : Nat) (g : StreamRun → StreamRun) (r : StepRun) (h : runOf s p = some r) :
    runOf (updStream s p n g) p = some { r with streams := r.streams.map (fun t => if t.number = n then g t else t) } := by
  unfold updStream
  simp [runOf, updRun, mfind_mupd_self]
  simp [runOf] at h
  simp [h]

theorem updStream_frame (s p n g) : { updStream s p n g with steps.running := s.steps.running } = s := rfl

@[simp] theorem updStream_cores (s p n g) : (updStream s p n g).cores = s.cores := rfl

@[simp] theorem updStream_front (s p n g) : (updStream s p n g).front = s.front := rfl

theorem coreOf_updStream (s : State) (p n g c) : coreOf (updStream s p n g) c = coreOf s c := rfl

theorem mfind_updStream_ctx (s : State) (p n : Nat) (g) (q : Nat) :
    (mfind (updStream s p n g).steps.running q).map (·.ctx) = (mfind s.steps.running q).map (·.ctx) := by
  show (mfind (mupd s.steps.running p _) q).map _ = _
  by_cases h : q = p
  · subst h; rw [mfind_mupd_self]; cases mfind s.steps.running q <;> rfl
  · rw [mfind_mupd_ne _ _ h]

theorem winOf_eq (s : State) (c : Nat) : winOf s c = match (mfind s.steps.running (coreOf s c).part).map (·.ctx) with
  | none => ⟨0, 16⟩ | some n => ⟨(mget s.front.ctxs n).sramBase, (mget s.front.ctxs n).sramCount⟩ := by
  unfold winOf; cases mfind s.steps.running (coreOf s c).part <;> rfl

theorem legalAt_of {s s' : State} {c pc : Nat} (_h1 : (coreOf s' c).part = (coreOf s c).part) (h2 : (coreOf s' c).prog = (coreOf s c).prog) (hw : winOf s' c = winOf s c) :
    legalAt s' c pc ↔ legalAt s c pc := by
  simp only [legalAt, wordAt, h2, hw]

theorem legalAt_updStream (s : State) (p n g c pc) : legalAt (updStream s p n g) c pc ↔ legalAt s c pc := by
  refine legalAt_of rfl rfl ?_
  rw [winOf_eq, winOf_eq, coreOf_updStream, mfind_updStream_ctx]; rfl

end Sys2Proof.Machine
end

