-- ==== Sys2Proof/Laws/Front.lean ====
section
/-! SUPPORT. The front end: the slab unit, fences, commands, transfers, groups and binds. -/

namespace Sys2Proof.Machine

theorem queueSlab_cores (s : State) (q) : (queueSlab s q).cores = s.cores := by rw [queueSlab, setF_cores]

theorem queueSlab_mem (s : State) (q) : (queueSlab s q).mem = s.mem := by rw [queueSlab, setF_mem]

theorem queueSlab_steps (s : State) (q) : (queueSlab s q).steps = s.steps := by rw [queueSlab, setF_steps]

theorem queueSlab_slab (s : State) (q) : (queueSlab s q).front.slab = insertSlab { q with came := now s } s.front.slab := by rw [queueSlab, setF_front]

theorem queueSlab_ctxs (s : State) (q) : (queueSlab s q).front.ctxs = s.front.ctxs := by rw [queueSlab, setF_front]

theorem queueSlab_core (s : State) (q c) : coreOf (queueSlab s q) c = coreOf s c := by rw [coreOf, queueSlab_cores]; rfl

theorem queueSlab_win (s : State) (q c) : winOf (queueSlab s q) c = winOf s c := by
  rw [winOf_eq, winOf_eq, queueSlab_core, queueSlab_steps, queueSlab_ctxs]

theorem queueSlab_legal (s : State) (q c pc) : legalAt (queueSlab s q) c pc ↔ legalAt s c pc :=
  legalAt_of (by rw [queueSlab_core]) (by rw [queueSlab_core]) (queueSlab_win s q c)

theorem slabReturn_frame (s : State) (q v b) : { slabReturn s q v b with cores := s.cores } = s := by
  unfold slabReturn; split <;> rfl

theorem slabReturn_mem (s : State) (q v b) : (slabReturn s q v b).mem = s.mem := by
  have := congrArg State.mem (slabReturn_frame s q v b); exact this

theorem slabReturn_front (s : State) (q v b) : (slabReturn s q v b).front = s.front := by
  have := congrArg State.front (slabReturn_frame s q v b); exact this

@[simp] theorem failFlag_allocs (k) : (failFlag k).allocs = k.allocs := rfl

@[simp] theorem setG_allocs (k d v) : (setG k d v).allocs = k.allocs := by unfold setG; split <;> rfl

theorem slabReturn_core (s : State) (q : SlabReq) (v) (h : q.core < 64) : coreOf (slabReturn s q v false) q.core =
    (if q.isAlloc then setG { coreOf s q.core with allocs := (coreOf s q.core).allocs - 1, gWait := (coreOf s q.core).gWait.erase q.dest } q.dest v
     else { coreOf s q.core with allocs := (coreOf s q.core).allocs - 1, gWait := (coreOf s q.core).gWait }) := by
  unfold slabReturn; rw [if_pos h]
  simp only [coreOf_putCore_self]
  cases q.isAlloc <;> rfl

theorem slabReturn_fail (s : State) (q : SlabReq) (v) (h : q.core < 64) (ha : q.isAlloc = true) : coreOf (slabReturn s q v true) q.core =
    failFlag (setG { coreOf s q.core with allocs := (coreOf s q.core).allocs - 1, gWait := (coreOf s q.core).gWait.erase q.dest } q.dest v) := by
  unfold slabReturn; rw [if_pos h]
  simp only [coreOf_putCore_self, ha]
  rfl

theorem ctxOf_congr {s s' : State} (h : s'.front = s.front) (n) : ctxOf s' n = ctxOf s n := by unfold ctxOf; rw [h]

theorem coreOf_congr {s s' : State} (h : s'.cores = s.cores) (n) : coreOf s' n = coreOf s n := by unfold coreOf; rw [h]

theorem fenceOf_goneOn (s c k pc i) : fenceOf (goneOn s c k pc) i = fenceOf s i := rfl

theorem putFence_ctxs (s : State) (i f) : (putFence s i f).front.ctxs = s.front.ctxs := by rw [putFence]

theorem putFence_legal (s : State) (i f c pc) : legalAt (putFence s i f) c pc ↔ legalAt s c pc :=
  legalAt_of (by rw [coreOf_congr (putFence_cores ..)]) (by rw [coreOf_congr (putFence_cores ..)])
    (by rw [winOf_eq, winOf_eq, coreOf_congr (putFence_cores ..), putFence_steps, putFence_ctxs])

theorem jobOf_congr {s t : State} (h : t.front.jobs = s.front.jobs) (j) : jobOf t j = jobOf s j := by rw [jobOf, h, jobOf]

theorem each_nil {α β} (f : α → β → β) (s : β) : each [] f s = s := rfl

theorem admHead_cons (s : State) (d) (h : s.front.admFetched = [d]) (hd : d.headAt = none) :
    admHead s = { s with front.admFetched := [{ d with headAt := some (now s), headCode := headCheck s none d }] } := by
  rw [admHead]; simp only [h, hd]; rfl

theorem retire_adm (s : State) (n : Nat) (x : Job) (hc : x.code = 0) (ha : x.admin = true) (hp : x.parent = none) (hr : x.refs = [])
    (he : x.copyEngine = none) (hs : dSignalEn x.desc = false) (hi : dIrq x.desc = false) (ho : dOpcode x.desc = 0x80)
    (hv : x.servedAt = none) :
    retire s n x = (let t := writeAdmEntry s (entryBytes { x with endAt := s.time.tick } (getF s qfAdmqHead) (phaseBit s.front.admCqWraps) 0) false
      { t with front.jobs := mdel t.front.jobs n }) := by
  have h4 : ¬ (dOpcode x.desc = 4 ∧ (0 : Code) = 0) := by rw [ho]; decide
  have hz : ((false || (0 : Code) != 0) = false) := by decide
  unfold retire
  simp only [hp, ha, he, hs, hi, hc, settleFence, hz, Bool.false_eq_true, if_false, if_true,
    dropRefs, hr, hv, each, List.foldl_nil, accountJob, Bool.true_or, now, ite_self]

theorem doneWith_finish (s : State) (j : Nat) (x : Job) (c : Code) (h : jobOf s j = some x) (hs : x.status ≠ .done) :
    doneWith (finishJob s j c) j c := by
  refine ⟨{ x with status := .done, code := c }, ?_, rfl, rfl⟩
  rw [finishJob, updJob]
  change mfind (mupd s.front.jobs j _) j = _
  rw [mfind_mupd_self]
  rw [jobOf] at h
  rw [h, Option.map_some, if_neg hs]

theorem putTables_shape (l : List (Nat × Table)) (s : State) : ∃ e m, each l (fun e s => putTable s e.1 e.2) s = { s with emb.tables := e, mem.hbm := m } := by
  induction l generalizing s with
  | nil => exact ⟨s.emb.tables, s.mem.hbm, rfl⟩
  | cons a l ih =>
    obtain ⟨e', m', h'⟩ := ih (putTable s a.1 a.2)
    refine ⟨e', m', ?_⟩
    change each l (fun e s => putTable s e.1 e.2) (putTable s a.1 a.2) = _
    rw [h', putTable]

theorem putGroup_shape (s : State) (g : Nat) (x : EpochGroup) :
    ∃ e m, putGroup s g x = { s with upd.groups := mset s.upd.groups g x, emb.tables := e, mem.hbm := m } := by
  obtain ⟨e, m, h⟩ := putTables_shape (({ s with upd.groups := mset s.upd.groups g x } : State).emb.tables.filter (fun e => tdGroup e.2.desc == g)) { s with upd.groups := mset s.upd.groups g x }
  exact ⟨e, m, by rw [putGroup]; exact h⟩

theorem updGroup_groups (s : State) (g : Nat) (f) : (updGroup s g f).upd.groups = mset s.upd.groups g (f (groupOf s g)) := by
  obtain ⟨e, m, h⟩ := putGroup_shape s g (f (groupOf s g))
  rw [updGroup, h]

theorem updGroup_front (s : State) (g : Nat) (f) : (updGroup s g f).front = s.front := by
  obtain ⟨e, m, h⟩ := putGroup_shape s g (f (groupOf s g))
  rw [updGroup, h]

theorem bindTable_ok (u : State) (j n tid : Nat) (d : List Byte) (l : List PmapEntry) (i : Nat)
    (hc : bindCode u n tid { desc := d, ctx := n, part := (ctxOf u n).partition, obj := hIndex (tdHandle d), bindJob := some j } = 0)
    (hw : walkPages u n (objPages (objOf u (hIndex (tdHandle d)))) = (0, l)) (hp : pmapRoom u l.length = some i) :
    bindTable u j n tid d = boundary (placeBind u j tid i { desc := d, ctx := n, part := (ctxOf u n).partition, obj := hIndex (tdHandle d), bindJob := some j } l)
      (ctxOf u n).partition := by
  rw [bindTable]
  refine (if_neg (fun hn => hn hc)).trans ?_
  simp only [hw, hp]
  rw [if_neg (fun hn => hn rfl)]

theorem pickEngine_one (s : State) (j : Nat) (x : Job) (h : s.front.jobs = [(j, x)]) (hs : x.status = .dispatched) : pickEngine s = 0 := by
  have hl : ∀ e, (s.front.jobs.filter (fun y => onEngine e y.2)).length = 0 := by
    intro e
    have : onEngine e x = false := by rw [onEngine, hs]; simp
    rw [h]; simp [this]
  rw [pickEngine]
  simp only [hl, Nat.lt_irrefl, if_false]
  decide

theorem serveEngine_one (s : State) (j e : Nat) (x : Job) (h : s.front.jobs = [(j, x)]) (he : onEngine e x = true) (ha : attached s j = false) :
    runEngine s e = attemptCopy s j e x := by
  rw [runEngine, h]
  change serveEngine 1 s e = _
  unfold serveEngine
  rw [h]
  simp only [List.find?_cons, he, ha, Bool.false_eq_true, if_false]
  split
  · split
    · rfl
    · rfl
  · rfl

theorem mupd_single {α} (j : Nat) (x : α) (f : α → α) : mupd [(j, x)] j f = [(j, f x)] := by
  simp [mupd, mfind, mput]

theorem startCopy_one (s : State) (j : Nat) (x : Job) (h : s.front.jobs = [(j, x)]) (hs : x.status = .dispatched) (ha : attached s j = false) :
    startCopy s j = attemptCopy { s with front.jobs := [(j, { x with status := .waiting, copyEngine := some 0 })] } j 0
      { x with status := .waiting, copyEngine := some 0 } := by
  rw [startCopy, pickEngine_one s j x h hs]
  have e : updJob (awaitJob s j) j (fun x => { x with copyEngine := some 0 }) =
      { s with front.jobs := [(j, { x with status := .waiting, copyEngine := some 0 })] } := by
    rw [awaitJob, updJob, updJob, h]
    rw [mupd_single, mupd_single, if_neg (by rw [hs]; decide)]
  simp only [e]
  exact serveEngine_one _ j 0 _ rfl rfl ha

theorem attemptCopy_go (s : State) (j e : Nat) (x : Job) (l : List Span) (h : copySpans s x = (0, l))
    (hl : l.findSome? (fun p => (p.bad (takeTransfer s j) (engCopy e) x.ctx).map (fun b => (p, b))) = none) :
    attemptCopy s j e x = copyEffect (takeTransfer s j) j e x l := by
  rw [attemptCopy, h]
  simp only [ne_eq, not_true_eq_false, if_false]
  rw [hl]

theorem foldl_mput_in {α} (l : List Nat) (m : SMap α) (v : α) (i : Nat) (h : i ∈ l ∨ mfind m i = some v) :
    mfind (l.foldl (fun m i => mput m i v) m) i = some v := by
  induction l generalizing m with
  | nil => rcases h with h | h; cases h; exact h
  | cons a l ih =>
    refine ih _ ?_
    rcases h with h | h
    · rcases List.mem_cons.1 h with rfl | h
      · exact .inr (mfind_mput_self ..)
      · exact .inl h
    · by_cases e : i = a
      · subst e; exact .inr (mfind_mput_self ..)
      · exact .inr (by rw [mfind_mput_ne _ _ e]; exact h)

theorem foldl_mput_notin {α} (l : List Nat) (m : SMap α) (v : α) (i : Nat) (h : i ∉ l) :
    mfind (l.foldl (fun m i => mput m i v) m) i = mfind m i := by
  induction l generalizing m with
  | nil => rfl
  | cons a l ih =>
    rw [List.mem_cons, not_or] at h
    change mfind (l.foldl (fun m i => mput m i v) (mput m a v)) i = _
    rw [ih _ h.2, mfind_mput_ne _ _ h.1]

theorem range_filter_beq : ∀ a, a < 64 → (List.range 64).filter (fun p => a == p) = [a] := by decide

end Sys2Proof.Machine
end

