-- ==== Sys2Proof/Laws/Block.lean ====
section
/-! SUPPORT. The rest of the block: lookups, links, control messages, time, start, mailboxes, translation, health and the sideband. -/

namespace Sys2Proof.Machine

theorem each_updPart_frame (l : List Nat) (f : Partition → Partition) (v : State) : (each l (fun p s => updPart s p f) v).mem = v.mem ∧
    (each l (fun p s => updPart s p f) v).emb = v.emb ∧ (each l (fun p s => updPart s p f) v).regs = v.regs :=
  each_inv (fun u : State => u.mem = v.mem ∧ u.emb = v.emb ∧ u.regs = v.regs) l _ v ⟨rfl, rfl, rfl⟩
      (fun i u hu => by rw [updPart_mem, updPart_emb, updPart_regs]; exact hu)

theorem mfind_halved (m : SMap Nat) (h : rising m = true) (k : Nat) :
    (mfind ((m.map (fun e => (e.1, e.2 / 2))).filter (fun e => e.2 != 0)) k).getD 0 = (mfind m k).getD 0 / 2 := by
  induction m with
  | nil => simp [mfind]
  | cons e r ih =>
    obtain ⟨j, x⟩ := e
    have hr : risingFrom j r = true := h
    have hk : ∀ (m : SMap Nat) (lo k : Nat), risingFrom lo m = true → k ≤ lo → mfind m k = none := by
      intro m
      induction m with
      | nil => intros; rfl
      | cons e r ih =>
        intro lo k h hl
        simp only [risingFrom, Bool.and_eq_true, decide_eq_true_eq] at h
        rw [mfind, if_neg (by omega)]
        exact ih e.1 k h.2 (by omega)
    have hf : ∀ (m : SMap Nat) (lo : Nat), risingFrom lo m = true → risingFrom lo ((m.map (fun e => (e.1, e.2 / 2))).filter (fun e => e.2 != 0)) = true := by
      intro m lo hm
      apply risingFrom_filter
      induction m generalizing lo with
      | nil => rfl
      | cons e r ih =>
        simp only [risingFrom, Bool.and_eq_true, decide_eq_true_eq] at hm
        simp only [List.map_cons, risingFrom, Bool.and_eq_true, decide_eq_true_eq]
        exact ⟨hm.1, ih _ hm.2⟩
    rw [List.map_cons, List.filter_cons]
    by_cases e : j = k
    · subst e
      rw [mfind, if_pos rfl]
      by_cases hx : x / 2 = 0
      · rw [if_neg (by simp [hx]), hk _ j j (hf r j hr) (Nat.le_refl _)]
        simp [hx]
      · rw [if_pos (by simpa using hx), mfind, if_pos rfl]; rfl
    · rw [mfind, if_neg e]
      by_cases hx : x / 2 = 0
      · rw [if_neg (by simp [hx])]; exact ih (rising_of_risingFrom hr)
      · rw [if_pos (by simpa using hx), mfind, if_neg e]; exact ih (rising_of_risingFrom hr)

theorem portOf_updPort_self (s : State) (q : Nat) (f : Port → Port) : portOf (updPort s q f) q = f (portOf s q) := by
  rw [portOf, updPort, portOf, mmod, mget_mset_self]

theorem portOf_updPort_ne (s : State) {q k : Nat} (f : Port → Port) (h : k ≠ q) : portOf (updPort s q f) k = portOf s k := by
  rw [portOf, updPort, portOf, mmod, mget_mset_ne _ _ h]

theorem portOf_countFec (s : State) (q : Nat) (fec : RxMark) (g : Bool) (k : Nat) : portOf (countFec s q fec g) k = portOf s k := by
  rw [countFec]
  split <;> split <;> simp [portOf, telemAdd, addF]

/-- R230: counting symbols and words changes the port's counters and the telemetry alone. -/
theorem countFec_frame (s : State) (q : Nat) (fec : RxMark) (g : Bool) :
    { countFec s q fec g with regs := s.regs, health := s.health } = s := by
  rw [countFec]
  simp only []
  split <;> split <;> simp [telemAdd, addF, setF, putWord]

theorem bePacketArrive_next (s : State) (x : BePacket) (hk : x.kind ≤ 5) (h1 : x.seq = mget s.links.flowRx (flowKey x.src x.kind x.flow)) (h2 : s.links.flowHeld = []) :
    bePacketArrive s x = beDeliver { s with links.flowRx := mset s.links.flowRx (flowKey x.src x.kind x.flow) ((x.seq + 1) % 2 ^ 32) } x := by
  rw [bePacketArrive, if_neg (by omega), h2, h1]
  have e : (mget s.links.flowRx (flowKey x.src x.kind x.flow) + 2 ^ 32 - mget s.links.flowRx (flowKey x.src x.kind x.flow)) % 2 ^ 32 = 0 := by
    rw [Nat.add_sub_cancel_left, Nat.mod_self]
  simp only [e]
  rw [if_neg (by simp)]
  simp only [List.length_nil, List.nil_append, flowTake, List.find?_cons]
  simp only [h1, beq_self_eq_true, Bool.and_self, List.erase_cons_head]
  rw [h2]

theorem bePacketArrive_copy (s : State) (x : BePacket) (hk : x.kind ≤ 5) (h : 2 ^ 31 ≤ (x.seq + 2 ^ 32 - mget s.links.flowRx (flowKey x.src x.kind x.flow)) % 2 ^ 32) :
    bePacketArrive s x = s := by
  rw [bePacketArrive, if_neg (by omega)]
  exact if_pos (by rw [decide_eq_true h]; rfl)

theorem ctlFirst_seen (s : State) (q : Nat) (m : CtlMsg) (e : CtlMsg → State → State) (h : domainMember s = false ∨ ctlSeen s m = true) :
    ctlFirst q m e s = s := by
  rw [ctlFirst, if_neg]
  rcases h with h | h <;> rw [h] <;> simp

theorem ctlFirst_new (s : State) (q : Nat) (m : CtlMsg) (e : CtlMsg → State → State) (h1 : domainMember s = true) (h2 : ctlSeen s m = false)
    (h3 : ctlDest m = none ∨ ctlDest m = some s.start.record.coord) : ctlFirst q m e s = e m (ctlForward s q m) := by
  rw [ctlFirst, if_pos (by rw [h1, h2]; rfl)]
  rcases h3 with h3 | h3 <;> simp only [h3]
  have : (ctlForward s q m).start = s.start := by rw [ctlForward]; split <;> rfl
  rw [this, if_pos rfl]

theorem ctlFirst_there (s : State) (q : Nat) (m : CtlMsg) (e : CtlMsg → State → State) (x : Coord) (h1 : domainMember s = true)
    (h2 : ctlSeen s m = false) (h3 : ctlDest m = some x) (hx : x ≠ s.start.record.coord) : ctlFirst q m e s = ctlForward s q m := by
  rw [ctlFirst, if_pos (by rw [h1, h2]; rfl)]
  have : (ctlForward s q m).start = s.start := by rw [ctlForward]; split <;> rfl
  simp only [h3, this, if_neg hx]

/-- What a good control flit of the wanted type does. -/
theorem ctlFlitIn_read (s : State) (q : Nat) (fec : RxMark) (bs : List Byte) (want : Nat) (e : CtlMsg → State → State) (m : CtlMsg)
    (hq : q < 60) (hu : (portOf s q).up = true) (hg : flitGood fec bs = true) (hk : bits (fieldAt bs 0 4) 0 2 = 2)
    (hm : ctlRead bs = some m) (ht : m.type = want) : ctlFlitIn q fec bs want e s = .next (e m (countFec s q fec true)) := by
  rw [ctlFlitIn, if_neg (by omega), if_neg (by simp [hu])]
  simp only [hg, hk, hm, ht, if_true]
  rfl

/-- What a flit that fails, is no control flit, or is of a reserved type or form does. -/
theorem ctlFlitIn_lost (s : State) (q : Nat) (fec : RxMark) (bs : List Byte) (want : Nat) (e : CtlMsg → State → State)
    (hq : q < 60) (hu : (portOf s q).up = true) (hg : flitGood fec bs = false ∨ bits (fieldAt bs 0 4) 0 2 ≠ 2) :
    ctlFlitIn q fec bs want e s = .next (countFec s q fec (flitGood fec bs)) := by
  rw [ctlFlitIn, if_neg (by omega), if_neg (by simp [hu])]
  simp only
  rw [if_pos hg]

theorem ctlFlitIn_bad (s : State) (q : Nat) (fec : RxMark) (bs : List Byte) (want : Nat) (e : CtlMsg → State → State)
    (hq : q < 60) (hu : (portOf s q).up = true) (hg : flitGood fec bs = true) (hk : bits (fieldAt bs 0 4) 0 2 = 2) (hm : ctlRead bs = none) :
    ctlFlitIn q fec bs want e s = .next (addF (countFec s q fec true) lkBeDrop) := by
  rw [ctlFlitIn, if_neg (by omega), if_neg (by simp [hu])]
  simp only [hg, hk, hm]
  rfl

theorem ctlSend_regs (s : State) (t g a b c q : Nat) : (ctlSend s t g a b c q).regs = s.regs := by
  rw [ctlSend]; split <;> rfl

theorem ctlSend_time (s : State) (t g a b c q : Nat) : (ctlSend s t g a b c q).time = { s.time with ctlOut := (ctlSend s t g a b c q).time.ctlOut, nextSeq := (ctlSend s t g a b c q).time.nextSeq } := by
  rw [ctlSend]; split <;> rfl

theorem getF64_setF64_self (s : State) (f : Fld) (v i : Nat) : getF64 (setF64 s f v i) f i = v % 2 ^ 64 := by
  rw [getF64, setF64, wordD_putWord_self, wordD_putWord_ne _ _ _ _ (by omega), wordD_putWord_self, BitVec.toNat_ofNat, BitVec.toNat_ofNat]
  omega

theorem mget_foldl_mset {α : Type} [DecidableEq α] [Inhabited α] (g : Nat → α) (l : List Nat) (m : SMap α) (k : Nat) :
    mget (l.foldl (fun m i => mset m i (g i)) m) k = if k ∈ l then g k else mget m k := by
  induction l generalizing m with
  | nil => simp
  | cons a r ih =>
    rw [List.foldl_cons, ih]
    by_cases h : k ∈ r
    · simp [h]
    · by_cases e : k = a
      · subst e; simp [h, mget_mset_self]
      · simp [h, e, mget_mset_ne _ _ e]

theorem each_putWord_mem (l : SMap W32) (s : State) : (each l (fun e s => putWord s (0x800100 + 4 * e.1) 0 e.2) s).mem = s.mem :=
  each_inv (fun u => u.mem = s.mem) l (fun e s => putWord s (0x800100 + 4 * e.1) 0 e.2) s rfl (fun _ _ h => h)

theorem each_putWord_start (l : SMap W32) (s : State) : (each l (fun e s => putWord s (0x800100 + 4 * e.1) 0 e.2) s).start = s.start :=
  each_inv (fun u => u.start = s.start) l (fun e s => putWord s (0x800100 + 4 * e.1) 0 e.2) s rfl (fun _ _ h => h)

theorem bcState_setF_ccRunning (u : State) (f : Fld) (v : Nat) (h : f.off = 0x1400004) : getF (setF u f v) bcState = getF u bcState :=
  getF_setF_ne u f bcState v 0 0 (by simp [Fld.at, h, bcState])

theorem getF_cpStart (u : State) (n : Nat) : getF (cpStart u n) bcState = getF u bcState := by
  rw [cpStart]
  exact (getF_congr (s := setF (setF u ccHold (setBits (getF u ccHold) n 1 0)) ccRunning
    (setBits (getF u ccRunning) n 1 1)) (by dsimp only) _ _).trans
    ((bcState_setF_ccRunning _ ccRunning _ rfl).trans (bcState_setF_ccRunning _ ccHold _ rfl))

theorem cpStart_running (u : State) : bit (getF (cpStart u 0) ccRunning) 0 = true := by
  have e : getF (cpStart u 0) ccRunning = setBits (getF u ccRunning) 0 1 1 % 2 ^ 4 := by
    rw [cpStart]
    exact (getF_congr (s := setF (setF u ccHold (setBits (getF u ccHold) 0 1 0)) ccRunning (setBits (getF u ccRunning) 0 1 1)) (by dsimp only) _ _).trans
      (getF_setF_self _ ccRunning _ 0 (by decide))
  rw [e, setBits, bits, bit, beq_iff_eq]
  omega

theorem portOf_measurePort (s : State) (q f : Nat) (d : List Nat) (c : Coord) (k : Nat) : (portOf (measurePort s q f d c k) q).flight = f % 256 ∧
    ((portOf (measurePort s q f d c k) q).overBudget = true ↔ 14 < f) ∧ (portOf (measurePort s q f d c k) q).peer = some (c, k) := by
  have e : portOf (measurePort s q f d c k) q = { portOf s q with flight := f % 256, overBudget := decide (14 < f), overOffset := false, peer := some (c, k) } := by
    rw [measurePort, portOf]
    exact portOf_updPort_self s q _
  rw [e]
  exact ⟨rfl, decide_eq_true_iff, rfl⟩

theorem bcState_enterGreen (s : State) : getF (enterGreen s) bcState = 11 := by
  rw [enterGreen]
  simp only []
  generalize capRewrite (defaultPartitions (loadBulk s)) = u
  have e := getF_setF_ne (setF u bcState 11) bcGreenMs bcState ((now u - u.start.startTick) / 700000) 0 0 (by decide)
  exact (getF_congr (s := setF (setF u bcState 11) bcGreenMs ((now u - u.start.startTick) / 700000)) (by dsimp only) _ _).trans
    (e.trans (getF_setF_self _ _ _ _ (by decide)))

theorem capBusy_enterGreen (s : State) : (enterGreen s).front.capBusy = true := by
  rw [enterGreen]
  simp only []
  generalize defaultPartitions (loadBulk s) = u
  have : (capRewrite u).front.capBusy = true := by
    rw [capRewrite]
    cases h : u.front.capBusy <;> simp
    split <;> simp_all
  exact this

theorem limitPassed_links (s : State) (h : getF s bcState = 8) : limitPassed s = enterSync s := by
  rw [limitPassed, h]; rfl

theorem limitPassed_load (s : State) (h : getF s bcState = 10) : limitPassed s = awaitImage s 0x090A := by
  rw [limitPassed, h]; rfl

theorem limitPassed_green (s : State) (h : 11 ≤ getF s bcState) : limitPassed s = s := by
  rw [limitPassed]
  split <;> first | (rename_i e; rw [e] at h; exact absurd h (by decide)) | rfl

theorem mboxOf_putMbox_self (s : State) (m : Nat) (b : Mailbox) : mboxOf (putMbox s m b) m = b := by
  rw [mboxOf, putMbox, mget_mset_self]

theorem mboxOf_putMbox_ne (s : State) {m k : Nat} (b : Mailbox) (h : k ≠ m) : mboxOf (putMbox s m b) k = mboxOf s k := by
  rw [mboxOf, putMbox, mget_mset_ne _ _ h, mboxOf]

theorem requestVector_ctrl (s : State) (v : Nat) : (requestVector s v).ctrl = s.ctrl := by
  rw [requestVector]
  simp only []
  repeat' split
  all_goals rfl

theorem mboxOf_congr {s t : State} (h : t.ctrl.mailboxes = s.ctrl.mailboxes) (m : Nat) : mboxOf t m = mboxOf s m := by
  rw [mboxOf, h, mboxOf]

theorem mbInterrupt_boxes (s : State) (m : Nat) : (mbInterrupt s m).ctrl.mailboxes = s.ctrl.mailboxes := by
  rw [mbInterrupt]
  split
  · rw [requestVector_ctrl]
  · rfl

theorem mboxOf_mbRing (s : State) (m : Nat) : mboxOf (mbRing s m) m = { mboxOf s m with pending := true, done := false, code := 0 } := by
  rw [mbRing]
  simp only []
  split
  · exact mboxOf_putMbox_self _ _ _
  · exact (mboxOf_congr (mbInterrupt_boxes _ _) _).trans (mboxOf_putMbox_self _ _ _)

theorem mboxOf_mbAck (s : State) (m : Nat) (c : Code) (h : (mboxOf s m).pending = true) :
    mboxOf (mbAck s m c) m = { mboxOf s m with pending := false, done := true, code := c } := by
  rw [mbAck, if_pos h]
  simp only []
  split
  · refine (mboxOf_congr (congrArg (·.mailboxes) (requestVector_ctrl _ _)) _).trans (mboxOf_putMbox_self _ _ _)
  · exact mboxOf_putMbox_self _ _ _

theorem mbReply_boxes (s : State) (w v k : Nat) : mboxOf (mbReply s w v) k = mboxOf s k := by
  rw [mbReply]; split <;> rfl

theorem mbAccess_on (s : State) (m : Nat) (w : Bool) (f : State → State) (hm : m < 64) (h : s.ctrl.powered = true) : mbAccess s m w f = .next (f s) := by
  rw [mbAccess, if_neg (Nat.not_le.2 hm), if_pos h]

theorem mbAccess_off (s : State) (m : Nat) (w : Bool) (f : State → State) (hm : m < 64) (h : s.ctrl.powered = false) :
    mbAccess s m w f = .next (unpowered s (0x1401000 + 32 * m) w) := by
  rw [mbAccess, if_neg (Nat.not_le.2 hm), if_neg (by rw [h]; decide)]

theorem serveMsg_none (m k : Nat) (s : State) (f : MboxMsg → State → State) (hm : m < 64) (h : mboxMsg s m = none) : serveMsg m k s f = .next s := by
  rw [serveMsg, if_neg (Nat.not_le.2 hm), h]

theorem serveMsg_some (m k : Nat) (s : State) (f : MboxMsg → State → State) (x : MboxMsg) (hm : m < 64) (h : mboxMsg s m = some x) (hk : x.command = k) :
    serveMsg m k s f = .next (f x s) := by
  rw [serveMsg, if_neg (Nat.not_le.2 hm), h]
  exact congrArg _ (if_pos hk)

theorem entryOf_covers (pasid va : Nat) (x : Xl) : (entryOf pasid va x).covers pasid va = true := by
  rw [entryOf, TlbEntry.covers]; simp

theorem tlbHit_utlbPut (s : State) (eng pasid va : Nat) (e : TlbEntry) (h : e.covers pasid va = true) : tlbHit (utlbPut s eng e) eng pasid va = some e := by
  have e1 : mget (utlbPut s eng e).trans.utlb eng = e :: ((mget s.trans.utlb eng).erase e).take 31 := by
    rw [utlbPut]
    simp only [mget_mset_self, mru]
    rfl
  rw [tlbHit, e1, List.find?_cons, h]

theorem requestVector_regs (s : State) (v : Nat) : (requestVector s v).regs = s.regs ∧ (requestVector s v).trans = s.trans ∧ (requestVector s v).mem = s.mem := by
  rw [requestVector]
  simp only []
  repeat' split
  all_goals exact ⟨rfl, rfl, rfl⟩

theorem cachePut_frame (s : State) (l : List WalkCacheEntry) : (cachePut s l).mem = s.mem ∧ (cachePut s l).cores = s.cores := ⟨rfl, rfl⟩

theorem pasidPut_frame (s : State) (p : Nat) : (pasidPut s p).mem = s.mem ∧ (pasidPut s p).cores = s.cores := by
  rw [pasidPut]; split <;> exact ⟨rfl, rfl⟩

theorem installWalk_frame (s : State) (eng p va : Nat) (x : Xl) : (installWalk s eng p va x).mem = s.mem ∧ (installWalk s eng p va x).cores = s.cores := by
  rw [installWalk]
  simp only [utlbPut, l2Put]
  exact pasidPut_frame _ _

theorem markPages_nil (s : State) : markPages s [] = s := rfl

theorem invPages_nil (s : State) (c : InvCmd) (h : s.emb.pmap = []) : invPages s c = [] := by rw [invPages, h]; rfl

theorem filter_all_gone (l : SMap (List TlbEntry)) (f : TlbEntry → Bool) (h : ∀ e, f e = false) :
    (l.map (fun e => (e.1, e.2.filter f))).filter (fun e => !e.2.isEmpty) = [] := by
  have hf : ∀ l : List TlbEntry, l.filter f = [] := fun l => List.filter_eq_nil_iff.2 (fun x _ => by rw [h x]; decide)
  rw [List.filter_eq_nil_iff]
  intro x hx
  obtain ⟨y, _, rfl⟩ := List.mem_map.1 hx
  rw [hf]; simp

theorem invBegin_all (s : State) (c : InvCmd) (l : List InvCmd) (hq : s.trans.invQ = c :: l) (hc : c.scope = 0) (hp : s.emb.pmap = []) :
    (invBegin s).trans.utlb = [] ∧ (invBegin s).trans.l2 = [] ∧ (invBegin s).trans.atc = [] ∧ (invBegin s).trans.wcache = [] ∧
    (invBegin s).trans.invSeq = s.trans.invSeq ∧ (invBegin s).mem = s.mem := by
  have h0 : ∀ e, (!c.hitsTlb s e) = false := by intro e; rw [InvCmd.hitsTlb, InvCmd.hits, hc]; rfl
  have h1 : ∀ e, (!c.hitsWalk e) = false := by intro e; rw [InvCmd.hitsWalk, hc]; rfl
  rw [invBegin, hq]
  simp only [invPages_nil s c hp, markPages_nil]
  refine ⟨filter_all_gone _ _ h0, filter_all_gone _ _ h0, ?_, ?_, ?_, ?_⟩
  · exact List.filter_eq_nil_iff.2 (fun x _ => by rw [h0 x]; decide)
  · exact List.filter_eq_nil_iff.2 (fun x _ => by rw [h1 x]; decide)
  · trivial
  · trivial

theorem getF_lt (s : State) (f : Fld) (i : Nat) : getF s f i < 2 ^ f.width := Nat.mod_lt _ (Nat.two_pow_pos _)

theorem getF_halves (s : State) (f : Fld) (hs : 0 < f.stride) (hw : f.lo + f.width ≤ 32) (n i : Nat) :
    getF (iter n (fun i s => setF s f (getF s f i / 2) i) s) f i = if i < n then getF s f i / 2 else getF s f i := by
  induction n with
  | zero => simp [iter]
  | succ n ih =>
    have e : iter (n + 1) (fun i s => setF s f (getF s f i / 2) i) s =
        setF (iter n (fun i s => setF s f (getF s f i / 2) i) s) f (getF (iter n (fun i s => setF s f (getF s f i / 2) i) s) f n / 2) n := by
      rw [iter, List.range_succ, List.foldl_append]; rfl
    rw [e]
    by_cases h : i = n
    · subst h
      have h0 : getF (iter i (fun i s => setF s f (getF s f i / 2) i) s) f i = getF s f i := by
        have h1 : ∀ (m : Nat), m ≤ i → getF (iter m (fun i s => setF s f (getF s f i / 2) i) s) f i = getF s f i := by
          intro m
          induction m with
          | zero => intro _; simp [iter]
          | succ m ih2 =>
            intro hm
            have e2 : iter (m + 1) (fun i s => setF s f (getF s f i / 2) i) s =
                setF (iter m (fun i s => setF s f (getF s f i / 2) i) s) f (getF (iter m (fun i s => setF s f (getF s f i / 2) i) s) f m / 2) m := by
              rw [iter, List.range_succ, List.foldl_append]; rfl
            rw [e2, getF_setF_ne _ _ _ _ _ _ (by
              rw [Fld.at, Fld.at]
              have : f.stride * m < f.stride * i := Nat.mul_lt_mul_of_pos_left (by omega) hs
              omega)]
            exact ih2 (by omega)
        exact h1 i (Nat.le_refl i)
      rw [getF_setF_self _ _ _ _ hw, if_pos (by omega), h0]
      exact Nat.mod_eq_of_lt (Nat.lt_of_le_of_lt (Nat.div_le_self _ _) (getF_lt _ _ _))
    · rw [getF_setF_ne _ _ _ _ _ _ (by
        rw [Fld.at, Fld.at]
        intro x
        have : f.stride * i = f.stride * n := by omega
        exact h (Nat.eq_of_mul_eq_mul_left hs this)), ih]
      by_cases h2 : i < n
      · rw [if_pos h2, if_pos (by omega)]
      · rw [if_neg h2, if_neg (by omega)]

theorem getF_halveAll (s : State) (f : Fld) (hs : 0 < f.stride) (hw : f.lo + f.width ≤ 32) (i : Nat) (hi : i < f.count) :
    getF (halveAll s f) f i = getF s f i / 2 := by
  rw [halveAll, getF_halves s f hs hw, if_pos hi]

theorem getF_halveAll_ne (s : State) (f g : Fld) (j : Nat) (h : ∀ i, i < f.count → g.at j ≠ f.at i) : getF (halveAll s f) g j = getF s g j := by
  rw [halveAll]
  have : ∀ n, n ≤ f.count → getF (iter n (fun i s => setF s f (getF s f i / 2) i) s) g j = getF s g j := by
    intro n
    induction n with
    | zero => intro _; simp [iter]
    | succ n ih =>
      intro hn
      have e : iter (n + 1) (fun i s => setF s f (getF s f i / 2) i) s =
          setF (iter n (fun i s => setF s f (getF s f i / 2) i) s) f (getF (iter n (fun i s => setF s f (getF s f i / 2) i) s) f n / 2) n := by
        rw [iter, List.range_succ, List.foldl_append]; rfl
      rw [e, getF_setF_ne _ _ _ _ _ _ (h n (by omega)), ih (by omega)]
  exact this _ (Nat.le_refl _)

theorem addF_struct (s : State) (f : Fld) (n i : Nat) : (addF s f n i).health = s.health ∧ (addF s f n i).cores = s.cores ∧ (addF s f n i).mem = s.mem := ⟨rfl, rfl, rfl⟩

theorem powerWindow_step (s u : State) (w r : Nat) (hu : telemAdd { applyBudget s with health.windowAt := now s } 0 w = u)
    (hr : idleRatio w (shadowOf u).idleW (getF u bcEffectiveW) (getF u hpRatio) = r) :
    (r = 0 → getF u hpRatio = 0 → w ≤ getF u bcEffectiveW → execPowerWindow w s = .next (judgeBackstop (setF (setF u hpEstW (min 1023 w)) hpRatio r) w (getF u bcEffectiveW))) ∧
    (r ≠ 0 → getF u hpRatio ≠ 0 → getF u bcEffectiveW < w → execPowerWindow w s = .next (judgeBackstop (iter 64 (fun p s => armWindow (armWindow s p false r) p true r)
      (addF (setF (setF u hpEstW (min 1023 w)) hpRatio r) hpOverWindows)) w (getF u bcEffectiveW))) := by
  rw [execPowerWindow]
  simp only [hu, hr]
  refine ⟨fun h1 h2 h3 => ?_, fun h1 h2 h3 => ?_⟩
  · simp only [h1, h2, if_neg (Nat.not_lt.2 h3), ne_eq, not_true, if_false, if_true]
  · simp only [h1, h2, if_pos h3, ne_eq, not_true, if_false]

theorem judgeBackstop_off (v : State) (w limit : Nat) (h : w ≤ limit) : (judgeBackstop v w limit).health.overRun = 0 ∧ getF (judgeBackstop v w limit) hpBackstop = 0 := by
  have h1 : ¬ limit * 21 < w * 20 := by omega
  have h2 : decide (limit < w) = false := decide_eq_false (Nat.not_lt.2 h)
  have e : judgeBackstop v w limit = setF { v with health.overRun := 0 } hpBackstop 0 := by
    rw [judgeBackstop]
    simp only [if_neg h1, h2]
    have h3 : (if getF v hpBackstop = 1 then false else decide (2 ≤ 0)) = false := by split <;> rfl
    simp only [h3, Bool.false_eq_true, if_false, Bool.false_and]
    rfl
  rw [e]
  exact ⟨by rw [setF_health], getF_setF_self _ _ _ _ (by decide)⟩

theorem setF_frame (s : State) (f : Fld) (v i : Nat) : (setF s f v i) = { s with regs := (setF s f v i).regs } := by rw [setF, putWord]

theorem followPins_frame (s o : State) : (followPins s o).time = s.time ∧ (followPins s o).mem = s.mem ∧ (followPins s o).start = s.start ∧ (followPins s o).cores = s.cores ∧
    (followPins s o).front = s.front ∧ (followPins s o).emb = s.emb ∧ (followPins s o).pending = s.pending := by
  rw [followPins]; exact ⟨rfl, rfl, rfl, rfl, rfl, rfl, rfl⟩

theorem followPins_bound (s o : State) : (followPins s o).bound.stage = s.bound.stage ∧ (followPins s o).bound.hostAnswers = s.bound.hostAnswers ∧ (followPins s o).bound.pwr = o.bound.pwr := by
  rw [followPins]; exact ⟨rfl, rfl, rfl⟩

theorem followPins_pwr (s o : State) : getF (followPins s o) bcPwrState = o.bound.pwr % 4 := by
  rw [followPins]
  simp only []
  rw [getF_setF_ne _ hpLevel bcPwrState _ _ _ (by decide)]
  refine (getF_setF_disj _ bcThermAlarm bcPwrState _ 0 0 rfl rfl (by decide) (by decide)).trans ?_
  refine (getF_setF_disj _ bcPwrAck bcPwrState _ 0 0 rfl rfl (by decide) (by decide)).trans ?_
  exact getF_setF_self _ _ _ _ (by decide)

theorem loadFuses_frame (s : State) : (loadFuses s).start = { s.start with shadow := some s.start.fuses } ∧ (loadFuses s).bound = s.bound ∧ (loadFuses s).time = s.time ∧
    (loadFuses s).mem = s.mem ∧ (loadFuses s).cores = s.cores ∧ (loadFuses s).front = s.front ∧ (loadFuses s).health = s.health ∧ (loadFuses s).emb = s.emb ∧
    (loadFuses s).steps = s.steps := by
  have h : ∀ (l : SMap W32) (v : State), (each l (fun e s => putWord s (0x800100 + 4 * e.1) 0 e.2) v) = { v with regs := (each l (fun e s => putWord s (0x800100 + 4 * e.1) 0 e.2) v).regs } := by
    intro l
    unfold each
    induction l with
    | nil => intro v; rfl
    | cons a r ih => intro v; rw [List.foldl_cons, ih]; rfl
  rw [loadFuses]
  simp only []
  rw [h]
  exact ⟨rfl, rfl, rfl, rfl, rfl, rfl, rfl, rfl, rfl⟩

theorem putPwr_frame (s : State) (p a : Nat) : putPwr s p a = { s with bound := { s.bound with pwr := p }, regs := (putPwr s p a).regs } := by
  rw [putPwr, setF_frame, setF_frame]

theorem putPwr_pwr (s : State) (p a : Nat) (h : p < 4) (ha : a < 4) : getF (putPwr s p a) bcPwrState = p ∧ getF (putPwr s p a) bcPwrAck = a := by
  rw [putPwr]
  exact ⟨(getF_setF_disj _ bcPwrAck bcPwrState _ 0 0 rfl rfl (by decide) (by decide)).trans ((getF_setF_self _ _ _ _ (by decide)).trans (Nat.mod_eq_of_lt h)),
    (getF_setF_self _ _ _ _ (by decide)).trans (Nat.mod_eq_of_lt ha)⟩

theorem putPwr_state (s : State) (p a : Nat) : getF (putPwr s p a) bcState = getF s bcState := by
  rw [putPwr, getF_setF_ne _ bcPwrAck bcState _ _ _ (by decide), getF_setF_ne _ bcPwrState bcState _ _ _ (by decide)]
  exact getF_congr rfl _ _

theorem resumeRun_hold (s : State) (h : getF s bcState ≤ 7) : resumeRun s 1 = { putPwr s 1 1 with bound.fetchStopped := false, bound.prepareOff := false } := by
  rw [resumeRun]
  have e : getF ({ putPwr s 1 1 with bound.fetchStopped := false, bound.prepareOff := false } : State) bcState = getF s bcState :=
    (getF_congr (s := putPwr s 1 1) (by dsimp only) _ _).trans (putPwr_state s 1 1)
  simp only [show ¬ (1 : Nat) = 0 by decide, and_false, if_false, e]
  rw [if_neg (by omega)]

theorem fetchIdle_pwr (s : State) (p a : Nat) (h : p < 4) (ha : a < 4) (x y : Bool) :
    getF ({ putPwr s p a with bound.fetchStopped := x, bound.prepareOff := y } : State) bcPwrState = p ∧
    getF ({ putPwr s p a with bound.fetchStopped := x, bound.prepareOff := y } : State) bcPwrAck = a :=
  ⟨(getF_congr (s := putPwr s p a) (by dsimp only) _ _).trans (putPwr_pwr s p a h ha).1, (getF_congr (s := putPwr s p a) (by dsimp only) _ _).trans (putPwr_pwr s p a h ha).2⟩

theorem eachUpdPort_frame (l : List Nat) (s : State) : (each l (fun q s => updPort s q (fun x => { x with up := false })) s).bound = s.bound ∧
    (each l (fun q s => updPort s q (fun x => { x with up := false })) s).regs = s.regs :=
  each_inv (fun u : State => u.bound = s.bound ∧ u.regs = s.regs) l _ s ⟨rfl, rfl⟩ (fun _ _ h => h)

theorem runOf_addF_same (s : State) (f : Fld) (i p : Nat) : runOf (addF s f i) p = runOf s p := by
  unfold addF runOf; rw [setF, putWord]

theorem runOf_updFeature (s : State) (p fi : Nat) (g : FeatureRun → FeatureRun) (r : StepRun) (h : runOf s p = some r) :
    runOf (updFeature s p fi g) p = some { r with features := r.features.modify fi g } := by
  unfold runOf at h ⊢
  unfold updFeature updRun
  simp [mfind_mupd_self, h]

theorem addDefault_feature (s : State) (p fi bag pos : Nat) (w : BitVec 32) (t : Table) (e : Nat) (r : StepRun) (f : FeatureRun)
    (h : runOf s p = some r) (hf : r.features[fi]? = some f) :
    ∃ q g, runOf (addDefault s p fi bag pos w t e) p = some q ∧ q.features[fi]? = some g ∧ g.substBit = true ∧
      mget g.contrib bag = mget f.contrib bag ++ [{ pos := pos, values := decodeRow s t (defaultRow s t e), weight := w }] := by
  unfold addDefault addRow
  dsimp only
  rw [runOf_addF_same]
  rw [runOf_updFeature _ p fi _ _ (runOf_updFeature s p fi _ r h)]
  refine ⟨_, { f with lengths := mmod f.lengths bag (· + 1), contrib := mmod f.contrib bag (· ++ [{ pos := pos, values := decodeRow s t (defaultRow s t e), weight := w }]), substBit := true }, rfl, ?_, rfl, ?_⟩
  · simp [hf]
  · simp [mmod, mget_mset_self]

theorem issue_served (i : Instr) (c : Nat) (dw : Bool) (r : List Nat) (s : State) (e : State → State) :
    (c < 64 → ∃ t, issue i c dw r s e = .next t) ∧ (¬ c < 64 → issue i c dw r s e = .fault .noSuchUnit) := by
  rw [issue]
  refine ⟨fun h => ?_, fun h => if_pos (by omega)⟩
  rw [if_neg (by omega)]
  split <;> exact ⟨_, rfl⟩

theorem runJob_served (s : State) (j op : Nat) (f : Job → State → State) : ∃ t, runJob s j op f = .next t := by
  rw [runJob]
  split
  · exact ⟨_, rfl⟩
  · split <;> exact ⟨_, rfl⟩

theorem ctlFlitIn_served (s : State) (q : Nat) (fec : RxMark) (bs : List Byte) (want : Nat) (e : CtlMsg → State → State) :
    (q < 60 → ∃ t, ctlFlitIn q fec bs want e s = .next t) ∧ (¬ q < 60 → ctlFlitIn q fec bs want e s = .fault .noSuchUnit) := by
  rw [ctlFlitIn]
  refine ⟨fun h => ?_, fun h => if_pos (by omega)⟩
  rw [if_neg (by omega)]
  dsimp only
  repeat' split
  all_goals exact ⟨_, rfl⟩

theorem mbAccess_served (s : State) (m : Nat) (w : Bool) (f : State → State) :
    (m < 64 → ∃ t, mbAccess s m w f = .next t) ∧ (¬ m < 64 → mbAccess s m w f = .fault .noSuchUnit) := by
  rw [mbAccess]
  refine ⟨fun h => ?_, fun h => if_pos (by omega)⟩
  rw [if_neg (by omega)]
  split <;> exact ⟨_, rfl⟩

theorem serveMsg_served (s : State) (m c : Nat) (f : MboxMsg → State → State) :
    (m < 64 → ∃ t, serveMsg m c s f = .next t) ∧ (¬ m < 64 → serveMsg m c s f = .fault .noSuchUnit) := by
  rw [serveMsg]
  refine ⟨fun h => ?_, fun h => if_pos (by omega)⟩
  rw [if_neg (by omega)]
  exact ⟨_, rfl⟩

theorem doorbell_served (s : State) (function offset : Nat) (enables : BitVec 8) (e : Nat → Context → State → State) :
    (offset < 0x1000000 → ∃ t, doorbell s function offset enables e = .next t) ∧
    (¬ offset < 0x1000000 → doorbell s function offset enables e = .fault .noSuchUnit) := by
  rw [doorbell]
  refine ⟨fun h => ?_, fun h => if_pos (by omega)⟩
  rw [if_neg (by omega)]
  dsimp only
  split <;> exact ⟨_, rfl⟩

theorem hostWrite_served (s : State) (f : State → State) : ∃ t, hostWrite s f = .next t := ⟨_, rfl⟩

end Sys2Proof.Machine
end

