-- ==== Sys2Proof/Laws/Encode.lean ====
section
/-! SUPPORT. Reading the fields of a packed word, and the encoded core instructions field by field. -/

namespace Sys2Proof.Machine
/-- The first field of a packed word. -/
theorem bits_pack_here (w v : Nat) (r : List (Nat × Nat)) (n : Nat) (h : n = w) : bits (pack ((w, v) :: r)) 0 n = v % 2 ^ w := by
  subst h
  rw [pack, bits, Nat.pow_zero, Nat.div_one, Nat.add_mul_mod_self_left, Nat.mod_mod]
/-- A later field of a packed word. -/
theorem bits_pack_skip (w v : Nat) (r : List (Nat × Nat)) (lo n : Nat) (h : w ≤ lo) : bits (pack ((w, v) :: r)) lo n = bits (pack r) (lo - w) n := by
  obtain ⟨k, rfl⟩ := Nat.exists_eq_add_of_le h
  rw [pack, bits, bits, Nat.pow_add, ← Nat.div_div_eq_div_mul, Nat.add_mul_div_left _ _ (Nat.two_pow_pos w),
    Nat.div_eq_of_lt (Nat.mod_lt _ (Nat.two_pow_pos w)), Nat.zero_add, Nat.add_sub_cancel_left]
/-- A first field of one bit. -/
theorem bit_pack_here (v : Nat) (r : List (Nat × Nat)) : bit (pack ((1, v) :: r)) 0 = (v % 2 == 1) := by
  rw [pack, bit, Nat.pow_zero, Nat.div_one]
  congr 1; omega
/-- A later field of one bit. -/
theorem bit_pack_skip (w v : Nat) (r : List (Nat × Nat)) (lo : Nat) (h : w ≤ lo) : bit (pack ((w, v) :: r)) lo = bit (pack r) (lo - w) := by
  have := bits_pack_skip w v r lo 1 h
  rw [bits, bits] at this
  rw [bit, bit]
  simp only [Nat.pow_one] at this
  rw [this]
/-- A Bool written as a bit reads as itself. -/
theorem b2n_bit (b : Bool) : (b2n b % 2 == 1) = b := by cases b <;> rfl
/-- What stands above a packed word's fields. -/
theorem top_pack (w v : Nat) (r : List (Nat × Nat)) (n : Nat) (h : w ≤ n) : pack ((w, v) :: r) / 2 ^ n = pack r / 2 ^ (n - w) := by
  obtain ⟨k, rfl⟩ := Nat.exists_eq_add_of_le h
  rw [pack, Nat.pow_add, ← Nat.div_div_eq_div_mul, Nat.add_mul_div_left _ _ (Nat.two_pow_pos w),
    Nat.div_eq_of_lt (Nat.mod_lt _ (Nat.two_pow_pos w)), Nat.zero_add, Nat.add_sub_cancel_left]
/-- R161: the fields of an encoded tile instruction. -/
theorem tileFieldsOf_encTile (op : Nat) (dw : Bool) (f : TileFields) (h : f.wf = true) : tileFieldsOf (encTile op dw f) = f := by
  simp only [TileFields.wf, Bool.and_eq_true, decide_eq_true_eq] at h
  obtain ⟨h, h'⟩ := h
  rw [tileFieldsOf, encTile]
  simp [bits_pack_here, bits_pack_skip, bit_pack_here, bit_pack_skip, b2n_bit]
  cases f
  simp only [TileFields.mk.injEq]
  simp only at h h'
  refine ⟨?_, ?_, ?_, ?_, ?_, trivial, trivial, trivial, ?_, ?_, ?_, ?_, ?_, ?_, ?_, ?_, ?_, ?_⟩ <;> omega
/-- R165: the fields of an encoded vector instruction. -/
theorem vecFieldsOf_encVec (op : Nat) (dw : Bool) (f : VecFields) (h : f.wf = true) : vecFieldsOf (encVec op dw f) = f := by
  simp only [VecFields.wf, decide_eq_true_eq] at h
  rw [vecFieldsOf, encVec]
  simp [bits_pack_here, bits_pack_skip, bit_pack_here, bit_pack_skip, b2n_bit]
  cases f
  simp only [VecFields.mk.injEq]
  simp only at h
  have hi : ∀ x : BitVec 32, BitVec.ofNat 32 (x.toNat % 4294967296) = x := fun x => by rw [Nat.mod_eq_of_lt x.isLt]; simp
  refine ⟨?_, ?_, ?_, ?_, ?_, trivial, trivial, ?_, ?_, ?_, hi _⟩ <;> omega
/-- R161: class, operation and dual_with of an encoded tile instruction. -/
theorem decode_encTile (c op : Nat) (dw : Bool) (f : TileFields) (ho : op < 256) :
    decodeCore c (encTile op dw f) = decodeTile c (encTile op dw f) ∧ bits (encTile op dw f) 4 8 = op ∧ bit (encTile op dw f) 12 = dw := by
  have e1 : bits (encTile op dw f) 0 4 = 1 := by rw [encTile]; simp [bits_pack_here]
  refine ⟨?_, ?_, ?_⟩
  · rw [decodeCore, e1]; rfl
  · rw [encTile]; simp [bits_pack_here, bits_pack_skip]; omega
  · rw [encTile]; simp [bit_pack_here, bit_pack_skip, b2n_bit]
/-- R165: class, operation and dual_with of an encoded vector instruction, and the bits above its fields. -/
theorem decode_encVec (c op : Nat) (dw : Bool) (f : VecFields) (ho : op < 256) :
    decodeCore c (encVec op dw f) = decodeVector c (encVec op dw f) ∧ bits (encVec op dw f) 4 8 = op ∧ bit (encVec op dw f) 12 = dw ∧ encVec op dw f / 2 ^ 94 = 0 := by
  have e1 : bits (encVec op dw f) 0 4 = 3 := by rw [encVec]; simp [bits_pack_here]
  refine ⟨?_, ?_, ?_, ?_⟩
  · rw [decodeCore, e1]; rfl
  · rw [encVec]; simp [bits_pack_here, bits_pack_skip]; omega
  · rw [encVec]; simp [bit_pack_here, bit_pack_skip, b2n_bit]
  · rw [encVec]
    simp only [top_pack, Nat.reduceLeDiff, Nat.reduceSub]
    rfl
/-- R161: a well-formed tile instruction holds no reserved value. -/
theorem tile_legal (f : TileFields) (h : f.wf = true) : ¬ (f.arrays = 0 ∨ 5 < f.dest ∨ 0xD < f.fmtA ∨ 0xD < f.fmtW) := by
  simp only [TileFields.wf, Bool.and_eq_true, decide_eq_true_eq] at h
  omega
/-- A packed word fits the widths of its fields. -/
theorem pack_lt (l : List (Nat × Nat)) : pack l < 2 ^ (l.map (·.1)).sum := by
  induction l with
  | nil => exact Nat.one_pos
  | cons a r ih =>
    have h := Nat.mod_lt a.2 (Nat.two_pow_pos a.1)
    rw [pack, List.map_cons, List.sum_cons, Nat.pow_add]
    calc _ < 2 ^ a.1 + 2 ^ a.1 * pack r := by omega
      _ = 2 ^ a.1 * (pack r + 1) := by rw [Nat.mul_add, Nat.mul_one, Nat.add_comm]
      _ ≤ _ := Nat.mul_le_mul_left _ ih
/-- No fields. -/
@[simp] theorem pack_nil : pack [] = 0 := rfl
/-- A 64-bit immediate reads as itself. -/
theorem ofNat_mod64 (x : BitVec 64) : BitVec.ofNat 64 (x.toNat % 18446744073709551616) = x := by rw [Nat.mod_eq_of_lt x.isLt]; simp

end Sys2Proof.Machine
end

