-- ==== Sys2Proof/Laws/MemOk.lean ====
section
/-! SUPPORT. When a state's memories are in canonical form: the rules by which Laws/MemOkSteps.lean follows a definition. -/

namespace Sys2Proof.Machine

/-- The memories and the cores of a state, apart from its other fields. -/
def MemParts (m : Memories) (k : SMap Core) : Prop := memoriesOk m ∧ ∀ c, coreMemOk (mget k c)

/-- A core's memories, apart from its other fields. -/
def CoreMemParts (w a c p l1 l2 l3 l4 : List Host.Cell) : Prop :=
  (Memory.wf w = true ∧ Memory.wf a = true ∧ Memory.wf c = true ∧ Memory.wf p = true) ∧
  Memory.wf l1 = true ∧ Memory.wf l2 = true ∧ Memory.wf l3 = true ∧ Memory.wf l4 = true

/-- An outcome whose next state, if it has one, keeps the canonical form. -/
inductive NextMemOk : Res → Prop
  | next {s : State} (h : memOk s) : NextMemOk (.next s)
  | fault {f : Fault} : NextMemOk (.fault f)

/-- The same of an optional state. -/
inductive OptMemOk : Option State → Prop
  | none : OptMemOk none
  | some {s : State} (h : memOk s) : OptMemOk (some s)

/-- The same of an optional state with a result. -/
inductive OptMemOk2 {α : Type} : Option (α × State) → Prop
  | none : OptMemOk2 none
  | some {a : α} {s : State} (h : memOk s) : OptMemOk2 (some (a, s))

theorem memOk_mk {p m r b st t l f pa ss k e u tr c h n y} :
    memOk ⟨p, m, r, b, st, t, l, f, pa, ss, k, e, u, tr, c, h, n, y⟩ ↔ MemParts m k := Iff.rfl

theorem memParts_of {s : State} (h : memOk s) : MemParts s.mem s.cores := h

theorem memParts_hbm {m : Memories} {k x} (h : MemParts m k) (w : Memory.wf x = true) :
    MemParts ⟨x, m.host, m.flash, m.bootStore, m.ctrlSram, m.codebook⟩ k := ⟨⟨w, h.1.2⟩, h.2⟩

theorem memParts_host {m : Memories} {k x} (h : MemParts m k) (w : Memory.wf x = true) :
    MemParts ⟨m.hbm, x, m.flash, m.bootStore, m.ctrlSram, m.codebook⟩ k := ⟨⟨h.1.1, w, h.1.2.2⟩, h.2⟩

theorem memParts_flash {m : Memories} {k x} (h : MemParts m k) (w : Memory.wf x = true) :
    MemParts ⟨m.hbm, m.host, x, m.bootStore, m.ctrlSram, m.codebook⟩ k := ⟨⟨h.1.1, h.1.2.1, w, h.1.2.2.2⟩, h.2⟩

theorem memParts_boot {m : Memories} {k x} (h : MemParts m k) (w : Memory.wf x = true) :
    MemParts ⟨m.hbm, m.host, m.flash, x, m.ctrlSram, m.codebook⟩ k := ⟨⟨h.1.1, h.1.2.1, h.1.2.2.1, w, h.1.2.2.2.2⟩, h.2⟩

theorem memParts_ctrl {m : Memories} {k x} (h : MemParts m k) (w : Memory.wf x = true) :
    MemParts ⟨m.hbm, m.host, m.flash, m.bootStore, x, m.codebook⟩ k :=
  ⟨⟨h.1.1, h.1.2.1, h.1.2.2.1, h.1.2.2.2.1, w, h.1.2.2.2.2.2⟩, h.2⟩

theorem memParts_code {m : Memories} {k x} (h : MemParts m k) (w : Memory.wf x = true) :
    MemParts ⟨m.hbm, m.host, m.flash, m.bootStore, m.ctrlSram, x⟩ k :=
  ⟨⟨h.1.1, h.1.2.1, h.1.2.2.1, h.1.2.2.2.1, h.1.2.2.2.2.1, w⟩, h.2⟩

theorem wf_mem_hbm {s : State} (h : memOk s) : Memory.wf s.mem.hbm = true := h.1.1

theorem wf_mem_host {s : State} (h : memOk s) : Memory.wf s.mem.host = true := h.1.2.1

theorem wf_mem_flash {s : State} (h : memOk s) : Memory.wf s.mem.flash = true := h.1.2.2.1

theorem wf_mem_boot {s : State} (h : memOk s) : Memory.wf s.mem.bootStore = true := h.1.2.2.2.1

theorem wf_mem_ctrl {s : State} (h : memOk s) : Memory.wf s.mem.ctrlSram = true := h.1.2.2.2.2.1

theorem wf_mem_code {s : State} (h : memOk s) : Memory.wf s.mem.codebook = true := h.1.2.2.2.2.2

theorem coreMemOk_weight {k : Core} (h : coreMemOk k) : Memory.wf k.weight = true := h.1.1

theorem coreMemOk_act {k : Core} (h : coreMemOk k) : Memory.wf k.act = true := h.1.2.1

theorem coreMemOk_acc {k : Core} (h : coreMemOk k) : Memory.wf k.acc = true := h.1.2.2.1

theorem coreMemOk_prog {k : Core} (h : coreMemOk k) : Memory.wf k.prog = true := h.1.2.2.2

theorem coreMemOk_planeA {k : Core} (h : coreMemOk k) : Memory.wf k.planeA = true := h.2.1

theorem coreMemOk_shadowA {k : Core} (h : coreMemOk k) : Memory.wf k.shadowA = true := h.2.2.1

theorem coreMemOk_planeB {k : Core} (h : coreMemOk k) : Memory.wf k.planeB = true := h.2.2.2.1

theorem coreMemOk_shadowB {k : Core} (h : coreMemOk k) : Memory.wf k.shadowB = true := h.2.2.2.2

theorem coreMemOk_mk {w a c p x1 x2 x3 x4 x5 x6 x7 x8 x9 xa xb xc xd xe xf xg xh l1 l2 l3 l4 xi} :
    coreMemOk ⟨w, a, c, p, x1, x2, x3, x4, x5, x6, x7, x8, x9, xa, xb, xc, xd, xe, xf, xg, xh, l1, l2, l3, l4, xi⟩ ↔
      CoreMemParts w a c p l1 l2 l3 l4 := Iff.rfl

theorem coreMemParts_mk {w a c p l1 l2 l3 l4} (h1 : Memory.wf w = true) (h2 : Memory.wf a = true) (h3 : Memory.wf c = true)
    (h4 : Memory.wf p = true) (h5 : Memory.wf l1 = true) (h6 : Memory.wf l2 = true) (h7 : Memory.wf l3 = true)
    (h8 : Memory.wf l4 = true) : CoreMemParts w a c p l1 l2 l3 l4 := ⟨⟨h1, h2, h3, h4⟩, h5, h6, h7, h8⟩

theorem coreMemOk_mget {s : State} {c : Nat} (h : memOk s) : coreMemOk (mget s.cores c) := h.2 c

theorem memOk_ite {c : Prop} [Decidable c] {a b : State} (h : c → memOk a) (g : ¬c → memOk b) : memOk (if c then a else b) := by
  split <;> simp_all

theorem coreMemOk_ite {c : Prop} [Decidable c] {a b : Core} (h : c → coreMemOk a) (g : ¬c → coreMemOk b) :
    coreMemOk (if c then a else b) := by split <;> simp_all

theorem nextMemOk_ite {c : Prop} [Decidable c] {a b : Res} (h : c → NextMemOk a) (g : ¬c → NextMemOk b) :
    NextMemOk (if c then a else b) := by split <;> simp_all

theorem optMemOk_ite {c : Prop} [Decidable c] {a b : Option State} (h : c → OptMemOk a) (g : ¬c → OptMemOk b) :
    OptMemOk (if c then a else b) := by split <;> simp_all

theorem optMemOk2_ite {α} {c : Prop} [Decidable c] {a b : Option (α × State)} (h : c → OptMemOk2 a) (g : ¬c → OptMemOk2 b) :
    OptMemOk2 (if c then a else b) := by split <;> simp_all

theorem nextMemOk_elim {r : Res} {s : State} (h : NextMemOk r) (e : r = .next s) : memOk s := by subst e; cases h; assumption

theorem optMemOk_elim {o : Option State} {s : State} (h : OptMemOk o) (e : o = some s) : memOk s := by subst e; cases h; assumption

theorem optMemOk2_elim {α} {o : Option (α × State)} {a s} (h : OptMemOk2 o) (e : o = some (a, s)) : memOk s := by
  subst e; cases h; assumption

theorem memOk_snd {α} {p : α × State} {a s} (h : memOk p.2) (e : p = (a, s)) : memOk s := by subst e; exact h

theorem memOk_fst {α} {p : State × α} {a s} (h : memOk p.1) (e : p = (s, a)) : memOk s := by subst e; exact h

theorem wf_foldl {β} {l : List β} {f : List Host.Cell → β → List Host.Cell} {s} (h : Memory.wf s = true)
    (g : ∀ s, Memory.wf s = true → ∀ b, Memory.wf (f s b) = true) : Memory.wf (l.foldl f s) = true := by
  induction l generalizing s with
  | nil => exact h
  | cons b l ih => exact ih (g s h b)

theorem wf_each {β} {l : List β} {f : β → List Host.Cell → List Host.Cell} {s} (h : Memory.wf s = true)
    (g : ∀ b s, Memory.wf s = true → Memory.wf (f b s) = true) : Memory.wf (each l f s) = true := wf_foldl h fun s hs b => g b s hs

theorem wf_iter {n : Nat} {f : Nat → List Host.Cell → List Host.Cell} {s} (h : Memory.wf s = true)
    (g : ∀ b s, Memory.wf s = true → Memory.wf (f b s) = true) : Memory.wf (iter n f s) = true := wf_foldl h fun s hs b => g b s hs

theorem memOk_foldl {β} {l : List β} {f : State → β → State} {s : State} (h : memOk s)
    (g : ∀ s, memOk s → ∀ b, memOk (f s b)) : memOk (l.foldl f s) := by
  induction l generalizing s with
  | nil => exact h
  | cons b l ih => exact ih (g s h b)

theorem memOk_each {β} {l : List β} {f : β → State → State} {s : State} (h : memOk s)
    (g : ∀ b s, memOk s → memOk (f b s)) : memOk (each l f s) := memOk_foldl h fun s hs b => g b s hs

theorem memOk_iter {n : Nat} {f : Nat → State → State} {s : State} (h : memOk s)
    (g : ∀ b s, memOk s → memOk (f b s)) : memOk (iter n f s) := memOk_foldl h fun s hs b => g b s hs

theorem coreMemOk_foldl {β} {l : List β} {f : Core → β → Core} {s : Core} (h : coreMemOk s)
    (g : ∀ s, coreMemOk s → ∀ b, coreMemOk (f s b)) : coreMemOk (l.foldl f s) := by
  induction l generalizing s with
  | nil => exact h
  | cons b l ih => exact ih (g s h b)

theorem coreMemOk_each {β} {l : List β} {f : β → Core → Core} {s : Core} (h : coreMemOk s)
    (g : ∀ b s, coreMemOk s → coreMemOk (f b s)) : coreMemOk (each l f s) := coreMemOk_foldl h fun s hs b => g b s hs

theorem coreMemOk_iter {n : Nat} {f : Nat → Core → Core} {s : Core} (h : coreMemOk s)
    (g : ∀ b s, coreMemOk s → coreMemOk (f b s)) : coreMemOk (iter n f s) := coreMemOk_foldl h fun s hs b => g b s hs

theorem memOk_getD {o : Option State} {s : State} (h : OptMemOk o) (g : memOk s) : memOk (o.getD s) := by
  cases h with
  | none => exact g
  | some h => exact h

theorem memOk_id {s : State} (h : memOk s) : memOk (id s) := h

theorem wf_nil : Memory.wf [] = true := rfl

end Sys2Proof.Machine
end

