-- ==== Sys2Proof/Laws/MemOkSteps.lean ====
section
/-! SUPPORT. Each definition that makes a state, a core or an outcome keeps every memory in canonical form: one lemma for each,
named memOk_ and the definition. -/

namespace Sys2Proof.Machine

theorem memOk_telemAdd (a0 : State) (a1 a2 : Nat) (h0 : memOk a0) : memOk (telemAdd a0 a1 a2) := by
  unfold telemAdd
  repeat' with_reducible first
    | assumption | simp only [↓memOk_mk] | apply memParts_of

theorem memOk_countGated (a0 : State) (h0 : memOk a0) : memOk (countGated a0) := by
  unfold countGated
  repeat' with_reducible first
    | assumption | apply memOk_telemAdd | apply memOk_ite | intro _

theorem memOk_coreOf (a0 : State) (a1 : Nat) (h0 : memOk a0) : coreMemOk (coreOf a0 a1) := by
  unfold coreOf
  repeat' with_reducible first
    | assumption | apply coreMemOk_mget

theorem memOk_issue (a0 : Instr) (a1 : Nat) (a2 : Bool) (a3 : List Nat) (a4 : State) (a5 : State → State)
    (h4 : memOk a4) (h5 : ∀ (y0 : State), memOk (y0) → memOk (a5 y0)) : NextMemOk (issue a0 a1 a2 a3 a4 a5) := by
  unfold issue
  repeat' with_reducible first
    | assumption | apply h5 | exact .fault | apply NextMemOk.next | apply nextMemOk_ite | intro _

theorem memOk_putWord (a0 : State) (a1 a2 : Nat) (a3 : W32) (h0 : memOk a0) : memOk (putWord a0 a1 a2 a3) := by
  unfold putWord
  repeat' with_reducible first
    | assumption | simp only [↓memOk_mk] | apply memParts_of

theorem memOk_setF (a0 : State) (a1 : Fld) (a2 a3 : Nat) (h0 : memOk a0) : memOk (setF a0 a1 a2 a3) := by
  unfold setF
  repeat' with_reducible first
    | assumption | apply memOk_putWord

theorem memOk_addF (a0 : State) (a1 : Fld) (a2 a3 : Nat) (h0 : memOk a0) : memOk (addF a0 a1 a2 a3) := by
  unfold addF
  repeat' with_reducible first
    | assumption | apply memOk_setF

theorem memOk_requestVector (a0 : State) (a1 : Nat) (h0 : memOk a0) : memOk (requestVector a0 a1) := by
  unfold requestVector
  repeat' with_reducible first
    | assumption | apply memOk_ite | simp only [↓memOk_mk] | apply memParts_of | intro _

theorem memOk_writeAdmEvent (a0 : State) (a1 : Nat) (a2 : Event) (h0 : memOk a0) : memOk (writeAdmEvent a0 a1 a2) := by
  unfold writeAdmEvent
  repeat' with_reducible first
    | assumption | apply memOk_addF | apply memOk_requestVector | apply memOk_setF | apply memOk_ite | simp only [↓memOk_mk]
    | apply memParts_of | apply memParts_host | apply wf_wrBytes | apply wf_mem_host | intro _

theorem memOk_flushAdmLost (a0 : State) (h0 : memOk a0) : memOk (flushAdmLost a0) := by
  unfold flushAdmLost
  repeat' with_reducible first
    | assumption | apply memOk_writeAdmEvent | apply memOk_ite | simp only [↓memOk_mk] | apply memParts_of | intro _

theorem memOk_eventAdm (a0 : State) (a1 : Nat) (a2 : Event) (h0 : memOk a0) : memOk (eventAdm a0 a1 a2) := by
  unfold eventAdm
  repeat' with_reducible first
    | assumption | apply memOk_flushAdmLost | apply memOk_addF | apply memOk_writeAdmEvent | apply memOk_ite
    | simp only [↓memOk_mk] | apply memParts_of | intro _

theorem memOk_putCtx (a0 : State) (a1 : Nat) (a2 : Context) (h0 : memOk a0) : memOk (putCtx a0 a1 a2) := by
  unfold putCtx
  repeat' with_reducible first
    | assumption | simp only [↓memOk_mk] | apply memParts_of

theorem memOk_updCtx (a0 : State) (a1 : Nat) (a2 : Context → Context) (h0 : memOk a0) : memOk (updCtx a0 a1 a2) := by
  unfold updCtx
  repeat' with_reducible first
    | assumption | apply memOk_putCtx

theorem memOk_dropCtxEvent (a0 : State) (a1 : Nat) (h0 : memOk a0) : memOk (dropCtxEvent a0 a1) := by
  unfold dropCtxEvent
  repeat' with_reducible first
    | assumption | apply memOk_addF | apply memOk_updCtx

theorem memOk_xlWrite (a0 : State) (a1 : Xl) (a2 : List Byte) (h0 : memOk a0) : memOk (xlWrite a0 a1 a2) := by
  unfold xlWrite
  repeat' with_reducible first
    | assumption | apply memOk_addF | apply memOk_ite | apply wf_iter | simp only [↓memOk_mk] | apply memParts_of
    | apply memParts_hbm | apply memParts_host | apply wf_wrBytes | apply wf_mem_hbm | apply wf_mem_host | intro _ | split

theorem memOk_utlbPut (a0 : State) (a1 : Nat) (a2 : TlbEntry) (h0 : memOk a0) : memOk (utlbPut a0 a1 a2) := by
  unfold utlbPut
  repeat' with_reducible first
    | assumption | simp only [↓memOk_mk] | apply memParts_of

theorem memOk_touchTlb (a0 : State) (a1 a2 a3 : Nat) (h0 : memOk a0) : memOk (touchTlb a0 a1 a2 a3) := by
  unfold touchTlb
  repeat' with_reducible first
    | assumption | apply memOk_utlbPut | apply memOk_addF | apply memOk_ite | simp only [↓memOk_mk] | apply memParts_of
    | intro _ | split

theorem memOk_fqWrite (a0 : State) (a1 : List Byte) (h0 : memOk a0) : memOk (fqWrite a0 a1) := by
  unfold fqWrite
  repeat' with_reducible first
    | assumption | apply memOk_requestVector | apply memOk_setF | simp only [↓memOk_mk] | apply memParts_of | apply memParts_host
    | apply wf_wrBytes | apply wf_mem_host

theorem memOk_fqPost (a0 : State) (a1 : FaultRec) (h0 : memOk a0) : memOk (fqPost a0 a1) := by
  unfold fqPost
  repeat' with_reducible first
    | assumption | apply memOk_fqWrite | apply memOk_addF | apply memOk_ite | simp only [↓memOk_mk] | apply memParts_of
    | intro _

theorem memOk_acNotify (a0 : State) (a1 a2 a3 a4 a5 : Nat) (h0 : memOk a0) : memOk (acNotify a0 a1 a2 a3 a4 a5) := by
  unfold acNotify
  repeat' with_reducible first
    | assumption | apply memOk_fqPost | apply memOk_ite | simp only [↓memOk_mk] | apply memParts_of | intro _

theorem memOk_acCount (a0 : State) (a1 a2 a3 a4 a5 a6 : Nat) (h0 : memOk a0) : memOk (acCount a0 a1 a2 a3 a4 a5 a6) := by
  unfold acCount
  repeat' with_reducible first
    | assumption | apply memOk_acNotify | apply memOk_ite | simp only [↓memOk_mk] | apply memParts_of | intro _

theorem memOk_touchPage (a0 : State) (a1 a2 a3 a4 : Nat) (a5 : Bool) (h0 : memOk a0) : memOk (touchPage a0 a1 a2 a3 a4
    a5) := by
  unfold touchPage
  repeat' with_reducible first
    | assumption | apply memOk_touchTlb | apply memOk_acCount | apply memOk_ite | intro _

theorem memOk_vaWriteGo (a0 : State) (a1 a2 a3 a4 : Nat) (a5 : List Byte) (h0 : memOk a0) : memOk (vaWriteGo a0 a1 a2 a3
    a4 a5).2 := by
  induction a3 generalizing a0 a1 a2 a4 a5 with
  | zero =>
   unfold vaWriteGo
   repeat' with_reducible first
     | assumption
  | succ _ ih =>
   unfold vaWriteGo
   repeat' with_reducible first
     | assumption | apply ih | apply memOk_xlWrite | apply memOk_touchPage | simp only | split

theorem memOk_vaWriteE (a0 : State) (a1 a2 a3 : Nat) (a4 : List Byte) (h0 : memOk a0) : memOk (vaWriteE a0 a1 a2 a3 a4).2
    := by
  unfold vaWriteE
  repeat' with_reducible first
    | assumption | apply memOk_vaWriteGo

theorem memOk_vaWrite (a0 : State) (a1 a2 : Nat) (a3 : List Byte) (h0 : memOk a0) : memOk (vaWrite a0 a1 a2 a3).2 := by
  unfold vaWrite
  repeat' with_reducible first
    | assumption | apply memOk_vaWriteE

theorem memOk_noteRing (a0 : State) (a1 a2 : Nat) (a3 : Bool) (h0 : memOk a0) : memOk (noteRing a0 a1 a2 a3) := by
  unfold noteRing
  repeat' with_reducible first
    | assumption | apply memOk_ite | simp only [↓memOk_mk] | apply memParts_of | intro _

theorem memOk_writeCtxEvent (a0 : State) (a1 : Nat) (a2 : Event) (h0 : memOk a0) : memOk (writeCtxEvent a0 a1 a2) := by
  unfold writeCtxEvent
  repeat' with_reducible first
    | assumption | apply memOk_dropCtxEvent | apply memOk_vaWrite | apply memOk_requestVector | apply memOk_updCtx
    | apply memOk_noteRing | apply memOk_ite | simp only | intro _

theorem memOk_flushCtxLost (a0 : State) (a1 : Nat) (h0 : memOk a0) : memOk (flushCtxLost a0 a1) := by
  unfold flushCtxLost
  repeat' with_reducible first
    | assumption | apply memOk_updCtx | apply memOk_writeCtxEvent | apply memOk_ite | simp only | intro _

theorem memOk_eventCtx (a0 : State) (a1 : Nat) (a2 : Event) (h0 : memOk a0) : memOk (eventCtx a0 a1 a2) := by
  unfold eventCtx
  repeat' with_reducible first
    | assumption | apply memOk_flushCtxLost | apply memOk_dropCtxEvent | apply memOk_writeCtxEvent | apply memOk_ite
    | simp only | intro _

theorem memOk_healthEvent (a0 : State) (a1 : HealthNote) (a2 : List Nat) (h0 : memOk a0) : memOk (healthEvent a0 a1 a2)
    := by
  unfold healthEvent
  repeat' with_reducible first
    | assumption | apply memOk_eventAdm | apply memOk_eventCtx | apply memOk_ite | apply memOk_each | intro _

theorem memOk_setF64 (a0 : State) (a1 : Fld) (a2 a3 : Nat) (h0 : memOk a0) : memOk (setF64 a0 a1 a2 a3) := by
  unfold setF64
  repeat' with_reducible first
    | assumption | apply memOk_putWord

theorem memOk_ashPut (a0 : State) (a1 : Nat) (a2 : Bool) (h0 : memOk a0) : memOk (ashPut a0 a1 a2) := by
  unfold ashPut
  repeat' with_reducible first
    | assumption | apply memOk_setF64 | apply memOk_setF | simp only | split

theorem memOk_ashEnter (a0 : State) (a1 : Nat) (h0 : memOk a0) : memOk (ashEnter a0 a1) := by
  unfold ashEnter
  repeat' with_reducible first
    | assumption | apply memOk_healthEvent | apply memOk_ashPut | apply memOk_ite | intro _

theorem memOk_ceCount (a0 : State) (a1 : Nat) (h0 : memOk a0) : memOk (ceCount a0 a1) := by
  unfold ceCount
  repeat' with_reducible first
    | assumption | apply memOk_telemAdd | apply memOk_addF | apply memOk_healthEvent | apply memOk_ashEnter | apply memOk_ite
    | apply memOk_each | simp only [↓memOk_mk] | apply memParts_of | intro _

theorem memOk_updRun (a0 : State) (a1 : Nat) (a2 : StepRun → StepRun) (h0 : memOk a0) : memOk (updRun a0 a1 a2) := by
  unfold updRun
  repeat' with_reducible first
    | assumption | simp only [↓memOk_mk] | apply memParts_of

theorem memOk_chargeTask (a0 : State) (a1 a2 : Nat) (h0 : memOk a0) : memOk (chargeTask a0 a1 a2) := by
  unfold chargeTask
  repeat' with_reducible first
    | assumption | apply memOk_telemAdd | apply memOk_updRun | split

theorem memOk_putCore (a0 : State) (a1 : Nat) (a2 : Core) (h0 : memOk a0) (h2 : coreMemOk a2) : memOk (putCore a0 a1 a2) := by
  refine ⟨h0.1, fun c => ?_⟩
  change coreMemOk (mget (mset a0.cores a1 a2) c)
  by_cases e : c = a1
  · rw [e, mget_mset_self]; exact h2
  · rw [mget_mset_ne _ _ e]; exact h0.2 c

theorem memOk_leaveCore (a0 : State) (a1 a2 : Nat) (a3 : TaskState) (a4 : List (BitVec 64)) (h0 : memOk a0) : memOk
    (leaveCore a0 a1 a2 a3 a4) := by
  unfold leaveCore
  repeat' with_reducible first
    | assumption | apply memOk_coreOf | apply memOk_chargeTask | apply memOk_putCore | apply memOk_updRun
    | simp only | simp only [↓coreMemOk_mk] | apply coreMemParts_mk | apply coreMemOk_weight | apply coreMemOk_act
    | apply coreMemOk_acc | apply coreMemOk_prog | apply coreMemOk_planeA | apply coreMemOk_shadowA | apply coreMemOk_planeB | apply coreMemOk_shadowB
    | split

theorem memOk_setStat (a0 : Core) (a1 : Nat) (a2 : BitVec 32) (h0 : coreMemOk a0) : coreMemOk (setStat a0 a1 a2) := by
  unfold setStat
  repeat' with_reducible first
    | assumption | simp only [↓coreMemOk_mk] | apply coreMemParts_mk | apply coreMemOk_weight | apply coreMemOk_act | apply coreMemOk_acc
    | apply coreMemOk_prog | apply coreMemOk_planeA | apply coreMemOk_shadowA | apply coreMemOk_planeB | apply coreMemOk_shadowB

theorem memOk_clearStats (a0 : Tile) (a1 : Core) (h1 : coreMemOk a1) : coreMemOk (clearStats a0 a1) := by
  unfold clearStats
  repeat' with_reducible first
    | assumption | apply memOk_setStat | apply coreMemOk_ite | apply coreMemOk_each | apply coreMemOk_iter | intro _

theorem memOk_coreWr (a0 : Core) (a1 : Win) (a2 a3 : Nat) (a4 : Byte) (h0 : coreMemOk a0) : coreMemOk (coreWr a0 a1 a2 a3 a4)
    := by
  unfold coreWr
  repeat' with_reducible first
    | assumption | apply wf_wr8 | simp only [↓coreMemOk_mk] | apply coreMemParts_mk | apply coreMemOk_weight | apply coreMemOk_act
    | apply coreMemOk_acc | apply coreMemOk_prog | apply coreMemOk_planeA | apply coreMemOk_shadowA | apply coreMemOk_planeB | apply coreMemOk_shadowB
    | split

theorem memOk_coreWrN (a0 : Core) (a1 : Win) (a2 a3 : Nat) (a4 : List Byte) (h0 : coreMemOk a0) : coreMemOk (coreWrN a0 a1 a2
    a3 a4) := by
  induction a4 generalizing a0 a1 a2 a3 with
  | nil =>
   unfold coreWrN
   repeat' with_reducible first
     | assumption
  | cons _ _ ih =>
   unfold coreWrN
   repeat' with_reducible first
     | assumption | apply ih | apply memOk_coreWr

theorem memOk_coreWrLE (a0 : Core) (a1 : Win) (a2 a3 a4 a5 : Nat) (h0 : coreMemOk a0) : coreMemOk (coreWrLE a0 a1 a2 a3 a4
    a5) := by
  unfold coreWrLE
  repeat' with_reducible first
    | assumption | apply memOk_coreWrN

theorem memOk_drainMasks (a0 : Win) (a1 : Tile) (a2 : Core) (h2 : coreMemOk a2) : coreMemOk (drainMasks a0 a1 a2) := by
  unfold drainMasks
  repeat' with_reducible first
    | assumption | apply memOk_coreWrLE | apply coreMemOk_each | apply coreMemOk_iter | simp only | intro _

theorem memOk_flagSat (a0 : Core) (a1 : Nat) (a2 : Bool) (h0 : coreMemOk a0) : coreMemOk (flagSat a0 a1 a2) := by
  unfold flagSat
  repeat' with_reducible first
    | assumption | apply memOk_setStat | apply coreMemOk_ite | intro _

theorem memOk_writeOut (a0 : Core) (a1 : Win) (a2 : Tile) (a3 a4 a5 a6 : Nat) (h0 : coreMemOk a0) : coreMemOk (writeOut a0 a1
    a2 a3 a4 a5 a6) := by
  unfold writeOut
  repeat' with_reducible first
    | assumption | apply memOk_coreWrLE | apply memOk_coreWr | simp only | split

theorem memOk_drainOut (a0 : Win) (a1 : Tile) (a2 a3 a4 a5 : Nat) (a6 : Core) (h6 : coreMemOk a6) : coreMemOk (drainOut a0 a1
    a2 a3 a4 a5 a6) := by
  unfold drainOut
  repeat' with_reducible first
    | assumption | apply memOk_writeOut | apply coreMemOk_ite | intro _

theorem memOk_measure (a0 : Core) (a1 : Bool) (a2 a3 : Nat) (a4 : BitVec 32) (h0 : coreMemOk a0) : coreMemOk (measure a0 a1
    a2 a3 a4) := by
  unfold measure
  repeat' with_reducible first
    | assumption | apply memOk_setStat | apply coreMemOk_ite | simp only | intro _

theorem memOk_drainAcc (a0 : Tile) (a1 : Nat) (a2 : BitVec 32) (a3 : Core) (h3 : coreMemOk a3) : coreMemOk (drainAcc a0 a1 a2
    a3) := by
  unfold drainAcc
  repeat' with_reducible first
    | assumption | apply coreMemOk_ite | apply wf_wrLE | simp only [↓coreMemOk_mk] | apply coreMemParts_mk | apply coreMemOk_weight
    | apply coreMemOk_act | apply coreMemOk_acc | apply coreMemOk_prog | apply coreMemOk_planeA | apply coreMemOk_shadowA | apply coreMemOk_planeB
    | apply coreMemOk_shadowB | intro _

theorem memOk_drainSelect (a0 : Tile) (a1 a2 a3 : Nat) (a4 : BitVec 32) (a5 : Core) (h5 : coreMemOk a5) : coreMemOk
    (drainSelect a0 a1 a2 a3 a4 a5) := by
  unfold drainSelect
  repeat' with_reducible first
    | assumption | apply coreMemOk_ite | simp only [↓coreMemOk_mk] | apply coreMemParts_mk | apply coreMemOk_weight | apply coreMemOk_act
    | apply coreMemOk_acc | apply coreMemOk_prog | apply coreMemOk_planeA | apply coreMemOk_shadowA | apply coreMemOk_planeB | apply coreMemOk_shadowB
    | intro _

theorem memOk_drainPad (a0 : Win) (a1 : Tile) (a2 : Core) (h2 : coreMemOk a2) : coreMemOk (drainPad a0 a1 a2) := by
  unfold drainPad
  repeat' with_reducible first
    | assumption | apply memOk_writeOut | apply coreMemOk_ite | apply coreMemOk_each | apply coreMemOk_iter | intro _

theorem memOk_addF64 (a0 : State) (a1 : Fld) (a2 a3 : Nat) (h0 : memOk a0) : memOk (addF64 a0 a1 a2 a3) := by
  unfold addF64
  repeat' with_reducible first
    | assumption | apply memOk_setF64

theorem coreMemOk_drain_each {β} {l : List β} {f : β → Drain → Drain} {d : Drain} (h : coreMemOk d.core)
    (g : ∀ b d, coreMemOk d.core → coreMemOk (f b d).core) : coreMemOk (each l f d).core := by
  unfold each
  induction l generalizing d with
  | nil => exact h
  | cons b l ih => exact ih (g b d h)

theorem coreMemOk_drain_iter {n : Nat} {f : Nat → Drain → Drain} {d : Drain} (h : coreMemOk d.core)
    (g : ∀ b d, coreMemOk d.core → coreMemOk (f b d).core) : coreMemOk (iter n f d).core := coreMemOk_drain_each h g

theorem memOk_drainOne (w : Win) (t : Tile) (x m n : Nat) (d : Drain) (h : coreMemOk d.core) : coreMemOk (drainOne w t x m n d).core :=
  memOk_drainSelect _ _ _ _ _ _ (memOk_flagSat _ _ _ (memOk_flagSat _ _ _ (memOk_drainOut _ _ _ _ _ _ _
    (memOk_measure _ _ _ _ _ (memOk_drainAcc _ _ _ _ h)))))

theorem memOk_drainTile (w : Win) (t : Tile) (k : Core) (h : coreMemOk k) : coreMemOk (drainTile w t k).core := by
  have hk := memOk_clearStats t k h
  unfold drainTile
  by_cases e : isCompare t.mode = true
  · simp only [e, if_true]; exact memOk_drainMasks _ _ _ hk
  · simp only [e]
    exact memOk_drainPad _ _ _ (coreMemOk_drain_each (memOk_flagSat _ _ _ (memOk_flagSat _ _ _ hk)) fun _ _ h => coreMemOk_drain_iter h fun _ _ h =>
      coreMemOk_drain_iter h fun _ _ h => memOk_drainOne _ _ _ _ _ _ h)

theorem memOk_completeTile (a0 : State) (a1 : Nat) (h0 : memOk a0) : memOk (completeTile a0 a1) := by
  unfold completeTile
  repeat' with_reducible first
    | assumption | apply memOk_drainTile | apply memOk_coreOf | apply memOk_telemAdd | apply memOk_addF64
    | apply memOk_putCore | apply memOk_addF | apply memOk_ite | simp only | simp only [↓coreMemOk_mk]
    | apply coreMemParts_mk | apply coreMemOk_weight | apply coreMemOk_act | apply coreMemOk_acc | apply coreMemOk_prog | apply coreMemOk_planeA
    | apply coreMemOk_shadowA | apply coreMemOk_planeB | apply coreMemOk_shadowB | intro _ | split

theorem memOk_completeTiles (a0 : State) (a1 : Nat) (h0 : memOk a0) : memOk (completeTiles a0 a1) := by
  unfold completeTiles
  repeat' with_reducible first
    | assumption | apply memOk_completeTile | apply memOk_iter | intro _

theorem memOk_stopCore (a0 : State) (a1 a2 : Nat) (h0 : memOk a0) : memOk (stopCore a0 a1 a2) := by
  unfold stopCore
  repeat' with_reducible first
    | assumption | apply memOk_leaveCore | apply memOk_completeTiles | apply memOk_ite | simp only [↓memOk_mk]
    | apply memParts_of | intro _

theorem memOk_stopCores (a0 : State) (a1 : Nat) (h0 : memOk a0) : memOk (stopCores a0 a1) := by
  unfold stopCores
  repeat' with_reducible first
    | assumption | apply memOk_stopCore | apply memOk_iter | intro _

theorem memOk_putObj (a0 : State) (a1 : Nat) (a2 : Obj) (h0 : memOk a0) : memOk (putObj a0 a1 a2) := by
  unfold putObj
  repeat' with_reducible first
    | assumption | simp only [↓memOk_mk] | apply memParts_of | apply memParts_hbm | apply wf_wrBytes | apply wf_mem_hbm

theorem memOk_updObj (a0 : State) (a1 : Nat) (a2 : Obj → Obj) (h0 : memOk a0) : memOk (updObj a0 a1 a2) := by
  unfold updObj
  repeat' with_reducible first
    | assumption | apply memOk_putObj

theorem memOk_dropRefs (a0 : State) (a1 : List Nat) (h0 : memOk a0) : memOk (dropRefs a0 a1) := by
  unfold dropRefs
  repeat' with_reducible first
    | assumption | apply memOk_updObj | apply memOk_each | intro _

theorem memOk_greyUnref (a0 : State) (h0 : memOk a0) : memOk (greyUnref a0) := by
  unfold greyUnref
  repeat' with_reducible first
    | assumption | apply memOk_dropRefs | apply memOk_each | simp only [↓memOk_mk] | apply memParts_of | intro _

theorem memOk_greyPut (a0 : State) (a1 a2 a3 : Nat) (a4 : List Byte) (h0 : memOk a0) : memOk (greyPut a0 a1 a2 a3 a4) :=
    by
  unfold greyPut
  repeat' with_reducible first
    | assumption | apply memOk_vaWriteE | apply memOk_ite | simp only [↓memOk_mk] | apply memParts_of | intro _

theorem memOk_greyHeader (a0 : State) (a1 a2 : Nat) (h0 : memOk a0) : memOk (greyHeader a0 a1 a2) := by
  unfold greyHeader
  repeat' with_reducible first
    | assumption | apply memOk_greyPut

theorem memOk_putHeld (a0 : State) (a1 : GreyHeld) (a2 : Bool) (h0 : memOk a0) : memOk (putHeld a0 a1 a2) := by
  unfold putHeld
  repeat' with_reducible first
    | assumption | apply memOk_greyPut

theorem memOk_freeHeld (a0 : State) (a1 : GreyHeld) (h0 : memOk a0) : memOk (freeHeld a0 a1) := by
  unfold freeHeld
  repeat' with_reducible first
    | assumption | apply memOk_greyHeader | apply memOk_putHeld | simp only [↓memOk_mk] | apply memParts_of

theorem memOk_carryHeader (a0 : State) (a1 : CarryArea) (h0 : memOk a0) : memOk (carryHeader a0 a1) := by
  unfold carryHeader
  repeat' with_reducible first
    | assumption | apply memOk_greyPut

theorem memOk_updCarry (a0 : State) (a1 : CarryArea) (h0 : memOk a0) : memOk (updCarry a0 a1) := by
  unfold updCarry
  repeat' with_reducible first
    | assumption | apply memOk_carryHeader | simp only [↓memOk_mk] | apply memParts_of

theorem memOk_carryAppend (a0 : State) (a1 a2 a3 a4 a5 : Nat) (a6 a7 : Bool) (a8 : List Byte) (h0 : memOk a0) : memOk
    (carryAppend a0 a1 a2 a3 a4 a5 a6 a7 a8) := by
  unfold carryAppend
  repeat' with_reducible first
    | assumption | apply memOk_addF | apply memOk_updCarry | apply memOk_greyPut | apply memOk_ite | simp only
    | intro _ | split

theorem memOk_dropPartial (a0 : State) (a1 : GreyPartial) (h0 : memOk a0) : memOk (dropPartial a0 a1) := by
  unfold dropPartial
  repeat' with_reducible first
    | assumption | apply memOk_greyHeader | simp only [↓memOk_mk] | apply memParts_of

theorem memOk_putSlot (a0 : State) (a1 : GreyPartial) (h0 : memOk a0) : memOk (putSlot a0 a1) := by
  unfold putSlot
  repeat' with_reducible first
    | assumption | apply memOk_greyPut

theorem memOk_updPartial (a0 : State) (a1 : GreyPartial) (h0 : memOk a0) : memOk (updPartial a0 a1) := by
  unfold updPartial
  repeat' with_reducible first
    | assumption | apply memOk_putSlot | simp only [↓memOk_mk] | apply memParts_of

theorem memOk_completePartial (a0 : State) (a1 : GreyPartial) (h0 : memOk a0) : memOk (completePartial a0 a1) := by
  unfold completePartial
  repeat' with_reducible first
    | assumption | apply memOk_freeHeld | apply memOk_dropPartial | apply memOk_carryAppend | apply memOk_updPartial
    | apply memOk_ite | apply memOk_each | simp only | intro _

theorem memOk_greyResult (a0 : State) (a1 : GreyHeld) (a2 : Nat) (a3 : List (BitVec 32)) (a4 : Bool) (h0 : memOk a0) :
    memOk (greyResult a0 a1 a2 a3 a4) := by
  unfold greyResult
  repeat' with_reducible first
    | assumption | apply memOk_freeHeld | apply memOk_carryAppend | apply memOk_completePartial | apply memOk_ite
    | simp only [↓memOk_mk] | apply memParts_of | intro _ | split

theorem memOk_greyDefault (a0 : State) (a1 : GreyHeld) (h0 : memOk a0) : memOk (greyDefault a0 a1) := by
  unfold greyDefault
  repeat' with_reducible first
    | assumption | apply memOk_addF | apply memOk_greyResult

theorem memOk_greyStepEnd (a0 : State) (a1 : StepRun) (h0 : memOk a0) : memOk (greyStepEnd a0 a1) := by
  unfold greyStepEnd
  repeat' with_reducible first
    | assumption | apply memOk_greyUnref | apply memOk_greyDefault | apply memOk_each | simp only [↓memOk_mk]
    | apply memParts_of | intro _

theorem memOk_updJob (a0 : State) (a1 : Nat) (a2 : Job → Job) (h0 : memOk a0) : memOk (updJob a0 a1 a2) := by
  unfold updJob
  repeat' with_reducible first
    | assumption | simp only [↓memOk_mk] | apply memParts_of

theorem memOk_putFence (a0 : State) (a1 : Nat) (a2 : Fence) (h0 : memOk a0) : memOk (putFence a0 a1 a2) := by
  unfold putFence
  repeat' with_reducible first
    | assumption | simp only [↓memOk_mk] | apply memParts_of | apply memParts_hbm | apply wf_wrBytes | apply wf_mem_hbm

theorem memOk_fenceUpdate (a0 : State) (a1 : Nat) (a2 : FenceUp) (h0 : memOk a0) : memOk (fenceUpdate a0 a1 a2) := by
  unfold fenceUpdate
  repeat' with_reducible first
    | assumption | apply memOk_putFence | apply memOk_ite | intro _

theorem memOk_fenceSignal (a0 : State) (a1 : Nat) (a2 : BitVec 64) (a3 : Nat) (h0 : memOk a0) : memOk (fenceSignal a0 a1
    a2 a3) := by
  unfold fenceSignal
  repeat' with_reducible first
    | assumption | apply memOk_fenceUpdate

theorem memOk_finishJob (a0 : State) (a1 : Nat) (a2 : Code) (h0 : memOk a0) : memOk (finishJob a0 a1 a2) := by
  unfold finishJob
  repeat' with_reducible first
    | assumption | apply memOk_updJob

theorem memOk_dropSub (a0 : State) (a1 : Nat) (h0 : memOk a0) : memOk (dropSub a0 a1) := by
  unfold dropSub
  repeat' with_reducible first
    | assumption | simp only [↓memOk_mk] | apply memParts_of

theorem memOk_fenceError (a0 : State) (a1 : Nat) (a2 : Code) (a3 a4 : Nat) (h0 : memOk a0) : memOk (fenceError a0 a1 a2
    a3 a4) := by
  unfold fenceError
  repeat' with_reducible first
    | assumption | apply memOk_fenceUpdate

theorem memOk_settleStep (a0 : State) (a1 : StepRun) (a2 : Code) (h0 : memOk a0) : memOk (settleStep a0 a1 a2) := by
  unfold settleStep
  repeat' with_reducible first
    | assumption | apply memOk_telemAdd | apply memOk_updCtx | apply memOk_updJob | apply memOk_fenceSignal
    | apply memOk_finishJob | apply memOk_dropSub | apply memOk_fenceError | apply memOk_ite | simp only
    | intro _

theorem memOk_lateEvent (a0 : State) (a1 : StepRun) (h0 : memOk a0) : memOk (lateEvent a0 a1) := by
  unfold lateEvent
  repeat' with_reducible first
    | assumption | apply memOk_eventCtx | apply memOk_ite | intro _

theorem memOk_putPart (a0 : State) (a1 : Nat) (a2 : Partition) (h0 : memOk a0) : memOk (putPart a0 a1 a2) := by
  unfold putPart
  repeat' with_reducible first
    | assumption | simp only [↓memOk_mk] | apply memParts_of

theorem memOk_updPart (a0 : State) (a1 : Nat) (a2 : Partition → Partition) (h0 : memOk a0) : memOk (updPart a0 a1 a2) :=
    by
  unfold updPart
  repeat' with_reducible first
    | assumption | apply memOk_putPart

theorem memOk_releaseHolder (a0 : State) (a1 : Nat) (h0 : memOk a0) : memOk (releaseHolder a0 a1) := by
  unfold releaseHolder
  repeat' with_reducible first
    | assumption | apply memOk_updCtx | apply memOk_updPart | simp only | split

theorem memOk_chargeOverrun (a0 : State) (a1 a2 a3 : Nat) (h0 : memOk a0) : memOk (chargeOverrun a0 a1 a2 a3) := by
  unfold chargeOverrun
  repeat' with_reducible first
    | assumption | apply memOk_updCtx | apply memOk_addF

theorem memOk_endHold (a0 : State) (a1 a2 : Nat) (h0 : memOk a0) : memOk (endHold a0 a1 a2).2 := by
  unfold endHold
  repeat' with_reducible first
    | assumption | apply memOk_releaseHolder | apply memOk_chargeOverrun | apply memOk_ite | simp only | intro _
    | split

theorem memOk_unbindObj (a0 : State) (a1 : Nat) (h0 : memOk a0) : memOk (unbindObj a0 a1) := by
  unfold unbindObj
  repeat' with_reducible first
    | assumption | apply memOk_updObj

theorem memOk_trimMaps (a0 : State) (a1 : Nat) (h0 : memOk a0) : memOk (trimMaps a0 a1) := by
  unfold trimMaps
  repeat' with_reducible first
    | assumption | apply memOk_updPart

theorem memOk_greyDiscard (a0 : State) (a1 : Nat) (h0 : memOk a0) : memOk (greyDiscard a0 a1) := by
  unfold greyDiscard
  repeat' with_reducible first
    | assumption | apply memOk_greyHeader | apply memOk_putHeld | apply memOk_greyUnref | apply memOk_addF | apply memOk_each
    | simp only [↓memOk_mk] | apply memParts_of | intro _

theorem memOk_unloadDone (a0 : State) (a1 : Nat) (h0 : memOk a0) : memOk (unloadDone a0 a1) := by
  unfold unloadDone
  repeat' with_reducible first
    | assumption | apply memOk_unbindObj | apply memOk_trimMaps | apply memOk_updPart | apply memOk_greyDiscard
    | apply memOk_finishJob | apply memOk_ite | apply memOk_each | simp only [↓memOk_mk] | apply memParts_of | intro _ | split

theorem memOk_slowdown (a0 : State) (a1 : Nat) (a2 : StepRun) (a3 : Code) (a4 : Nat) (h0 : memOk a0) : memOk (slowdown a0
    a1 a2 a3 a4) := by
  unfold slowdown
  repeat' with_reducible first
    | assumption | apply memOk_updCtx | apply memOk_eventCtx | apply memOk_ite | simp only | intro _ | split

theorem memOk_updSubs (a0 : State) (a1 : Submission → Submission) (h0 : memOk a0) : memOk (updSubs a0 a1) := by
  unfold updSubs
  repeat' with_reducible first
    | assumption | simp only [↓memOk_mk] | apply memParts_of

theorem memOk_putSub (a0 : State) (a1 : Submission) (h0 : memOk a0) : memOk (putSub a0 a1) := by
  unfold putSub
  repeat' with_reducible first
    | assumption | apply memOk_updSubs

theorem memOk_shiftSub (a0 : State) (a1 : Submission) (h0 : memOk a0) : memOk (shiftSub a0 a1) := by
  unfold shiftSub
  repeat' with_reducible first
    | assumption | apply memOk_putSub | apply memOk_addF | apply memOk_updCtx

theorem memOk_shiftHeld (a0 : State) (a1 a2 : Nat) (h0 : memOk a0) : memOk (shiftHeld a0 a1 a2) := by
  unfold shiftHeld
  repeat' with_reducible first
    | assumption | apply memOk_shiftSub | apply memOk_each | intro _

theorem memOk_moveRecord (a0 : State) (a1 : Win) (a2 a3 : Nat) (h0 : memOk a0) : memOk (moveRecord a0 a1 a2 a3) := by
  unfold moveRecord
  repeat' with_reducible first
    | assumption | apply memOk_putCore | apply memOk_coreOf | apply memOk_ite | simp only | apply wf_wrBytes
    | simp only [↓coreMemOk_mk] | apply coreMemParts_mk | apply coreMemOk_weight | apply coreMemOk_act | apply coreMemOk_acc | apply coreMemOk_prog
    | apply coreMemOk_planeA | apply coreMemOk_shadowA | apply coreMemOk_planeB | apply coreMemOk_shadowB | intro _

theorem memOk_startTask (a0 : State) (a1 : Nat) (a2 : StepRun) (a3 : Task) (a4 : Nat) (h0 : memOk a0) : memOk (startTask
    a0 a1 a2 a3 a4) := by
  unfold startTask
  repeat' with_reducible first
    | assumption | apply memOk_coreOf | apply memOk_putCore | simp only [↓memOk_mk] | apply memParts_of | simp only [↓coreMemOk_mk]
    | apply coreMemParts_mk | apply coreMemOk_weight | apply coreMemOk_act | apply coreMemOk_acc | apply coreMemOk_prog | apply coreMemOk_planeA
    | apply coreMemOk_shadowA | apply coreMemOk_planeB | apply coreMemOk_shadowB | split

theorem memOk_placeGo (a0 : Nat) (a1 : State) (a2 : Nat) (h1 : memOk a1) : memOk (placeGo a0 a1 a2) := by
  induction a0 generalizing a1 a2 with
  | zero =>
   unfold placeGo
   repeat' with_reducible first
     | assumption
  | succ _ ih =>
   unfold placeGo
   repeat' with_reducible first
     | assumption | apply ih | apply memOk_moveRecord | apply memOk_startTask | apply memOk_updRun | apply memOk_ite
     | simp only | intro _ | split

theorem memOk_placeTasks (a0 : State) (a1 : Nat) (h0 : memOk a0) : memOk (placeTasks a0 a1) := by
  unfold placeTasks
  repeat' with_reducible first
    | assumption | apply memOk_placeGo

theorem memOk_putRun (a0 : State) (a1 : Nat) (a2 : StepRun) (h0 : memOk a0) : memOk (putRun a0 a1 a2) := by
  unfold putRun
  repeat' with_reducible first
    | assumption | simp only [↓memOk_mk] | apply memParts_of

theorem memOk_resumeStep (a0 : State) (a1 a2 : Nat) (h0 : memOk a0) : memOk (resumeStep a0 a1 a2) := by
  unfold resumeStep
  repeat' with_reducible first
    | assumption | apply memOk_placeTasks | apply memOk_putRun | simp only [↓memOk_mk] | apply memParts_of | split

theorem memOk_startSlice (a0 : State) (a1 a2 : Nat) (h0 : memOk a0) : memOk (startSlice a0 a1 a2) := by
  unfold startSlice
  repeat' with_reducible first
    | assumption | apply memOk_updCtx | apply memOk_addF | apply memOk_updPart

theorem memOk_takeHolder (a0 : State) (a1 a2 : Nat) (h0 : memOk a0) : memOk (takeHolder a0 a1 a2) := by
  unfold takeHolder
  repeat' with_reducible first
    | assumption | apply memOk_updPart | apply memOk_shiftHeld | apply memOk_resumeStep | apply memOk_startSlice

theorem memOk_chooseHolder (a0 : State) (a1 : Nat) (h0 : memOk a0) : memOk (chooseHolder a0 a1) := by
  unfold chooseHolder
  repeat' with_reducible first
    | assumption | apply memOk_takeHolder | apply memOk_ite | intro _ | split

theorem memOk_earlyRelease (a0 : State) (a1 : Nat) (h0 : memOk a0) : memOk (earlyRelease a0 a1) := by
  unfold earlyRelease
  repeat' with_reducible first
    | assumption | apply memOk_releaseHolder | apply memOk_ite | simp only | intro _ | split

theorem memOk_refreshReady (a0 : State) (a1 : Nat) (h0 : memOk a0) : memOk (refreshReady a0 a1) := by
  unfold refreshReady
  repeat' with_reducible first
    | assumption | apply memOk_updCtx | apply memOk_each | intro _

theorem memOk_stepEnd (a0 : State) (a1 : Nat) (a2 : Code) (h0 : memOk a0) : memOk (stepEnd a0 a1 a2) := by
  unfold stepEnd
  repeat' with_reducible first
    | assumption | apply memOk_stopCores | apply memOk_greyStepEnd | apply memOk_settleStep | apply memOk_lateEvent
    | apply memOk_updPart | apply memOk_endHold | apply memOk_unloadDone | apply memOk_slowdown | apply memOk_chooseHolder
    | apply memOk_earlyRelease | apply memOk_refreshReady | apply memOk_ite | simp only [↓memOk_mk] | apply memParts_of
    | intro _ | split

theorem memOk_ctlSend (a0 : State) (a1 a2 a3 a4 a5 a6 : Nat) (h0 : memOk a0) : memOk (ctlSend a0 a1 a2 a3 a4 a5 a6) := by
  unfold ctlSend
  repeat' with_reducible first
    | assumption | apply memOk_ite | simp only [↓memOk_mk] | apply memParts_of | intro _

theorem memOk_abandon (a0 : State) (a1 a2 : Nat) (a3 : Code) (h0 : memOk a0) : memOk (abandon a0 a1 a2 a3) := by
  unfold abandon
  repeat' with_reducible first
    | assumption | apply memOk_ctlSend | split

theorem memOk_stepFail (a0 : State) (a1 : Nat) (a2 : Code) (h0 : memOk a0) : memOk (stepFail a0 a1 a2) := by
  unfold stepFail
  repeat' with_reducible first
    | assumption | apply memOk_stepEnd | apply memOk_abandon | apply memOk_ite | intro _ | split

theorem memOk_errLog (a0 : State) (a1 : Code) (a2 a3 : Nat) (h0 : memOk a0) : memOk (errLog a0 a1 a2 a3) := by
  unfold errLog
  repeat' with_reducible first
    | assumption | apply memOk_setF | apply memOk_addF

theorem memOk_sramUe (a0 : State) (a1 a2 a3 : Nat) (a4 : List Nat) (a5 : Code) (h0 : memOk a0) : memOk (sramUe a0 a1 a2
    a3 a4 a5) := by
  unfold sramUe
  repeat' with_reducible first
    | assumption | apply memOk_healthEvent | apply memOk_errLog | apply memOk_telemAdd

theorem memOk_coreEcc (a0 : State) (a1 : Nat) (a2 : SramEcc) (a3 : Nat) (a4 : State → State) (h0 : memOk a0)
    (h4 : ∀ (y0 : State), memOk (y0) → memOk (a4 y0)) : memOk (coreEcc a0 a1 a2 a3 a4) := by
  unfold coreEcc
  repeat' with_reducible first
    | assumption | apply h4 | apply memOk_ceCount | apply memOk_stepFail | apply memOk_sramUe | split

theorem memOk_programFault (a0 : State) (a1 : Nat) (h0 : memOk a0) : memOk (programFault a0 a1) := by
  unfold programFault
  repeat' with_reducible first
    | assumption | apply memOk_stepFail

theorem memOk_swapPlanes (a0 : Core) (a1 : Nat) (h0 : coreMemOk a0) : coreMemOk (swapPlanes a0 a1) := by
  unfold swapPlanes
  repeat' with_reducible first
    | assumption | apply coreMemOk_ite | simp only [↓coreMemOk_mk] | apply coreMemParts_mk | apply coreMemOk_weight | apply coreMemOk_act
    | apply coreMemOk_acc | apply coreMemOk_prog | apply coreMemOk_planeA | apply coreMemOk_shadowA | apply coreMemOk_planeB | apply coreMemOk_shadowB
    | intro _

theorem memOk_loadShadow (a0 : Core) (a1 : Nat) (a2 : List Host.Cell) (h0 : coreMemOk a0) (h2 : Memory.wf (a2) = true) :
    coreMemOk (loadShadow a0 a1 a2) := by
  unfold loadShadow
  repeat' with_reducible first
    | assumption | apply coreMemOk_ite | simp only [↓coreMemOk_mk] | apply coreMemParts_mk | apply coreMemOk_weight | apply coreMemOk_act
    | apply coreMemOk_acc | apply coreMemOk_prog | apply coreMemOk_planeA | apply coreMemOk_shadowA | apply coreMemOk_planeB | apply coreMemOk_shadowB
    | intro _

theorem memOk_tileCells (a0 : Core) (a1 : Win) (a2 a3 : Nat) (h0 : coreMemOk a0) : Memory.wf (tileCells a0 a1 a2 a3) =
    true := by
  unfold tileCells
  repeat' with_reducible first
    | assumption | simp only | apply wf_filter | apply coreMemOk_weight

theorem memOk_loadWeights (a0 : Core) (a1 : Win) (a2 : TileFields) (h0 : coreMemOk a0) : coreMemOk (loadWeights a0 a1 a2) :=
    by
  unfold loadWeights
  repeat' with_reducible first
    | assumption | apply memOk_swapPlanes | apply memOk_loadShadow | apply memOk_tileCells | apply coreMemOk_foldl | intro _

theorem memOk_planeOf (a0 : Core) (a1 : Nat) (h0 : coreMemOk a0) : Memory.wf (planeOf a0 a1) = true := by
  unfold planeOf
  repeat' with_reducible first
    | assumption | apply coreMemOk_planeA | apply coreMemOk_planeB | split

theorem memOk_arrayCore (a0 : Core) (a1 : Nat) (h0 : coreMemOk a0) : coreMemOk (arrayCore a0 a1) := by
  unfold arrayCore
  repeat' with_reducible first
    | assumption | apply memOk_planeOf | simp only [↓coreMemOk_mk] | apply coreMemParts_mk | apply coreMemOk_act | apply coreMemOk_acc
    | apply coreMemOk_prog | apply coreMemOk_planeA | apply coreMemOk_shadowA | apply coreMemOk_planeB | apply coreMemOk_shadowB

theorem memOk_goTo (a0 : State) (a1 a2 : Nat) (h0 : memOk a0) : memOk (goTo a0 a1 a2) := by
  unfold goTo
  repeat' with_reducible first
    | assumption | apply memOk_putCore | apply memOk_coreOf | apply memOk_programFault | simp only
    | simp only [↓coreMemOk_mk] | apply coreMemParts_mk | apply coreMemOk_weight | apply coreMemOk_act | apply coreMemOk_acc | apply coreMemOk_prog
    | apply coreMemOk_planeA | apply coreMemOk_shadowA | apply coreMemOk_planeB | apply coreMemOk_shadowB | split

theorem memOk_advance (a0 : State) (a1 : Nat) (h0 : memOk a0) : memOk (advance a0 a1) := by
  unfold advance
  repeat' with_reducible first
    | assumption | apply memOk_goTo

theorem memOk_tileIssue (a0 : TileMode) (a1 : TileFields) (a2 : Nat) (a3 : State) (h3 : memOk a3) : memOk (tileIssue a0
    a1 a2 a3) := by
  unfold tileIssue
  repeat' with_reducible first
    | assumption | apply memOk_coreOf | apply memOk_stepFail | apply memOk_programFault | apply memOk_loadWeights
    | apply memOk_putCore | apply memOk_advance | apply memOk_addF64 | apply memOk_ite | simp only
    | simp only [↓coreMemOk_mk] | apply coreMemParts_mk | apply coreMemOk_weight | apply coreMemOk_act | apply coreMemOk_acc | apply coreMemOk_prog
    | apply coreMemOk_planeA | apply coreMemOk_shadowA | apply coreMemOk_planeB | apply coreMemOk_shadowB | intro _

theorem memOk_tileExec (a0 : Instr) (a1 : TileMode) (a2 : Nat) (a3 : Bool) (a4 : TileFields) (a5 : SramEcc) (a6 : State)
    (h6 : memOk a6) : NextMemOk (tileExec a0 a1 a2 a3 a4 a5 a6) := by
  unfold tileExec
  repeat' with_reducible first
    | assumption | apply memOk_issue | apply memOk_coreEcc | apply memOk_tileIssue | intro _

theorem memOk_execTileMinPlus (a0 : Nat) (a1 : Bool) (a2 : TileFields) (a3 : SramEcc) (a4 : State) (h4 : memOk a4) :
    NextMemOk (execTileMinPlus a0 a1 a2 a3 a4) := by
  unfold execTileMinPlus
  repeat' with_reducible first
    | assumption | apply memOk_tileExec

theorem memOk_releaseObj (a0 : State) (a1 : Nat) (h0 : memOk a0) : memOk (releaseObj a0 a1) := by
  unfold releaseObj
  repeat' with_reducible first
    | assumption | apply memOk_finishJob | apply memOk_putObj | apply memOk_ite | apply memOk_each | simp only [↓memOk_mk]
    | apply memParts_of | intro _

theorem memOk_countPorts (a0 : State) (h0 : memOk a0) : memOk (countPorts a0) := by
  unfold countPorts
  repeat' with_reducible first
    | assumption | apply memOk_telemAdd | simp only [↓memOk_mk] | apply memParts_of

theorem memOk_spillTake (a0 : State) (a1 : StepRun) (a2 : Nat) (h0 : memOk a0) : memOk (spillTake a0 a1 a2).2 := by
  unfold spillTake
  repeat' with_reducible first
    | assumption | simp only [↓memOk_mk] | apply memParts_of

theorem memOk_exTake (a0 : State) (a1 : Nat) (a2 : StepRun) (a3 a4 : Nat) (h0 : memOk a0) : memOk (exTake a0 a1 a2 a3
    a4).2.2 := by
  unfold exTake
  repeat' with_reducible first
    | assumption | apply memOk_updRun | apply memOk_spillTake | simp only | split

theorem memOk_updPort (a0 : State) (a1 : Nat) (a2 : Port → Port) (h0 : memOk a0) : memOk (updPort a0 a1 a2) := by
  unfold updPort
  repeat' with_reducible first
    | assumption | simp only [↓memOk_mk] | apply memParts_of

theorem memOk_putTimed (a0 : State) (a1 a2 : Nat) (a3 : List Byte) (h0 : memOk a0) : memOk (putTimed a0 a1 a2 a3) := by
  unfold putTimed
  repeat' with_reducible first
    | assumption | apply memOk_telemAdd | apply memOk_updPort | apply memOk_ite | simp only [↓memOk_mk] | apply memParts_of
    | intro _

theorem memOk_exSlot (a0 : State) (a1 a2 a3 : Nat) (a4 : Nat × Nat) (h0 : memOk a0) : memOk (exSlot a0 a1 a2 a3 a4) := by
  unfold exSlot
  repeat' with_reducible first
    | assumption | apply memOk_exTake | apply memOk_updRun | apply memOk_putTimed | apply memOk_ite | simp only
    | intro _ | split

theorem memOk_exchangeSlots (a0 : State) (a1 : Nat) (a2 : StepRun) (a3 a4 : Nat) (h0 : memOk a0) : memOk (exchangeSlots
    a0 a1 a2 a3 a4) := by
  unfold exchangeSlots
  repeat' with_reducible first
    | assumption | apply memOk_exSlot | apply memOk_each | intro _

theorem memOk_updStream (a0 : State) (a1 a2 : Nat) (a3 : StreamRun → StreamRun) (h0 : memOk a0) : memOk (updStream a0 a1
    a2 a3) := by
  unfold updStream
  repeat' with_reducible first
    | assumption | apply memOk_updRun

theorem memOk_stepProgress (a0 : State) (a1 : Nat) (h0 : memOk a0) : memOk (stepProgress a0 a1) := by
  unfold stepProgress
  repeat' with_reducible first
    | assumption | apply memOk_stepEnd | apply memOk_ite | intro _ | split

theorem memOk_abortFences (a0 : State) (a1 : Nat) (a2 : Code) (a3 : Bool) (h0 : memOk a0) : memOk (abortFences a0 a1 a2
    a3) := by
  unfold abortFences
  repeat' with_reducible first
    | assumption | apply memOk_fenceError | apply memOk_putFence | apply memOk_ite | apply memOk_each | simp only
    | intro _

theorem memOk_freePmap (a0 : State) (a1 : List Nat) (h0 : memOk a0) : memOk (freePmap a0 a1) := by
  unfold freePmap
  repeat' with_reducible first
    | assumption | apply memOk_each | simp only [↓memOk_mk] | apply memParts_of | intro _

theorem memOk_dropBinds (a0 : State) (a1 : Nat) (h0 : memOk a0) : memOk (dropBinds a0 a1) := by
  unfold dropBinds
  repeat' with_reducible first
    | assumption | apply memOk_unbindObj | apply memOk_freePmap | apply memOk_each | simp only [↓memOk_mk] | apply memParts_of
    | intro _

theorem memOk_setG (a0 : Core) (a1 : Nat) (a2 : BitVec 64) (h0 : coreMemOk a0) : coreMemOk (setG a0 a1 a2) := by
  unfold setG
  repeat' with_reducible first
    | assumption | apply coreMemOk_ite | simp only [↓coreMemOk_mk] | apply coreMemParts_mk | apply coreMemOk_weight | apply coreMemOk_act
    | apply coreMemOk_acc | apply coreMemOk_prog | apply coreMemOk_planeA | apply coreMemOk_shadowA | apply coreMemOk_planeB | apply coreMemOk_shadowB
    | intro _

theorem memOk_failFlag (a0 : Core) (h0 : coreMemOk a0) : coreMemOk (failFlag a0) := by
  unfold failFlag
  repeat' with_reducible first
    | assumption | simp only [↓coreMemOk_mk] | apply coreMemParts_mk | apply coreMemOk_weight | apply coreMemOk_act | apply coreMemOk_acc
    | apply coreMemOk_prog | apply coreMemOk_planeA | apply coreMemOk_shadowA | apply coreMemOk_planeB | apply coreMemOk_shadowB

theorem memOk_slabReturn (a0 : State) (a1 : SlabReq) (a2 : BitVec 64) (a3 : Bool) (h0 : memOk a0) : memOk (slabReturn a0
    a1 a2 a3) := by
  unfold slabReturn
  repeat' with_reducible first
    | assumption | apply memOk_coreOf | apply memOk_setG | apply memOk_putCore | apply memOk_failFlag | apply memOk_ite
    | apply coreMemOk_ite | simp only | simp only [↓coreMemOk_mk] | apply coreMemParts_mk | apply coreMemOk_weight
    | apply coreMemOk_act | apply coreMemOk_acc | apply coreMemOk_prog | apply coreMemOk_planeA | apply coreMemOk_shadowA | apply coreMemOk_planeB
    | apply coreMemOk_shadowB | intro _

theorem memOk_serveSlab (a0 : State) (a1 : SlabReq) (h0 : memOk a0) : memOk (serveSlab a0 a1) := by
  unfold serveSlab
  repeat' with_reducible first
    | assumption | apply memOk_slabReturn | apply memOk_addF | apply memOk_updCtx | apply memOk_stepFail | apply memOk_ite
    | simp only | intro _ | split

theorem memOk_finishSlab (a0 : State) (a1 : Nat) (h0 : memOk a0) : memOk (finishSlab a0 a1) := by
  unfold finishSlab
  repeat' with_reducible first
    | assumption | apply memOk_serveSlab | apply memOk_each | simp only [↓memOk_mk] | apply memParts_of | intro _

theorem memOk_putTable (a0 : State) (a1 : Nat) (a2 : Table) (h0 : memOk a0) : memOk (putTable a0 a1 a2) := by
  unfold putTable
  repeat' with_reducible first
    | assumption | simp only [↓memOk_mk] | apply memParts_of | apply memParts_hbm | apply wf_wrBytes | apply wf_mem_hbm

theorem memOk_putGroup (a0 : State) (a1 : Nat) (a2 : EpochGroup) (h0 : memOk a0) : memOk (putGroup a0 a1 a2) := by
  unfold putGroup
  repeat' with_reducible first
    | assumption | apply memOk_putTable | apply memOk_each | simp only [↓memOk_mk] | apply memParts_of | intro _

theorem memOk_removeCrimson (a0 : State) (a1 : Crimson → Bool) (h0 : memOk a0) : memOk (removeCrimson a0 a1) := by
  unfold removeCrimson
  repeat' with_reducible first
    | assumption | simp only [↓memOk_mk] | apply memParts_of

theorem memOk_dropCrimson (a0 : State) (a1 : Crimson → Bool) (h0 : memOk a0) : memOk (dropCrimson a0 a1) := by
  unfold dropCrimson
  repeat' with_reducible first
    | assumption | apply memOk_removeCrimson | simp only [↓memOk_mk] | apply memParts_of

theorem memOk_endGroup (a0 : State) (a1 : Nat) (h0 : memOk a0) : memOk (endGroup a0 a1) := by
  unfold endGroup
  repeat' with_reducible first
    | assumption | apply memOk_finishJob | apply memOk_ite | apply memOk_each | simp only [↓memOk_mk] | apply memParts_of
    | intro _

theorem memOk_releaseTable (a0 : State) (a1 : Nat) (h0 : memOk a0) : memOk (releaseTable a0 a1) := by
  unfold releaseTable
  repeat' with_reducible first
    | assumption | apply memOk_freePmap | apply memOk_dropCrimson | apply memOk_unbindObj | apply memOk_finishJob
    | apply memOk_trimMaps | apply memOk_endGroup | apply memOk_each | simp only [↓memOk_mk] | apply memParts_of
    | apply memParts_hbm | apply wf_wrBytes | apply wf_mem_hbm | intro _ | split

theorem memOk_abortUnbind (a0 : State) (a1 : Nat) (a2 : Code) (a3 : Bool) (h0 : memOk a0) : memOk (abortUnbind a0 a1 a2
    a3) := by
  unfold abortUnbind
  repeat' with_reducible first
    | assumption | apply memOk_dropBinds | apply memOk_finishSlab | apply memOk_unbindObj | apply memOk_updCtx
    | apply memOk_finishJob | apply memOk_putGroup | apply memOk_releaseTable | apply memOk_unloadDone | apply memOk_ite
    | apply memOk_each | simp only [↓memOk_mk] | apply memParts_of | intro _

theorem memOk_detachPage (a0 : State) (a1 : Nat) (h0 : memOk a0) : memOk (detachPage a0 a1) := by
  unfold detachPage
  repeat' with_reducible first
    | assumption | simp only [↓memOk_mk] | apply memParts_of

theorem memOk_abortCopies (a0 : State) (a1 : Nat) (a2 : Code) (h0 : memOk a0) : memOk (abortCopies a0 a1 a2) := by
  unfold abortCopies
  repeat' with_reducible first
    | assumption | apply memOk_detachPage | apply memOk_finishJob | apply memOk_each | simp only [↓memOk_mk]
    | apply memParts_of | intro _

theorem memOk_abortSteps (a0 : State) (a1 : Nat) (a2 : Code) (h0 : memOk a0) : memOk (abortSteps a0 a1 a2) := by
  unfold abortSteps
  repeat' with_reducible first
    | assumption | apply memOk_greyStepEnd | apply memOk_settleStep | apply memOk_updPart | apply memOk_stepFail
    | apply memOk_greyDiscard | apply memOk_chooseHolder | apply memOk_releaseHolder | apply memOk_ite | apply memOk_each
    | simp only [↓memOk_mk] | apply memParts_of | intro _ | split

theorem memOk_abortFetch (a0 : State) (a1 : Nat) (h0 : memOk a0) : memOk (abortFetch a0 a1) := by
  unfold abortFetch
  repeat' with_reducible first
    | assumption | apply memOk_updCtx

theorem memOk_ctxFault (a0 : State) (a1 : Nat) (a2 : Code) (h0 : memOk a0) : memOk (ctxFault a0 a1 a2) := by
  unfold ctxFault
  repeat' with_reducible first
    | assumption | apply memOk_updCtx | apply memOk_eventCtx | apply memOk_eventAdm | apply memOk_abortFences
    | apply memOk_abortUnbind | apply memOk_abortCopies | apply memOk_abortSteps | apply memOk_abortFetch | apply memOk_ite
    | simp only | intro _

theorem memOk_xlateFault (a0 : State) (a1 a2 a3 : Nat) (a4 : Bool) (a5 : Code) (h0 : memOk a0) : memOk (xlateFault a0 a1
    a2 a3 a4 a5) := by
  unfold xlateFault
  repeat' with_reducible first
    | assumption | apply memOk_addF | apply memOk_fqPost | apply memOk_stepFail | apply memOk_ctxFault | apply memOk_ite
    | intro _ | split

theorem memOk_touchGo (a0 : State) (a1 a2 : Nat) (a3 : Bool) (a4 a5 a6 : Nat) (h0 : memOk a0) : memOk (touchGo a0 a1 a2
    a3 a4 a5 a6) := by
  induction a4 generalizing a0 a1 a2 a3 a5 a6 with
  | zero =>
   unfold touchGo
   repeat' with_reducible first
     | assumption
  | succ _ ih =>
   unfold touchGo
   repeat' with_reducible first
     | assumption | apply ih | apply memOk_touchPage | apply memOk_ite | simp only | intro _

theorem memOk_touchRead (a0 : State) (a1 a2 a3 a4 : Nat) (h0 : memOk a0) : memOk (touchRead a0 a1 a2 a3 a4) := by
  unfold touchRead
  repeat' with_reducible first
    | assumption | apply memOk_touchGo

theorem memOk_sendFlits (a0 : State) (a1 : Nat) (a2 : StepRun) (a3 : StreamRun) (a4 : List Byte) (h0 : memOk a0) : memOk
    (sendFlits a0 a1 a2 a3 a4) := by
  unfold sendFlits
  repeat' with_reducible first
    | assumption | apply memOk_putTimed | apply memOk_iter | simp only | intro _

theorem memOk_sendDelivery (a0 : State) (a1 : Nat) (a2 : StepRun) (a3 : StreamRun) (a4 : SramEcc) (h0 : memOk a0) : memOk
    (sendDelivery a0 a1 a2 a3 a4) := by
  unfold sendDelivery
  repeat' with_reducible first
    | assumption | apply memOk_updStream | apply memOk_stepProgress | apply memOk_xlateFault | apply memOk_touchRead
    | apply memOk_stepFail | apply memOk_sramUe | apply memOk_ceCount | apply memOk_vaWriteE | apply memOk_sendFlits
    | apply memOk_ite | simp only | intro _ | split

theorem memOk_sendsDue (a0 : State) (a1 a2 : Nat) (a3 : SramEcc) (h0 : memOk a0) : memOk (sendsDue a0 a1 a2 a3) := by
  unfold sendsDue
  repeat' with_reducible first
    | assumption | apply memOk_exchangeSlots | apply memOk_sendDelivery | apply memOk_ite | intro _ | split

theorem memOk_sendPass (a0 : State) (a1 : Nat) (h0 : memOk a0) : memOk (sendPass a0 a1) := by
  unfold sendPass
  repeat' with_reducible first
    | assumption | apply memOk_sendsDue | apply memOk_each | intro _

theorem memOk_runJob (a0 : State) (a1 a2 : Nat) (a3 : Job → State → State) (h0 : memOk a0)
    (h3 : ∀ (y0 : Job) (y1 : State), memOk (y1) → memOk (a3 y0 y1)) : NextMemOk (runJob a0 a1 a2 a3) := by
  unfold runJob
  repeat' with_reducible first
    | assumption | apply h3 | apply NextMemOk.next | apply nextMemOk_ite | simp only [↓memOk_mk] | apply memParts_of | intro _
    | split

theorem memOk_execLoadCodebook (a0 : Nat) (a1 : State) (h1 : memOk a1) : NextMemOk (execLoadCodebook a0 a1) := by
  unfold execLoadCodebook
  repeat' with_reducible first
    | assumption | apply memOk_runJob | apply memOk_finishJob | apply memOk_touchRead | apply memOk_ite
    | simp only [↓memOk_mk] | apply memParts_of | apply memParts_code | apply wf_wrBytes | apply wf_mem_code | intro _

theorem memOk_countLost (a0 : State) (a1 : Nat) (h0 : memOk a0) : memOk (countLost a0 a1) := by
  unfold countLost
  repeat' with_reducible first
    | assumption | apply memOk_addF | apply memOk_ite | intro _

theorem memOk_dropOldTable (a0 : State) (a1 : Nat) (h0 : memOk a0) : memOk (dropOldTable a0 a1) := by
  unfold dropOldTable
  repeat' with_reducible first
    | assumption | apply memOk_unbindObj | apply memOk_freePmap | apply memOk_dropCrimson | apply memOk_finishJob
    | apply memOk_each | simp only [↓memOk_mk] | apply memParts_of | intro _ | split

theorem memOk_tabWrite (a0 : State) (a1 : Table) (a2 : Nat) (a3 : List Byte) (h0 : memOk a0) : memOk (tabWrite a0 a1 a2
    a3) := by
  unfold tabWrite
  repeat' with_reducible first
    | assumption | apply memOk_xlWrite | split

theorem memOk_tabWriteN (a0 : Nat) (a1 : State) (a2 : Table) (a3 : Nat) (a4 : List Byte) (h1 : memOk a1) : memOk
    (tabWriteN a0 a1 a2 a3 a4) := by
  induction a0 generalizing a1 a2 a3 a4 with
  | zero =>
   unfold tabWriteN
   repeat' with_reducible first
     | assumption
  | succ _ ih =>
   unfold tabWriteN
   repeat' with_reducible first
     | assumption | apply ih | apply memOk_tabWrite | apply memOk_ite | intro _

theorem memOk_startTwin (a0 : State) (a1 : Nat) (a2 : Table) (h0 : memOk a0) : memOk (startTwin a0 a1 a2) := by
  unfold startTwin
  repeat' with_reducible first
    | assumption | apply memOk_tabWriteN | apply memOk_putTable | apply memOk_ite | simp only [↓memOk_mk] | apply memParts_of
    | intro _

theorem memOk_installTable (a0 : State) (a1 : Nat) (a2 : Table) (h0 : memOk a0) : memOk (installTable a0 a1 a2) := by
  unfold installTable
  repeat' with_reducible first
    | assumption | apply memOk_dropOldTable | apply memOk_putTable | apply memOk_startTwin | apply memOk_endGroup
    | apply memOk_trimMaps | apply memOk_finishJob | apply memOk_ite | simp only [↓memOk_mk] | apply memParts_of | intro _
    | split

theorem memOk_limiterEvent (a0 : State) (a1 : Nat) (a2 : Code) (a3 : Fld) (a4 : Nat) (h0 : memOk a0) : memOk
    (limiterEvent a0 a1 a2 a3 a4) := by
  unfold limiterEvent
  repeat' with_reducible first
    | assumption | apply memOk_healthEvent | apply memOk_addF

theorem memOk_busError (a0 : State) (a1 : Nat) (h0 : memOk a0) : memOk (busError a0 a1) := by
  unfold busError
  repeat' with_reducible first
    | assumption | simp only [↓memOk_mk] | apply memParts_of

theorem memOk_limiterRefuse (a0 : State) (a1 : Nat) (a2 : Code) (a3 : Fld) (a4 : Nat) (h0 : memOk a0) : memOk
    (limiterRefuse a0 a1 a2 a3 a4) := by
  unfold limiterRefuse
  repeat' with_reducible first
    | assumption | apply memOk_limiterEvent | apply memOk_busError

theorem memOk_unpowered (a0 : State) (a1 : Nat) (a2 : Bool) (h0 : memOk a0) : memOk (unpowered a0 a1 a2) := by
  unfold unpowered
  repeat' with_reducible first
    | assumption | apply memOk_healthEvent | apply memOk_ite | simp only [↓memOk_mk] | apply memParts_of | intro _

theorem memOk_after (a0 : Res) (a1 : State) (h0 : NextMemOk a0) (h1 : memOk a1) : memOk (after a0 a1) := by
  cases h0 with
  | next h => exact h
  | fault => exact h1

theorem memOk_hostWrite (a0 : State) (a1 : State → State) (h0 : memOk a0)
    (h1 : ∀ (y0 : State), memOk (y0) → memOk (a1 y0)) : NextMemOk (hostWrite a0 a1) := by
  unfold hostWrite
  repeat' with_reducible first
    | assumption | apply h1 | apply NextMemOk.next | apply memOk_ite | intro _

theorem memOk_badAdmDoorbell (a0 : State) (a1 : Nat) (a2 : W32) (h0 : memOk a0) : memOk (badAdmDoorbell a0 a1 a2) := by
  unfold badAdmDoorbell
  repeat' with_reducible first
    | assumption | apply memOk_addF | apply memOk_eventAdm | apply memOk_ite | simp only [↓memOk_mk] | apply memParts_of
    | intro _

theorem memOk_execAdmqTailWrite (a0 : W32) (a1 : State) (h1 : memOk a1) : NextMemOk (execAdmqTailWrite a0 a1) := by
  unfold execAdmqTailWrite
  repeat' with_reducible first
    | assumption | apply memOk_hostWrite | apply memOk_badAdmDoorbell | apply memOk_setF | apply memOk_ite | intro _

theorem memOk_execAdmcqHeadWrite (a0 : W32) (a1 : State) (h1 : memOk a1) : NextMemOk (execAdmcqHeadWrite a0 a1) := by
  unfold execAdmcqHeadWrite
  repeat' with_reducible first
    | assumption | apply memOk_hostWrite | apply memOk_badAdmDoorbell | apply memOk_setF | apply memOk_ite | intro _

theorem memOk_execAdmeqHeadWrite (a0 : W32) (a1 : State) (h1 : memOk a1) : NextMemOk (execAdmeqHeadWrite a0 a1) := by
  unfold execAdmeqHeadWrite
  repeat' with_reducible first
    | assumption | apply memOk_hostWrite | apply memOk_badAdmDoorbell | apply memOk_flushAdmLost | apply memOk_setF
    | apply memOk_ite | intro _

theorem memOk_execForerunnerModeSet (a0 : Bool) (a1 : State) (h1 : memOk a1) : NextMemOk (execForerunnerModeSet a0 a1) :=
    by
  unfold execForerunnerModeSet
  repeat' with_reducible first
    | assumption | apply memOk_hostWrite | apply memOk_setF | apply memOk_ite | intro _

theorem memOk_execTranslationRegionSet (a0 : W32) (a1 : State) (h1 : memOk a1) : NextMemOk (execTranslationRegionSet a0
    a1) := by
  unfold execTranslationRegionSet
  repeat' with_reducible first
    | assumption | apply memOk_hostWrite | apply memOk_setF | apply memOk_ite | intro _

theorem memOk_takeTransfer (a0 : State) (a1 : Nat) (h0 : memOk a0) : memOk (takeTransfer a0 a1) := by
  unfold takeTransfer
  repeat' with_reducible first
    | assumption | apply memOk_updJob

theorem memOk_requestPage (a0 : State) (a1 a2 a3 a4 : Nat) (a5 : Bool) (a6 : Xl) (h0 : memOk a0) : memOk (requestPage a0
    a1 a2 a3 a4 a5 a6) := by
  unfold requestPage
  repeat' with_reducible first
    | assumption | apply memOk_addF | apply memOk_fqPost | apply memOk_ite | simp only [↓memOk_mk] | apply memParts_of
    | intro _ | split

theorem memOk_copyFault (a0 : State) (a1 a2 a3 a4 : Nat) (a5 : Bool) (a6 : Xl) (h0 : memOk a0) : memOk (copyFault a0 a1
    a2 a3 a4 a5 a6) := by
  unfold copyFault
  repeat' with_reducible first
    | assumption | apply memOk_finishJob | apply memOk_fqPost

theorem memOk_stallCopy (a0 : State) (a1 a2 a3 a4 : Nat) (a5 : Bool) (a6 : Xl) (h0 : memOk a0) : memOk (stallCopy a0 a1
    a2 a3 a4 a5 a6) := by
  unfold stallCopy
  repeat' with_reducible first
    | assumption | apply memOk_requestPage | apply memOk_copyFault | apply memOk_ite | simp only | intro _

theorem memOk_putDelta (a0 : State) (a1 : Table) (a2 : Nat × Nat) (a3 : DeltaEntry) (h0 : memOk a0) : memOk (putDelta a0
    a1 a2 a3) := by
  unfold putDelta
  repeat' with_reducible first
    | assumption | apply memOk_tabWrite

theorem memOk_deltaPlace (a0 : State) (a1 : Nat) (a2 : Table) (a3 a4 : Nat) (h0 : memOk a0) : OptMemOk2 (deltaPlace a0 a1
    a2 a3 a4) := by
  unfold deltaPlace
  repeat' with_reducible first
    | assumption | apply memOk_putDelta | exact .none | apply OptMemOk2.some | apply optMemOk2_ite | simp only [↓memOk_mk]
    | apply memParts_of | intro _ | split

theorem memOk_setDirty (a0 : State) (a1 : Table) (a2 a3 : Nat) (a4 : Bool) (h0 : memOk a0) : memOk (setDirty a0 a1 a2 a3
    a4) := by
  unfold setDirty
  repeat' with_reducible first
    | assumption | apply memOk_tabWrite

theorem memOk_writeRecord (a0 : State) (a1 : Nat) (a2 : Table) (a3 a4 : Nat) (a5 : List Byte) (h0 : memOk a0) : OptMemOk
    (writeRecord a0 a1 a2 a3 a4 a5) := by
  unfold writeRecord
  repeat' with_reducible first
    | assumption | apply memOk_deltaPlace | apply memOk_tabWrite | apply memOk_setDirty | exact .none | apply OptMemOk.some
    | apply optMemOk_ite | (apply optMemOk2_elim; case' e => assumption) | intro _ | split

theorem memOk_refuseRecord (a0 : State) (a1 : UpdRec) (a2 : Code) (h0 : memOk a0) : memOk (refuseRecord a0 a1 a2) := by
  unfold refuseRecord
  repeat' with_reducible first
    | assumption | apply memOk_addF | apply memOk_updJob | apply memOk_eventCtx | simp only | split

theorem memOk_noteLast (a0 : State) (a1 : UpdRec) (h0 : memOk a0) : memOk (noteLast a0 a1) := by
  unfold noteLast
  repeat' with_reducible first
    | assumption | apply memOk_ite | simp only [↓memOk_mk] | apply memParts_of | intro _ | split

theorem memOk_applyRecord (s : State) (r : UpdRec) (t : State) (h : memOk s) (e : applyRecord s r = .done t) : memOk t := by
  unfold applyRecord at e
  dsimp only at e
  repeat' with_reducible first
    | cases e | exact h | (apply optMemOk_elim (e := ‹writeRecord _ _ _ _ _ _ = some _›); apply memOk_writeRecord)
    | split at e

theorem memOk_drainGo (a0 : List UpdRec) (a1 : List Bool) (a2 : State) (h2 : memOk a2) : memOk (drainGo a0 a1 a2).2 := by
  induction a0 generalizing a1 a2 with
  | nil => exact h2
  | cons r rest ih =>
    unfold drainGo
    split
    · exact ih _ _ h2
    · split
      · exact ih _ _ h2
      · exact ih _ _ (memOk_refuseRecord _ _ _ h2)
      · next t e =>
        exact ih _ _ (memOk_noteLast _ _ (memOk_telemAdd _ _ _ (memOk_addF64 _ _ _ _ (memOk_applyRecord _ _ _ h2 e))))

theorem memOk_updatesDone (a0 : State) (a1 : List Nat) (h0 : memOk a0) : memOk (updatesDone a0 a1) := by
  unfold updatesDone
  repeat' with_reducible first
    | assumption | apply memOk_finishJob | apply memOk_ite | apply memOk_each | intro _ | split

theorem memOk_drainHeld (a0 : State) (h0 : memOk a0) : memOk (drainHeld a0) := by
  unfold drainHeld
  repeat' with_reducible first
    | assumption | apply memOk_drainGo | apply memOk_updatesDone | apply memOk_ite | simp only [↓memOk_mk] | apply memParts_of
    | intro _

theorem memOk_ingest (a0 : State) (a1 : List UpdRec) (h0 : memOk a0) : memOk (ingest a0 a1) := by
  unfold ingest
  repeat' with_reducible first
    | assumption | apply memOk_drainHeld | simp only [↓memOk_mk] | apply memParts_of

theorem memOk_copyEffect (a0 : State) (a1 a2 : Nat) (a3 : Job) (a4 : List Span) (h0 : memOk a0) : memOk (copyEffect a0 a1
    a2 a3 a4) := by
  unfold copyEffect
  repeat' with_reducible first
    | assumption | apply memOk_finishJob | apply memOk_vaWriteE | apply memOk_touchRead | apply memOk_ingest
    | apply memOk_updJob | simp only | split

theorem memOk_attemptCopy (a0 : State) (a1 a2 : Nat) (a3 : Job) (h0 : memOk a0) : memOk (attemptCopy a0 a1 a2 a3) := by
  unfold attemptCopy
  repeat' with_reducible first
    | assumption | apply memOk_finishJob | apply memOk_takeTransfer | apply memOk_stallCopy | apply memOk_copyEffect
    | apply memOk_ite | simp only | intro _ | split

theorem memOk_serveEngine (a0 : Nat) (a1 : State) (a2 : Nat) (h1 : memOk a1) : memOk (serveEngine a0 a1 a2) := by
  induction a0 generalizing a1 a2 with
  | zero =>
   unfold serveEngine
   repeat' with_reducible first
     | assumption
  | succ _ ih =>
   unfold serveEngine
   repeat' with_reducible first
     | assumption | apply ih | apply memOk_attemptCopy | apply memOk_ite | simp only | intro _ | split

theorem memOk_runEngine (a0 : State) (a1 : Nat) (h0 : memOk a0) : memOk (runEngine a0 a1) := by
  unfold runEngine
  repeat' with_reducible first
    | assumption | apply memOk_serveEngine

theorem memOk_runEngines (a0 : State) (h0 : memOk a0) : memOk (runEngines a0) := by
  unfold runEngines
  repeat' with_reducible first
    | assumption | apply memOk_runEngine | apply memOk_each | intro _

theorem memOk_releasePage (a0 : State) (a1 : Nat) (h0 : memOk a0) : memOk (releasePage a0 a1) := by
  unfold releasePage
  repeat' with_reducible first
    | assumption | simp only [↓memOk_mk] | apply memParts_of

theorem memOk_failPage (a0 : State) (a1 : Nat) (h0 : memOk a0) : memOk (failPage a0 a1) := by
  unfold failPage
  repeat' with_reducible first
    | assumption | apply memOk_runEngines | apply memOk_finishJob | apply memOk_releasePage | apply memOk_each | intro _

theorem memOk_answerPage (a0 : State) (a1 : Nat) (h0 : memOk a0) : memOk (answerPage a0 a1) := by
  unfold answerPage
  repeat' with_reducible first
    | assumption | apply memOk_runEngines | apply memOk_releasePage

theorem memOk_execPageRequestResponse (a0 : W32) (a1 : State) (h1 : memOk a1) : NextMemOk (execPageRequestResponse a0 a1)
    := by
  unfold execPageRequestResponse
  repeat' with_reducible first
    | assumption | apply memOk_hostWrite | apply memOk_failPage | apply memOk_answerPage | apply memOk_addF | apply memOk_ite
    | intro _

theorem memOk_copyCode (a0 : State) (a1 a2 : Nat) (a3 : Img) (h0 : memOk a0) : memOk (copyCode a0 a1 a2 a3) := by
  unfold copyCode
  repeat' with_reducible first
    | assumption | apply memOk_putCore | apply memOk_coreOf | apply memOk_each | simp only | apply wf_wrBytes
    | simp only [↓coreMemOk_mk] | apply coreMemParts_mk | apply coreMemOk_weight | apply coreMemOk_act | apply coreMemOk_acc | apply coreMemOk_prog
    | apply coreMemOk_planeA | apply coreMemOk_shadowA | apply coreMemOk_planeB | apply coreMemOk_shadowB | intro _

theorem memOk_recopy (a0 : State) (a1 : Nat) (h0 : memOk a0) : memOk (recopy a0 a1) := by
  unfold recopy
  repeat' with_reducible first
    | assumption | apply memOk_copyCode | apply memOk_updPart | apply memOk_each | intro _

theorem memOk_clearCalib (a0 : State) (a1 : Nat) (h0 : memOk a0) : memOk (clearCalib a0 a1) := by
  unfold clearCalib
  repeat' with_reducible first
    | assumption | apply memOk_updCtx | apply memOk_each | intro _

theorem memOk_setMasks (a0 : State) (a1 : PartBlock) (h0 : memOk a0) : memOk (setMasks a0 a1) := by
  unfold setMasks
  repeat' with_reducible first
    | assumption | apply memOk_updPart

theorem memOk_capRewrite (a0 : State) (h0 : memOk a0) : memOk (capRewrite a0) := by
  unfold capRewrite
  repeat' with_reducible first
    | assumption | apply memOk_ite | simp only [↓memOk_mk] | apply memParts_of | intro _

theorem memOk_capChange (a0 : State) (a1 : List Nat) (h0 : memOk a0) : memOk (capChange a0 a1) := by
  unfold capChange
  repeat' with_reducible first
    | assumption | apply memOk_capRewrite | apply memOk_eventCtx | apply memOk_eventAdm | apply memOk_each | intro _

theorem memOk_finishResize (a0 : State) (a1 : Nat) (h0 : memOk a0) : memOk (finishResize a0 a1) := by
  unfold finishResize
  repeat' with_reducible first
    | assumption | apply memOk_finishJob | apply memOk_capChange | apply memOk_updPart | apply memOk_ite | intro _ | split

theorem memOk_applyResize (a0 : State) (a1 : Nat) (h0 : memOk a0) : memOk (applyResize a0 a1) := by
  unfold applyResize
  repeat' with_reducible first
    | assumption | apply memOk_updPart | apply memOk_recopy | apply memOk_clearCalib | apply memOk_setMasks
    | apply memOk_finishResize | apply memOk_finishJob | apply memOk_ite | simp only | intro _ | split

theorem memOk_applyCoresOut (a0 : State) (a1 : Nat) (h0 : memOk a0) : memOk (applyCoresOut a0 a1) := by
  unfold applyCoresOut
  repeat' with_reducible first
    | assumption | apply memOk_recopy | apply memOk_updPart | apply memOk_ite | intro _

theorem memOk_applyRewalk (a0 : State) (a1 : Nat) (h0 : memOk a0) : memOk (applyRewalk a0 a1) := by
  unfold applyRewalk
  repeat' with_reducible first
    | assumption | apply memOk_xlateFault | apply memOk_updPart | apply memOk_ite | apply memOk_each | simp only [↓memOk_mk]
    | apply memParts_of | intro _ | split

theorem memOk_dropPages (a0 : State) (a1 a2 : Nat) (h0 : memOk a0) : memOk (dropPages a0 a1 a2) := by
  unfold dropPages
  repeat' with_reducible first
    | assumption | simp only [↓memOk_mk] | apply memParts_of

theorem memOk_applyRevokes (a0 : State) (a1 : Nat) (h0 : memOk a0) : memOk (applyRevokes a0 a1) := by
  unfold applyRevokes
  repeat' with_reducible first
    | assumption | apply memOk_updPart | apply memOk_dropPages | apply memOk_finishJob | apply memOk_each
    | simp only [↓memOk_mk] | apply memParts_of | intro _

theorem memOk_swapFilter (a0 : State) (a1 : Nat) (h0 : memOk a0) : memOk (swapFilter a0 a1) := by
  unfold swapFilter
  repeat' with_reducible first
    | assumption | simp only [↓memOk_mk] | apply memParts_of

theorem memOk_applyFilters (a0 : State) (a1 : Nat) (h0 : memOk a0) : memOk (applyFilters a0 a1) := by
  unfold applyFilters
  repeat' with_reducible first
    | assumption | apply memOk_updPart | apply memOk_swapFilter | apply memOk_ite | apply memOk_each | simp only [↓memOk_mk]
    | apply memParts_of | intro _

theorem memOk_evict (a0 : State) (a1 : Crimson) (h0 : memOk a0) : memOk (evict a0 a1) := by
  unfold evict
  repeat' with_reducible first
    | assumption | apply memOk_removeCrimson | apply memOk_ite | simp only [↓memOk_mk] | apply memParts_of | intro _

theorem memOk_fitQuota (a0 : Nat) (a1 : State) (a2 : Nat) (h1 : memOk a1) : memOk (fitQuota a0 a1 a2) := by
  induction a0 generalizing a1 a2 with
  | zero =>
   unfold fitQuota
   repeat' with_reducible first
     | assumption
  | succ _ ih =>
   unfold fitQuota
   repeat' with_reducible first
     | assumption | apply ih | apply memOk_evict | apply memOk_ite | intro _ | split

theorem memOk_applyCrimson (a0 : State) (a1 : Nat) (h0 : memOk a0) : memOk (applyCrimson a0 a1) := by
  unfold applyCrimson
  repeat' with_reducible first
    | assumption | apply memOk_dropCrimson | apply memOk_fitQuota | apply memOk_updPart | apply memOk_ite
    | simp only [↓memOk_mk] | apply memParts_of | intro _

theorem memOk_failBind (a0 : State) (a1 : Table) (h0 : memOk a0) : memOk (failBind a0 a1) := by
  unfold failBind
  repeat' with_reducible first
    | assumption | apply memOk_trimMaps | apply memOk_unbindObj | apply memOk_freePmap | apply memOk_finishJob
    | simp only | split

theorem memOk_installBind (a0 : State) (a1 : Nat) (a2 : Table) (h0 : memOk a0) : memOk (installBind a0 a1 a2) := by
  unfold installBind
  repeat' with_reducible first
    | assumption | apply memOk_failBind | apply memOk_installTable | apply memOk_ite | intro _

theorem memOk_applyTables (a0 : State) (a1 : Nat) (h0 : memOk a0) : memOk (applyTables a0 a1) := by
  unfold applyTables
  repeat' with_reducible first
    | assumption | apply memOk_releaseTable | apply memOk_installBind | apply memOk_each | simp only [↓memOk_mk]
    | apply memParts_of | intro _

theorem memOk_applyDestroy (a0 : State) (a1 : Nat) (h0 : memOk a0) : memOk (applyDestroy a0 a1) := by
  unfold applyDestroy
  repeat' with_reducible first
    | assumption | apply memOk_putPart | apply memOk_setF | apply memOk_dropCrimson | apply memOk_finishJob
    | apply memOk_capChange | apply memOk_each | simp only [↓memOk_mk] | apply memParts_of | intro _ | split

theorem memOk_releaseSlot (a0 : State) (a1 a2 : Nat) (h0 : memOk a0) : memOk (releaseSlot a0 a1 a2) := by
  unfold releaseSlot
  repeat' with_reducible first
    | assumption | apply memOk_ite | simp only [↓memOk_mk] | apply memParts_of | intro _

theorem memOk_dropOldVersions (a0 : State) (a1 : Nat) (a2 : Table) (a3 : Nat) (h0 : memOk a0) : memOk (dropOldVersions a0
    a1 a2 a3) := by
  unfold dropOldVersions
  repeat' with_reducible first
    | assumption | apply memOk_releaseSlot | apply memOk_putDelta | apply memOk_ite | apply memOk_each
    | simp only | intro _

theorem memOk_catchUp (a0 : State) (a1 : Nat) (a2 : Table) (a3 : Nat) (h0 : memOk a0) : memOk (catchUp a0 a1 a2 a3) := by
  unfold catchUp
  repeat' with_reducible first
    | assumption | apply memOk_tabWrite | apply memOk_addF | apply memOk_setDirty | apply memOk_ite | apply memOk_iter
    | simp only | intro _

theorem memOk_updGroup (a0 : State) (a1 : Nat) (a2 : EpochGroup → EpochGroup) (h0 : memOk a0) : memOk (updGroup a0 a1 a2)
    := by
  unfold updGroup
  repeat' with_reducible first
    | assumption | apply memOk_putGroup

theorem memOk_openStaging (a0 : State) (a1 : Nat) (h0 : memOk a0) : memOk (openStaging a0 a1) := by
  unfold openStaging
  repeat' with_reducible first
    | assumption | apply memOk_catchUp | apply memOk_updGroup | apply memOk_putTable | apply memOk_drainHeld
    | apply memOk_each | simp only [↓memOk_mk] | apply memParts_of | intro _ | split

theorem memOk_releaseEpoch (a0 : State) (a1 : Nat) (h0 : memOk a0) : memOk (releaseEpoch a0 a1) := by
  unfold releaseEpoch
  repeat' with_reducible first
    | assumption | apply memOk_dropCrimson | apply memOk_dropOldVersions | apply memOk_openStaging | apply memOk_updGroup
    | apply memOk_ite | apply memOk_each | simp only | intro _

theorem memOk_emitPacket (a0 : State) (a1 : BePacket) (h0 : memOk a0) : memOk (emitPacket a0 a1).1 := by
  unfold emitPacket
  repeat' with_reducible first
    | assumption | simp only [↓memOk_mk] | apply memParts_of | split

theorem memOk_beRoute (a0 : State) (a1 : BePacket) (h0 : memOk a0) : memOk (beRoute a0 a1) := by
  unfold beRoute
  repeat' with_reducible first
    | assumption | apply memOk_emitPacket | simp only [↓memOk_mk] | apply memParts_of

theorem memOk_beSend (a0 : State) (a1 : Coord) (a2 a3 a4 : Nat) (a5 : List Byte) (h0 : memOk a0) : memOk (beSend a0 a1 a2
    a3 a4 a5) := by
  unfold beSend
  repeat' with_reducible first
    | assumption | apply memOk_beRoute | simp only [↓memOk_mk] | apply memParts_of

theorem memOk_askOwner (a0 : State) (a1 : Promotion) (h0 : memOk a0) : memOk (askOwner a0 a1) := by
  unfold askOwner
  repeat' with_reducible first
    | assumption | apply memOk_beSend | split

theorem memOk_askPromos (a0 : State) (h0 : memOk a0) : memOk (askPromos a0) := by
  unfold askPromos
  repeat' with_reducible first
    | assumption | apply memOk_askOwner | apply memOk_each | simp only [↓memOk_mk] | apply memParts_of | intro _

theorem memOk_queuePromotion (a0 : State) (a1 : Promotion) (h0 : memOk a0) : memOk (queuePromotion a0 a1) := by
  unfold queuePromotion
  repeat' with_reducible first
    | assumption | apply memOk_addF | apply memOk_askPromos | apply memOk_ite | simp only [↓memOk_mk] | apply memParts_of
    | intro _

theorem memOk_refreshPass (a0 : State) (a1 a2 : Nat) (h0 : memOk a0) : memOk (refreshPass a0 a1 a2) := by
  unfold refreshPass
  repeat' with_reducible first
    | assumption | apply memOk_queuePromotion | apply memOk_each | intro _

theorem memOk_switchGroup (a0 : State) (a1 : Nat) (h0 : memOk a0) : memOk (switchGroup a0 a1) := by
  unfold switchGroup
  repeat' with_reducible first
    | assumption | apply memOk_updGroup | apply memOk_finishJob | apply memOk_refreshPass | apply memOk_each | intro _

theorem memOk_lateSwitch (a0 : State) (a1 : Nat) (h0 : memOk a0) : memOk (lateSwitch a0 a1) := by
  unfold lateSwitch
  repeat' with_reducible first
    | assumption | apply memOk_switchGroup | apply memOk_ite | intro _

theorem memOk_groupsAtBoundary (a0 : State) (a1 : Nat) (h0 : memOk a0) : memOk (groupsAtBoundary a0 a1) := by
  unfold groupsAtBoundary
  repeat' with_reducible first
    | assumption | apply memOk_releaseEpoch | apply memOk_lateSwitch | apply memOk_each | intro _

theorem memOk_applyOwners (a0 : State) (a1 : Nat) (h0 : memOk a0) : memOk (applyOwners a0 a1) := by
  unfold applyOwners
  repeat' with_reducible first
    | assumption | simp only [↓memOk_mk] | apply memParts_of

theorem memOk_applyChanges (a0 : State) (a1 : Nat) (h0 : memOk a0) : memOk (applyChanges a0 a1) := by
  unfold applyChanges
  repeat' with_reducible first
    | assumption | apply memOk_applyResize | apply memOk_applyCoresOut | apply memOk_applyRewalk | apply memOk_applyRevokes
    | apply memOk_applyFilters | apply memOk_applyCrimson | apply memOk_applyTables | apply memOk_applyDestroy
    | apply memOk_groupsAtBoundary | apply memOk_applyOwners

theorem memOk_boundary (a0 : State) (a1 : Nat) (h0 : memOk a0) : memOk (boundary a0 a1) := by
  unfold boundary
  repeat' with_reducible first
    | assumption | apply memOk_chooseHolder | apply memOk_applyChanges | apply memOk_ite | intro _

theorem memOk_markPages (a0 : State) (a1 : List Nat) (h0 : memOk a0) : memOk (markPages a0 a1) := by
  unfold markPages
  repeat' with_reducible first
    | assumption | apply memOk_updPart | apply memOk_boundary | apply memOk_each | simp only | intro _

theorem memOk_invBegin (a0 : State) (h0 : memOk a0) : memOk (invBegin a0) := by
  unfold invBegin
  repeat' with_reducible first
    | assumption | apply memOk_markPages | simp only [↓memOk_mk] | apply memParts_of | split

theorem memOk_invQueue (a0 : State) (a1 a2 a3 : Nat) (h0 : memOk a0) : memOk (invQueue a0 a1 a2 a3) := by
  unfold invQueue
  repeat' with_reducible first
    | assumption | apply memOk_setF | apply memOk_invBegin | apply memOk_ite | simp only [↓memOk_mk] | apply memParts_of
    | intro _

theorem memOk_execInvalidateAll (a0 : State) (h0 : memOk a0) : NextMemOk (execInvalidateAll a0) := by
  unfold execInvalidateAll
  repeat' with_reducible first
    | assumption | apply memOk_hostWrite | apply memOk_invQueue | intro _

theorem memOk_execInvalidatePasid (a0 : Nat) (a1 : State) (h1 : memOk a1) : NextMemOk (execInvalidatePasid a0 a1) := by
  unfold execInvalidatePasid
  repeat' with_reducible first
    | assumption | apply memOk_hostWrite | apply memOk_invQueue | intro _

theorem memOk_execInvalidatePasidRange (a0 : Nat) (a1 : State) (h1 : memOk a1) : NextMemOk (execInvalidatePasidRange a0
    a1) := by
  unfold execInvalidatePasidRange
  repeat' with_reducible first
    | assumption | apply memOk_hostWrite | apply memOk_invQueue | intro _

theorem memOk_execInvalidateDomain (a0 : Nat) (a1 : State) (h1 : memOk a1) : NextMemOk (execInvalidateDomain a0 a1) := by
  unfold execInvalidateDomain
  repeat' with_reducible first
    | assumption | apply memOk_hostWrite | apply memOk_invQueue | intro _

theorem memOk_execInvalidateDomainRange (a0 : Nat) (a1 : State) (h1 : memOk a1) : NextMemOk (execInvalidateDomainRange a0
    a1) := by
  unfold execInvalidateDomainRange
  repeat' with_reducible first
    | assumption | apply memOk_hostWrite | apply memOk_invQueue | intro _

theorem memOk_execInvalidatePasidEntry (a0 : Nat) (a1 : State) (h1 : memOk a1) : NextMemOk (execInvalidatePasidEntry a0
    a1) := by
  unfold execInvalidatePasidEntry
  repeat' with_reducible first
    | assumption | apply memOk_hostWrite | apply memOk_invQueue | intro _

theorem memOk_invWrite (a0 : Nat) (a1 : State) (h1 : memOk a1) : memOk (invWrite a0 a1) := by
  unfold invWrite
  repeat' with_reducible first
    | assumption | apply memOk_after | apply memOk_execInvalidateAll | apply memOk_execInvalidatePasid
    | apply memOk_execInvalidatePasidRange | apply memOk_execInvalidateDomain | apply memOk_execInvalidateDomainRange
    | apply memOk_execInvalidatePasidEntry | apply memOk_hostWrite | apply memOk_invQueue | simp only | intro _
    | split

theorem memOk_execAcClearAll (a0 : State) (h0 : memOk a0) : NextMemOk (execAcClearAll a0) := by
  unfold execAcClearAll
  repeat' with_reducible first
    | assumption | apply memOk_hostWrite | simp only [↓memOk_mk] | apply memParts_of

theorem memOk_execAcClear (a0 : Nat) (a1 : State) (h1 : memOk a1) : NextMemOk (execAcClear a0 a1) := by
  unfold execAcClear
  repeat' with_reducible first
    | assumption | apply memOk_hostWrite | exact .fault | apply nextMemOk_ite | simp only [↓memOk_mk] | apply memParts_of | intro _

theorem memOk_onBit (a0 a1 : Nat) (a2 : State → Res) (a3 : State) (h2 : ∀ (y0 : State), memOk (y0) → NextMemOk (a2 y0))
    (h3 : memOk a3) : memOk (onBit a0 a1 a2 a3) := by
  unfold onBit
  repeat' with_reducible first
    | assumption | apply h2 | apply memOk_after | apply memOk_ite | intro _

theorem memOk_mirrorBegin (a0 : State) (h0 : memOk a0) : memOk (mirrorBegin a0) := by
  unfold mirrorBegin
  repeat' with_reducible first
    | assumption | apply memOk_setF | apply memOk_ite | simp only [↓memOk_mk] | apply memParts_of | intro _

theorem memOk_execMirrorGo (a0 : State) (h0 : memOk a0) : NextMemOk (execMirrorGo a0) := by
  unfold execMirrorGo
  repeat' with_reducible first
    | assumption | apply memOk_hostWrite | apply memOk_mirrorBegin

theorem memOk_keyBegin (a0 : State) (a1 : Nat) (a2 : Bool) (h0 : memOk a0) : memOk (keyBegin a0 a1 a2) := by
  unfold keyBegin
  repeat' with_reducible first
    | assumption | apply memOk_setF | apply memOk_ite | simp only [↓memOk_mk] | apply memParts_of | intro _

theorem memOk_execKeySlotClear (a0 : Nat) (a1 : State) (h1 : memOk a1) : NextMemOk (execKeySlotClear a0 a1) := by
  unfold execKeySlotClear
  repeat' with_reducible first
    | assumption | apply memOk_hostWrite | apply memOk_keyBegin | intro _

theorem memOk_execKeySlotLoad (a0 : Nat) (a1 : State) (h1 : memOk a1) : NextMemOk (execKeySlotLoad a0 a1) := by
  unfold execKeySlotLoad
  repeat' with_reducible first
    | assumption | apply memOk_hostWrite | apply memOk_keyBegin | intro _

theorem memOk_rowWriteFront (a0 a1 a2 : Nat) (a3 : State) (h3 : memOk a3) : memOk (rowWriteFront a0 a1 a2 a3) := by
  unfold rowWriteFront
  repeat' with_reducible first
    | assumption | apply memOk_after | apply memOk_execAdmqTailWrite | apply memOk_execAdmcqHeadWrite
    | apply memOk_execAdmeqHeadWrite | apply memOk_execForerunnerModeSet | apply memOk_execTranslationRegionSet
    | apply memOk_execPageRequestResponse | apply memOk_invWrite | apply memOk_execAcClearAll | apply memOk_execAcClear
    | apply memOk_onBit | apply memOk_execMirrorGo | apply memOk_execKeySlotClear | apply memOk_execKeySlotLoad
    | apply memOk_ite | intro _

theorem memOk_execSketchClear (a0 : State) (h0 : memOk a0) : NextMemOk (execSketchClear a0) := by
  unfold execSketchClear
  repeat' with_reducible first
    | assumption | apply memOk_setF | apply NextMemOk.next

theorem memOk_holdAction (a0 : State) (a1 : ArmedAction) (h0 : memOk a0) : memOk (holdAction a0 a1) := by
  unfold holdAction
  repeat' with_reducible first
    | assumption | apply memOk_ite | simp only [↓memOk_mk] | apply memParts_of | intro _

theorem memOk_armSnapshot (a0 : State) (a1 a2 : Nat) (a3 a4 : Bool) (h0 : memOk a0) : OptMemOk (armSnapshot a0 a1 a2 a3
    a4) := by
  unfold armSnapshot
  repeat' with_reducible first
    | assumption | apply memOk_holdAction | apply memOk_ctlSend | exact .none | apply OptMemOk.some | apply memOk_ite
    | apply optMemOk_ite | simp only | intro _

theorem memOk_snapArmed (a0 : State) (h0 : memOk a0) : memOk (snapArmed a0) := by
  unfold snapArmed
  repeat' with_reducible first
    | assumption | apply memOk_armSnapshot | apply memOk_setF | (apply optMemOk_elim; case' e => assumption) | split

theorem memOk_execSnapshotArm (a0 : State) (h0 : memOk a0) : NextMemOk (execSnapshotArm a0) := by
  unfold execSnapshotArm
  repeat' with_reducible first
    | assumption | apply memOk_hostWrite | apply memOk_snapArmed

theorem memOk_armReset (a0 : State) (a1 : Option Nat) (h0 : memOk a0) : OptMemOk (armReset a0 a1) := by
  unfold armReset
  repeat' with_reducible first
    | assumption | apply memOk_holdAction | apply memOk_setF | apply memOk_ctlSend | exact .none | apply OptMemOk.some
    | apply optMemOk_ite | simp only [↓memOk_mk] | apply memParts_of | intro _

theorem memOk_execDomainResetArm (a0 : State) (h0 : memOk a0) : NextMemOk (execDomainResetArm a0) :=
  memOk_hostWrite _ _ h0 fun _ hy => memOk_getD (memOk_armReset _ _ hy) hy

theorem memOk_execCrimsonQuotaWrite (a0 : Nat) (a1 : W32) (a2 : State) (h2 : memOk a2) : NextMemOk (execCrimsonQuotaWrite
    a0 a1 a2) := by
  unfold execCrimsonQuotaWrite
  repeat' with_reducible first
    | assumption | apply memOk_setF | apply memOk_fitQuota | apply memOk_updPart | exact .fault | apply NextMemOk.next
    | apply nextMemOk_ite | simp only | intro _

theorem memOk_ownersChange (a0 : State) (a1 : List Nat) (h0 : memOk a0) : memOk (ownersChange a0 a1) := by
  unfold ownersChange
  repeat' with_reducible first
    | assumption | apply memOk_boundary | apply memOk_each | intro _

theorem memOk_execNocOwnershipWrite (a0 : Nat) (a1 : W32) (a2 : State) (h2 : memOk a2) : NextMemOk (execNocOwnershipWrite
    a0 a1 a2) := by
  unfold execNocOwnershipWrite
  repeat' with_reducible first
    | assumption | apply memOk_hostWrite | apply memOk_ownersChange | exact .fault | apply memOk_ite | apply nextMemOk_ite
    | simp only [↓memOk_mk] | apply memParts_of | intro _

theorem memOk_execSlotOwnershipWrite (a0 a1 : Nat) (a2 : W32) (a3 : State) (h3 : memOk a3) : NextMemOk
    (execSlotOwnershipWrite a0 a1 a2 a3) := by
  unfold execSlotOwnershipWrite
  repeat' with_reducible first
    | assumption | apply memOk_hostWrite | apply memOk_ownersChange | exact .fault | apply NextMemOk.next | apply nextMemOk_ite
    | simp only [↓memOk_mk] | apply memParts_of | intro _

theorem memOk_rowWriteFabric (a0 a1 : Nat) (a2 : State) (h2 : memOk a2) : memOk (rowWriteFabric a0 a1 a2) := by
  unfold rowWriteFabric
  repeat' with_reducible first
    | assumption | apply memOk_onBit | apply memOk_execSketchClear | apply memOk_drainHeld | apply memOk_execSnapshotArm
    | apply memOk_execDomainResetArm | apply memOk_after | apply memOk_execCrimsonQuotaWrite
    | apply memOk_execNocOwnershipWrite | apply memOk_execSlotOwnershipWrite | apply memOk_ite | intro _ | split

theorem memOk_cpStop (a0 : State) (a1 : Nat) (h0 : memOk a0) : memOk (cpStop a0 a1) := by
  unfold cpStop
  repeat' with_reducible first
    | assumption | apply memOk_setF

theorem memOk_execCpHoldSet (a0 : Nat) (a1 : State) (h1 : memOk a1) : NextMemOk (execCpHoldSet a0 a1) := by
  unfold execCpHoldSet
  repeat' with_reducible first
    | assumption | apply memOk_hostWrite | apply memOk_cpStop | apply memOk_unpowered | exact .fault | apply memOk_ite
    | apply nextMemOk_ite | intro _

theorem memOk_cpStart (a0 : State) (a1 : Nat) (h0 : memOk a0) : memOk (cpStart a0 a1) := by
  unfold cpStart
  repeat' with_reducible first
    | assumption | apply memOk_setF | simp only [↓memOk_mk] | apply memParts_of

theorem memOk_execCpHoldClear (a0 : Nat) (a1 : State) (h1 : memOk a1) : NextMemOk (execCpHoldClear a0 a1) := by
  unfold execCpHoldClear
  repeat' with_reducible first
    | assumption | apply memOk_hostWrite | apply memOk_unpowered | apply memOk_cpStart | exact .fault | apply memOk_ite
    | apply nextMemOk_ite | intro _

theorem memOk_holdWrite (a0 : Nat) (a1 : State) (h1 : memOk a1) : memOk (holdWrite a0 a1) := by
  unfold holdWrite
  repeat' with_reducible first
    | assumption | apply memOk_after | apply memOk_execCpHoldSet | apply memOk_execCpHoldClear | apply memOk_ite
    | apply memOk_iter | intro _

theorem memOk_execAshWatchClear (a0 : Nat) (a1 : State) (h1 : memOk a1) : NextMemOk (execAshWatchClear a0 a1) := by
  unfold execAshWatchClear
  repeat' with_reducible first
    | assumption | apply memOk_hostWrite | apply memOk_ashPut | intro _

theorem memOk_execAshWatchSet (a0 : Nat) (a1 : State) (h1 : memOk a1) : NextMemOk (execAshWatchSet a0 a1) := by
  unfold execAshWatchSet
  repeat' with_reducible first
    | assumption | apply memOk_hostWrite | apply memOk_ashEnter | apply memOk_ite | intro _

theorem memOk_reportLoss (a0 : State) (a1 : Nat) (a2 : Code) (a3 : List Nat) (h0 : memOk a0) : memOk (reportLoss a0 a1 a2
    a3) := by
  unfold reportLoss
  repeat' with_reducible first
    | assumption | apply memOk_capChange | apply memOk_healthEvent

theorem memOk_loseSteps (a0 : State) (a1 : List Nat) (a2 : Code) (h0 : memOk a0) : memOk (loseSteps a0 a1 a2) := by
  unfold loseSteps
  repeat' with_reducible first
    | assumption | apply memOk_stepFail | apply memOk_each | intro _

theorem memOk_markCoreOut (a0 : State) (a1 : Nat) (h0 : memOk a0) : memOk (markCoreOut a0 a1) := by
  unfold markCoreOut
  repeat' with_reducible first
    | assumption | apply memOk_setF64 | apply memOk_updPart | apply memOk_reportLoss | apply memOk_loseSteps
    | apply memOk_boundary | apply memOk_ite | apply memOk_each | simp only | intro _

theorem memOk_markLaneOut (a0 : State) (a1 : Nat) (h0 : memOk a0) : memOk (markLaneOut a0 a1) := by
  unfold markLaneOut
  repeat' with_reducible first
    | assumption | apply memOk_healthEvent | apply memOk_reportLoss | apply memOk_loseSteps | apply memOk_ite
    | simp only [↓memOk_mk] | apply memParts_of | intro _

theorem memOk_markStackOut (a0 : State) (a1 : Nat) (h0 : memOk a0) : memOk (markStackOut a0 a1) := by
  unfold markStackOut
  repeat' with_reducible first
    | assumption | apply memOk_loseSteps | apply memOk_reportLoss | apply memOk_ite | simp only [↓memOk_mk] | apply memParts_of
    | apply memParts_hbm | apply wf_filter | apply wf_mem_hbm | intro _

theorem memOk_noticeLoss (a0 : State) (a1 a2 : Nat) (a3 : StepRun) (h0 : memOk a0) : memOk (noticeLoss a0 a1 a2 a3) := by
  unfold noticeLoss
  repeat' with_reducible first
    | assumption | apply memOk_updRun | apply memOk_ctlSend | apply memOk_ite | simp only | intro _ | split

theorem memOk_linkEvent (a0 : State) (a1 : Nat) (a2 : Code) (a3 : List Nat) (h0 : memOk a0) : memOk (linkEvent a0 a1 a2
    a3) := by
  unfold linkEvent
  repeat' with_reducible first
    | assumption | apply memOk_eventCtx | apply memOk_eventAdm | apply memOk_each | intro _

theorem memOk_losePort (a0 : State) (a1 : Nat) (h0 : memOk a0) : memOk (losePort a0 a1) := by
  unfold losePort
  repeat' with_reducible first
    | assumption | apply memOk_noticeLoss | apply memOk_capChange | apply memOk_linkEvent | apply memOk_each | intro _

theorem memOk_leaveGroup (a0 : State) (a1 : Nat) (h0 : memOk a0) : memOk (leaveGroup a0 a1) := by
  unfold leaveGroup
  repeat' with_reducible first
    | assumption | apply memOk_stepFail | apply memOk_abandon | apply memOk_updPart | apply memOk_ite | intro _

theorem memOk_leaveGroups (a0 : State) (a1 : Nat) (h0 : memOk a0) : memOk (leaveGroups a0 a1) := by
  unfold leaveGroups
  repeat' with_reducible first
    | assumption | apply memOk_leaveGroup | apply memOk_capChange | apply memOk_ite | apply memOk_each
    | simp only | intro _

theorem memOk_beAgain (a0 : State) (a1 : Nat → Bool) (h0 : memOk a0) : memOk (beAgain a0 a1) := by
  unfold beAgain
  repeat' with_reducible first
    | assumption | apply memOk_beRoute | apply memOk_ite | apply memOk_each | simp only [↓memOk_mk] | apply memParts_of
    | intro _ | split

theorem memOk_markPortOut (a0 : State) (a1 : Nat) (h0 : memOk a0) : memOk (markPortOut a0 a1) := by
  unfold markPortOut
  repeat' with_reducible first
    | assumption | apply memOk_updPort | apply memOk_setF | apply memOk_healthEvent | apply memOk_losePort
    | apply memOk_leaveGroups | apply memOk_beAgain | apply memOk_ite | simp only | intro _

theorem memOk_markUnitOut (a0 : State) (a1 : Nat) (h0 : memOk a0) : memOk (markUnitOut a0 a1) := by
  unfold markUnitOut
  repeat' with_reducible first
    | assumption | apply memOk_markCoreOut | apply memOk_markLaneOut | apply memOk_markStackOut | apply memOk_markPortOut
    | apply memOk_ite | simp only | intro _ | split

theorem memOk_execUnitMarkOut (a0 : Nat) (a1 : State) (h1 : memOk a1) : NextMemOk (execUnitMarkOut a0 a1) := by
  unfold execUnitMarkOut
  repeat' with_reducible first
    | assumption | apply memOk_hostWrite | apply memOk_markUnitOut | intro _

theorem memOk_takeRefs (a0 : State) (a1 : List Nat) (h0 : memOk a0) : memOk (takeRefs a0 a1) := by
  unfold takeRefs
  repeat' with_reducible first
    | assumption | apply memOk_updObj | apply memOk_each | intro _

theorem memOk_digestBegin (a0 : State) (h0 : memOk a0) : memOk (digestBegin a0) := by
  unfold digestBegin
  repeat' with_reducible first
    | assumption | apply memOk_setF | apply memOk_takeRefs | apply memOk_ite | simp only [↓memOk_mk] | apply memParts_of
    | intro _

theorem memOk_execDigestGo (a0 : State) (h0 : memOk a0) : NextMemOk (execDigestGo a0) := by
  unfold execDigestGo
  repeat' with_reducible first
    | assumption | apply memOk_hostWrite | apply memOk_digestBegin

theorem memOk_execWatchdogKick (a0 : Nat) (a1 : State) (h1 : memOk a1) : NextMemOk (execWatchdogKick a0 a1) := by
  unfold execWatchdogKick
  repeat' with_reducible first
    | assumption | apply memOk_hostWrite | apply memOk_unpowered | exact .fault | apply memOk_ite | apply nextMemOk_ite
    | simp only [↓memOk_mk] | apply memParts_of | intro _

theorem memOk_mbAccess (a0 : State) (a1 : Nat) (a2 : Bool) (a3 : State → State) (h0 : memOk a0)
    (h3 : ∀ (y0 : State), memOk (y0) → memOk (a3 y0)) : NextMemOk (mbAccess a0 a1 a2 a3) := by
  unfold mbAccess
  repeat' with_reducible first
    | assumption | apply h3 | apply memOk_unpowered | exact .fault | apply NextMemOk.next | apply nextMemOk_ite | intro _

theorem memOk_mbReply (a0 : State) (a1 a2 : Nat) (h0 : memOk a0) : memOk (mbReply a0 a1 a2) := by
  unfold mbReply
  repeat' with_reducible first
    | assumption | apply memOk_ite | simp only [↓memOk_mk] | apply memParts_of | intro _

theorem memOk_putMbox (a0 : State) (a1 : Nat) (a2 : Mailbox) (h0 : memOk a0) : memOk (putMbox a0 a1 a2) := by
  unfold putMbox
  repeat' with_reducible first
    | assumption | simp only [↓memOk_mk] | apply memParts_of

theorem memOk_lockSettle (a0 : State) (a1 : Nat) (a2 : Mailbox) (h0 : memOk a0) : memOk (lockSettle a0 a1 a2) := by
  unfold lockSettle
  repeat' with_reducible first
    | assumption | apply memOk_mbReply | apply memOk_putMbox | apply memOk_each | intro _

theorem memOk_mbRelease (a0 : State) (a1 : Nat) (h0 : memOk a0) : memOk (mbRelease a0 a1) := by
  unfold mbRelease
  repeat' with_reducible first
    | assumption | apply memOk_lockSettle | apply memOk_putMbox | apply memOk_ite | intro _

theorem memOk_mbBad (a0 : State) (h0 : memOk a0) : memOk (mbBad a0) := by
  unfold mbBad
  repeat' with_reducible first
    | assumption | apply memOk_addF

theorem memOk_execMailboxRelease (a0 a1 : Nat) (a2 : State) (h2 : memOk a2) : NextMemOk (execMailboxRelease a0 a1 a2) :=
    by
  unfold execMailboxRelease
  repeat' with_reducible first
    | assumption | apply memOk_mbAccess | apply memOk_mbRelease | apply memOk_mbBad | apply memOk_ite | intro _

theorem memOk_mbAck (a0 : State) (a1 : Nat) (a2 : Code) (h0 : memOk a0) : memOk (mbAck a0 a1 a2) := by
  unfold mbAck
  repeat' with_reducible first
    | assumption | apply memOk_putMbox | apply memOk_requestVector | apply memOk_mbBad | apply memOk_ite
    | simp only | intro _

theorem memOk_execMailboxAck (a0 a1 : Nat) (a2 : Code) (a3 : State) (h3 : memOk a3) : NextMemOk (execMailboxAck a0 a1 a2
    a3) := by
  unfold execMailboxAck
  repeat' with_reducible first
    | assumption | apply memOk_mbAccess | apply memOk_mbAck | apply memOk_mbBad | apply memOk_ite | intro _

theorem memOk_mbInterrupt (a0 : State) (a1 : Nat) (h0 : memOk a0) : memOk (mbInterrupt a0 a1) := by
  unfold mbInterrupt
  repeat' with_reducible first
    | assumption | apply memOk_requestVector | apply memOk_ite | simp only [↓memOk_mk] | apply memParts_of | intro _

theorem memOk_mbRing (a0 : State) (a1 : Nat) (h0 : memOk a0) : memOk (mbRing a0 a1) := by
  unfold mbRing
  repeat' with_reducible first
    | assumption | apply memOk_putMbox | apply memOk_mbInterrupt | apply memOk_ite | intro _

theorem memOk_execMailboxRing (a0 a1 : Nat) (a2 : State) (h2 : memOk a2) : NextMemOk (execMailboxRing a0 a1 a2) := by
  unfold execMailboxRing
  repeat' with_reducible first
    | assumption | apply memOk_mbAccess | apply memOk_mbRing | apply memOk_mbBad | apply memOk_ite | intro _

theorem memOk_mailboxWrite (a0 a1 a2 a3 : Nat) (a4 : State) (h4 : memOk a4) : memOk (mailboxWrite a0 a1 a2 a3 a4) := by
  unfold mailboxWrite
  repeat' with_reducible first
    | assumption | apply memOk_after | apply memOk_execMailboxRelease | apply memOk_onBit | apply memOk_execMailboxAck
    | apply memOk_execMailboxRing | split

theorem memOk_rowWriteControl (a0 a1 a2 : Nat) (a3 : State) (h3 : memOk a3) : memOk (rowWriteControl a0 a1 a2 a3) := by
  unfold rowWriteControl
  repeat' with_reducible first
    | assumption | apply memOk_holdWrite | apply memOk_onBit | apply memOk_execAshWatchClear | apply memOk_execAshWatchSet
    | apply memOk_execUnitMarkOut | apply memOk_execDigestGo | apply memOk_execWatchdogKick | apply memOk_mailboxWrite
    | apply memOk_ite | intro _ | split

theorem memOk_rowWrite (a0 a1 a2 : Nat) (a3 : State) (h3 : memOk a3) : memOk (rowWrite a0 a1 a2 a3) := by
  unfold rowWrite
  repeat' with_reducible first
    | assumption | apply memOk_rowWriteFront | apply memOk_rowWriteFabric | apply memOk_rowWriteControl | apply memOk_ite
    | intro _

theorem memOk_writeNotice (a0 : State) (a1 a2 a3 a4 : Nat) (h0 : memOk a0) : memOk (writeNotice a0 a1 a2 a3 a4) := by
  unfold writeNotice
  repeat' with_reducible first
    | assumption | apply memOk_putMbox | apply memOk_mbBad | apply memOk_ite | simp only | intro _

theorem memOk_writeField (a0 a1 a2 : Nat) (a3 : Fld) (a4 : State) (h4 : memOk a4) : memOk (writeField a0 a1 a2 a3 a4) :=
    by
  unfold writeField
  repeat' with_reducible first
    | assumption | apply memOk_setF | apply memOk_ite | simp only [↓memOk_mk] | apply memParts_of | intro _

theorem memOk_writeWord (a0 : State) (a1 a2 a3 : Nat) (h0 : memOk a0) : memOk (writeWord a0 a1 a2 a3) := by
  unfold writeWord
  repeat' with_reducible first
    | assumption | apply memOk_writeNotice | apply memOk_writeField | apply memOk_ite | apply memOk_each | intro _

theorem memOk_busWrite (a0 : State) (a1 a2 a3 : Nat) (h0 : memOk a0) : memOk (busWrite a0 a1 a2 a3) := by
  unfold busWrite
  repeat' with_reducible first
    | assumption | apply memOk_unpowered | apply memOk_rowWrite | apply memOk_writeWord | apply memOk_ite | intro _

theorem memOk_fwWordWrite (a0 : State) (a1 a2 a3 : Nat) (h0 : memOk a0) : memOk (fwWordWrite a0 a1 a2 a3) := by
  unfold fwWordWrite
  repeat' with_reducible first
    | assumption | apply memOk_limiterRefuse | apply memOk_limiterEvent | apply memOk_busWrite | apply memOk_ite | intro _

theorem memOk_fwRegWrite (a0 : State) (a1 a2 : Nat) (a3 : List Byte) (h0 : memOk a0) : memOk (fwRegWrite a0 a1 a2 a3) :=
    by
  unfold fwRegWrite
  repeat' with_reducible first
    | assumption | apply memOk_fwWordWrite | apply memOk_ite | intro _

theorem memOk_fwHostWrite (a0 : State) (a1 a2 : Nat) (a3 : List Byte) (h0 : memOk a0) : memOk (fwHostWrite a0 a1 a2 a3)
    := by
  unfold fwHostWrite
  repeat' with_reducible first
    | assumption | apply memOk_limiterRefuse | apply memOk_ite | simp only [↓memOk_mk] | apply memParts_of | apply memParts_host
    | apply wf_wrBytes | apply wf_mem_host | intro _

theorem memOk_fwWrite (a0 : State) (a1 : Nat) (a2 : FwAccess) (h0 : memOk a0) : memOk (fwWrite a0 a1 a2) := by
  unfold fwWrite
  repeat' with_reducible first
    | assumption | apply memOk_fwRegWrite | apply memOk_limiterRefuse | apply memOk_fwHostWrite | apply memOk_busError
    | apply memOk_ite | simp only [↓memOk_mk] | apply memParts_of | apply memParts_hbm | apply memParts_ctrl | apply wf_wrBytes
    | apply wf_mem_hbm | apply wf_mem_ctrl | intro _

theorem memOk_setSync (a0 : State) (a1 : Nat) (h0 : memOk a0) : memOk (setSync a0 a1) := by
  unfold setSync
  repeat' with_reducible first
    | assumption | apply memOk_setF

theorem memOk_becomeMaster (a0 : State) (a1 : Nat) (h0 : memOk a0) : memOk (becomeMaster a0 a1) := by
  unfold becomeMaster
  repeat' with_reducible first
    | assumption | apply memOk_setF | apply memOk_setSync

theorem memOk_syncReached (a0 : State) (h0 : memOk a0) : memOk (syncReached a0) := by
  unfold syncReached
  repeat' with_reducible first
    | assumption | apply memOk_setF | apply memOk_ite | intro _

theorem memOk_enterSync (a0 : State) (h0 : memOk a0) : memOk (enterSync a0) := by
  unfold enterSync
  repeat' with_reducible first
    | assumption | apply memOk_setF | apply memOk_becomeMaster | apply memOk_syncReached | apply memOk_ite | intro _

theorem memOk_advanceStart (a0 : State) (h0 : memOk a0) : memOk (advanceStart a0) := by
  unfold advanceStart
  repeat' with_reducible first
    | assumption | apply memOk_setF | apply memOk_enterSync | apply memOk_ite | intro _

theorem memOk_execFirmwareStart (a0 : State) (h0 : memOk a0) : NextMemOk (execFirmwareStart a0) := by
  unfold execFirmwareStart
  repeat' with_reducible first
    | assumption | apply memOk_cpStart | apply memOk_advanceStart | apply memOk_setF | apply NextMemOk.next | apply memOk_ite
    | simp only [↓memOk_mk] | apply memParts_of | intro _

theorem memOk_issueSlip (a0 : State) (a1 : Nat) (a2 : SlipNotice) (h0 : memOk a0) : memOk (issueSlip a0 a1 a2) := by
  unfold issueSlip
  repeat' with_reducible first
    | assumption | apply memOk_updPart | apply memOk_ctlSend | apply memOk_ite | simp only | intro _ | split

theorem memOk_deferLaunch (a0 : State) (a1 : Submission) (a2 : Nat) (h0 : memOk a0) : memOk (deferLaunch a0 a1 a2) := by
  unfold deferLaunch
  repeat' with_reducible first
    | assumption | apply memOk_addF | apply memOk_issueSlip | apply memOk_ite | intro _

theorem memOk_prepared (a0 : State) (h0 : memOk a0) : memOk (prepared a0).2 := by
  unfold prepared
  repeat' with_reducible first
    | assumption | simp only [↓memOk_mk] | apply memParts_of

theorem memOk_judge (a0 : State) (a1 : Submission) (h0 : memOk a0) : memOk (judge a0 a1).2 := by
  unfold judge
  repeat' with_reducible first
    | assumption | apply memOk_prepared | simp only | split

theorem memOk_advanceSub (a0 : State) (a1 : Submission) (h0 : memOk a0) : memOk (advanceSub a0 a1) := by
  unfold advanceSub
  repeat' with_reducible first
    | assumption | apply memOk_putSub | apply memOk_updJob | simp only | split

theorem memOk_carryOpen (a0 : State) (a1 a2 a3 a4 : Nat) (h0 : memOk a0) : memOk (carryOpen a0 a1 a2 a3 a4) := by
  unfold carryOpen
  repeat' with_reducible first
    | assumption | apply memOk_greyPut | apply memOk_ite | simp only [↓memOk_mk] | apply memParts_of | intro _

theorem memOk_greyFaultsDue (a0 : State) (h0 : memOk a0) : memOk (greyFaultsDue a0) := by
  unfold greyFaultsDue
  repeat' with_reducible first
    | assumption | apply memOk_xlateFault | apply memOk_each | simp only [↓memOk_mk] | apply memParts_of | intro _

theorem memOk_launchStep (a0 : State) (a1 : Submission) (h0 : memOk a0) : memOk (launchStep a0 a1) := by
  unfold launchStep
  repeat' with_reducible first
    | assumption | apply memOk_advanceSub | apply memOk_takeRefs | apply memOk_updCtx | apply memOk_updPart
    | apply memOk_putRun | apply memOk_stepFail | apply memOk_carryOpen | apply memOk_greyFaultsDue
    | apply memOk_stepProgress | apply memOk_placeTasks | apply memOk_ite | simp only [↓memOk_mk] | apply memParts_of | intro _
    | split

theorem memOk_takeForGroup (a0 : State) (a1 a2 : Nat) (h0 : memOk a0) : memOk (takeForGroup a0 a1 a2) := by
  unfold takeForGroup
  repeat' with_reducible first
    | assumption | apply memOk_startSlice | apply memOk_takeHolder | apply memOk_releaseHolder | apply memOk_ite | intro _

theorem memOk_launchGroup (a0 : State) (a1 : Submission) (h0 : memOk a0) : memOk (launchGroup a0 a1) := by
  unfold launchGroup
  repeat' with_reducible first
    | assumption | apply memOk_deferLaunch | apply memOk_judge | apply memOk_launchStep | apply memOk_takeForGroup
    | apply memOk_ite | simp only | intro _ | split

theorem memOk_dropNotices (a0 : State) (h0 : memOk a0) : memOk (dropNotices a0) := by
  unfold dropNotices
  repeat' with_reducible first
    | assumption | apply memOk_updSubs | simp only [↓memOk_mk] | apply memParts_of

theorem memOk_endGroupSteps (a0 : State) (a1 : State → Nat → State) (h0 : memOk a0)
    (h1 : ∀ (y0 : State) (y1 : Nat), memOk (y0) → memOk (a1 y0 y1)) : memOk (endGroupSteps a0 a1) := by
  unfold endGroupSteps
  repeat' with_reducible first
    | assumption | apply h1 | apply memOk_each | intro _

theorem memOk_fireReset (a0 : State) (a1 : ArmedAction) (h0 : memOk a0) : memOk (fireReset a0 a1) := by
  unfold fireReset
  repeat' with_reducible first
    | assumption | apply memOk_dropNotices | apply memOk_endGroupSteps | apply memOk_stepEnd | simp only [↓memOk_mk]
    | apply memParts_of | intro _

theorem memOk_dropActions (a0 : State) (a1 : ArmKind) (h0 : memOk a0) : memOk (dropActions a0 a1) := by
  unfold dropActions
  repeat' with_reducible first
    | assumption | simp only [↓memOk_mk] | apply memParts_of

theorem memOk_resetsDue (a0 : State) (h0 : memOk a0) : memOk (resetsDue a0) := by
  unfold resetsDue
  repeat' with_reducible first
    | assumption | apply memOk_fireReset | apply memOk_dropActions | apply memOk_each | intro _

theorem memOk_endSlice (a0 : State) (a1 a2 : Nat) (h0 : memOk a0) : memOk (endSlice a0 a1 a2) := by
  unfold endSlice
  repeat' with_reducible first
    | assumption | apply memOk_updPart | apply memOk_chooseHolder | apply memOk_releaseHolder | apply memOk_startSlice
    | apply memOk_ite | intro _

theorem memOk_armFlip (a0 : State) (a1 : Nat) (h0 : memOk a0) : memOk (armFlip a0 a1) := by
  unfold armFlip
  repeat' with_reducible first
    | assumption | apply memOk_updGroup | apply memOk_ite | simp only | intro _ | split

theorem memOk_execSealComplete (a0 : Nat) (a1 : State) (h1 : memOk a1) : NextMemOk (execSealComplete a0 a1) := by
  unfold execSealComplete
  repeat' with_reducible first
    | assumption | apply memOk_updGroup | apply memOk_finishJob | apply memOk_armFlip | apply NextMemOk.next | apply nextMemOk_ite
    | apply memOk_each | simp only | intro _

theorem memOk_ctlQueue (a0 : State) (a1 : CtlMsg) (a2 : Nat) (h0 : memOk a0) : memOk (ctlQueue a0 a1 a2) := by
  unfold ctlQueue
  repeat' with_reducible first
    | assumption | apply memOk_updPort

theorem memOk_updFeature (a0 : State) (a1 a2 : Nat) (a3 : FeatureRun → FeatureRun) (h0 : memOk a0) : memOk (updFeature a0
    a1 a2 a3) := by
  unfold updFeature
  repeat' with_reducible first
    | assumption | apply memOk_updRun

theorem memOk_addRow (a0 : State) (a1 a2 a3 : Nat) (a4 : Contribution) (h0 : memOk a0) : memOk (addRow a0 a1 a2 a3 a4) :=
    by
  unfold addRow
  repeat' with_reducible first
    | assumption | apply memOk_updFeature

theorem memOk_localRow (a0 : State) (a1 : StepRun) (a2 : Table) (a3 : Looked) (a4 : Nat) (a5 : Bool) (h0 : memOk a0) :
    memOk (localRow a0 a1 a2 a3 a4 a5) := by
  unfold localRow
  repeat' with_reducible first
    | assumption | apply memOk_stepFail | apply memOk_sramUe | apply memOk_updPart | apply memOk_addF | apply memOk_addRow
    | apply memOk_ite | simp only | intro _

theorem memOk_execTileGe (a0 : Nat) (a1 : Bool) (a2 : TileFields) (a3 : SramEcc) (a4 : State) (h4 : memOk a4) : NextMemOk
    (execTileGe a0 a1 a2 a3 a4) := by
  unfold execTileGe
  repeat' with_reducible first
    | assumption | apply memOk_tileExec

theorem memOk_thermLevel (a0 : State) (a1 : Nat) (h0 : memOk a0) : memOk (thermLevel a0 a1) := by
  unfold thermLevel
  repeat' with_reducible first
    | assumption | apply memOk_healthEvent | apply memOk_setF | simp only [↓memOk_mk] | apply memParts_of

theorem memOk_serveCap (a0 : State) (a1 : Nat) (h0 : memOk a0) : memOk (serveCap a0 a1) := by
  unfold serveCap
  repeat' with_reducible first
    | assumption | apply memOk_finishJob | apply memOk_vaWrite | apply memOk_ite | simp only [↓memOk_mk] | apply memParts_of
    | apply memParts_host | apply wf_wrBytes | apply wf_mem_host | intro _ | split

theorem memOk_capJobDone (a0 : State) (a1 : Nat) (h0 : memOk a0) : memOk (capJobDone a0 a1) := by
  unfold capJobDone
  repeat' with_reducible first
    | assumption | apply memOk_finishJob | apply memOk_serveCap | apply memOk_ite | intro _

theorem memOk_execCapabilityRewriteDone (a0 : State) (h0 : memOk a0) : NextMemOk (execCapabilityRewriteDone a0) := by
  unfold execCapabilityRewriteDone
  repeat' with_reducible first
    | assumption | apply memOk_capJobDone | apply NextMemOk.next | apply nextMemOk_ite | apply memOk_each | simp only [↓memOk_mk]
    | apply memParts_of | intro _

theorem memOk_ctlForward (a0 : State) (a1 : Nat) (a2 : CtlMsg) (h0 : memOk a0) : memOk (ctlForward a0 a1 a2) := by
  unfold ctlForward
  repeat' with_reducible first
    | assumption | apply memOk_ite | simp only [↓memOk_mk] | apply memParts_of | intro _

theorem memOk_awaitJob (a0 : State) (a1 : Nat) (h0 : memOk a0) : memOk (awaitJob a0 a1) := by
  unfold awaitJob
  repeat' with_reducible first
    | assumption | apply memOk_updJob

theorem memOk_startCopy (a0 : State) (a1 : Nat) (h0 : memOk a0) : memOk (startCopy a0 a1) := by
  unfold startCopy
  repeat' with_reducible first
    | assumption | apply memOk_runEngine | apply memOk_updJob | apply memOk_awaitJob

theorem memOk_execFill (a0 : Nat) (a1 : State) (h1 : memOk a1) : NextMemOk (execFill a0 a1) := by
  unfold execFill
  repeat' with_reducible first
    | assumption | apply memOk_runJob | apply memOk_startCopy | intro _

theorem memOk_admHead (a0 : State) (h0 : memOk a0) : memOk (admHead a0) := by
  unfold admHead
  repeat' with_reducible first
    | assumption | apply memOk_ite | simp only [↓memOk_mk] | apply memParts_of | intro _ | split

theorem memOk_fetchAdm (a0 : State) (h0 : memOk a0) : memOk (fetchAdm a0) := by
  unfold fetchAdm
  repeat' with_reducible first
    | assumption | apply memOk_setF | apply memOk_admHead | apply memOk_addF64 | apply memOk_ite | simp only [↓memOk_mk]
    | apply memParts_of | intro _

theorem memOk_execTileDot (a0 : Nat) (a1 : Bool) (a2 : TileFields) (a3 : SramEcc) (a4 : State) (h4 : memOk a4) : NextMemOk
    (execTileDot a0 a1 a2 a3 a4) := by
  unfold execTileDot
  repeat' with_reducible first
    | assumption | apply memOk_tileExec

theorem memOk_execRefreshWindow (a0 a1 : Nat) (a2 : State) (h2 : memOk a2) : NextMemOk (execRefreshWindow a0 a1 a2) := by
  unfold execRefreshWindow
  repeat' with_reducible first
    | assumption | apply memOk_updRun | exact .fault | apply NextMemOk.next | apply memOk_ite | apply nextMemOk_ite
    | simp only [↓memOk_mk] | apply memParts_of | intro _ | split

theorem memOk_windowPass (a0 : State) (a1 : Nat) (h0 : memOk a0) : memOk (windowPass a0 a1) := by
  unfold windowPass
  split
  · exact h0
  · exact memOk_iter h0 fun _ _ h => memOk_after _ _ (memOk_execRefreshWindow _ _ _ h) h

theorem memOk_partBegin (a0 : State) (a1 : Nat) (h0 : memOk a0) : memOk (partBegin a0 a1) := by
  unfold partBegin
  repeat' with_reducible first
    | assumption | apply memOk_finishResize | apply memOk_windowPass | apply memOk_applyChanges | apply memOk_ite | intro _

theorem memOk_updSubq (a0 : State) (a1 a2 : Nat) (a3 : SubQ → SubQ) (h0 : memOk a0) : memOk (updSubq a0 a1 a2 a3) := by
  unfold updSubq
  repeat' with_reducible first
    | assumption | apply memOk_updCtx

theorem memOk_toHead (a0 : State) (a1 a2 : Nat) (h0 : memOk a0) : memOk (toHead a0 a1 a2) := by
  unfold toHead
  repeat' with_reducible first
    | assumption | apply memOk_updSubq | apply memOk_ite | simp only | intro _ | split

theorem memOk_closeBuffer (a0 : State) (a1 a2 : Nat) (h0 : memOk a0) : memOk (closeBuffer a0 a1 a2) := by
  unfold closeBuffer
  repeat' with_reducible first
    | assumption | apply memOk_toHead | apply memOk_updSubq

theorem memOk_bufferDone (a0 : State) (a1 : Nat) (h0 : memOk a0) : memOk (bufferDone a0 a1) := by
  unfold bufferDone
  repeat' with_reducible first
    | assumption | apply memOk_finishJob | apply memOk_ite | intro _ | split

theorem memOk_cutLaunch (a0 : State) (a1 a2 : Nat) (a3 : Code) (h0 : memOk a0) : memOk (cutLaunch a0 a1 a2 a3) := by
  unfold cutLaunch
  repeat' with_reducible first
    | assumption | apply memOk_greyStepEnd | apply memOk_settleStep | apply memOk_stepFail | apply memOk_updPart
    | apply memOk_dropSub | apply memOk_unloadDone | apply memOk_earlyRelease | apply memOk_finishJob | apply memOk_ite
    | apply memOk_each | simp only [↓memOk_mk] | apply memParts_of | intro _ | split

theorem memOk_cutCopy (a0 : State) (a1 : Nat) (a2 : Code) (h0 : memOk a0) : memOk (cutCopy a0 a1 a2) := by
  unfold cutCopy
  repeat' with_reducible first
    | assumption | apply memOk_finishJob | apply memOk_detachPage | simp only [↓memOk_mk] | apply memParts_of

theorem memOk_cutJob (a0 : State) (a1 : Nat) (a2 : Job) (a3 : Code) (h0 : memOk a0) : memOk (cutJob a0 a1 a2 a3) := by
  unfold cutJob
  repeat' with_reducible first
    | assumption | apply memOk_cutLaunch | apply memOk_cutCopy | split

theorem memOk_cutBuffer (a0 : State) (a1 : Nat) (a2 : Job) (a3 : Code) (h0 : memOk a0) : memOk (cutBuffer a0 a1 a2 a3) :=
    by
  unfold cutBuffer
  repeat' with_reducible first
    | assumption | apply memOk_updJob | apply memOk_closeBuffer | apply memOk_bufferDone | apply memOk_cutJob
    | apply memOk_ite | apply memOk_each | intro _

theorem memOk_expireJob (a0 : State) (a1 : Nat) (h0 : memOk a0) : memOk (expireJob a0 a1) := by
  unfold expireJob
  repeat' with_reducible first
    | assumption | apply memOk_addF | apply memOk_cutBuffer | apply memOk_cutJob | apply memOk_ite | simp only
    | intro _ | split

theorem memOk_discardWork (a0 : State) (a1 : Nat) (h0 : memOk a0) : memOk (discardWork a0 a1) := by
  unfold discardWork
  repeat' with_reducible first
    | assumption | apply memOk_closeBuffer | apply memOk_abortCopies | apply memOk_abortSteps | apply memOk_ite
    | apply memOk_each | intro _

theorem memOk_countMissed (a0 : State) (h0 : memOk a0) : memOk (countMissed a0) := by
  unfold countMissed
  repeat' with_reducible first
    | assumption | apply memOk_addF | apply memOk_ite | simp only [↓memOk_mk] | apply memParts_of | intro _

theorem memOk_startAcquire (a0 : State) (h0 : memOk a0) : memOk (startAcquire a0) := by
  unfold startAcquire
  repeat' with_reducible first
    | assumption | apply memOk_setSync | apply memOk_endGroupSteps | apply memOk_setF | apply memOk_stepFail
    | apply memOk_ite | simp only [↓memOk_mk] | apply memParts_of | intro _

theorem memOk_relock (a0 : State) (a1 : ℤ) (h0 : memOk a0) : memOk (relock a0 a1) := by
  unfold relock
  repeat' with_reducible first
    | assumption | apply memOk_setSync | apply memOk_startAcquire | apply memOk_ite | simp only [↓memOk_mk] | apply memParts_of
    | intro _

theorem memOk_reportOffset (a0 : State) (h0 : memOk a0) : memOk (reportOffset a0) := by
  unfold reportOffset
  repeat' with_reducible first
    | assumption | apply memOk_setF

theorem memOk_trackMarker (a0 : State) (a1 : ℤ) (h0 : memOk a0) : memOk (trackMarker a0 a1) := by
  unfold trackMarker
  repeat' with_reducible first
    | assumption | apply memOk_reportOffset | simp only [↓memOk_mk] | apply memParts_of

theorem memOk_moveTimers (a0 : ℤ) (a1 : State) (h1 : memOk a1) : memOk (moveTimers a0 a1) := by
  unfold moveTimers
  repeat' with_reducible first
    | assumption | simp only [↓memOk_mk] | apply memParts_of

theorem memOk_stepCounter (a0 : State) (a1 : ℤ) (h0 : memOk a0) : memOk (stepCounter a0 a1) := by
  unfold stepCounter
  repeat' with_reducible first
    | assumption | apply memOk_moveTimers | apply memOk_setF | simp only [↓memOk_mk] | apply memParts_of

theorem memOk_acquireStep (a0 : State) (h0 : memOk a0) : memOk (acquireStep a0) := by
  unfold acquireStep
  repeat' with_reducible first
    | assumption | apply memOk_stepCounter | apply memOk_ite | simp only [↓memOk_mk] | apply memParts_of | intro _

theorem memOk_acquireMarker (a0 : State) (h0 : memOk a0) : memOk (acquireMarker a0) := by
  unfold acquireMarker
  repeat' with_reducible first
    | assumption | apply memOk_acquireStep | apply memOk_setSync | apply memOk_ite | simp only [↓memOk_mk] | apply memParts_of
    | intro _

theorem memOk_lockedMarker (a0 : State) (h0 : memOk a0) : memOk (lockedMarker a0) := by
  unfold lockedMarker
  repeat' with_reducible first
    | assumption | apply memOk_startAcquire | apply memOk_ite | intro _

theorem memOk_servoMarker (a0 : State) (a1 : ℤ) (a2 : Bool) (h0 : memOk a0) : memOk (servoMarker a0 a1 a2) := by
  unfold servoMarker
  repeat' with_reducible first
    | assumption | apply memOk_countMissed | apply memOk_relock | apply memOk_startAcquire | apply memOk_trackMarker
    | apply memOk_acquireMarker | apply memOk_lockedMarker | apply memOk_ite | simp only [↓memOk_mk] | apply memParts_of
    | intro _

theorem memOk_putJob (a0 : State) (a1 : Nat) (a2 : Job) (h0 : memOk a0) : memOk (putJob a0 a1 a2) := by
  unfold putJob
  repeat' with_reducible first
    | assumption | simp only [↓memOk_mk] | apply memParts_of

theorem memOk_newJob (a0 : State) (a1 : Job) (h0 : memOk a0) : memOk (newJob a0 a1) := by
  unfold newJob
  repeat' with_reducible first
    | assumption | apply memOk_putJob | simp only [↓memOk_mk] | apply memParts_of

theorem memOk_retireUndispatched (a0 : State) (a1 : Job) (a2 : Code) (a3 : Option Nat) (h0 : memOk a0) : memOk
    (retireUndispatched a0 a1 a2 a3) := by
  unfold retireUndispatched
  repeat' with_reducible first
    | assumption | apply memOk_newJob

theorem memOk_dispatchJob (a0 : State) (a1 : Job) (h0 : memOk a0) : memOk (dispatchJob a0 a1) := by
  unfold dispatchJob
  repeat' with_reducible first
    | assumption | apply memOk_addF | apply memOk_retireUndispatched | apply memOk_newJob | apply memOk_takeRefs
    | apply memOk_addF64 | apply memOk_ite | simp only [↓memOk_mk] | apply memParts_of | intro _

theorem memOk_fetchFault (a0 : State) (a1 a2 a3 : Nat) (a4 : Code) (h0 : memOk a0) : memOk (fetchFault a0 a1 a2 a3 a4) :=
    by
  unfold fetchFault
  repeat' with_reducible first
    | assumption | apply memOk_updSubq | apply memOk_ctxFault | apply memOk_addF | apply memOk_fqPost

theorem memOk_fetchOne (a0 : State) (a1 a2 : Nat) (h0 : memOk a0) : memOk (fetchOne a0 a1 a2) := by
  unfold fetchOne
  repeat' with_reducible first
    | assumption | apply memOk_fetchFault | apply memOk_updSubq | apply memOk_noteRing | apply memOk_touchRead
    | apply memOk_toHead | apply memOk_addF64 | apply memOk_ite | simp only [↓memOk_mk] | apply memParts_of | intro _

theorem memOk_pulseSteer (a0 : State) (h0 : memOk a0) : memOk (pulseSteer a0) := by
  unfold pulseSteer
  repeat' with_reducible first
    | assumption | apply memOk_ite | simp only [↓memOk_mk] | apply memParts_of | intro _

theorem memOk_writeResult (a0 : State) (a1 a2 a3 : Nat) (a4 : List Byte) (h0 : memOk a0) : memOk (writeResult a0 a1 a2 a3
    a4) := by
  unfold writeResult
  repeat' with_reducible first
    | assumption | apply memOk_vaWrite | apply memOk_finishJob | apply memOk_ite | intro _

theorem memOk_execReadSnapshot (a0 : Nat) (a1 : State) (h1 : memOk a1) : NextMemOk (execReadSnapshot a0 a1) := by
  unfold execReadSnapshot
  repeat' with_reducible first
    | assumption | apply memOk_runJob | apply memOk_finishJob | apply memOk_writeResult | apply memOk_ite
    | simp only | intro _

theorem memOk_missFlip (a0 : State) (a1 a2 : Nat) (a3 : Code) (h0 : memOk a0) : memOk (missFlip a0 a1 a2 a3) := by
  unfold missFlip
  repeat' with_reducible first
    | assumption | apply memOk_addF | apply memOk_eventCtx | apply memOk_eventAdm | apply memOk_finishJob
    | apply memOk_updGroup | apply memOk_each | intro _

theorem memOk_announceFlip (a0 : State) (a1 a2 a3 a4 : Nat) (h0 : memOk a0) : memOk (announceFlip a0 a1 a2 a3 a4) := by
  unfold announceFlip
  repeat' with_reducible first
    | assumption | apply memOk_updGroup | apply memOk_missFlip | apply memOk_armFlip | apply memOk_ite
    | simp only | intro _

theorem memOk_holdSub (a0 : State) (a1 : Submission) (h0 : memOk a0) : memOk (holdSub a0 a1) := by
  unfold holdSub
  repeat' with_reducible first
    | assumption | apply memOk_putSub

theorem memOk_yieldHold (a0 : State) (a1 : Nat) (h0 : memOk a0) : memOk (yieldHold a0 a1) := by
  unfold yieldHold
  repeat' with_reducible first
    | assumption | apply memOk_chooseHolder | apply memOk_releaseHolder | apply memOk_ite | intro _

theorem memOk_launchLocal (a0 : State) (a1 : Submission) (h0 : memOk a0) : memOk (launchLocal a0 a1) := by
  unfold launchLocal
  repeat' with_reducible first
    | assumption | apply memOk_holdSub | apply memOk_yieldHold | apply memOk_deferLaunch | apply memOk_judge
    | apply memOk_launchStep | apply memOk_ite | simp only | intro _

theorem memOk_setLanes (a0 : Core) (a1 : Nat) (a2 : Nat → BitVec 32) (h0 : coreMemOk a0) : coreMemOk (setLanes a0 a1 a2) :=
    by
  unfold setLanes
  repeat' with_reducible first
    | assumption | simp only [↓coreMemOk_mk] | apply coreMemParts_mk | apply coreMemOk_weight | apply coreMemOk_act | apply coreMemOk_acc
    | apply coreMemOk_prog | apply coreMemOk_planeA | apply coreMemOk_shadowA | apply coreMemOk_planeB | apply coreMemOk_shadowB

theorem memOk_vecLanes (a0 : Nat) (a1 : VecFields) (a2 : Core) (h2 : coreMemOk a2) : coreMemOk (vecLanes a0 a1 a2) := by
  unfold vecLanes
  repeat' with_reducible first
    | assumption | apply memOk_setLanes

theorem memOk_execSetCalibration (a0 : Nat) (a1 : State) (h1 : memOk a1) : NextMemOk (execSetCalibration a0 a1) := by
  unfold execSetCalibration
  repeat' with_reducible first
    | assumption | apply memOk_runJob | apply memOk_finishJob | apply memOk_updCtx | apply memOk_ite | simp only
    | intro _

theorem memOk_landDelivery (a0 : State) (a1 : Nat) (a2 : StepRun) (a3 : StreamRun) (h0 : memOk a0) : memOk (landDelivery
    a0 a1 a2 a3) := by
  unfold landDelivery
  repeat' with_reducible first
    | assumption | apply memOk_updStream | apply memOk_putCore | apply memOk_coreWrN | apply memOk_coreOf
    | apply memOk_healthEvent | apply memOk_telemAdd | apply memOk_addF | apply memOk_ite | simp only | intro _
    | split

theorem memOk_execDeliveryLanded (a0 a1 : Nat) (a2 : State) (h2 : memOk a2) : NextMemOk (execDeliveryLanded a0 a1 a2) :=
    by
  unfold execDeliveryLanded
  repeat' with_reducible first
    | assumption | apply memOk_stepProgress | apply memOk_landDelivery | exact .fault | apply NextMemOk.next | apply nextMemOk_ite
    | intro _ | split

theorem memOk_updCoreNext (a0 : State) (a1 : Nat) (a2 : Core → Core) (h0 : memOk a0)
    (h2 : ∀ (y0 : Core), coreMemOk (y0) → coreMemOk (a2 y0)) : memOk (updCoreNext a0 a1 a2) := by
  unfold updCoreNext
  repeat' with_reducible first
    | assumption | apply h2 | apply memOk_advance | apply memOk_putCore | apply memOk_coreOf

theorem memOk_vecExec (a0 : Instr) (a1 : Nat) (a2 : Bool) (a3 : State) (a4 : Core → Core) (h3 : memOk a3)
    (h4 : ∀ (y0 : Core), coreMemOk (y0) → coreMemOk (a4 y0)) : NextMemOk (vecExec a0 a1 a2 a3 a4) := by
  unfold vecExec
  repeat' with_reducible first
    | assumption | apply memOk_issue | apply memOk_updCoreNext | intro _

theorem memOk_execFsub (a0 : Nat) (a1 : Bool) (a2 : VecFields) (a3 : State) (h3 : memOk a3) : NextMemOk (execFsub a0 a1 a2
    a3) := by
  unfold execFsub
  repeat' with_reducible first
    | assumption | apply memOk_vecExec | apply memOk_vecLanes

theorem memOk_streamTake (a0 : Nat) (a1 : State) (a2 : Nat) (h1 : memOk a1) : memOk (streamTake a0 a1 a2) := by
  induction a0 generalizing a1 a2 with
  | zero =>
   unfold streamTake
   repeat' with_reducible first
     | assumption
  | succ _ ih =>
   unfold streamTake
   repeat' with_reducible first
     | assumption | apply ih | apply memOk_ingest | simp only [↓memOk_mk] | apply memParts_of | split

theorem memOk_streamPacket (a0 : State) (a1 : BePacket) (h0 : memOk a0) : memOk (streamPacket a0 a1) := by
  unfold streamPacket
  repeat' with_reducible first
    | assumption | apply memOk_streamTake | apply memOk_ite | simp only [↓memOk_mk] | apply memParts_of | intro _

theorem memOk_countServed (a0 : State) (a1 : Table) (a2 a3 : Nat) (a4 : List (W64 × W64)) (h0 : memOk a0) : memOk
    (countServed a0 a1 a2 a3 a4) := by
  unfold countServed
  repeat' with_reducible first
    | assumption | apply memOk_addF | apply memOk_ite | apply memOk_each | simp only | intro _

theorem memOk_greyRecord (a0 : State) (a1 : BePacket) (h0 : memOk a0) : memOk (greyRecord a0 a1) := by
  unfold greyRecord
  repeat' with_reducible first
    | assumption | apply memOk_beSend | apply memOk_addF | apply memOk_countServed | apply memOk_ite | simp only
    | intro _ | split

theorem memOk_greyRefused (a0 : State) (a1 a2 : Nat) (h0 : memOk a0) : memOk (greyRefused a0 a1 a2) := by
  unfold greyRefused
  repeat' with_reducible first
    | assumption | apply memOk_stepFail | apply memOk_ite | intro _ | split

theorem memOk_greyReturn (a0 : State) (a1 : BePacket) (h0 : memOk a0) : memOk (greyReturn a0 a1) := by
  unfold greyReturn
  repeat' with_reducible first
    | assumption | apply memOk_greyRefused | apply memOk_freeHeld | apply memOk_updPartial | apply memOk_updFeature
    | apply memOk_greyFaultsDue | apply memOk_greyResult | apply memOk_ite | simp only | intro _ | split

theorem memOk_promoFetch (a0 : State) (a1 : BePacket) (h0 : memOk a0) : memOk (promoFetch a0 a1) := by
  unfold promoFetch
  repeat' with_reducible first
    | assumption | apply memOk_beSend | apply memOk_ite | simp only | intro _ | split

theorem memOk_makeRoom (a0 : Nat) (a1 : State) (a2 a3 a4 a5 : Nat) (h1 : memOk a1) : OptMemOk (makeRoom a0 a1 a2 a3 a4
    a5) := by
  induction a0 generalizing a1 a2 a3 a4 a5 with
  | zero =>
   unfold makeRoom
   repeat' with_reducible first
     | assumption | exact .none | apply OptMemOk.some | apply optMemOk_ite | intro _
  | succ _ ih =>
   unfold makeRoom
   repeat' with_reducible first
     | assumption | apply ih | apply memOk_evict | exact .none | apply OptMemOk.some | apply optMemOk_ite
     | simp only | intro _ | split

theorem memOk_putCrimson (a0 : State) (a1 : Promotion) (a2 : List Byte) (h0 : memOk a0) : memOk (putCrimson a0 a1 a2) :=
    by
  unfold putCrimson
  repeat' with_reducible first
    | assumption | apply memOk_addF | apply memOk_makeRoom | apply memOk_ite | simp only [↓memOk_mk] | apply memParts_of
    | (apply optMemOk_elim; case' e => assumption) | intro _ | split

theorem memOk_installRow (a0 : State) (a1 : Promotion) (a2 : List Byte) (h0 : memOk a0) : memOk (installRow a0 a1 a2) :=
    by
  unfold installRow
  repeat' with_reducible first
    | assumption | apply memOk_askPromos | apply memOk_putCrimson | simp only [↓memOk_mk] | apply memParts_of

theorem memOk_promoData (a0 : State) (a1 : BePacket) (h0 : memOk a0) : memOk (promoData a0 a1) := by
  unfold promoData
  repeat' with_reducible first
    | assumption | apply memOk_installRow | simp only | split

theorem memOk_beDeliver (a0 : State) (a1 : BePacket) (h0 : memOk a0) : memOk (beDeliver a0 a1) := by
  unfold beDeliver
  repeat' with_reducible first
    | assumption | apply memOk_streamPacket | apply memOk_greyRecord | apply memOk_greyReturn | apply memOk_promoFetch
    | apply memOk_promoData | simp only [↓memOk_mk] | apply memParts_of | split

theorem memOk_cmpFlags (a0 : Core) (a1 a2 : BitVec 64) (h0 : coreMemOk a0) : coreMemOk (cmpFlags a0 a1 a2) := by
  unfold cmpFlags
  repeat' with_reducible first
    | assumption | simp only [↓coreMemOk_mk] | apply coreMemParts_mk | apply coreMemOk_weight | apply coreMemOk_act | apply coreMemOk_acc
    | apply coreMemOk_prog | apply coreMemOk_planeA | apply coreMemOk_shadowA | apply coreMemOk_planeB | apply coreMemOk_shadowB

theorem memOk_execSetContextSched (a0 : Nat) (a1 : State) (h1 : memOk a1) : NextMemOk (execSetContextSched a0 a1) := by
  unfold execSetContextSched
  repeat' with_reducible first
    | assumption | apply memOk_runJob | apply memOk_finishJob | apply memOk_updCtx | apply memOk_ite | simp only
    | intro _

theorem memOk_fillPartials (a0 : State) (a1 : StepRun) (a2 : FeatureRun) (a3 a4 : Nat) (h0 : memOk a0) : memOk
    (fillPartials a0 a1 a2 a3 a4) := by
  unfold fillPartials
  repeat' with_reducible first
    | assumption | apply memOk_dropPartial | apply memOk_updPartial | apply memOk_ite | apply memOk_each
    | simp only | intro _

theorem memOk_bindObj (a0 : State) (a1 : Nat) (h0 : memOk a0) : memOk (bindObj a0 a1) := by
  unfold bindObj
  repeat' with_reducible first
    | assumption | apply memOk_updObj

theorem memOk_loadImage (a0 : State) (a1 a2 : Nat) (a3 : Img) (h0 : memOk a0) : memOk (loadImage a0 a1 a2 a3) := by
  unfold loadImage
  repeat' with_reducible first
    | assumption | apply memOk_finishJob | apply memOk_unbindObj | apply memOk_bindObj | apply memOk_updPart
    | apply memOk_updCtx | apply memOk_copyCode | apply memOk_trimMaps | apply memOk_each | simp only [↓memOk_mk]
    | apply memParts_of | intro _ | split

theorem memOk_execLoadProgram (a0 : Nat) (a1 : State) (h1 : memOk a1) : NextMemOk (execLoadProgram a0 a1) := by
  unfold execLoadProgram
  repeat' with_reducible first
    | assumption | apply memOk_runJob | apply memOk_finishJob | apply memOk_touchRead | apply memOk_loadImage
    | apply memOk_ite | simp only | intro _

theorem memOk_serveMsg (a0 a1 : Nat) (a2 : State) (a3 : MboxMsg → State → State) (h2 : memOk a2)
    (h3 : ∀ (y0 : MboxMsg) (y1 : State), memOk (y1) → memOk (a3 y0 y1)) : NextMemOk (serveMsg a0 a1 a2 a3) := by
  unfold serveMsg
  repeat' with_reducible first
    | assumption | apply h3 | exact .fault | apply NextMemOk.next | apply memOk_ite | apply nextMemOk_ite | intro _ | split

theorem memOk_execAddSoftRepair (a0 : Nat) (a1 : State) (h1 : memOk a1) : NextMemOk (execAddSoftRepair a0 a1) := by
  unfold execAddSoftRepair
  repeat' with_reducible first
    | assumption | apply memOk_serveMsg | apply memOk_mbAck | apply memOk_setF | apply memOk_ite | intro _ | split

theorem memOk_joinDelivery (a0 : State) (a1 : Nat) (a2 : StreamRun) (a3 : Nat) (a4 : List Byte) (h0 : memOk a0) : memOk
    (joinDelivery a0 a1 a2 a3 a4) := by
  unfold joinDelivery
  repeat' with_reducible first
    | assumption | apply memOk_updStream

theorem memOk_joinReturn (a0 : State) (a1 a2 a3 a4 a5 a6 : Nat) (a7 : List (BitVec 32)) (h0 : memOk a0) : memOk
    (joinReturn a0 a1 a2 a3 a4 a5 a6 a7) := by
  unfold joinReturn
  repeat' with_reducible first
    | assumption | apply memOk_updFeature

theorem memOk_takeReturn (a0 : State) (a1 a2 : Nat) (a3 : StepRun) (a4 : FeatureRun) (a5 a6 a7 : Nat)
    (a8 : List (BitVec 32)) (h0 : memOk a0) : OptMemOk (takeReturn a0 a1 a2 a3 a4 a5 a6 a7 a8) := by
  unfold takeReturn
  repeat' with_reducible first
    | assumption | apply memOk_joinReturn | apply memOk_greyResult | exact .none | apply OptMemOk.some | apply optMemOk_ite
    | intro _ | split

theorem memOk_takeReturns (a0 : Nat) (a1 : State) (a2 a3 : Nat) (h1 : memOk a1) : memOk (takeReturns a0 a1 a2 a3) := by
  induction a0 generalizing a1 a2 a3 with
  | zero =>
   unfold takeReturns
   repeat' with_reducible first
     | assumption
  | succ _ ih =>
   unfold takeReturns
   repeat' with_reducible first
     | assumption | apply ih | apply memOk_updRun | apply memOk_stepFail | apply memOk_takeReturn | apply memOk_ite
     | simp only | (apply optMemOk_elim; case' e => assumption) | intro _ | split

theorem memOk_pushReturn (a0 : State) (a1 a2 : Nat) (a3 : List Byte) (h0 : memOk a0) : memOk (pushReturn a0 a1 a2 a3) :=
    by
  unfold pushReturn
  repeat' with_reducible first
    | assumption | apply memOk_updRun

theorem memOk_serveTo (a0 : State) (a1 : Nat) (a2 : StepRun) (a3 a4 a5 : Nat) (a6 : List (W64 × W64)) (h0 : memOk a0) :
    memOk (serveTo a0 a1 a2 a3 a4 a5 a6) := by
  unfold serveTo
  repeat' with_reducible first
    | assumption | apply memOk_pushReturn | apply memOk_addF | apply memOk_countServed | apply memOk_ite
    | simp only | intro _ | split

theorem memOk_serveHeld (a0 : State) (a1 : Nat) (a2 : StepRun) (a3 : Nat) (a4 : List Byte) (h0 : memOk a0) : memOk
    (serveHeld a0 a1 a2 a3 a4) := by
  unfold serveHeld
  repeat' with_reducible first
    | assumption | apply memOk_serveTo | apply memOk_ite | intro _

theorem memOk_exchangeFlit (a0 : State) (a1 : Nat) (a2 : StepRun) (a3 a4 a5 : Nat) (a6 : List Byte) (h0 : memOk a0) :
    memOk (exchangeFlit a0 a1 a2 a3 a4 a5 a6) := by
  unfold exchangeFlit
  repeat' with_reducible first
    | assumption | apply memOk_updRun | apply memOk_takeReturns | apply memOk_serveHeld | apply memOk_iter
    | simp only | intro _ | split

theorem memOk_receiveFlit (a0 : State) (a1 : Nat) (a2 : StepRun) (a3 : Resv) (a4 a5 : Nat) (a6 : List Byte)
    (h0 : memOk a0) : memOk (receiveFlit a0 a1 a2 a3 a4 a5 a6) := by
  unfold receiveFlit
  repeat' with_reducible first
    | assumption | apply memOk_countLost | apply memOk_joinDelivery | apply memOk_exchangeFlit | apply memOk_ite
    | simp only | intro _ | split

theorem memOk_ctlDrain (a0 : State) (h0 : memOk a0) : memOk (ctlDrain a0) := by
  unfold ctlDrain
  repeat' with_reducible first
    | assumption | apply memOk_ctlQueue | apply memOk_each | simp only [↓memOk_mk] | apply memParts_of | intro _

theorem memOk_putFlit (a0 : State) (a1 : Nat) (a2 : List Byte) (h0 : memOk a0) : memOk (putFlit a0 a1 a2) := by
  unfold putFlit
  repeat' with_reducible first
    | assumption | simp only [↓memOk_mk] | apply memParts_of

theorem memOk_markSent (a0 : State) (a1 : Nat) (a2 : BeFlit) (h0 : memOk a0) : memOk (markSent a0 a1 a2) := by
  unfold markSent
  repeat' with_reducible first
    | assumption | apply memOk_updPort

theorem memOk_portSlot (a0 : State) (a1 : Nat) (h0 : memOk a0) : memOk (portSlot a0 a1) := by
  unfold portSlot
  repeat' with_reducible first
    | assumption | apply memOk_updPort | apply memOk_putFlit | apply memOk_telemAdd | apply memOk_markSent | apply memOk_ite
    | intro _ | split

theorem memOk_slotPass (a0 : State) (h0 : memOk a0) : memOk (slotPass a0) := by
  unfold slotPass
  repeat' with_reducible first
    | assumption | apply memOk_ctlDrain | apply memOk_portSlot | apply memOk_ite | apply memOk_iter | simp only [↓memOk_mk]
    | apply memParts_of | intro _

theorem memOk_applyArray (a0 : State) (a1 : Nat) (h0 : memOk a0) : memOk (applyArray a0 a1) := by
  unfold applyArray
  repeat' with_reducible first
    | assumption | apply memOk_setF | apply memOk_ite | simp only | intro _

theorem memOk_addDefault (a0 : State) (a1 a2 a3 a4 : Nat) (a5 : BitVec 32) (a6 : Table) (a7 : Nat) (h0 : memOk a0) :
    memOk (addDefault a0 a1 a2 a3 a4 a5 a6 a7) := by
  unfold addDefault
  repeat' with_reducible first
    | assumption | apply memOk_addRow | apply memOk_addF | apply memOk_updFeature

theorem memOk_greyHold (a0 : State) (a1 : GreyHeld) (a2 : Bool) (h0 : memOk a0) : OptMemOk (greyHold a0 a1 a2) := by
  unfold greyHold
  cases freeHeldSlot a0 a1.handle with
  | none => exact .none
  | some i =>
    refine optMemOk_ite (fun _ => ?_) fun _ => .some (memOk_greyHeader _ _ _ (memOk_putHeld _ _ _ h0))
    cases greyPartOf a0 a1.ctx a1.step a1.feature a1.bag with
    | some x => exact .some (memOk_greyHeader _ _ _ (memOk_putHeld _ _ _ (memOk_updPartial _ _ h0)))
    | none =>
      cases freePartSlot a0 a1.handle with
      | none => exact .none
      | some k => exact .some (memOk_greyHeader _ _ _ (memOk_putHeld _ _ _ (memOk_putSlot _ _ h0)))

theorem memOk_spillId (a0 : State) (a1 : StepRun) (a2 : FeatureRun) (a3 : Table) (a4 : Looked) (a5 a6 : Nat)
    (h0 : memOk a0) : memOk (spillId a0 a1 a2 a3 a4 a5 a6) := by
  unfold spillId
  repeat' with_reducible first
    | assumption | apply memOk_telemAdd | apply memOk_addF64 | apply memOk_updRun | apply memOk_updFeature | apply memOk_addF
    | apply memOk_addDefault | apply memOk_greyHold | apply memOk_beSend | apply memOk_ite | simp only
    | (apply optMemOk_elim; case' e => assumption) | intro _ | split

theorem memOk_abortObjects (a0 : State) (a1 : Nat) (h0 : memOk a0) : memOk (abortObjects a0 a1) := by
  unfold abortObjects
  repeat' with_reducible first
    | assumption | apply memOk_putObj | apply memOk_releaseObj | apply memOk_ite | apply memOk_each | simp only
    | intro _

theorem memOk_forceAbort (a0 : State) (a1 : Nat) (a2 : Code) (a3 : Option Nat) (h0 : memOk a0) : memOk (forceAbort a0 a1
    a2 a3) := by
  unfold forceAbort
  repeat' with_reducible first
    | assumption | apply memOk_updCtx | apply memOk_abortObjects | apply memOk_abortFences | apply memOk_abortUnbind
    | apply memOk_abortCopies | apply memOk_abortSteps | apply memOk_abortFetch

theorem memOk_execDestroyContext (a0 : Nat) (a1 : State) (h1 : memOk a1) : NextMemOk (execDestroyContext a0 a1) := by
  unfold execDestroyContext
  repeat' with_reducible first
    | assumption | apply memOk_runJob | apply memOk_finishJob | apply memOk_awaitJob | apply memOk_forceAbort
    | apply memOk_ite | simp only | intro _

theorem memOk_execFexp2 (a0 : Nat) (a1 : Bool) (a2 : VecFields) (a3 : State) (h3 : memOk a3) : NextMemOk (execFexp2 a0 a1
    a2 a3) := by
  unfold execFexp2
  repeat' with_reducible first
    | assumption | apply memOk_vecExec | apply memOk_vecLanes

theorem memOk_missPoint (a0 : State) (a1 a2 : Nat) (h0 : memOk a0) : memOk (missPoint a0 a1 a2) := by
  unfold missPoint
  repeat' with_reducible first
    | assumption | apply memOk_stepFail | apply memOk_issueSlip | apply memOk_ite | simp only | intro _ | split

theorem memOk_missPass (a0 : State) (a1 : Nat) (h0 : memOk a0) : memOk (missPass a0 a1) := by
  unfold missPass
  repeat' with_reducible first
    | assumption | apply memOk_missPoint | apply memOk_each | intro _

theorem memOk_execTileEq (a0 : Nat) (a1 : Bool) (a2 : TileFields) (a3 : SramEcc) (a4 : State) (h4 : memOk a4) : NextMemOk
    (execTileEq a0 a1 a2 a3 a4) := by
  unfold execTileEq
  repeat' with_reducible first
    | assumption | apply memOk_tileExec

theorem memOk_execSyncMarkerSend (a0 : State) (h0 : memOk a0) : NextMemOk (execSyncMarkerSend a0) := by
  unfold execSyncMarkerSend
  repeat' with_reducible first
    | assumption | apply memOk_ctlSend | apply NextMemOk.next | apply nextMemOk_ite | apply memOk_each | simp only
    | intro _

theorem memOk_shiftOffsets (a0 : ℤ) (a1 : State) (h1 : memOk a1) : memOk (shiftOffsets a0 a1) := by
  unfold shiftOffsets
  repeat' with_reducible first
    | assumption | simp only [↓memOk_mk] | apply memParts_of

theorem memOk_servoEdge (a0 : Nat) (a1 : State) (h1 : memOk a1) : memOk (servoEdge a0 a1) := by
  unfold servoEdge
  repeat' with_reducible first
    | assumption | apply memOk_shiftOffsets | apply memOk_ite | simp only [↓memOk_mk] | apply memParts_of | intro _

theorem memOk_execFmul (a0 : Nat) (a1 : Bool) (a2 : VecFields) (a3 : State) (h3 : memOk a3) : NextMemOk (execFmul a0 a1 a2
    a3) := by
  unfold execFmul
  repeat' with_reducible first
    | assumption | apply memOk_vecExec | apply memOk_vecLanes

theorem memOk_portUp (a0 : State) (a1 : Nat) (h0 : memOk a0) : memOk (portUp a0 a1) := by
  unfold portUp
  repeat' with_reducible first
    | assumption | apply memOk_updPort | apply memOk_capChange | apply memOk_beAgain | apply memOk_advanceStart
    | apply memOk_ite | intro _

theorem memOk_measurePort (a0 : State) (a1 a2 : Nat) (a3 : List Nat) (a4 : Coord) (a5 : Nat) (h0 : memOk a0) : memOk
    (measurePort a0 a1 a2 a3 a4 a5) := by
  unfold measurePort
  repeat' with_reducible first
    | assumption | apply memOk_updPort | simp only [↓memOk_mk] | apply memParts_of

theorem memOk_dirBack (a0 : State) (a1 : Nat) (h0 : memOk a0) : memOk (dirBack a0 a1) := by
  unfold dirBack
  repeat' with_reducible first
    | assumption | simp only [↓memOk_mk] | apply memParts_of

theorem memOk_execRetrainPort (a0 : Nat) (a1 : Bool) (a2 : Nat) (a3 : List Nat) (a4 : State) (h4 : memOk a4) : NextMemOk
    (execRetrainPort a0 a1 a2 a3 a4) := by
  unfold execRetrainPort
  repeat' with_reducible first
    | assumption | apply memOk_serveMsg | apply memOk_mbAck | apply memOk_limiterEvent | apply memOk_portUp
    | apply memOk_measurePort | apply memOk_dirBack | apply memOk_ite | simp only | intro _

theorem memOk_execUnaligned (a0 : State) (h0 : memOk a0) : NextMemOk (execUnaligned a0) := by
  unfold execUnaligned
  repeat' with_reducible first
    | assumption | apply memOk_endGroupSteps | apply memOk_setF | apply memOk_stepFail | apply NextMemOk.next | apply nextMemOk_ite
    | intro _

theorem memOk_hbmUe (a0 : State) (a1 a2 a3 a4 : Nat) (a5 : Code) (a6 : List Nat) (h0 : memOk a0) : memOk (hbmUe a0 a1 a2
    a3 a4 a5 a6) := by
  unfold hbmUe
  repeat' with_reducible first
    | assumption | apply memOk_healthEvent | apply memOk_errLog | apply memOk_telemAdd

theorem memOk_copyBeat (a0 : State) (a1 : Nat) (h0 : memOk a0) : memOk (copyBeat a0 a1) := by
  unfold copyBeat
  repeat' with_reducible first
    | assumption | apply memOk_updJob | apply memOk_detachPage | apply memOk_runEngine | simp only | split

theorem memOk_walkFails (a0 : State) (a1 a2 a3 : Nat) (a4 : Bool) (a5 : Xl) (h0 : memOk a0) : memOk (walkFails a0 a1 a2
    a3 a4 a5) := by
  unfold walkFails
  repeat' with_reducible first
    | assumption | apply memOk_xlateFault | apply memOk_runEngine | apply memOk_stallCopy | apply memOk_ite | intro _
    | split

theorem memOk_retireObj (a0 : State) (a1 : Nat) (h0 : memOk a0) : memOk (retireObj a0 a1) := by
  unfold retireObj
  repeat' with_reducible first
    | assumption | apply memOk_putObj | simp only [↓memOk_mk] | apply memParts_of

theorem memOk_retireFence (a0 : State) (a1 : Nat) (h0 : memOk a0) : memOk (retireFence a0 a1) := by
  unfold retireFence
  repeat' with_reducible first
    | assumption | apply memOk_putFence | simp only [↓memOk_mk] | apply memParts_of

theorem memOk_beatFails (a0 : State) (a1 : Nat) (a2 : BeatReader) (a3 : Nat) (h0 : memOk a0) : memOk (beatFails a0 a1 a2
    a3) := by
  unfold beatFails
  repeat' with_reducible first
    | assumption | apply memOk_hbmUe | apply memOk_stepFail | apply memOk_copyBeat | apply memOk_walkFails
    | apply memOk_ctxFault | apply memOk_retireObj | apply memOk_retireFence | apply memOk_setF | apply memOk_dropRefs
    | apply memOk_ite | simp only [↓memOk_mk] | apply memParts_of | intro _ | split

theorem memOk_runImage (a0 : State) (a1 : List Byte) (h0 : memOk a0) : memOk (runImage a0 a1) := by
  unfold runImage
  repeat' with_reducible first
    | assumption | apply memOk_cpStart | apply memOk_setF | simp only [↓memOk_mk] | apply memParts_of | apply memParts_ctrl
    | apply wf_wrBytes | apply wf_mem_ctrl

theorem memOk_useRecord (a0 : State) (a1 a2 : List Byte) (a3 : List Section) (h0 : memOk a0) : memOk (useRecord a0 a1 a2
    a3) := by
  unfold useRecord
  repeat' with_reducible first
    | assumption | apply memOk_setF | simp only [↓memOk_mk] | apply memParts_of | split

theorem memOk_quietPorts (a0 : State) (h0 : memOk a0) : memOk (quietPorts a0) := by
  unfold quietPorts
  repeat' with_reducible first
    | assumption | apply memOk_updPort | apply memOk_setF | apply memOk_each | simp only [↓memOk_mk] | apply memParts_of
    | intro _

theorem memOk_awaitImage (a0 : State) (a1 : Code) (h0 : memOk a0) : memOk (awaitImage a0 a1) := by
  unfold awaitImage
  repeat' with_reducible first
    | assumption | apply memOk_setF | apply memOk_quietPorts

theorem memOk_judgeBundle (a0 : State) (a1 : Code) (a2 a3 : List Byte) (h0 : memOk a0) : memOk (judgeBundle a0 a1 a2 a3)
    := by
  unfold judgeBundle
  repeat' with_reducible first
    | assumption | apply memOk_capRewrite | apply memOk_setF | apply memOk_runImage | apply memOk_useRecord
    | apply memOk_awaitImage | split

theorem memOk_verifyStore (a0 : State) (a1 : Bool) (h0 : memOk a0) : memOk (verifyStore a0 a1).2 := by
  unfold verifyStore
  repeat' with_reducible first
    | assumption | apply memOk_judgeBundle

theorem memOk_copyCells (a0 : List Host.Cell) (a1 a2 : Nat) (a3 : List Host.Cell) (a4 : Nat) (h0 : Memory.wf (a0) = true)
    (h3 : Memory.wf (a3) = true) : Memory.wf (copyCells a0 a1 a2 a3 a4) = true := by
  unfold copyCells
  repeat' with_reducible first
    | assumption | apply wf_foldl | apply wf_clearBytes | apply wf_wr8 | intro _

theorem memOk_bundleFrom (a0 : State) (a1 : List Host.Cell) (a2 a3 a4 a5 : Nat) (h0 : memOk a0)
    (h1 : Memory.wf (a1) = true) : memOk (bundleFrom a0 a1 a2 a3 a4 a5) := by
  unfold bundleFrom
  repeat' with_reducible first
    | assumption | apply memOk_copyCells | simp only [↓memOk_mk] | apply memParts_of | apply memParts_boot | apply wf_mem_boot

theorem memOk_pushCopy (a0 : State) (a1 : MboxMsg) (h0 : memOk a0) : memOk (pushCopy a0 a1) := by
  unfold pushCopy
  repeat' with_reducible first
    | assumption | apply memOk_bundleFrom | simp only [↓memOk_mk] | apply memParts_of | apply memParts_boot | exact wf_nil
    | apply wf_mem_host

theorem memOk_execPushBundle (a0 : Nat) (a1 : State) (h1 : memOk a1) : NextMemOk (execPushBundle a0 a1) := by
  unfold execPushBundle
  repeat' with_reducible first
    | assumption | apply memOk_serveMsg | apply memOk_mbAck | apply memOk_setF | apply memOk_limiterRefuse
    | apply memOk_verifyStore | apply memOk_pushCopy | apply memOk_ite | simp only | intro _

theorem memOk_retireOp (a0 : State) (a1 : Job) (a2 : Nat) (h0 : memOk a0) : memOk (retireOp a0 a1 a2) := by
  unfold retireOp
  repeat' with_reducible first
    | assumption | apply memOk_bufferDone | apply memOk_updJob

theorem memOk_keyState (a0 : State) (h0 : memOk a0) : memOk (keyState a0) := by
  unfold keyState
  repeat' with_reducible first
    | assumption | apply memOk_setF64

theorem memOk_execKeySlotEffect (a0 : State) (h0 : memOk a0) : NextMemOk (execKeySlotEffect a0) := by
  unfold execKeySlotEffect
  repeat' with_reducible first
    | assumption | apply memOk_setF | apply memOk_keyState | apply NextMemOk.next | simp only [↓memOk_mk] | apply memParts_of
    | split

theorem memOk_execWrapperInstructionUpdate (a0 : Nat) (a1 : State) (h1 : memOk a1) : NextMemOk
    (execWrapperInstructionUpdate a0 a1) := by
  unfold execWrapperInstructionUpdate
  repeat' with_reducible first
    | assumption | apply NextMemOk.next | simp only [↓memOk_mk] | apply memParts_of

theorem memOk_createObj (a0 : State) (a1 : Nat) (a2 : Job) (h0 : memOk a0) : memOk (createObj a0 a1 a2) := by
  unfold createObj
  repeat' with_reducible first
    | assumption | apply memOk_finishJob | apply memOk_putObj | apply memOk_vaWrite | apply memOk_ite | simp only [↓memOk_mk]
    | apply memParts_of | intro _ | split

theorem memOk_execCreateObject (a0 : Nat) (a1 : State) (h1 : memOk a1) : NextMemOk (execCreateObject a0 a1) := by
  unfold execCreateObject
  repeat' with_reducible first
    | assumption | apply memOk_runJob | apply memOk_createObj | intro _

theorem memOk_putPwr (a0 : State) (a1 a2 : Nat) (h0 : memOk a0) : memOk (putPwr a0 a1 a2) := by
  unfold putPwr
  repeat' with_reducible first
    | assumption | apply memOk_setF | simp only [↓memOk_mk] | apply memParts_of

theorem memOk_startPrepare (a0 : State) (a1 : Nat) (h0 : memOk a0) : memOk (startPrepare a0 a1) := by
  unfold startPrepare
  repeat' with_reducible first
    | assumption | apply memOk_putPwr | simp only [↓memOk_mk] | apply memParts_of

theorem memOk_vecReduce (a0 : BitVec 32 → BitVec 32 → BitVec 32) (a1 : VecFields) (a2 : Core) (h2 : coreMemOk a2) : coreMemOk
    (vecReduce a0 a1 a2) := by
  unfold vecReduce
  repeat' with_reducible first
    | assumption | apply memOk_setLanes

theorem memOk_execFsum (a0 : Nat) (a1 : Bool) (a2 : VecFields) (a3 : State) (h3 : memOk a3) : NextMemOk (execFsum a0 a1 a2
    a3) := by
  unfold execFsum
  repeat' with_reducible first
    | assumption | apply memOk_vecExec | apply memOk_vecReduce

theorem memOk_doorbell (a0 : State) (a1 a2 : Nat) (a3 : BitVec 8) (a4 : Nat → Context → State → State) (h0 : memOk a0)
    (h4 : ∀ (y0 : Nat) (y1 : Context) (y2 : State), memOk (y2) → memOk (a4 y0 y1 y2)) : NextMemOk (doorbell a0 a1 a2 a3 a4)
    := by
  unfold doorbell
  repeat' with_reducible first
    | assumption | apply h4 | exact .fault | apply NextMemOk.next | apply nextMemOk_ite | simp only | intro _

theorem memOk_badDoorbell (a0 : State) (a1 a2 : Nat) (a3 : W32) (h0 : memOk a0) : memOk (badDoorbell a0 a1 a2 a3) := by
  unfold badDoorbell
  repeat' with_reducible first
    | assumption | apply memOk_addF | apply memOk_eventCtx | apply memOk_updCtx | apply memOk_ite | intro _

theorem memOk_execDoorbellSqTail (a0 a1 : Nat) (a2 : BitVec 64) (a3 : BitVec 8) (a4 : State) (h4 : memOk a4) : NextMemOk
    (execDoorbellSqTail a0 a1 a2 a3 a4) := by
  unfold execDoorbellSqTail
  repeat' with_reducible first
    | assumption | apply memOk_doorbell | apply memOk_badDoorbell | apply memOk_updSubq | apply memOk_ite
    | simp only | intro _ | split

theorem memOk_execGrantPages (a0 : Nat) (a1 : State) (h1 : memOk a1) : NextMemOk (execGrantPages a0 a1) := by
  unfold execGrantPages
  repeat' with_reducible first
    | assumption | apply memOk_runJob | apply memOk_finishJob | apply memOk_ite | simp only [↓memOk_mk] | apply memParts_of
    | intro _

theorem memOk_freeContext (a0 : State) (a1 : Nat) (h0 : memOk a0) : memOk (freeContext a0 a1) := by
  unfold freeContext
  repeat' with_reducible first
    | assumption | apply memOk_putCtx | apply memOk_finishJob | simp only [↓memOk_mk] | apply memParts_of | split

theorem memOk_flashApply (a0 : State) (a1 : Bool) (a2 : Nat) (a3 : List Byte) (h0 : memOk a0) : memOk (flashApply a0 a1
    a2 a3) := by
  unfold flashApply
  repeat' with_reducible first
    | assumption | simp only [↓memOk_mk] | apply memParts_of | apply memParts_flash | apply wf_wrBytes | apply wf_mem_flash

theorem memOk_execFlashCommandRelease (a0 : State) (h0 : memOk a0) : NextMemOk (execFlashCommandRelease a0) := by
  unfold execFlashCommandRelease
  repeat' with_reducible first
    | assumption | apply memOk_flashApply | apply NextMemOk.next | apply memOk_ite | apply memOk_each | simp only [↓memOk_mk]
    | apply memParts_of | intro _

theorem memOk_countFec (a0 : State) (a1 : Nat) (a2 : RxMark) (a3 : Bool) (h0 : memOk a0) : memOk (countFec a0 a1 a2 a3)
    := by
  unfold countFec
  repeat' with_reducible first
    | assumption | apply memOk_telemAdd | apply memOk_addF | apply memOk_ite | intro _

theorem memOk_ctlFlitIn (a0 : Nat) (a1 : RxMark) (a2 : List Byte) (a3 : Nat) (a4 : CtlMsg → State → State) (a5 : State)
    (h4 : ∀ (y0 : CtlMsg) (y1 : State), memOk (y1) → memOk (a4 y0 y1)) (h5 : memOk a5) : NextMemOk (ctlFlitIn a0 a1 a2 a3
    a4 a5) := by
  unfold ctlFlitIn
  repeat' with_reducible first
    | assumption | apply h4 | apply memOk_countFec | apply memOk_addF | exact .fault | apply NextMemOk.next | apply nextMemOk_ite
    | simp only | intro _ | split

theorem memOk_ctlFirst (a0 : Nat) (a1 : CtlMsg) (a2 : CtlMsg → State → State) (a3 : State)
    (h2 : ∀ (y0 : CtlMsg) (y1 : State), memOk (y1) → memOk (a2 y0 y1)) (h3 : memOk a3) : memOk (ctlFirst a0 a1 a2 a3) :=
    by
  unfold ctlFirst
  repeat' with_reducible first
    | assumption | apply h2 | apply memOk_ctlForward | apply memOk_ite | simp only | intro _ | split

theorem memOk_ctlArrive (a0 : Nat) (a1 : RxMark) (a2 : List Byte) (a3 : Nat) (a4 : CtlMsg → State → State) (a5 : State)
    (h4 : ∀ (y0 : CtlMsg) (y1 : State), memOk (y1) → memOk (a4 y0 y1)) (h5 : memOk a5) : NextMemOk (ctlArrive a0 a1 a2 a3
    a4 a5) := by
  unfold ctlArrive
  repeat' with_reducible first
    | assumption | apply memOk_ctlFlitIn | apply memOk_ctlFirst | intro _

theorem memOk_execSnapshotAnnouncement (a0 : Nat) (a1 : RxMark) (a2 : List Byte) (a3 : State) (h3 : memOk a3) : NextMemOk
    (execSnapshotAnnouncement a0 a1 a2 a3) := by
  unfold execSnapshotAnnouncement
  repeat' with_reducible first
    | assumption | apply memOk_ctlArrive | apply memOk_holdAction | intro _

theorem memOk_clearRc (a0 : State) (a1 : Nat) (h0 : memOk a0) : memOk (clearRc a0 a1) := by
  unfold clearRc
  repeat' with_reducible first
    | assumption | apply memOk_setF | apply memOk_ite | apply memOk_each | intro _

theorem memOk_busRead (a0 : State) (a1 a2 : Nat) (h0 : memOk a0) : memOk (busRead a0 a1 a2).2 := by
  unfold busRead
  repeat' with_reducible first
    | assumption | apply memOk_unpowered | apply memOk_lockSettle | apply memOk_clearRc | simp only | split

theorem memOk_busReadN (a0 : State) (a1 a2 : Nat) (a3 : Bool) (h0 : memOk a0) : memOk (busReadN a0 a1 a2 a3).2 := by
  unfold busReadN
  repeat' with_reducible first
    | assumption | apply memOk_busRead | simp only | split

theorem memOk_execCounterRead (a0 : Bool) (a1 : Nat) (a2 : BitVec 8) (a3 : State) (h3 : memOk a3) : NextMemOk
    (execCounterRead a0 a1 a2 a3) := by
  unfold execCounterRead
  repeat' with_reducible first
    | assumption | apply memOk_hostWrite | apply memOk_busReadN | apply memOk_ite | simp only [↓memOk_mk] | apply memParts_of
    | intro _

theorem memOk_putDigest (a0 : State) (a1 : List Byte) (h0 : memOk a0) : memOk (putDigest a0 a1) := by
  unfold putDigest
  repeat' with_reducible first
    | assumption | apply memOk_setF | apply memOk_iter | intro _

theorem memOk_execLoop (a0 : Nat) (a1 : Bool) (a2 a3 : Nat) (a4 : State) (h4 : memOk a4) : NextMemOk (execLoop a0 a1 a2 a3
    a4) := by
  unfold execLoop
  repeat' with_reducible first
    | assumption | apply memOk_issue | apply memOk_setG | apply memOk_coreOf | apply memOk_putCore | apply memOk_goTo
    | apply memOk_advance | apply memOk_ite | simp only | intro _

theorem memOk_execFmin (a0 : Nat) (a1 : Bool) (a2 : VecFields) (a3 : State) (h3 : memOk a3) : NextMemOk (execFmin a0 a1 a2
    a3) := by
  unfold execFmin
  repeat' with_reducible first
    | assumption | apply memOk_vecExec | apply memOk_vecLanes

theorem memOk_execHbmTrainFail (a0 : Nat) (a1 : State) (h1 : memOk a1) : NextMemOk (execHbmTrainFail a0 a1) := by
  unfold execHbmTrainFail
  repeat' with_reducible first
    | assumption | apply memOk_advanceStart | exact .fault | apply NextMemOk.next | apply memOk_ite | apply nextMemOk_ite
    | simp only [↓memOk_mk] | apply memParts_of | intro _

theorem memOk_execUnloadGroup (a0 : Nat) (a1 : State) (h1 : memOk a1) : NextMemOk (execUnloadGroup a0 a1) := by
  unfold execUnloadGroup
  repeat' with_reducible first
    | assumption | apply memOk_runJob | apply memOk_finishJob | apply memOk_setF | apply memOk_updPart | apply memOk_ite
    | simp only | intro _

theorem memOk_joinReady (a0 : State) (a1 a2 : Nat) (h0 : memOk a0) : memOk (joinReady a0 a1 a2) := by
  unfold joinReady
  repeat' with_reducible first
    | assumption | apply memOk_updCtx | apply memOk_ite | simp only | intro _

theorem memOk_markReady (a0 : State) (a1 : Nat) (h0 : memOk a0) : memOk (markReady a0 a1) := by
  unfold markReady
  repeat' with_reducible first
    | assumption | apply memOk_putCtx | apply memOk_each | intro _

theorem memOk_launchDue (a0 : State) (a1 : Nat) (h0 : memOk a0) : memOk (launchDue a0 a1) := by
  unfold launchDue
  repeat' with_reducible first
    | assumption | apply memOk_applyChanges | apply memOk_markReady | apply memOk_launchGroup | apply memOk_chooseHolder
    | apply memOk_launchLocal | apply memOk_ite | apply memOk_each | intro _ | split

theorem memOk_flowTake (a0 : Nat) (a1 : State) (a2 : Nat) (h1 : memOk a1) : memOk (flowTake a0 a1 a2) := by
  induction a0 generalizing a1 a2 with
  | zero =>
   unfold flowTake
   repeat' with_reducible first
     | assumption
  | succ _ ih =>
   unfold flowTake
   repeat' with_reducible first
     | assumption | apply ih | apply memOk_beDeliver | simp only [↓memOk_mk] | apply memParts_of | split

theorem memOk_bePacketArrive (a0 : State) (a1 : BePacket) (h0 : memOk a0) : memOk (bePacketArrive a0 a1) := by
  unfold bePacketArrive
  repeat' with_reducible first
    | assumption | apply memOk_addF | apply memOk_flowTake | apply memOk_ite | simp only [↓memOk_mk] | apply memParts_of
    | intro _

theorem memOk_bePacketIn (a0 : State) (a1 : BePacket) (h0 : memOk a0) : memOk (bePacketIn a0 a1) := by
  unfold bePacketIn
  repeat' with_reducible first
    | assumption | apply memOk_addF | apply memOk_bePacketArrive | apply memOk_beRoute | apply memOk_ite | intro _

theorem memOk_bePacket (a0 : BeHeader) (a1 : Nat) (a2 : List Byte) (a3 : State) (h3 : memOk a3) : NextMemOk (bePacket a0
    a1 a2 a3) := by
  unfold bePacket
  repeat' with_reducible first
    | assumption | apply memOk_bePacketIn | apply NextMemOk.next

theorem memOk_execPromotionData (a0 : BeHeader) (a1 : List Byte) (a2 : State) (h2 : memOk a2) : NextMemOk
    (execPromotionData a0 a1 a2) := by
  unfold execPromotionData
  repeat' with_reducible first
    | assumption | apply memOk_bePacket

theorem memOk_armIdle (a0 : State) (a1 a2 a3 : Nat) (a4 : Bool) (h0 : memOk a0) : memOk (armIdle a0 a1 a2 a3 a4) := by
  unfold armIdle
  repeat' with_reducible first
    | assumption | apply memOk_holdAction | apply memOk_ite | simp only [↓memOk_mk] | apply memParts_of | intro _

theorem memOk_applySlip (a0 : State) (a1 : Nat) (a2 : SlipNotice) (h0 : memOk a0) : memOk (applySlip a0 a1 a2) := by
  unfold applySlip
  repeat' with_reducible first
    | assumption | apply memOk_updRun | apply memOk_updSubs | apply memOk_telemAdd | apply memOk_addF | apply memOk_eventCtx
    | simp only | split

theorem memOk_slipsDue (a0 : State) (a1 : Nat) (h0 : memOk a0) : memOk (slipsDue a0 a1) := by
  unfold slipsDue
  repeat' with_reducible first
    | assumption | apply memOk_applySlip | apply memOk_updPart | apply memOk_each | intro _

theorem memOk_latchSnapshot (a0 : State) (a1 : ArmedAction) (h0 : memOk a0) : memOk (latchSnapshot a0 a1) := by
  unfold latchSnapshot
  repeat' with_reducible first
    | assumption | apply memOk_setF64 | apply memOk_setF | apply memOk_ite | simp only [↓memOk_mk] | apply memParts_of
    | intro _

theorem memOk_latchDue (a0 : State) (h0 : memOk a0) : memOk (latchDue a0) := by
  unfold latchDue
  repeat' with_reducible first
    | assumption | apply memOk_latchSnapshot | apply memOk_dropActions | apply memOk_each | intro _

theorem memOk_tealFlip (a0 : State) (a1 : Nat) (h0 : memOk a0) : memOk (tealFlip a0 a1) := by
  unfold tealFlip
  repeat' with_reducible first
    | assumption | apply memOk_switchGroup | apply memOk_missFlip | apply memOk_ite | simp only | intro _
    | split

theorem memOk_insertIdle (a0 : State) (a1 : ArmedAction) (h0 : memOk a0) : memOk (insertIdle a0 a1) := by
  unfold insertIdle
  repeat' with_reducible first
    | assumption | apply memOk_telemAdd | apply memOk_updSubs

theorem memOk_insertionsDue (a0 : State) (a1 : Nat) (h0 : memOk a0) : memOk (insertionsDue a0 a1) := by
  unfold insertionsDue
  repeat' with_reducible first
    | assumption | apply memOk_insertIdle | apply memOk_each | simp only [↓memOk_mk] | apply memParts_of | intro _

theorem memOk_launchesDue (a0 : State) (a1 : Nat) (h0 : memOk a0) : memOk (launchesDue a0 a1) := by
  unfold launchesDue
  repeat' with_reducible first
    | assumption | apply memOk_slipsDue | apply memOk_launchDue | apply memOk_ite | intro _

theorem memOk_fireRank (a0 : Nat) (a1 : State) (h1 : memOk a1) : memOk (fireRank a0 a1) := by
  unfold fireRank
  repeat' with_reducible first
    | assumption | apply memOk_latchDue | apply memOk_resetsDue | apply memOk_tealFlip | apply memOk_slipsDue
    | apply memOk_insertionsDue | apply memOk_launchesDue | apply memOk_each | intro _ | split

theorem memOk_fireBefore (a0 : Nat) (a1 : State) (h1 : memOk a1) : memOk (fireBefore a0 a1) := by
  unfold fireBefore
  repeat' with_reducible first
    | assumption | apply memOk_fireRank | apply memOk_iter

theorem memOk_execSlip (a0 : Nat) (a1 : State) (h1 : memOk a1) : NextMemOk (execSlip a0 a1) := by
  unfold execSlip
  repeat' with_reducible first
    | assumption | apply memOk_slipsDue | apply memOk_fireBefore | exact .fault | apply NextMemOk.next | apply nextMemOk_ite
    | intro _

theorem memOk_makeContext (a0 : State) (a1 : Nat) (a2 : Context) (h0 : memOk a0) : memOk (makeContext a0 a1 a2) := by
  unfold makeContext
  repeat' with_reducible first
    | assumption | apply memOk_putCtx | simp only [↓memOk_mk] | apply memParts_of

theorem memOk_cpReturn (a0 : State) (a1 : Nat) (a2 : List Byte) (h0 : memOk a0) : memOk (cpReturn a0 a1 a2) := by
  unfold cpReturn
  repeat' with_reducible first
    | assumption | simp only [↓memOk_mk] | apply memParts_of

theorem memOk_execLinkRetry (a0 : State) (h0 : memOk a0) : NextMemOk (execLinkRetry a0) := by
  unfold execLinkRetry
  repeat' with_reducible first
    | assumption | apply NextMemOk.next | apply memOk_ite | simp only [↓memOk_mk] | apply memParts_of | intro _

theorem memOk_execColdResetRelease (a0 a1 : Bool) (a2 : State) (h2 : memOk a2) : NextMemOk (execColdResetRelease a0 a1 a2)
    := by
  unfold execColdResetRelease
  repeat' with_reducible first
    | assumption | apply memOk_setF | apply NextMemOk.next | apply memOk_ite | simp only [↓memOk_mk] | apply memParts_of
    | intro _

theorem memOk_execBindStream (a0 : Nat) (a1 : State) (h1 : memOk a1) : NextMemOk (execBindStream a0 a1) := by
  unfold execBindStream
  repeat' with_reducible first
    | assumption | apply memOk_runJob | apply memOk_finishJob | apply memOk_ite | simp only [↓memOk_mk] | apply memParts_of
    | intro _

theorem memOk_outsideOf (a0 : State) (h0 : memOk a0) : memOk (outsideOf a0) :=
  ⟨⟨wf_nil, h0.1.2.1, h0.1.2.2.1, wf_nil, wf_nil, wf_nil⟩, fun _ => ⟨⟨wf_nil, wf_nil, wf_nil, wf_nil⟩, wf_nil, wf_nil, wf_nil, wf_nil⟩⟩

theorem memOk_fencesGone (a0 : State) (h0 : memOk a0) : memOk (fencesGone a0) := by
  unfold fencesGone
  repeat' with_reducible first
    | assumption | simp only [↓memOk_mk] | apply memParts_of

theorem memOk_objectsGone (a0 : State) (h0 : memOk a0) : memOk (objectsGone a0) := by
  unfold objectsGone
  repeat' with_reducible first
    | assumption | simp only [↓memOk_mk] | apply memParts_of

theorem memOk_warmState (a0 : State) (h0 : memOk a0) : memOk (warmState a0) := by
  unfold warmState
  repeat' with_reducible first
    | assumption | apply memOk_outsideOf | simp only [↓memOk_mk] | apply memParts_of | apply memParts_hbm | apply wf_mem_hbm

theorem memOk_execTileL2 (a0 : Nat) (a1 : Bool) (a2 : TileFields) (a3 : SramEcc) (a4 : State) (h4 : memOk a4) : NextMemOk
    (execTileL2 a0 a1 a2 a3 a4) := by
  unfold execTileL2
  repeat' with_reducible first
    | assumption | apply memOk_tileExec

theorem memOk_expireCp (a0 : State) (a1 : Nat) (h0 : memOk a0) : memOk (expireCp a0 a1) := by
  unfold expireCp
  repeat' with_reducible first
    | assumption | apply memOk_addF | apply memOk_cpStart | apply memOk_mbRelease | apply memOk_mbAck
    | apply memOk_healthEvent | apply memOk_each | intro _

theorem memOk_outCore (a0 : State) (a1 : Nat) (h0 : memOk a0) : memOk (outCore a0 a1) := by
  unfold outCore
  repeat' with_reducible first
    | assumption | apply memOk_setF64 | apply memOk_ite | intro _

theorem memOk_execGreyLaneReturn (a0 : BeHeader) (a1 : List Byte) (a2 : State) (h2 : memOk a2) : NextMemOk
    (execGreyLaneReturn a0 a1 a2) := by
  unfold execGreyLaneReturn
  repeat' with_reducible first
    | assumption | apply memOk_bePacket

theorem memOk_execGrantArena (a0 : Nat) (a1 : State) (h1 : memOk a1) : NextMemOk (execGrantArena a0 a1) := by
  unfold execGrantArena
  repeat' with_reducible first
    | assumption | apply memOk_runJob | apply memOk_finishJob | apply memOk_bindObj | apply memOk_updCtx | apply memOk_ite
    | simp only | intro _

theorem memOk_execTimedSend (a0 a1 : Nat) (a2 : SramEcc) (a3 : State) (h3 : memOk a3) : NextMemOk (execTimedSend a0 a1 a2
    a3) := by
  unfold execTimedSend
  repeat' with_reducible first
    | assumption | apply memOk_sendsDue | apply memOk_fireBefore | exact .fault | apply NextMemOk.next | apply nextMemOk_ite
    | intro _

theorem memOk_execIshr (a0 : Nat) (a1 : Bool) (a2 : VecFields) (a3 : State) (h3 : memOk a3) : NextMemOk (execIshr a0 a1 a2
    a3) := by
  unfold execIshr
  repeat' with_reducible first
    | assumption | apply memOk_vecExec | apply memOk_vecLanes

theorem memOk_execReadAccounting (a0 : Nat) (a1 : State) (h1 : memOk a1) : NextMemOk (execReadAccounting a0 a1) := by
  unfold execReadAccounting
  repeat' with_reducible first
    | assumption | apply memOk_runJob | apply memOk_finishJob | apply memOk_ite | simp only [↓memOk_mk] | apply memParts_of
    | apply memParts_host | apply wf_wrBytes | apply wf_mem_host | intro _

theorem memOk_cacheCe (a0 : State) (a1 : Nat) (h0 : memOk a0) : memOk (cacheCe a0 a1) := by
  unfold cacheCe
  repeat' with_reducible first
    | assumption | apply memOk_ceCount | apply memOk_telemAdd | apply memOk_ite | intro _

theorem memOk_endReset (a0 : State) (a1 : Code) (h0 : memOk a0) : memOk (endReset a0 a1) := by
  unfold endReset
  repeat' with_reducible first
    | assumption | apply memOk_setF | apply memOk_mbAck | simp only [↓memOk_mk] | apply memParts_of | split

theorem memOk_execDomainResetDeadline (a0 : State) (h0 : memOk a0) : NextMemOk (execDomainResetDeadline a0) := by
  unfold execDomainResetDeadline
  repeat' with_reducible first
    | assumption | apply memOk_endReset | apply memOk_setF | apply NextMemOk.next | apply nextMemOk_ite | intro _

theorem memOk_resumeRun (a0 : State) (a1 : Nat) (h0 : memOk a0) : memOk (resumeRun a0 a1) := by
  unfold resumeRun
  repeat' with_reducible first
    | assumption | apply memOk_putPwr | apply memOk_setF | apply memOk_ite | simp only [↓memOk_mk] | apply memParts_of
    | intro _

theorem memOk_execPwrStateRun (a0 : State) (h0 : memOk a0) : NextMemOk (execPwrStateRun a0) := by
  unfold execPwrStateRun
  repeat' with_reducible first
    | assumption | apply memOk_resumeRun | apply NextMemOk.next | apply memOk_ite | intro _

theorem memOk_outPort (a0 : State) (a1 : Nat) (h0 : memOk a0) : memOk (outPort a0 a1) := by
  unfold outPort
  repeat' with_reducible first
    | assumption | apply memOk_updPort | apply memOk_ite | intro _

theorem memOk_execFsigmoid (a0 : Nat) (a1 : Bool) (a2 : VecFields) (a3 : State) (h3 : memOk a3) : NextMemOk (execFsigmoid
    a0 a1 a2 a3) := by
  unfold execFsigmoid
  repeat' with_reducible first
    | assumption | apply memOk_vecExec | apply memOk_vecLanes

theorem memOk_execFtanh (a0 : Nat) (a1 : Bool) (a2 : VecFields) (a3 : State) (h3 : memOk a3) : NextMemOk (execFtanh a0 a1
    a2 a3) := by
  unfold execFtanh
  repeat' with_reducible first
    | assumption | apply memOk_vecExec | apply memOk_vecLanes

theorem memOk_execVerify (a0 : State) (h0 : memOk a0) : NextMemOk (execVerify a0) := by
  unfold execVerify
  repeat' with_reducible first
    | assumption | apply memOk_verifyStore | apply memOk_setF | apply NextMemOk.next | apply memOk_ite | intro _

theorem memOk_makePartition (a0 : State) (a1 : PartBlock) (h0 : memOk a0) : memOk (makePartition a0 a1) := by
  unfold makePartition
  repeat' with_reducible first
    | assumption | apply memOk_capChange | apply memOk_setMasks | apply memOk_putPart

theorem memOk_execCreatePartition (a0 : Nat) (a1 : State) (h1 : memOk a1) : NextMemOk (execCreatePartition a0 a1) := by
  unfold execCreatePartition
  repeat' with_reducible first
    | assumption | apply memOk_runJob | apply memOk_finishJob | apply memOk_makePartition | apply memOk_ite
    | simp only | intro _

theorem memOk_l2Put (a0 : State) (a1 : TlbEntry) (h0 : memOk a0) : memOk (l2Put a0 a1) := by
  unfold l2Put
  repeat' with_reducible first
    | assumption | simp only [↓memOk_mk] | apply memParts_of

theorem memOk_fst_each {α β} {l : List β} {f : β → State × α → State × α} {p : State × α} (h : memOk p.1)
    (g : ∀ b q, memOk q.1 → memOk (f b q).1) : memOk (each l f p).1 := by
  unfold each
  induction l generalizing p with
  | nil => exact h
  | cons b l ih => exact ih (g b p h)

theorem memOk_fst_iter {α} {n : Nat} {f : Nat → State × α → State × α} {p : State × α} (h : memOk p.1)
    (g : ∀ b q, memOk q.1 → memOk (f b q).1) : memOk (iter n f p).1 := memOk_fst_each h g

theorem memOk_fst_ite {α} {c : Prop} [Decidable c] {p q : State × α} (h : memOk p.1) (g : memOk q.1) : memOk (if c then p else q).1 := by
  split <;> assumption

theorem memOk_carryFinal (a0 : State) (a1 : CarryArea) (h0 : memOk a0) : memOk (carryFinal a0 a1) := by
  unfold carryFinal
  refine memOk_updCarry _ _ (memOk_fst_iter h0 fun b q hq => ?_)
  refine memOk_fst_ite hq (memOk_fst_ite hq ?_)
  exact memOk_greyPut _ _ _ _ _ (memOk_greyPut _ _ _ _ _ hq)

theorem memOk_execFrsqrt (a0 : Nat) (a1 : Bool) (a2 : VecFields) (a3 : State) (h3 : memOk a3) : NextMemOk (execFrsqrt a0
    a1 a2 a3) := by
  unfold execFrsqrt
  repeat' with_reducible first
    | assumption | apply memOk_vecExec | apply memOk_vecLanes

theorem memOk_execAshTest (a0 : Nat) (a1 : Bool) (a2 : State) (h2 : memOk a2) : NextMemOk (execAshTest a0 a1 a2) := by
  unfold execAshTest
  repeat' with_reducible first
    | assumption | apply memOk_addF | apply NextMemOk.next | apply memOk_ite | apply nextMemOk_ite | simp only [↓memOk_mk]
    | apply memParts_of | intro _

theorem memOk_execLinkLossEffectiveTick (a0 : Nat) (a1 : State) (h1 : memOk a1) : NextMemOk (execLinkLossEffectiveTick a0
    a1) := by
  unfold execLinkLossEffectiveTick
  repeat' with_reducible first
    | assumption | apply memOk_stepEnd | exact .fault | apply NextMemOk.next | apply nextMemOk_ite | intro _ | split

theorem memOk_execFabs (a0 : Nat) (a1 : Bool) (a2 : VecFields) (a3 : State) (h3 : memOk a3) : NextMemOk (execFabs a0 a1 a2
    a3) := by
  unfold execFabs
  repeat' with_reducible first
    | assumption | apply memOk_vecExec | apply memOk_vecLanes

theorem memOk_idleLinks (a0 : State) (h0 : memOk a0) : memOk (idleLinks a0) := by
  unfold idleLinks
  repeat' with_reducible first
    | assumption | apply memOk_updPort | apply memOk_setF | apply memOk_each | simp only [↓memOk_mk] | apply memParts_of
    | intro _

theorem memOk_laneFault (a0 : State) (a1 a2 a3 : Nat) (a4 : Bool) (a5 : Code) (h0 : memOk a0) : memOk (laneFault a0 a1 a2
    a3 a4 a5) := by
  unfold laneFault
  repeat' with_reducible first
    | assumption | apply memOk_xlateFault

theorem memOk_writeFeature (a0 : State) (a1 : Nat) (a2 : StepRun) (a3 : FeatureRun) (a4 : List Byte) (h0 : memOk a0) :
    memOk (writeFeature a0 a1 a2 a3 a4) := by
  unfold writeFeature
  repeat' with_reducible first
    | assumption | apply memOk_vaWriteE | apply memOk_laneFault | apply memOk_putCore | apply memOk_coreWrN
    | apply memOk_coreOf | apply memOk_ite | simp only | intro _ | split

theorem memOk_execCvtfi (a0 : Nat) (a1 : Bool) (a2 : VecFields) (a3 : State) (h3 : memOk a3) : NextMemOk (execCvtfi a0 a1
    a2 a3) := by
  unfold execCvtfi
  repeat' with_reducible first
    | assumption | apply memOk_vecExec | apply memOk_vecLanes

theorem memOk_retryAts (a0 : State) (a1 : Nat) (h0 : memOk a0) : memOk (retryAts a0 a1) := by
  unfold retryAts
  repeat' with_reducible first
    | assumption | apply memOk_releasePage | apply memOk_addF

theorem memOk_execSpRefUrgent (a0 a1 : Nat) (a2 : Bool) (a3 : State) (h3 : memOk a3) : NextMemOk (execSpRefUrgent a0 a1 a2
    a3) := by
  unfold execSpRefUrgent
  repeat' with_reducible first
    | assumption | exact .fault | apply NextMemOk.next | apply memOk_ite | apply nextMemOk_ite | simp only [↓memOk_mk]
    | apply memParts_of | intro _

theorem memOk_putLane (a0 : Core) (a1 : Win) (a2 : VecFields) (a3 : Core) (a4 a5 : Nat) (h0 : coreMemOk a0)
    (h3 : coreMemOk a3) : coreMemOk (putLane a0 a1 a2 a3 a4 a5) := by
  unfold putLane
  repeat' with_reducible first
    | assumption | apply memOk_coreWrLE | apply memOk_coreWr | simp only | split

theorem memOk_vecStoreRow (a0 : Win) (a1 : VecFields) (a2 : Core) (h2 : coreMemOk a2) : coreMemOk (vecStoreRow a0 a1 a2) :=
    by
  unfold vecStoreRow
  repeat' with_reducible first
    | assumption | apply memOk_putLane | apply coreMemOk_ite | apply coreMemOk_iter | apply wf_foldl | apply wf_wrLE
    | simp only [↓coreMemOk_mk] | apply coreMemParts_mk | apply coreMemOk_weight | apply coreMemOk_act | apply coreMemOk_acc | apply coreMemOk_prog
    | apply coreMemOk_planeA | apply coreMemOk_shadowA | apply coreMemOk_planeB | apply coreMemOk_shadowB | intro _

theorem memOk_resetCore (a0 : State) (a1 : Nat) (h0 : memOk a0) : memOk (resetCore a0 a1) := by
  unfold resetCore
  repeat' with_reducible first
    | assumption | apply memOk_coreOf | apply memOk_putCore | exact wf_nil | simp only [↓coreMemOk_mk] | apply coreMemParts_mk
    | apply coreMemOk_weight | apply coreMemOk_act | apply coreMemOk_acc | apply coreMemOk_prog

theorem memOk_resetPartition (a0 : State) (a1 : Nat) (h0 : memOk a0) : memOk (resetPartition a0 a1) := by
  unfold resetPartition
  repeat' with_reducible first
    | assumption | apply memOk_discardWork | apply memOk_resetCore | apply memOk_updPart | apply memOk_each | intro _

theorem memOk_execFunctionResetBound (a0 : Nat) (a1 : State) (h1 : memOk a1) : NextMemOk (execFunctionResetBound a0 a1) :=
    by
  unfold execFunctionResetBound
  repeat' with_reducible first
    | assumption | apply memOk_updCtx | apply memOk_resetPartition | exact .fault | apply NextMemOk.next | apply memOk_ite
    | apply nextMemOk_ite | apply memOk_each | simp only | intro _

theorem memOk_execDomainReset (a0 : Nat) (a1 : State) (h1 : memOk a1) : NextMemOk (execDomainReset a0 a1) := by
  unfold execDomainReset
  repeat' with_reducible first
    | assumption | apply memOk_serveMsg | apply memOk_mbAck | apply memOk_armReset | apply memOk_ite
    | (apply optMemOk_elim; case' e => assumption) | intro _ | split

theorem memOk_steerMaster (a0 : Nat) (a1 : State) (h1 : memOk a1) : memOk (steerMaster a0 a1) := by
  unfold steerMaster
  repeat' with_reducible first
    | assumption | apply memOk_ite | simp only [↓memOk_mk] | apply memParts_of | intro _

theorem memOk_aclkEdge (a0 : State) (h0 : memOk a0) : memOk (aclkEdge a0) := by
  unfold aclkEdge
  repeat' with_reducible first
    | assumption | apply memOk_servoEdge | apply memOk_countPorts | apply memOk_countGated | apply memOk_steerMaster
    | apply memOk_ite | simp only [↓memOk_mk] | apply memParts_of | intro _

theorem memOk_execPwrStateHold (a0 : State) (h0 : memOk a0) : NextMemOk (execPwrStateHold a0) := by
  unfold execPwrStateHold
  repeat' with_reducible first
    | assumption | apply memOk_resumeRun | apply NextMemOk.next | apply memOk_ite | intro _

theorem memOk_execTileLe (a0 : Nat) (a1 : Bool) (a2 : TileFields) (a3 : SramEcc) (a4 : State) (h4 : memOk a4) : NextMemOk
    (execTileLe a0 a1 a2 a3 a4) := by
  unfold execTileLe
  repeat' with_reducible first
    | assumption | apply memOk_tileExec

theorem memOk_execFlog2 (a0 : Nat) (a1 : Bool) (a2 : VecFields) (a3 : State) (h3 : memOk a3) : NextMemOk (execFlog2 a0 a1
    a2 a3) := by
  unfold execFlog2
  repeat' with_reducible first
    | assumption | apply memOk_vecExec | apply memOk_vecLanes

theorem memOk_expireHead (a0 : State) (a1 a2 : Nat) (h0 : memOk a0) : memOk (expireHead a0 a1 a2) := by
  unfold expireHead
  repeat' with_reducible first
    | assumption | apply memOk_eventCtx | apply memOk_addF | apply memOk_updSubq | apply memOk_ite | simp only
    | intro _ | split

theorem memOk_execLinkLossNotice (a0 : Nat) (a1 : RxMark) (a2 : List Byte) (a3 : State) (h3 : memOk a3) : NextMemOk
    (execLinkLossNotice a0 a1 a2 a3) := by
  unfold execLinkLossNotice
  repeat' with_reducible first
    | assumption | apply memOk_ctlArrive | apply memOk_updRun | apply memOk_each | intro _

theorem memOk_execGetStatus (a0 : Nat) (a1 : State) (h1 : memOk a1) : NextMemOk (execGetStatus a0 a1) := by
  unfold execGetStatus
  repeat' with_reducible first
    | assumption | apply memOk_serveMsg | apply memOk_mbAck | apply memOk_fwHostWrite | apply memOk_ite | intro _

theorem memOk_execRarm (a0 : Nat) (a1 : Bool) (a2 : Nat) (a3 : State) (h3 : memOk a3) : NextMemOk (execRarm a0 a1 a2 a3)
    := by
  unfold execRarm
  repeat' with_reducible first
    | assumption | apply memOk_issue | apply memOk_programFault | apply memOk_advance | apply memOk_updStream
    | apply memOk_ite | intro _ | split

theorem memOk_execDestroyComplete (a0 : Nat) (a1 : State) (h1 : memOk a1) : NextMemOk (execDestroyComplete a0 a1) := by
  unfold execDestroyComplete
  repeat' with_reducible first
    | assumption | apply memOk_freeContext | exact .fault | apply NextMemOk.next | apply nextMemOk_ite | intro _

theorem memOk_execAccessCounterDecay (a0 : State) (h0 : memOk a0) : NextMemOk (execAccessCounterDecay a0) := by
  unfold execAccessCounterDecay
  repeat' with_reducible first
    | assumption | apply NextMemOk.next | apply nextMemOk_ite | simp only [↓memOk_mk] | apply memParts_of | intro _

theorem memOk_refreshOver (a0 : State) (h0 : memOk a0) : memOk (refreshOver a0) := by
  unfold refreshOver
  repeat' with_reducible first
    | assumption | apply memOk_each | simp only [↓memOk_mk] | apply memParts_of | intro _

theorem memOk_execFunctionResetComplete (a0 : Nat) (a1 : State) (h1 : memOk a1) : NextMemOk (execFunctionResetComplete a0
    a1) := by
  unfold execFunctionResetComplete
  repeat' with_reducible first
    | assumption | apply memOk_finishJob | exact .fault | apply NextMemOk.next | apply nextMemOk_ite | apply memOk_each
    | simp only [↓memOk_mk] | apply memParts_of | intro _ | split

theorem memOk_claim (a0 : State) (a1 : Submission) (h0 : memOk a0) : memOk (claim a0 a1) := by
  unfold claim
  repeat' with_reducible first
    | assumption | apply memOk_putSub | apply memOk_updPart | apply memOk_releaseHolder | apply memOk_ite
    | simp only | intro _

theorem memOk_execGroupClaim (a0 : Nat) (a1 : State) (h1 : memOk a1) : NextMemOk (execGroupClaim a0 a1) := by
  unfold execGroupClaim
  repeat' with_reducible first
    | assumption | apply memOk_claim | exact .fault | apply NextMemOk.next | apply nextMemOk_ite | apply memOk_each
    | simp only | intro _

theorem memOk_execCommandUnknown (a0 : Nat) (a1 : State) (h1 : memOk a1) : NextMemOk (execCommandUnknown a0 a1) := by
  unfold execCommandUnknown
  repeat' with_reducible first
    | assumption | apply memOk_mbAck | exact .fault | apply NextMemOk.next | apply memOk_ite | apply nextMemOk_ite | intro _
    | split

theorem memOk_execUpdateStreamPacket (a0 : BeHeader) (a1 : List Byte) (a2 : State) (h2 : memOk a2) : NextMemOk
    (execUpdateStreamPacket a0 a1 a2) := by
  unfold execUpdateStreamPacket
  repeat' with_reducible first
    | assumption | apply memOk_bePacket

theorem memOk_yieldLost (a0 : State) (a1 : Nat) (h0 : memOk a0) : memOk (yieldLost a0 a1) := by
  unfold yieldLost
  repeat' with_reducible first
    | assumption | apply memOk_coreOf | apply memOk_putCore | simp only [↓memOk_mk] | apply memParts_of | simp only [↓coreMemOk_mk]
    | apply coreMemParts_mk | apply coreMemOk_weight | apply coreMemOk_act | apply coreMemOk_acc | apply coreMemOk_prog | apply coreMemOk_planeA
    | apply coreMemOk_shadowA | apply coreMemOk_planeB | apply coreMemOk_shadowB

theorem memOk_yieldSave (a0 : State) (a1 : Nat) (h0 : memOk a0) : memOk (yieldSave a0 a1) := by
  unfold yieldSave
  repeat' with_reducible first
    | assumption | apply memOk_coreOf | apply memOk_putCore | apply memOk_placeTasks | apply memOk_leaveCore
    | apply wf_wrBytes | simp only [↓coreMemOk_mk] | apply coreMemParts_mk | apply coreMemOk_weight | apply coreMemOk_act | apply coreMemOk_acc
    | apply coreMemOk_prog | apply coreMemOk_planeA | apply coreMemOk_shadowA | apply coreMemOk_planeB | apply coreMemOk_shadowB

theorem memOk_execYield (a0 : Nat) (a1 : Bool) (a2 : State) (h2 : memOk a2) : NextMemOk (execYield a0 a1 a2) := by
  unfold execYield
  repeat' with_reducible first
    | assumption | apply memOk_issue | apply memOk_programFault | apply memOk_advance | apply memOk_yieldLost
    | apply memOk_yieldSave | apply memOk_ite | simp only | intro _

theorem memOk_execControlNop (a0 : Nat) (a1 : Bool) (a2 : State) (h2 : memOk a2) : NextMemOk (execControlNop a0 a1 a2) :=
    by
  unfold execControlNop
  repeat' with_reducible first
    | assumption | apply memOk_issue | apply memOk_advance | intro _

theorem memOk_reacquireDue (a0 : State) (h0 : memOk a0) : memOk (reacquireDue a0) := by
  unfold reacquireDue
  repeat' with_reducible first
    | assumption | apply memOk_stepCounter | apply memOk_ite | intro _ | split

theorem memOk_placeBind (a0 : State) (a1 a2 a3 : Nat) (a4 : Table) (a5 : List PmapEntry) (h0 : memOk a0) : memOk
    (placeBind a0 a1 a2 a3 a4 a5) := by
  unfold placeBind
  repeat' with_reducible first
    | assumption | apply memOk_awaitJob | apply memOk_bindObj | simp only [↓memOk_mk] | apply memParts_of

theorem memOk_bindTable (a0 : State) (a1 a2 a3 : Nat) (a4 : List Byte) (h0 : memOk a0) : memOk (bindTable a0 a1 a2 a3 a4)
    := by
  unfold bindTable
  extract_lets t c
  refine memOk_ite (fun _ => memOk_finishJob _ _ _ h0) fun _ => ?_
  extract_lets
  refine memOk_ite (fun _ => memOk_finishJob _ _ _ h0) fun _ => ?_
  generalize pmapRoom _ _ = o
  cases o with
  | none => exact memOk_finishJob _ _ _ h0
  | some i => exact memOk_boundary _ _ (memOk_placeBind _ _ _ _ _ _ h0)

theorem memOk_execBindTable (a0 : Nat) (a1 : State) (h1 : memOk a1) : NextMemOk (execBindTable a0 a1) := by
  unfold execBindTable
  repeat' with_reducible first
    | assumption | apply memOk_runJob | apply memOk_finishJob | apply memOk_bindTable | apply memOk_touchRead
    | apply memOk_ite | simp only | intro _

theorem memOk_execReadTick (a0 : Nat) (a1 : State) (h1 : memOk a1) : NextMemOk (execReadTick a0 a1) := by
  unfold execReadTick
  repeat' with_reducible first
    | assumption | apply memOk_runJob | apply memOk_writeResult | intro _

theorem memOk_countRow (a0 : State) (a1 a2 a3 : Nat) (h0 : memOk a0) : memOk (countRow a0 a1 a2 a3) := by
  unfold countRow
  repeat' with_reducible first
    | assumption | simp only [↓memOk_mk] | apply memParts_of

theorem memOk_heatId (a0 : State) (a1 a2 : Nat) (a3 : Table) (a4 : Nat) (h0 : memOk a0) : memOk (heatId a0 a1 a2 a3 a4)
    := by
  unfold heatId
  repeat' with_reducible first
    | assumption | apply memOk_countRow | apply memOk_queuePromotion | apply memOk_ite | simp only | intro _

theorem memOk_sendRecord (a0 : State) (a1 : StepRun) (a2 : FeatureRun) (a3 : Table) (a4 : Looked) (a5 a6 : Nat)
    (h0 : memOk a0) : memOk (sendRecord a0 a1 a2 a3 a4 a5 a6) := by
  unfold sendRecord
  repeat' with_reducible first
    | assumption | apply memOk_spillId | apply memOk_updRun | apply memOk_updFeature | apply memOk_ite
    | simp only | intro _

theorem memOk_resolveRow (a0 : State) (a1 : StepRun) (a2 : FeatureRun) (a3 : Table) (a4 : Looked) (a5 : SramEcc)
    (h0 : memOk a0) : memOk (resolveRow a0 a1 a2 a3 a4 a5) := by
  unfold resolveRow
  repeat' with_reducible first
    | assumption | apply memOk_heatId | apply memOk_addF64 | apply memOk_ceCount | apply memOk_addRow | apply memOk_telemAdd
    | apply memOk_addF | apply memOk_dropCrimson | apply memOk_sramUe | apply memOk_localRow | apply memOk_sendRecord
    | apply memOk_ite | simp only | intro _ | split

theorem memOk_execFenceFree (a0 : Nat) (a1 : State) (h1 : memOk a1) : NextMemOk (execFenceFree a0 a1) := by
  unfold execFenceFree
  repeat' with_reducible first
    | assumption | apply memOk_putFence | apply memOk_finishJob | exact .fault | apply NextMemOk.next | apply nextMemOk_ite
    | apply memOk_each | simp only [↓memOk_mk] | apply memParts_of | intro _

theorem memOk_execUnbindStream (a0 : Nat) (a1 : State) (h1 : memOk a1) : NextMemOk (execUnbindStream a0 a1) := by
  unfold execUnbindStream
  repeat' with_reducible first
    | assumption | apply memOk_runJob | apply memOk_finishJob | apply memOk_ite | simp only [↓memOk_mk] | apply memParts_of
    | intro _

theorem memOk_execBePacketTimeout (a0 : Nat) (a1 : State) (h1 : memOk a1) : NextMemOk (execBePacketTimeout a0 a1) := by
  unfold execBePacketTimeout
  repeat' with_reducible first
    | assumption | apply memOk_addF | apply memOk_eventCtx | apply NextMemOk.next | apply memOk_ite | apply nextMemOk_ite
    | simp only [↓memOk_mk] | apply memParts_of | intro _ | split

theorem memOk_execExchangeServe (a0 a1 a2 a3 : Nat) (a4 : State) (h4 : memOk a4) : NextMemOk
    (execExchangeServe a0 a1 a2 a3 a4) := by
  unfold execExchangeServe
  repeat' with_reducible first
    | assumption | apply memOk_updRun | apply memOk_serveTo | exact .fault | apply NextMemOk.next | apply nextMemOk_ite
    | simp only | intro _ | split

theorem memOk_execFadd (a0 : Nat) (a1 : Bool) (a2 : VecFields) (a3 : State) (h3 : memOk a3) : NextMemOk (execFadd a0 a1 a2
    a3) := by
  unfold execFadd
  repeat' with_reducible first
    | assumption | apply memOk_vecExec | apply memOk_vecLanes

theorem memOk_execFlt (a0 : Nat) (a1 : Bool) (a2 : VecFields) (a3 : State) (h3 : memOk a3) : NextMemOk (execFlt a0 a1 a2
    a3) := by
  unfold execFlt
  repeat' with_reducible first
    | assumption | apply memOk_vecExec | apply memOk_vecLanes

theorem memOk_State_withFetchWord (a0 : State) (a1 a2 : Nat) (h0 : memOk a0) : memOk (State.withFetchWord a0 a1 a2) := by
  unfold State.withFetchWord
  repeat' with_reducible first
    | assumption | simp only [↓memOk_mk] | apply memParts_of | split

theorem memOk_execTwait (a0 : Nat) (a1 : Bool) (a2 : W64) (a3 : State) (h3 : memOk a3) : NextMemOk (execTwait a0 a1 a2 a3)
    := by
  unfold execTwait
  repeat' with_reducible first
    | assumption | apply memOk_issue | apply memOk_advance | apply memOk_ite | intro _

theorem memOk_beResend (a0 : State) (a1 a2 : Nat) (h0 : memOk a0) : memOk (beResend a0 a1 a2) := by
  unfold beResend
  repeat' with_reducible first
    | assumption | apply memOk_markPortOut | apply memOk_updPort | apply memOk_addF | apply memOk_ite | simp only
    | intro _

theorem memOk_execBeRetryTimeout (a0 : Nat) (a1 : State) (h1 : memOk a1) : NextMemOk (execBeRetryTimeout a0 a1) := by
  unfold execBeRetryTimeout
  repeat' with_reducible first
    | assumption | apply memOk_beResend | exact .fault | apply NextMemOk.next | apply nextMemOk_ite | intro _ | split

theorem memOk_execTileComplete (a0 : Nat) (a1 : State) (h1 : memOk a1) : NextMemOk (execTileComplete a0 a1) := by
  unfold execTileComplete
  repeat' with_reducible first
    | assumption | apply memOk_completeTile | exact .fault | apply NextMemOk.next | apply nextMemOk_ite | intro _

theorem memOk_execMerge (a0 : Nat) (a1 : Bool) (a2 a3 : Nat) (a4 : SramEcc) (a5 : State) (h5 : memOk a5) : NextMemOk
    (execMerge a0 a1 a2 a3 a4 a5) := by
  unfold execMerge
  repeat' with_reducible first
    | assumption | apply memOk_issue | apply memOk_coreEcc | apply memOk_programFault | apply memOk_updCoreNext
    | simp only | simp only [↓coreMemOk_mk] | apply coreMemParts_mk | apply coreMemOk_weight | apply coreMemOk_act
    | apply coreMemOk_acc | apply coreMemOk_prog | apply coreMemOk_planeA | apply coreMemOk_shadowA | apply coreMemOk_planeB | apply coreMemOk_shadowB
    | intro _ | split

theorem memOk_execTpulseHoldover (a0 : State) (h0 : memOk a0) : NextMemOk (execTpulseHoldover a0) := by
  unfold execTpulseHoldover
  repeat' with_reducible first
    | assumption | apply memOk_setF | apply NextMemOk.next | apply memOk_ite | simp only [↓memOk_mk] | apply memParts_of
    | intro _

theorem memOk_ashFailed (a0 : State) (a1 : Nat) (a2 : W32) (h0 : memOk a0) : memOk (ashFailed a0 a1 a2) := by
  unfold ashFailed
  repeat' with_reducible first
    | assumption | apply memOk_ashEnter | apply memOk_addF | apply memOk_setF | apply memOk_healthEvent
    | apply memOk_markUnitOut | apply memOk_ite | intro _ | split

theorem memOk_execAshTestResult (a0 : Nat) (a1 : Bool) (a2 : W32) (a3 : State) (h3 : memOk a3) : NextMemOk
    (execAshTestResult a0 a1 a2 a3) := by
  unfold execAshTestResult
  repeat' with_reducible first
    | assumption | apply memOk_ashFailed | apply NextMemOk.next | apply memOk_ite | apply nextMemOk_ite | simp only [↓memOk_mk]
    | apply memParts_of | intro _

theorem memOk_execCopy (a0 : Nat) (a1 : State) (h1 : memOk a1) : NextMemOk (execCopy a0 a1) := by
  unfold execCopy
  repeat' with_reducible first
    | assumption | apply memOk_runJob | apply memOk_startCopy | intro _

theorem memOk_haltTask (a0 : State) (a1 a2 : Nat) (h0 : memOk a0) : memOk (haltTask a0 a1 a2) := by
  unfold haltTask
  repeat' with_reducible first
    | assumption | apply memOk_stepProgress | apply memOk_placeTasks | apply memOk_leaveCore

theorem memOk_execHalt (a0 : Nat) (a1 : Bool) (a2 : State) (h2 : memOk a2) : NextMemOk (execHalt a0 a1 a2) := by
  unfold execHalt
  repeat' with_reducible first
    | assumption | apply memOk_issue | apply memOk_programFault | apply memOk_haltTask | apply memOk_ite | intro _

theorem memOk_applyBudget (a0 : State) (h0 : memOk a0) : memOk (applyBudget a0) := by
  unfold applyBudget
  repeat' with_reducible first
    | assumption | apply memOk_setF | apply memOk_ite | simp only [↓memOk_mk] | apply memParts_of | intro _

theorem memOk_execPartitionStepBoundary (a0 : Nat) (a1 : State) (h1 : memOk a1) : NextMemOk (execPartitionStepBoundary a0
    a1) := by
  unfold execPartitionStepBoundary
  repeat' with_reducible first
    | assumption | apply memOk_boundary | exact .fault | apply NextMemOk.next | apply nextMemOk_ite | intro _

theorem memOk_execDomainResetFire (a0 : State) (h0 : memOk a0) : NextMemOk (execDomainResetFire a0) := by
  unfold execDomainResetFire
  repeat' with_reducible first
    | assumption | apply memOk_resetsDue | apply memOk_fireBefore | apply NextMemOk.next

theorem memOk_execTsend (a0 : Nat) (a1 : Bool) (a2 a3 a4 a5 : Nat) (a6 : State) (h6 : memOk a6) : NextMemOk (execTsend a0
    a1 a2 a3 a4 a5 a6) := by
  unfold execTsend
  repeat' with_reducible first
    | assumption | apply memOk_issue | apply memOk_programFault | apply memOk_advance | apply memOk_updStream
    | apply memOk_ite | simp only | intro _ | split

theorem memOk_atsDenied (a0 : State) (a1 a2 a3 : Nat) (a4 : Bool) (h0 : memOk a0) : memOk (atsDenied a0 a1 a2 a3 a4) :=
    by
  unfold atsDenied
  repeat' with_reducible first
    | assumption | apply memOk_xlateFault | apply memOk_runEngine | apply memOk_finishJob | apply memOk_requestPage
    | apply memOk_ite | intro _ | split

theorem memOk_settleFence (a0 : State) (a1 : Job) (h0 : memOk a0) : memOk (settleFence a0 a1) := by
  unfold settleFence
  repeat' with_reducible first
    | assumption | apply memOk_fenceSignal | apply memOk_fenceError | apply memOk_ite | intro _

theorem memOk_laneTouch (a0 : State) (a1 a2 a3 a4 : Nat) (h0 : memOk a0) : memOk (laneTouch a0 a1 a2 a3 a4) := by
  unfold laneTouch
  repeat' with_reducible first
    | assumption | apply memOk_touchRead

theorem memOk_resolveId (a0 : State) (a1 : StepRun) (a2 : FeatureRun) (a3 : Looked) (a4 : Nat) (a5 : SramEcc)
    (h0 : memOk a0) : memOk (resolveId a0 a1 a2 a3 a4 a5) := by
  unfold resolveId
  repeat' with_reducible first
    | assumption | apply memOk_stepFail | apply memOk_telemAdd | apply memOk_resolveRow | apply memOk_addF
    | apply memOk_addDefault | apply memOk_ite | simp only | intro _ | split

theorem memOk_lookupId (a0 : State) (a1 : Nat) (a2 : StepRun) (a3 : Nat) (a4 : FeatureRun) (a5 a6 : Nat) (a7 : SramEcc)
    (h0 : memOk a0) : memOk (lookupId a0 a1 a2 a3 a4 a5 a6 a7) := by
  unfold lookupId
  repeat' with_reducible first
    | assumption | apply memOk_laneFault | apply memOk_stepFail | apply memOk_laneTouch | apply memOk_resolveId
    | apply memOk_ite | simp only | intro _ | split

theorem memOk_execLookupId (a0 a1 a2 a3 : Nat) (a4 : SramEcc) (a5 : State) (h5 : memOk a5) : NextMemOk (execLookupId a0 a1
    a2 a3 a4 a5) := by
  unfold execLookupId
  repeat' with_reducible first
    | assumption | apply memOk_greyFaultsDue | apply memOk_lookupId | exact .fault | apply NextMemOk.next | apply nextMemOk_ite
    | intro _ | split

theorem memOk_execDestroyPartition (a0 : Nat) (a1 : State) (h1 : memOk a1) : NextMemOk (execDestroyPartition a0 a1) := by
  unfold execDestroyPartition
  repeat' with_reducible first
    | assumption | apply memOk_runJob | apply memOk_finishJob | apply memOk_boundary | apply memOk_awaitJob
    | apply memOk_updPart | apply memOk_ite | simp only | intro _

theorem memOk_execRevokePages (a0 : Nat) (a1 : State) (h1 : memOk a1) : NextMemOk (execRevokePages a0 a1) := by
  unfold execRevokePages
  repeat' with_reducible first
    | assumption | apply memOk_runJob | apply memOk_finishJob | apply memOk_boundary | apply memOk_awaitJob
    | apply memOk_updPart | apply memOk_ite | simp only | intro _

theorem memOk_execStackReadTimeout (a0 : Nat) (a1 : State) (h1 : memOk a1) : NextMemOk (execStackReadTimeout a0 a1) := by
  unfold execStackReadTimeout
  repeat' with_reducible first
    | assumption | apply memOk_markStackOut | exact .fault | apply NextMemOk.next | apply nextMemOk_ite | intro _

theorem memOk_reachOff (a0 : State) (h0 : memOk a0) : memOk (reachOff a0) := by
  unfold reachOff
  repeat' with_reducible first
    | assumption | apply memOk_putPwr | simp only [↓memOk_mk] | apply memParts_of

theorem memOk_execPrepareOffDone (a0 : State) (h0 : memOk a0) : NextMemOk (execPrepareOffDone a0) := by
  unfold execPrepareOffDone
  repeat' with_reducible first
    | assumption | apply memOk_idleLinks | apply memOk_forceAbort | apply memOk_reachOff | apply memOk_putPwr
    | apply NextMemOk.next | apply memOk_ite | apply memOk_each | simp only | intro _

theorem memOk_readyFeature (a0 : State) (a1 : Nat) (a2 : StepRun) (a3 : Nat) (a4 : FeatureRun) (a5 : Table)
    (h0 : memOk a0) : memOk (readyFeature a0 a1 a2 a3 a4 a5) := by
  unfold readyFeature
  repeat' with_reducible first
    | assumption | apply memOk_updFeature | apply memOk_updStream | apply memOk_fillPartials | apply memOk_greyFaultsDue
    | apply memOk_stepProgress | apply memOk_writeFeature

theorem memOk_execFeatureReady (a0 a1 : Nat) (a2 : State) (h2 : memOk a2) : NextMemOk (execFeatureReady a0 a1 a2) := by
  unfold execFeatureReady
  repeat' with_reducible first
    | assumption | apply memOk_laneFault | apply memOk_stepFail | apply memOk_readyFeature | exact .fault
    | apply NextMemOk.next | apply nextMemOk_ite | simp only | intro _ | split

theorem memOk_readyPass (a0 : State) (a1 : Nat) (h0 : memOk a0) : memOk (readyPass a0 a1) := by
  unfold readyPass
  split
  · exact h0
  · exact memOk_iter h0 fun _ _ h => memOk_after _ _ (memOk_execFeatureReady _ _ _ h) h

theorem memOk_execTwinCatchupDone (a0 : Nat) (a1 : State) (h1 : memOk a1) : NextMemOk (execTwinCatchupDone a0 a1) := by
  unfold execTwinCatchupDone
  repeat' with_reducible first
    | assumption | apply memOk_catchUp | apply memOk_drainHeld | apply memOk_putTable | apply NextMemOk.next | apply nextMemOk_ite
    | simp only [↓memOk_mk] | apply memParts_of | intro _ | split

theorem memOk_execHbmTrainDone (a0 : Nat) (a1 : W32) (a2 : State) (h2 : memOk a2) : NextMemOk (execHbmTrainDone a0 a1 a2)
    := by
  unfold execHbmTrainDone
  repeat' with_reducible first
    | assumption | apply memOk_advanceStart | exact .fault | apply NextMemOk.next | apply memOk_ite | apply nextMemOk_ite
    | simp only [↓memOk_mk] | apply memParts_of | intro _

theorem memOk_execResetFlit (a0 : Nat) (a1 : RxMark) (a2 : List Byte) (a3 : State) (h3 : memOk a3) : NextMemOk
    (execResetFlit a0 a1 a2 a3) := by
  unfold execResetFlit
  repeat' with_reducible first
    | assumption | apply memOk_ctlArrive | apply memOk_holdAction | intro _

theorem memOk_execAdd (a0 : Nat) (a1 : Bool) (a2 a3 a4 : Nat) (a5 : State) (h5 : memOk a5) : NextMemOk (execAdd a0 a1 a2
    a3 a4 a5) := by
  unfold execAdd
  repeat' with_reducible first
    | assumption | apply memOk_issue | apply memOk_updCoreNext | apply memOk_setG | intro _

theorem memOk_flashNew (a0 : State) (a1 : MboxMsg) (h0 : memOk a0) : memOk (flashNew a0 a1) := by
  unfold flashNew
  repeat' with_reducible first
    | assumption | apply memOk_copyCells | simp only [↓memOk_mk] | apply memParts_of | apply memParts_flash | apply wf_mem_host
    | apply wf_mem_flash

theorem memOk_execFlashUpdate (a0 : Nat) (a1 : Bool) (a2 : State) (h2 : memOk a2) : NextMemOk (execFlashUpdate a0 a1 a2)
    := by
  unfold execFlashUpdate
  repeat' with_reducible first
    | assumption | apply memOk_serveMsg | apply memOk_mbAck | apply memOk_limiterRefuse | apply memOk_flashNew
    | apply memOk_flashApply | apply memOk_ite | intro _

theorem memOk_execTileL1 (a0 : Nat) (a1 : Bool) (a2 : TileFields) (a3 : SramEcc) (a4 : State) (h4 : memOk a4) : NextMemOk
    (execTileL1 a0 a1 a2 a3 a4) := by
  unfold execTileL1
  repeat' with_reducible first
    | assumption | apply memOk_tileExec

theorem memOk_execPromotionCopyDone (a0 a1 : Nat) (a2 : State) (h2 : memOk a2) : NextMemOk (execPromotionCopyDone a0 a1
    a2) := by
  unfold execPromotionCopyDone
  repeat' with_reducible first
    | assumption | apply memOk_installRow | apply NextMemOk.next | split

theorem memOk_emitPairsTo (a0 : Core) (a1 : Win) (a2 : Selection) (a3 : Nat) (h0 : coreMemOk a0) : coreMemOk (emitPairsTo a0
    a1 a2 a3) := by
  unfold emitPairsTo
  repeat' with_reducible first
    | assumption | apply memOk_coreWrN | apply coreMemOk_iter | intro _

theorem memOk_selectClose (a0 : Nat) (a1 a2 : Bool) (a3 a4 : Nat) (a5 : State) (h5 : memOk a5) : memOk (selectClose a0 a1
    a2 a3 a4 a5) := by
  unfold selectClose
  repeat' with_reducible first
    | assumption | apply memOk_coreOf | apply memOk_programFault | apply memOk_emitPairsTo | apply memOk_putCore
    | apply memOk_updStream | apply memOk_advance | apply memOk_ite | apply coreMemOk_ite | simp only
    | simp only [↓coreMemOk_mk] | apply coreMemParts_mk | apply coreMemOk_weight | apply coreMemOk_act | apply coreMemOk_acc | apply coreMemOk_prog
    | apply coreMemOk_planeA | apply coreMemOk_shadowA | apply coreMemOk_planeB | apply coreMemOk_shadowB | intro _ | split

theorem memOk_beAck (a0 : State) (a1 a2 : Nat) (h0 : memOk a0) : memOk (beAck a0 a1 a2) := by
  unfold beAck
  repeat' with_reducible first
    | assumption | apply memOk_updPort | apply memOk_beAgain | apply memOk_ite | simp only [↓memOk_mk] | apply memParts_of
    | intro _

theorem memOk_execDescriptorFetch (a0 : Bool) (a1 : State) (h1 : memOk a1) : NextMemOk (execDescriptorFetch a0 a1) := by
  unfold execDescriptorFetch
  repeat' with_reducible first
    | assumption | apply memOk_fetchAdm | apply memOk_fetchOne | apply NextMemOk.next | apply memOk_ite | apply nextMemOk_ite
    | simp only | intro _ | split

theorem memOk_execMsixModerationExpire (a0 : Nat) (a1 : State) (h1 : memOk a1) : NextMemOk (execMsixModerationExpire a0
    a1) := by
  unfold execMsixModerationExpire
  repeat' with_reducible first
    | assumption | apply memOk_requestVector | exact .fault | apply NextMemOk.next | apply nextMemOk_ite | simp only [↓memOk_mk]
    | apply memParts_of | intro _

theorem memOk_flashCommandOf (a0 : State) (h0 : memOk a0) : memOk (flashCommandOf a0) := by
  unfold flashCommandOf
  repeat' with_reducible first
    | assumption | apply memOk_ite | simp only [↓memOk_mk] | apply memParts_of | intro _

theorem memOk_execFlashRead (a0 : Bool) (a1 : State) (h1 : memOk a1) : NextMemOk (execFlashRead a0 a1) := by
  unfold execFlashRead
  repeat' with_reducible first
    | assumption | apply memOk_flashCommandOf | apply memOk_bundleFrom | apply memOk_setF | apply NextMemOk.next
    | apply memOk_ite | simp only [↓memOk_mk] | apply memParts_of | apply wf_mem_flash | intro _

theorem memOk_execRevokeArena (a0 : Nat) (a1 : State) (h1 : memOk a1) : NextMemOk (execRevokeArena a0 a1) := by
  unfold execRevokeArena
  repeat' with_reducible first
    | assumption | apply memOk_runJob | apply memOk_finishJob | apply memOk_unbindObj | apply memOk_updCtx | apply memOk_ite
    | simp only | intro _

theorem memOk_breakCtx (a0 : State) (a1 a2 : Nat) (a3 : Code) (h0 : memOk a0) : memOk (breakCtx a0 a1 a2 a3) := by
  unfold breakCtx
  repeat' with_reducible first
    | assumption | apply memOk_updCtx | apply memOk_eventAdm

theorem memOk_mergeVersion (a0 : State) (a1 : Nat) (a2 : Table) (a3 : Nat × Nat) (a4 : Bool) (h0 : memOk a0) : memOk
    (mergeVersion a0 a1 a2 a3 a4) := by
  unfold mergeVersion
  repeat' with_reducible first
    | assumption | apply memOk_tabWrite | apply memOk_putDelta | apply memOk_addF | apply memOk_releaseSlot

theorem memOk_execMailboxUnpowered (a0 : Nat) (a1 : Bool) (a2 : State) (h2 : memOk a2) : NextMemOk (execMailboxUnpowered
    a0 a1 a2) := by
  unfold execMailboxUnpowered
  repeat' with_reducible first
    | assumption | apply memOk_mbAccess | apply memOk_id | apply NextMemOk.next | apply nextMemOk_ite | intro _

theorem memOk_judgeGroup (a0 : State) (a1 : Submission) (h0 : memOk a0) : memOk (judgeGroup a0 a1) := by
  unfold judgeGroup
  repeat' with_reducible first
    | assumption | apply memOk_judge | apply memOk_putSub | apply memOk_deferLaunch | apply memOk_ite | intro _

theorem memOk_sramRead (a0 : State) (a1 : Nat) (a2 : FwAccess) (a3 : SramEcc) (h0 : memOk a0) : memOk (sramRead a0 a1 a2
    a3) := by
  unfold sramRead
  repeat' with_reducible first
    | assumption | apply memOk_busError | apply memOk_sramUe | apply memOk_cpReturn | apply memOk_telemAdd | split

theorem memOk_forwardFlit (a0 : State) (a1 : Resv) (a2 a3 a4 a5 : Nat) (a6 : List Byte) (h0 : memOk a0) : memOk
    (forwardFlit a0 a1 a2 a3 a4 a5 a6) := by
  unfold forwardFlit
  repeat' with_reducible first
    | assumption | apply memOk_countLost | apply memOk_putTimed | apply memOk_addF | apply memOk_ite | simp only [↓memOk_mk]
    | apply memParts_of | intro _

theorem memOk_timedFlitIn (a0 : State) (a1 a2 a3 a4 : Nat) (a5 : List Byte) (h0 : memOk a0) : memOk (timedFlitIn a0 a1 a2
    a3 a4 a5) := by
  unfold timedFlitIn
  repeat' with_reducible first
    | assumption | apply memOk_updPort | apply memOk_forwardFlit | apply memOk_stepProgress | apply memOk_receiveFlit
    | apply memOk_ite | simp only | intro _ | split

theorem memOk_execRwait (a0 : Nat) (a1 : Bool) (a2 : Nat) (a3 : State) (h3 : memOk a3) : NextMemOk (execRwait a0 a1 a2 a3)
    := by
  unfold execRwait
  repeat' with_reducible first
    | assumption | apply memOk_issue | apply memOk_programFault | apply memOk_advance | apply memOk_updStream
    | apply memOk_stepFail | apply memOk_ite | intro _ | split

theorem memOk_cachePut (a0 : State) (a1 : List WalkCacheEntry) (h0 : memOk a0) : memOk (cachePut a0 a1) := by
  unfold cachePut
  repeat' with_reducible first
    | assumption | simp only [↓memOk_mk] | apply memParts_of

theorem memOk_execClockLoss (a0 : State) (h0 : memOk a0) : NextMemOk (execClockLoss a0) := by
  unfold execClockLoss
  repeat' with_reducible first
    | assumption | apply memOk_setF | apply memOk_warmState | apply NextMemOk.next | apply memOk_ite | simp only [↓memOk_mk]
    | apply memParts_of | intro _

theorem memOk_judgeBackstop (a0 : State) (a1 a2 : Nat) (h0 : memOk a0) : memOk (judgeBackstop a0 a1 a2) := by
  unfold judgeBackstop
  repeat' with_reducible first
    | assumption | apply memOk_addF | apply memOk_healthEvent | apply memOk_setF | apply memOk_ite | simp only [↓memOk_mk]
    | apply memParts_of | intro _

theorem memOk_updPortTime (a0 : State) (a1 : Nat) (a2 : PortTime → PortTime) (h0 : memOk a0) : memOk (updPortTime a0 a1
    a2) := by
  unfold updPortTime
  repeat' with_reducible first
    | assumption | simp only [↓memOk_mk] | apply memParts_of

theorem memOk_masterChanged (a0 a1 : State) (h0 : memOk a0) (h1 : memOk a1) : memOk (masterChanged a0 a1) := by
  unfold masterChanged
  repeat' with_reducible first
    | assumption | apply memOk_capChange | apply memOk_ite | intro _

theorem memOk_followPort (a0 : State) (a1 : Nat) (h0 : memOk a0) : memOk (followPort a0 a1) := by
  unfold followPort
  repeat' with_reducible first
    | assumption | apply memOk_setF

theorem memOk_chooseUpstream (a0 : State) (h0 : memOk a0) : memOk (chooseUpstream a0) := by
  unfold chooseUpstream
  repeat' with_reducible first
    | assumption | apply memOk_masterChanged | apply memOk_setF | apply memOk_followPort | split

theorem memOk_policePort (a0 : State) (a1 : Nat) (a2 : ℤ) (h0 : memOk a0) : memOk (policePort a0 a1 a2) := by
  unfold policePort
  repeat' with_reducible first
    | assumption | apply memOk_updPortTime | apply memOk_losePort | apply memOk_updPort | apply memOk_capChange
    | apply memOk_ite | intro _

theorem memOk_hearMarker (a0 : State) (a1 a2 a3 a4 a5 : Nat) (h0 : memOk a0) : memOk (hearMarker a0 a1 a2 a3 a4 a5) := by
  unfold hearMarker
  repeat' with_reducible first
    | assumption | apply memOk_updPortTime | apply memOk_chooseUpstream | apply memOk_policePort | apply memOk_servoMarker
    | apply memOk_ite | simp only [↓memOk_mk] | apply memParts_of | intro _

theorem memOk_enterAmber (a0 : State) (h0 : memOk a0) : memOk (enterAmber a0) := by
  unfold enterAmber
  repeat' with_reducible first
    | assumption | apply memOk_cpStart | apply memOk_setF | simp only [↓memOk_mk] | apply memParts_of

theorem memOk_execWarmResetRelease (a0 : State) (h0 : memOk a0) : NextMemOk (execWarmResetRelease a0) := by
  unfold execWarmResetRelease
  repeat' with_reducible first
    | assumption | apply memOk_enterAmber | apply NextMemOk.next | apply memOk_ite | simp only [↓memOk_mk] | apply memParts_of
    | intro _

theorem memOk_acceptPulse (a0 : Nat) (a1 : State) (h1 : memOk a1) : memOk (acceptPulse a0 a1) := by
  unfold acceptPulse
  repeat' with_reducible first
    | assumption | apply memOk_pulseSteer | apply memOk_setF | simp only [↓memOk_mk] | apply memParts_of

theorem memOk_execCarryAreaFinal (a0 : Nat) (a1 : State) (h1 : memOk a1) : NextMemOk (execCarryAreaFinal a0 a1) := by
  unfold execCarryAreaFinal
  repeat' with_reducible first
    | assumption | apply memOk_greyFaultsDue | apply memOk_carryFinal | exact .fault | apply NextMemOk.next | apply nextMemOk_ite
    | intro _ | split

theorem memOk_moveBytes (a0 : Win) (a1 : MoveFields) (a2 : Core) (h2 : coreMemOk a2) : coreMemOk (moveBytes a0 a1 a2) := by
  unfold moveBytes
  lift_lets; intro off src dst m n data
  have go : ∀ (l : List Byte) (p : Core × Nat), coreMemOk p.1 →
      coreMemOk (l.foldl (fun (p : Core × Nat) b => (coreWr p.1 a0 a1.dstSpace ((dst + p.2) % m) b, p.2 + 1)) p).1 := by
    intro l
    induction l with
    | nil => exact fun _ h => h
    | cons b l ih => exact fun p h => ih _ (memOk_coreWr _ _ _ _ _ h)
  exact go data _ h2

theorem memOk_fwRead (a0 : State) (a1 : Nat) (a2 : FwAccess) (a3 : SramEcc) (h0 : memOk a0) : memOk (fwRead a0 a1 a2 a3)
    := by
  unfold fwRead
  repeat' with_reducible first
    | assumption | apply memOk_sramRead | apply memOk_busReadN | apply memOk_cpReturn | apply memOk_limiterRefuse
    | apply memOk_busError | apply memOk_ite | simp only [↓memOk_mk] | apply memParts_of | intro _

theorem memOk_flashCommand (a0 : State) (a1 : Nat) (a2 : Bool) (a3 : Nat) (a4 : List Byte) (h0 : memOk a0) : memOk
    (flashCommand a0 a1 a2 a3 a4) := by
  unfold flashCommand
  repeat' with_reducible first
    | assumption | apply memOk_limiterRefuse | apply memOk_flashApply | apply memOk_ite | simp only [↓memOk_mk]
    | apply memParts_of | intro _

theorem memOk_execFirmwareAccess (a0 : Nat) (a1 : FwAccess) (a2 : SramEcc) (a3 : State) (h3 : memOk a3) : NextMemOk
    (execFirmwareAccess a0 a1 a2 a3) := by
  unfold execFirmwareAccess
  repeat' with_reducible first
    | assumption | apply memOk_fwRead | apply memOk_fwWrite | apply memOk_cpReturn | apply memOk_flashCommand | exact .fault
    | apply NextMemOk.next | apply memOk_ite | apply nextMemOk_ite | intro _ | split

theorem memOk_bePacketWhole (a0 : State) (a1 : List Byte) (h0 : memOk a0) : memOk (bePacketWhole a0 a1) := by
  unfold bePacketWhole
  repeat' with_reducible first
    | assumption | apply memOk_bePacketIn | apply memOk_addF | apply memOk_ite | simp only | intro _

theorem memOk_beFlitIn (a0 : State) (a1 : Nat) (a2 : List Byte) (h0 : memOk a0) : memOk (beFlitIn a0 a1 a2) := by
  unfold beFlitIn
  repeat' with_reducible first
    | assumption | apply memOk_beAck | apply memOk_beResend | apply memOk_updPort | apply memOk_bePacketWhole
    | apply memOk_ite | simp only | intro _

theorem memOk_defaultPartitions (a0 : State) (h0 : memOk a0) : memOk (defaultPartitions a0) := by
  unfold defaultPartitions
  repeat' with_reducible first
    | assumption | apply memOk_setMasks | apply memOk_putPart | apply memOk_ite | apply memOk_each | intro _

theorem memOk_execWatchdogExpire (a0 : Nat) (a1 : State) (h1 : memOk a1) : NextMemOk (execWatchdogExpire a0 a1) := by
  unfold execWatchdogExpire
  repeat' with_reducible first
    | assumption | apply memOk_expireCp | exact .fault | apply NextMemOk.next | apply memOk_ite | apply nextMemOk_ite
    | simp only | intro _

theorem memOk_holdEntry (a0 : State) (a1 : Nat) (a2 : Bool × List Byte) (h0 : memOk a0) : memOk (holdEntry a0 a1 a2) :=
    by
  unfold holdEntry
  repeat' with_reducible first
    | assumption | apply memOk_ctxFault | apply memOk_addF | apply memOk_updCtx | apply memOk_ite | intro _

theorem memOk_writeEntry (a0 : State) (a1 : Nat) (a2 : List Byte) (a3 : Bool) (h0 : memOk a0) : memOk (writeEntry a0 a1
    a2 a3) := by
  unfold writeEntry
  repeat' with_reducible first
    | assumption | apply memOk_holdEntry | apply memOk_vaWrite | apply memOk_breakCtx | apply memOk_updCtx
    | apply memOk_noteRing | apply memOk_requestVector | apply memOk_ite | simp only | intro _

theorem memOk_execTileGt (a0 : Nat) (a1 : Bool) (a2 : TileFields) (a3 : SramEcc) (a4 : State) (h4 : memOk a4) : NextMemOk
    (execTileGt a0 a1 a2 a3 a4) := by
  unfold execTileGt
  repeat' with_reducible first
    | assumption | apply memOk_tileExec

theorem memOk_execExecBuffer (a0 : Nat) (a1 : State) (h1 : memOk a1) : NextMemOk (execExecBuffer a0 a1) := by
  unfold execExecBuffer
  repeat' with_reducible first
    | assumption | apply memOk_runJob | apply memOk_toHead | apply memOk_finishJob | apply memOk_updSubq
    | apply memOk_awaitJob | apply memOk_touchRead | apply memOk_ite | simp only | intro _

theorem memOk_makeFence (a0 : State) (a1 : Nat) (a2 : Job) (h0 : memOk a0) : memOk (makeFence a0 a1 a2) := by
  unfold makeFence
  repeat' with_reducible first
    | assumption | apply memOk_finishJob | apply memOk_putFence | apply memOk_vaWrite | apply memOk_ite
    | simp only [↓memOk_mk] | apply memParts_of | intro _ | split

theorem memOk_execStackReadBeat (a0 a1 : Nat) (a2 : BeatReader) (a3 : Nat) (a4 : State) (h4 : memOk a4) : NextMemOk
    (execStackReadBeat a0 a1 a2 a3 a4) := by
  unfold execStackReadBeat
  repeat' with_reducible first
    | assumption | apply memOk_ceCount | apply memOk_beatFails | exact .fault | apply NextMemOk.next | apply nextMemOk_ite
    | intro _

theorem memOk_execSlabServe (a0 : State) (h0 : memOk a0) : NextMemOk (execSlabServe a0) := by
  unfold execSlabServe
  repeat' with_reducible first
    | assumption | apply memOk_serveSlab | apply NextMemOk.next | apply nextMemOk_ite | simp only [↓memOk_mk] | apply memParts_of
    | intro _ | split

theorem memOk_suspendStep (a0 : State) (a1 : Nat) (a2 : StepRun) (h0 : memOk a0) : memOk (suspendStep a0 a1 a2) := by
  unfold suspendStep
  repeat' with_reducible first
    | assumption | apply memOk_updCtx | apply memOk_chooseHolder | apply memOk_releaseHolder | apply memOk_addF
    | simp only [↓memOk_mk] | apply memParts_of

theorem memOk_execStepSuspend (a0 : Nat) (a1 : State) (h1 : memOk a1) : NextMemOk (execStepSuspend a0 a1) := by
  unfold execStepSuspend
  repeat' with_reducible first
    | assumption | apply memOk_suspendStep | exact .fault | apply NextMemOk.next | apply nextMemOk_ite | intro _ | split

theorem memOk_pasidPut (a0 : State) (a1 : Nat) (h0 : memOk a0) : memOk (pasidPut a0 a1) := by
  unfold pasidPut
  repeat' with_reducible first
    | assumption | simp only [↓memOk_mk] | apply memParts_of | split

theorem memOk_execDestroyWatchdog (a0 : Nat) (a1 : State) (h1 : memOk a1) : NextMemOk (execDestroyWatchdog a0 a1) := by
  unfold execDestroyWatchdog
  repeat' with_reducible first
    | assumption | apply memOk_addF | apply memOk_eventAdm | apply memOk_updCtx | apply memOk_resetPartition | exact .fault
    | apply NextMemOk.next | apply memOk_ite | apply nextMemOk_ite | simp only | intro _ | split

theorem memOk_execVimm (a0 : Nat) (a1 : Bool) (a2 : VecFields) (a3 : State) (h3 : memOk a3) : NextMemOk (execVimm a0 a1 a2
    a3) := by
  unfold execVimm
  repeat' with_reducible first
    | assumption | apply memOk_vecExec | apply memOk_vecLanes

theorem memOk_execIdleInsertion (a0 : Nat) (a1 : State) (h1 : memOk a1) : NextMemOk (execIdleInsertion a0 a1) := by
  unfold execIdleInsertion
  repeat' with_reducible first
    | assumption | apply memOk_insertionsDue | apply memOk_fireBefore | exact .fault | apply NextMemOk.next | apply nextMemOk_ite
    | intro _

theorem memOk_execSetQueue (a0 : Nat) (a1 : State) (h1 : memOk a1) : NextMemOk (execSetQueue a0 a1) := by
  unfold execSetQueue
  repeat' with_reducible first
    | assumption | apply memOk_runJob | apply memOk_finishJob | apply memOk_updSubq | apply memOk_ite | simp only
    | intro _

theorem memOk_execCreateFence (a0 : Nat) (a1 : State) (h1 : memOk a1) : NextMemOk (execCreateFence a0 a1) := by
  unfold execCreateFence
  repeat' with_reducible first
    | assumption | apply memOk_runJob | apply memOk_makeFence | intro _

theorem memOk_engineGoes (a0 : State) (a1 : Nat) (h0 : memOk a0) : memOk (engineGoes a0 a1) := by
  unfold engineGoes
  repeat' with_reducible first
    | assumption | apply memOk_runEngine | apply memOk_ite | intro _

theorem memOk_atcPut (a0 : State) (a1 : TlbEntry) (h0 : memOk a0) : memOk (atcPut a0 a1) := by
  unfold atcPut
  repeat' with_reducible first
    | assumption | simp only [↓memOk_mk] | apply memParts_of

theorem memOk_execAtsCompletion (a0 : AtsReply) (a1 : State) (h1 : memOk a1) : NextMemOk (execAtsCompletion a0 a1) := by
  unfold execAtsCompletion
  repeat' with_reducible first
    | assumption | apply memOk_atsDenied | apply memOk_engineGoes | apply memOk_utlbPut | apply memOk_atcPut | exact .fault
    | apply NextMemOk.next | apply nextMemOk_ite | simp only | intro _

theorem memOk_execLaunchStep (a0 : Nat) (a1 : State) (h1 : memOk a1) : NextMemOk (execLaunchStep a0 a1) := by
  unfold execLaunchStep
  repeat' with_reducible first
    | assumption | apply memOk_runJob | apply memOk_finishJob | apply memOk_awaitJob | apply memOk_ite
    | simp only [↓memOk_mk] | apply memParts_of | intro _ | split

theorem memOk_releaseHostLocks (a0 : State) (h0 : memOk a0) : memOk (releaseHostLocks a0) := by
  unfold releaseHostLocks
  repeat' with_reducible first
    | assumption | simp only [↓memOk_mk] | apply memParts_of

theorem memOk_resetAdmin (a0 : State) (h0 : memOk a0) : memOk (resetAdmin a0) := by
  unfold resetAdmin
  repeat' with_reducible first
    | assumption | apply memOk_setF | apply memOk_each | simp only [↓memOk_mk] | apply memParts_of | intro _

theorem memOk_beginReset (a0 : State) (a1 : Nat) (a2 : Option Nat) (h0 : memOk a0) : memOk (beginReset a0 a1 a2) := by
  unfold beginReset
  repeat' with_reducible first
    | assumption | apply memOk_eventAdm | apply memOk_forceAbort | apply memOk_releaseHostLocks | apply memOk_resetAdmin
    | apply memOk_ite | apply memOk_each | simp only [↓memOk_mk] | apply memParts_of | intro _

theorem memOk_snd_each {α β} {l : List β} {f : β → α × State → α × State} {p : α × State} (h : memOk p.2)
    (g : ∀ b q, memOk q.2 → memOk (f b q).2) : memOk (each l f p).2 := by
  unfold each
  induction l generalizing p with
  | nil => exact h
  | cons b l ih => exact ih (g b p h)

theorem memOk_snd_ite {α} {c : Prop} [Decidable c] {p q : α × State} (h : memOk p.2) (g : memOk q.2) : memOk (if c then p else q).2 := by
  split <;> assumption

theorem memOk_armWindow (a0 : State) (a1 : Nat) (a2 : Bool) (a3 : Nat) (h0 : memOk a0) : memOk (armWindow a0 a1 a2 a3) :=
    by
  unfold armWindow
  refine memOk_snd_each h0 fun b q hq => memOk_snd_ite hq ?_
  dsimp only
  have h1 := memOk_armIdle q.2 (b.1 + q.1) a1 (idleLength a3 b.2) a2 hq
  split
  · exact memOk_ctlSend _ _ _ _ _ _ _ h1
  · exact h1

theorem memOk_execPowerWindow (a0 : Nat) (a1 : State) (h1 : memOk a1) : NextMemOk (execPowerWindow a0 a1) := by
  unfold execPowerWindow
  repeat' with_reducible first
    | assumption | apply memOk_telemAdd | apply memOk_applyBudget | apply memOk_setF | apply memOk_addF
    | apply memOk_healthEvent | apply memOk_armWindow | apply memOk_judgeBackstop | apply NextMemOk.next | apply memOk_ite
    | apply memOk_iter | simp only [↓memOk_mk] | apply memParts_of | intro _

theorem memOk_leaveBist (a0 : State) (h0 : memOk a0) : memOk (leaveBist a0) := by
  unfold leaveBist
  repeat' with_reducible first
    | assumption | apply memOk_setF | apply memOk_advanceStart | simp only [↓memOk_mk] | apply memParts_of

theorem memOk_outLane (a0 : State) (a1 : Nat) (h0 : memOk a0) : memOk (outLane a0 a1) := by
  unfold outLane
  repeat' with_reducible first
    | assumption | apply memOk_ite | simp only [↓memOk_mk] | apply memParts_of | intro _

theorem memOk_applyRepair (a0 : State) (a1 : Nat) (h0 : memOk a0) : memOk (applyRepair a0 a1) := by
  unfold applyRepair
  repeat' with_reducible first
    | assumption | apply memOk_applyArray | apply memOk_outCore | apply memOk_outLane | apply memOk_outPort
    | simp only [↓memOk_mk] | apply memParts_of | split

theorem memOk_addRepair (a0 : Nat) (a1 : State) (h1 : memOk a1) : memOk (addRepair a0 a1) := by
  unfold addRepair
  repeat' with_reducible first
    | assumption | apply memOk_applyRepair | apply memOk_setF | apply memOk_ite | simp only [↓memOk_mk] | apply memParts_of
    | intro _

theorem memOk_execBistAndRepair (a0 : List W32) (a1 : State) (h1 : memOk a1) : NextMemOk (execBistAndRepair a0 a1) := by
  unfold execBistAndRepair
  repeat' with_reducible first
    | assumption | apply memOk_leaveBist | apply memOk_addRepair | apply NextMemOk.next | apply memOk_ite | apply memOk_each
    | intro _

theorem memOk_execTimedFlit (a0 : Nat) (a1 : RxMark) (a2 : List Byte) (a3 : State) (h3 : memOk a3) : NextMemOk
    (execTimedFlit a0 a1 a2 a3) := by
  unfold execTimedFlit
  repeat' with_reducible first
    | assumption | apply memOk_countFec | apply memOk_timedFlitIn | exact .fault | apply NextMemOk.next | apply memOk_ite
    | apply nextMemOk_ite | simp only | intro _ | split

theorem memOk_execFmax (a0 : Nat) (a1 : Bool) (a2 : VecFields) (a3 : State) (h3 : memOk a3) : NextMemOk (execFmax a0 a1 a2
    a3) := by
  unfold execFmax
  repeat' with_reducible first
    | assumption | apply memOk_vecExec | apply memOk_vecLanes

theorem memOk_limitPassed (a0 : State) (h0 : memOk a0) : memOk (limitPassed a0) := by
  unfold limitPassed
  repeat' with_reducible first
    | assumption | apply memOk_advanceStart | apply memOk_outCore | apply memOk_outLane | apply memOk_leaveBist
    | apply memOk_outPort | apply memOk_enterSync | apply memOk_awaitImage | apply memOk_each | simp only [↓memOk_mk]
    | apply memParts_of | intro _ | split

theorem memOk_execStartStateLimit (a0 : State) (h0 : memOk a0) : NextMemOk (execStartStateLimit a0) := by
  unfold execStartStateLimit
  repeat' with_reducible first
    | assumption | apply memOk_limitPassed | apply NextMemOk.next

theorem memOk_followPins (a0 a1 : State) (h0 : memOk a0) (h1 : memOk a1) : memOk (followPins a0 a1) := by
  unfold followPins
  repeat' with_reducible first
    | assumption | apply memOk_setF | simp only [↓memOk_mk] | apply memParts_of

theorem memOk_execColdReset (a0 : State) (h0 : memOk a0) : NextMemOk (execColdReset a0) := by
  unfold execColdReset
  repeat' with_reducible first
    | assumption | apply memOk_followPins | apply memOk_outsideOf | apply NextMemOk.next

theorem memOk_loadFuses (a0 : State) (h0 : memOk a0) : memOk (loadFuses a0) := by
  unfold loadFuses
  repeat' with_reducible first
    | assumption | apply memOk_putWord | apply memOk_each | simp only [↓memOk_mk] | apply memParts_of | intro _

theorem memOk_execWarmReset (a0 : State) (h0 : memOk a0) : NextMemOk (execWarmReset a0) := by
  unfold execWarmReset
  repeat' with_reducible first
    | assumption | apply memOk_warmState | apply memOk_loadFuses | apply memOk_setF | apply NextMemOk.next | apply memOk_ite
    | simp only [↓memOk_mk] | apply memParts_of | intro _

theorem memOk_execWarmResetShort (a0 : State) (h0 : memOk a0) : NextMemOk (execWarmResetShort a0) := by
  unfold execWarmResetShort
  repeat' with_reducible first
    | assumption | apply memOk_addF | apply NextMemOk.next | apply memOk_ite | intro _

theorem memOk_execPowerBudgetCapture (a0 : BitVec 10) (a1 : State) (h1 : memOk a1) : NextMemOk (execPowerBudgetCapture a0
    a1) := by
  unfold execPowerBudgetCapture
  repeat' with_reducible first
    | assumption | apply memOk_setF | apply NextMemOk.next | apply memOk_ite | simp only [↓memOk_mk] | apply memParts_of
    | intro _

theorem memOk_execPwrStatePrepareOff (a0 : State) (h0 : memOk a0) : NextMemOk (execPwrStatePrepareOff a0) := by
  unfold execPwrStatePrepareOff
  repeat' with_reducible first
    | assumption | apply memOk_startPrepare | apply NextMemOk.next | apply memOk_ite | intro _

theorem memOk_execPwrStateOff (a0 : State) (h0 : memOk a0) : NextMemOk (execPwrStateOff a0) := by
  unfold execPwrStateOff
  repeat' with_reducible first
    | assumption | apply memOk_reachOff | apply memOk_startPrepare | apply NextMemOk.next | apply memOk_ite | intro _

theorem memOk_execPowerRemoved (a0 : State) (h0 : memOk a0) : NextMemOk (execPowerRemoved a0) := by
  unfold execPowerRemoved
  repeat' with_reducible first
    | assumption | apply memOk_outsideOf | apply NextMemOk.next | simp only [↓memOk_mk] | apply memParts_of

theorem memOk_execThermalAlarm (a0 : State) (h0 : memOk a0) : NextMemOk (execThermalAlarm a0) := by
  unfold execThermalAlarm
  repeat' with_reducible first
    | assumption | apply memOk_addF | apply memOk_thermLevel | apply memOk_setF | apply NextMemOk.next | apply memOk_ite
    | simp only [↓memOk_mk] | apply memParts_of | intro _

theorem memOk_execThermalReaise (a0 : State) (h0 : memOk a0) : NextMemOk (execThermalReaise a0) := by
  unfold execThermalReaise
  repeat' with_reducible first
    | assumption | apply memOk_thermLevel | apply NextMemOk.next | apply memOk_ite | intro _

theorem memOk_execThermalRelease (a0 : State) (h0 : memOk a0) : NextMemOk (execThermalRelease a0) := by
  unfold execThermalRelease
  repeat' with_reducible first
    | assumption | apply memOk_setF | apply NextMemOk.next | apply memOk_ite | simp only [↓memOk_mk] | apply memParts_of
    | intro _

theorem memOk_execTpulseEdge (a0 : Bool) (a1 : Nat) (a2 : State) (h2 : memOk a2) : NextMemOk (execTpulseEdge a0 a1 a2) :=
    by
  unfold execTpulseEdge
  repeat' with_reducible first
    | assumption | apply memOk_addF | apply memOk_acceptPulse | apply NextMemOk.next | apply memOk_ite | intro _ | split

theorem memOk_execFunctionLevelReset (a0 : Nat) (a1 : State) (h1 : memOk a1) : NextMemOk (execFunctionLevelReset a0 a1) :=
    by
  unfold execFunctionLevelReset
  repeat' with_reducible first
    | assumption | apply memOk_beginReset | exact .fault | apply NextMemOk.next | apply nextMemOk_ite | intro _

theorem memOk_execAtsInvalidate (a0 a1 a2 : Nat) (a3 : State) (h3 : memOk a3) : NextMemOk (execAtsInvalidate a0 a1 a2 a3)
    := by
  unfold execAtsInvalidate
  repeat' with_reducible first
    | assumption | apply NextMemOk.next | simp only [↓memOk_mk] | apply memParts_of

theorem memOk_execAtsInvalidateDone (a0 : State) (h0 : memOk a0) : NextMemOk (execAtsInvalidateDone a0) := by
  unfold execAtsInvalidateDone
  repeat' with_reducible first
    | assumption | apply memOk_addF | apply NextMemOk.next | apply nextMemOk_ite | simp only [↓memOk_mk] | apply memParts_of
    | intro _

theorem memOk_execPriResponse (a0 : Nat) (a1 : PriResponse) (a2 : State) (h2 : memOk a2) : NextMemOk (execPriResponse a0
    a1 a2) := by
  unfold execPriResponse
  repeat' with_reducible first
    | assumption | apply memOk_retryAts | apply memOk_failPage | exact .fault | apply NextMemOk.next | apply nextMemOk_ite
    | simp only [↓memOk_mk] | apply memParts_of | intro _ | split

theorem memOk_busWriteN (a0 : State) (a1 a2 a3 : Nat) (a4 : Bool) (h0 : memOk a0) : memOk (busWriteN a0 a1 a2 a3 a4) :=
    by
  unfold busWriteN
  repeat' with_reducible first
    | assumption | apply memOk_busWrite | apply memOk_ite | intro _

theorem memOk_execRegisterWrite (a0 a1 : Nat) (a2 : BitVec 64) (a3 : BitVec 8) (a4 : State) (h4 : memOk a4) : NextMemOk
    (execRegisterWrite a0 a1 a2 a3 a4) := by
  unfold execRegisterWrite
  repeat' with_reducible first
    | assumption | apply memOk_hostWrite | apply memOk_busWriteN | apply memOk_ite | intro _

theorem memOk_execDoorbellCq (a0 a1 : Nat) (a2 : BitVec 64) (a3 : BitVec 8) (a4 : State) (h4 : memOk a4) : NextMemOk
    (execDoorbellCq a0 a1 a2 a3 a4) := by
  unfold execDoorbellCq
  repeat' with_reducible first
    | assumption | apply memOk_doorbell | apply memOk_badDoorbell | apply memOk_updCtx | apply memOk_ite
    | simp only | intro _

theorem memOk_execDoorbellEq (a0 a1 : Nat) (a2 : BitVec 64) (a3 : BitVec 8) (a4 : State) (h4 : memOk a4) : NextMemOk
    (execDoorbellEq a0 a1 a2 a3 a4) := by
  unfold execDoorbellEq
  repeat' with_reducible first
    | assumption | apply memOk_doorbell | apply memOk_badDoorbell | apply memOk_updCtx | apply memOk_flushCtxLost
    | apply memOk_ite | simp only | intro _

theorem memOk_dispatchItem (a0 : State) (a1 : Job) (a2 : HeadState) (h0 : memOk a0) : memOk (dispatchItem a0 a1 a2) := by
  unfold dispatchItem
  repeat' with_reducible first
    | assumption | apply memOk_retireUndispatched | apply memOk_addF | apply memOk_dispatchJob | apply memOk_ite | intro _
    | split

theorem memOk_dispatchAdm (a0 : State) (h0 : memOk a0) : memOk (dispatchAdm a0) := by
  unfold dispatchAdm
  repeat' with_reducible first
    | assumption | apply memOk_dispatchItem | apply memOk_admHead | simp only [↓memOk_mk] | apply memParts_of | split

theorem memOk_takeHead (a0 : State) (a1 a2 : Nat) (a3 : Option Nat) (h0 : memOk a0) : memOk (takeHead a0 a1 a2 a3) := by
  unfold takeHead
  repeat' with_reducible first
    | assumption | apply memOk_updSubq | apply memOk_updJob | apply memOk_closeBuffer | apply memOk_ite
    | simp only | intro _ | split

theorem memOk_dispatchQueue (a0 : State) (a1 a2 : Nat) (h0 : memOk a0) : memOk (dispatchQueue a0 a1 a2) := by
  unfold dispatchQueue
  repeat' with_reducible first
    | assumption | apply memOk_bufferDone | apply memOk_closeBuffer | apply memOk_updJob | apply memOk_dispatchItem
    | apply memOk_takeHead | apply memOk_toHead | apply memOk_ite | simp only [↓memOk_mk] | apply memParts_of | intro _ | split

theorem memOk_execDispatch (a0 : Bool) (a1 : State) (h1 : memOk a1) : NextMemOk (execDispatch a0 a1) := by
  unfold execDispatch
  repeat' with_reducible first
    | assumption | apply memOk_dispatchAdm | apply memOk_dispatchQueue | apply NextMemOk.next | apply nextMemOk_ite
    | simp only | intro _ | split

theorem memOk_writeAdmEntry (a0 : State) (a1 : List Byte) (a2 : Bool) (h0 : memOk a0) : memOk (writeAdmEntry a0 a1 a2) :=
    by
  unfold writeAdmEntry
  repeat' with_reducible first
    | assumption | apply memOk_setF | apply memOk_requestVector | apply memOk_ite | simp only [↓memOk_mk] | apply memParts_of
    | apply memParts_host | apply wf_wrBytes | apply wf_mem_host | intro _

theorem memOk_accountJob (a0 : State) (a1 : Job) (h0 : memOk a0) : memOk (accountJob a0 a1) := by
  unfold accountJob
  repeat' with_reducible first
    | assumption | apply memOk_updCtx | apply memOk_ite | simp only | intro _

theorem memOk_retire (a0 : State) (a1 : Nat) (a2 : Job) (h0 : memOk a0) : memOk (retire a0 a1 a2) := by
  unfold retire
  repeat' with_reducible first
    | assumption | apply memOk_settleFence | apply memOk_retireOp | apply memOk_writeAdmEntry | apply memOk_writeEntry
    | apply memOk_accountJob | apply memOk_dropRefs | apply memOk_runEngine | apply memOk_ite | simp only [↓memOk_mk]
    | apply memParts_of | intro _ | split

theorem memOk_frontEcc (a0 : State) (a1 : Job) (a2 : SramEcc) (h0 : memOk a0) : memOk (frontEcc a0 a1 a2) := by
  unfold frontEcc
  repeat' with_reducible first
    | assumption | apply memOk_telemAdd | apply memOk_ctxFault | apply memOk_sramUe | apply memOk_updCtx | apply memOk_ite
    | simp only | intro _ | split

theorem memOk_execCommandRetire (a0 : Nat) (a1 : SramEcc) (a2 : State) (h2 : memOk a2) : NextMemOk (execCommandRetire a0
    a1 a2) := by
  unfold execCommandRetire
  repeat' with_reducible first
    | assumption | apply memOk_retire | apply memOk_frontEcc | apply NextMemOk.next | apply nextMemOk_ite | intro _ | split

theorem memOk_execQueueTimeoutCheck (a0 : State) (h0 : memOk a0) : NextMemOk (execQueueTimeoutCheck a0) := by
  unfold execQueueTimeoutCheck
  repeat' with_reducible first
    | assumption | apply memOk_expireHead | apply memOk_expireJob | apply NextMemOk.next | apply nextMemOk_ite | apply memOk_each
    | simp only | intro _

theorem memOk_execNop (a0 : Nat) (a1 : State) (h1 : memOk a1) : NextMemOk (execNop a0 a1) := by
  unfold execNop
  repeat' with_reducible first
    | assumption | apply memOk_runJob | apply memOk_finishJob | intro _

theorem memOk_execFreeObject (a0 : Nat) (a1 : State) (h1 : memOk a1) : NextMemOk (execFreeObject a0 a1) := by
  unfold execFreeObject
  repeat' with_reducible first
    | assumption | apply memOk_runJob | apply memOk_finishJob | apply memOk_awaitJob | apply memOk_putObj | apply memOk_ite
    | simp only | intro _

theorem memOk_execObjectRelease (a0 : Nat) (a1 : State) (h1 : memOk a1) : NextMemOk (execObjectRelease a0 a1) := by
  unfold execObjectRelease
  repeat' with_reducible first
    | assumption | apply memOk_releaseObj | exact .fault | apply NextMemOk.next | apply nextMemOk_ite | simp only
    | intro _

theorem memOk_execDestroyFence (a0 : Nat) (a1 : State) (h1 : memOk a1) : NextMemOk (execDestroyFence a0 a1) := by
  unfold execDestroyFence
  repeat' with_reducible first
    | assumption | apply memOk_runJob | apply memOk_finishJob | apply memOk_fenceError | apply memOk_awaitJob
    | apply memOk_putFence | apply memOk_ite | simp only | intro _

theorem memOk_execQueryCapabilities (a0 : Nat) (a1 : State) (h1 : memOk a1) : NextMemOk (execQueryCapabilities a0 a1) :=
    by
  unfold execQueryCapabilities
  repeat' with_reducible first
    | assumption | apply memOk_runJob | apply memOk_awaitJob | apply memOk_serveCap | apply memOk_ite | simp only [↓memOk_mk]
    | apply memParts_of | intro _

theorem memOk_execUnloadProgram (a0 : Nat) (a1 : State) (h1 : memOk a1) : NextMemOk (execUnloadProgram a0 a1) := by
  unfold execUnloadProgram
  repeat' with_reducible first
    | assumption | apply memOk_runJob | apply memOk_awaitJob | apply memOk_unloadDone | simp only [↓memOk_mk]
    | apply memParts_of | intro _

theorem memOk_execUnbindTable (a0 : Nat) (a1 : State) (h1 : memOk a1) : NextMemOk (execUnbindTable a0 a1) := by
  unfold execUnbindTable
  repeat' with_reducible first
    | assumption | apply memOk_runJob | apply memOk_finishJob | apply memOk_putTable | apply memOk_boundary
    | apply memOk_awaitJob | simp only | intro _ | split

theorem memOk_execUpdate (a0 : Nat) (a1 : State) (h1 : memOk a1) : NextMemOk (execUpdate a0 a1) := by
  unfold execUpdate
  repeat' with_reducible first
    | assumption | apply memOk_runJob | apply memOk_startCopy | intro _

theorem memOk_execSeal (a0 : Nat) (a1 : State) (h1 : memOk a1) : NextMemOk (execSeal a0 a1) := by
  unfold execSeal
  repeat' with_reducible first
    | assumption | apply memOk_runJob | apply memOk_awaitJob | apply memOk_updGroup | apply memOk_finishJob | apply memOk_ite
    | simp only | intro _

theorem memOk_execFlip (a0 : Nat) (a1 : State) (h1 : memOk a1) : NextMemOk (execFlip a0 a1) := by
  unfold execFlip
  repeat' with_reducible first
    | assumption | apply memOk_runJob | apply memOk_finishJob | apply memOk_ctlSend | apply memOk_announceFlip
    | apply memOk_awaitJob | apply memOk_updGroup | apply memOk_ite | simp only | intro _

theorem memOk_execCreateContext (a0 : Nat) (a1 : State) (h1 : memOk a1) : NextMemOk (execCreateContext a0 a1) := by
  unfold execCreateContext
  repeat' with_reducible first
    | assumption | apply memOk_runJob | apply memOk_finishJob | apply memOk_makeContext | apply memOk_ite
    | simp only | intro _

theorem memOk_failPartition (a0 : State) (a1 : Nat) (h0 : memOk a0) : memOk (failPartition a0 a1) := by
  unfold failPartition
  repeat' with_reducible first
    | assumption | apply memOk_updPart | apply memOk_ctxFault | apply memOk_eventCtx | apply memOk_eventAdm
    | apply memOk_finishJob | apply memOk_updCtx | apply memOk_capChange | apply memOk_addF | apply memOk_each
    | simp only | intro _ | split

theorem memOk_execPartitionResetOverrun (a0 : Nat) (a1 : State) (h1 : memOk a1) : NextMemOk (execPartitionResetOverrun a0
    a1) := by
  unfold execPartitionResetOverrun
  repeat' with_reducible first
    | assumption | apply memOk_failPartition | exact .fault | apply NextMemOk.next | apply nextMemOk_ite | intro _ | split

theorem memOk_execResizePartition (a0 : Nat) (a1 : State) (h1 : memOk a1) : NextMemOk (execResizePartition a0 a1) := by
  unfold execResizePartition
  repeat' with_reducible first
    | assumption | apply memOk_runJob | apply memOk_finishJob | apply memOk_boundary | apply memOk_awaitJob
    | apply memOk_updPart | apply memOk_ite | simp only | intro _

theorem memOk_execLoadGroup (a0 : Nat) (a1 : State) (h1 : memOk a1) : NextMemOk (execLoadGroup a0 a1) := by
  unfold execLoadGroup
  repeat' with_reducible first
    | assumption | apply memOk_runJob | apply memOk_finishJob | apply memOk_setF | apply memOk_updPart
    | apply memOk_capChange | apply memOk_awaitJob | apply memOk_ite | simp only [↓memOk_mk] | apply memParts_of | intro _
    | split

theorem memOk_execResetInstance (a0 : Nat) (a1 : State) (h1 : memOk a1) : NextMemOk (execResetInstance a0 a1) := by
  unfold execResetInstance
  repeat' with_reducible first
    | assumption | apply memOk_runJob | apply memOk_awaitJob | apply memOk_beginReset | intro _

theorem memOk_replayGo (a0 : Nat) (a1 : State) (a2 : Nat) (h1 : memOk a1) : memOk (replayGo a0 a1 a2) := by
  induction a0 generalizing a1 a2 with
  | zero =>
   unfold replayGo
   repeat' with_reducible first
     | assumption
  | succ _ ih =>
   unfold replayGo
   repeat' with_reducible first
     | assumption | apply ih | apply memOk_vaWrite | apply memOk_updCtx | apply memOk_requestVector | apply memOk_ite
     | simp only | intro _ | split

theorem memOk_resumeTimers (a0 : State) (a1 : Nat) (h0 : memOk a0) : memOk (resumeTimers a0 a1) := by
  unfold resumeTimers
  repeat' with_reducible first
    | assumption | apply memOk_updCtx

theorem memOk_execReplayHoldingRing (a0 : Nat) (a1 : State) (h1 : memOk a1) : NextMemOk (execReplayHoldingRing a0 a1) :=
    by
  unfold execReplayHoldingRing
  repeat' with_reducible first
    | assumption | apply memOk_runJob | apply memOk_finishJob | apply memOk_replayGo | apply memOk_updCtx
    | apply memOk_resumeTimers | apply memOk_ite | simp only | intro _

theorem memOk_execStepLaunch (a0 : Nat) (a1 : State) (h1 : memOk a1) : NextMemOk (execStepLaunch a0 a1) := by
  unfold execStepLaunch
  repeat' with_reducible first
    | assumption | apply memOk_launchesDue | apply memOk_fireBefore | exact .fault | apply NextMemOk.next | apply nextMemOk_ite
    | intro _

theorem memOk_execTimedPointMiss (a0 a1 : Nat) (a2 : State) (h2 : memOk a2) : NextMemOk (execTimedPointMiss a0 a1 a2) :=
    by
  unfold execTimedPointMiss
  repeat' with_reducible first
    | assumption | apply memOk_missPoint | exact .fault | apply NextMemOk.next | apply nextMemOk_ite | intro _

theorem memOk_execTealFlip (a0 : Nat) (a1 : State) (h1 : memOk a1) : NextMemOk (execTealFlip a0 a1) := by
  unfold execTealFlip
  repeat' with_reducible first
    | assumption | apply memOk_tealFlip | apply memOk_fireBefore | apply NextMemOk.next

theorem memOk_execSnapshotLatch (a0 : State) (h0 : memOk a0) : NextMemOk (execSnapshotLatch a0) := by
  unfold execSnapshotLatch
  repeat' with_reducible first
    | assumption | apply memOk_latchDue | apply NextMemOk.next

theorem memOk_reportDone (a0 : State) (a1 : Coord) (a2 : Nat) (h0 : memOk a0) : memOk (reportDone a0 a1 a2) := by
  unfold reportDone
  repeat' with_reducible first
    | assumption | apply memOk_endReset | apply memOk_ite | simp only [↓memOk_mk] | apply memParts_of | intro _

theorem memOk_execDomainResetLocalDone (a0 : State) (h0 : memOk a0) : NextMemOk (execDomainResetLocalDone a0) := by
  unfold execDomainResetLocalDone
  repeat' with_reducible first
    | assumption | apply memOk_reportDone | apply memOk_ctlSend | apply NextMemOk.next | apply memOk_ite | apply nextMemOk_ite
    | simp only [↓memOk_mk] | apply memParts_of | intro _

theorem memOk_execSliceEnd (a0 : Nat) (a1 : State) (h1 : memOk a1) : NextMemOk (execSliceEnd a0 a1) := by
  unfold execSliceEnd
  repeat' with_reducible first
    | assumption | apply memOk_endSlice | exact .fault | apply NextMemOk.next | apply nextMemOk_ite | simp only
    | intro _ | split

theorem memOk_execLi (a0 : Nat) (a1 : Bool) (a2 : Nat) (a3 : W64) (a4 : State) (h4 : memOk a4) : NextMemOk (execLi a0 a1
    a2 a3 a4) := by
  unfold execLi
  repeat' with_reducible first
    | assumption | apply memOk_issue | apply memOk_updCoreNext | apply memOk_setG | intro _

theorem memOk_execAddi (a0 : Nat) (a1 : Bool) (a2 a3 : Nat) (a4 : W64) (a5 : State) (h5 : memOk a5) : NextMemOk (execAddi
    a0 a1 a2 a3 a4 a5) := by
  unfold execAddi
  repeat' with_reducible first
    | assumption | apply memOk_issue | apply memOk_updCoreNext | apply memOk_setG | intro _

theorem memOk_execSub (a0 : Nat) (a1 : Bool) (a2 a3 a4 : Nat) (a5 : State) (h5 : memOk a5) : NextMemOk (execSub a0 a1 a2
    a3 a4 a5) := by
  unfold execSub
  repeat' with_reducible first
    | assumption | apply memOk_issue | apply memOk_updCoreNext | apply memOk_setG | intro _

theorem memOk_execCmp (a0 : Nat) (a1 : Bool) (a2 a3 : Nat) (a4 : State) (h4 : memOk a4) : NextMemOk (execCmp a0 a1 a2 a3
    a4) := by
  unfold execCmp
  repeat' with_reducible first
    | assumption | apply memOk_issue | apply memOk_updCoreNext | apply memOk_cmpFlags | intro _

theorem memOk_execBr (a0 : Nat) (a1 : Bool) (a2 a3 : Nat) (a4 : State) (h4 : memOk a4) : NextMemOk (execBr a0 a1 a2 a3 a4)
    := by
  unfold execBr
  repeat' with_reducible first
    | assumption | apply memOk_issue | apply memOk_goTo | apply memOk_advance | apply memOk_ite | intro _

theorem memOk_execSync (a0 : Nat) (a1 : Bool) (a2 : State) (h2 : memOk a2) : NextMemOk (execSync a0 a1 a2) := by
  unfold execSync
  repeat' with_reducible first
    | assumption | apply memOk_issue | apply memOk_advance | apply memOk_ite | intro _

theorem memOk_execRdtick (a0 : Nat) (a1 : Bool) (a2 : Nat) (a3 : State) (h3 : memOk a3) : NextMemOk (execRdtick a0 a1 a2
    a3) := by
  unfold execRdtick
  repeat' with_reducible first
    | assumption | apply memOk_issue | apply memOk_updCoreNext | apply memOk_setG | intro _

theorem memOk_execTileMatrix (a0 : Nat) (a1 : Bool) (a2 : TileFields) (a3 : SramEcc) (a4 : State) (h4 : memOk a4) :
    NextMemOk (execTileMatrix a0 a1 a2 a3 a4) := by
  unfold execTileMatrix
  repeat' with_reducible first
    | assumption | apply memOk_tileExec

theorem memOk_execTileHamming (a0 : Nat) (a1 : Bool) (a2 : TileFields) (a3 : SramEcc) (a4 : State) (h4 : memOk a4) :
    NextMemOk (execTileHamming a0 a1 a2 a3 a4) := by
  unfold execTileHamming
  repeat' with_reducible first
    | assumption | apply memOk_tileExec

theorem memOk_execTileMaxPlus (a0 : Nat) (a1 : Bool) (a2 : TileFields) (a3 : SramEcc) (a4 : State) (h4 : memOk a4) :
    NextMemOk (execTileMaxPlus a0 a1 a2 a3 a4) := by
  unfold execTileMaxPlus
  repeat' with_reducible first
    | assumption | apply memOk_tileExec

theorem memOk_execTileConvolution (a0 : Nat) (a1 : Bool) (a2 : TileFields) (a3 : SramEcc) (a4 : State) (h4 : memOk a4) :
    NextMemOk (execTileConvolution a0 a1 a2 a3 a4) := by
  unfold execTileConvolution
  repeat' with_reducible first
    | assumption | apply memOk_tileExec

theorem memOk_execTileNe (a0 : Nat) (a1 : Bool) (a2 : TileFields) (a3 : SramEcc) (a4 : State) (h4 : memOk a4) : NextMemOk
    (execTileNe a0 a1 a2 a3 a4) := by
  unfold execTileNe
  repeat' with_reducible first
    | assumption | apply memOk_tileExec

theorem memOk_execTileLt (a0 : Nat) (a1 : Bool) (a2 : TileFields) (a3 : SramEcc) (a4 : State) (h4 : memOk a4) : NextMemOk
    (execTileLt a0 a1 a2 a3 a4) := by
  unfold execTileLt
  repeat' with_reducible first
    | assumption | apply memOk_tileExec

theorem memOk_execSelectBegin (a0 : Nat) (a1 : Bool) (a2 : SelectFields) (a3 : State) (h3 : memOk a3) : NextMemOk
    (execSelectBegin a0 a1 a2 a3) := by
  unfold execSelectBegin
  repeat' with_reducible first
    | assumption | apply memOk_issue | apply memOk_programFault | apply memOk_updCoreNext | apply memOk_ite
    | simp only | simp only [↓coreMemOk_mk] | apply coreMemParts_mk | apply coreMemOk_weight | apply coreMemOk_act
    | apply coreMemOk_acc | apply coreMemOk_prog | apply coreMemOk_planeA | apply coreMemOk_shadowA | apply coreMemOk_planeB | apply coreMemOk_shadowB
    | intro _

theorem memOk_execSelectEnd (a0 : Nat) (a1 a2 a3 : Bool) (a4 a5 : Nat) (a6 : SramEcc) (a7 : State) (h7 : memOk a7) :
    NextMemOk (execSelectEnd a0 a1 a2 a3 a4 a5 a6 a7) := by
  unfold execSelectEnd
  repeat' with_reducible first
    | assumption | apply memOk_issue | apply memOk_coreEcc | apply memOk_selectClose | apply memOk_ite | intro _

theorem memOk_vecLoad (a0 : Win) (a1 : VecFields) (a2 : Core) (h2 : coreMemOk a2) : coreMemOk (vecLoad a0 a1 a2) := by
  unfold vecLoad
  repeat' with_reducible first
    | assumption | apply memOk_setLanes

theorem memOk_execVld (a0 : Nat) (a1 : Bool) (a2 : VecFields) (a3 : SramEcc) (a4 : State) (h4 : memOk a4) : NextMemOk
    (execVld a0 a1 a2 a3 a4) := by
  unfold execVld
  repeat' with_reducible first
    | assumption | apply memOk_issue | apply memOk_coreEcc | apply memOk_updCoreNext | apply memOk_vecLoad | intro _

theorem memOk_execVst (a0 : Nat) (a1 : Bool) (a2 : VecFields) (a3 : State) (h3 : memOk a3) : NextMemOk (execVst a0 a1 a2
    a3) := by
  unfold execVst
  repeat' with_reducible first
    | assumption | apply memOk_issue | apply memOk_updCoreNext | apply memOk_vecStoreRow | intro _

theorem memOk_execVidx (a0 : Nat) (a1 : Bool) (a2 : VecFields) (a3 : State) (h3 : memOk a3) : NextMemOk (execVidx a0 a1 a2
    a3) := by
  unfold execVidx
  repeat' with_reducible first
    | assumption | apply memOk_vecExec | apply memOk_vecLanes

theorem memOk_execFfma (a0 : Nat) (a1 : Bool) (a2 : VecFields) (a3 : State) (h3 : memOk a3) : NextMemOk (execFfma a0 a1 a2
    a3) := by
  unfold execFfma
  repeat' with_reducible first
    | assumption | apply memOk_vecExec | apply memOk_vecLanes

theorem memOk_execFneg (a0 : Nat) (a1 : Bool) (a2 : VecFields) (a3 : State) (h3 : memOk a3) : NextMemOk (execFneg a0 a1 a2
    a3) := by
  unfold execFneg
  repeat' with_reducible first
    | assumption | apply memOk_vecExec | apply memOk_vecLanes

theorem memOk_execFrelu (a0 : Nat) (a1 : Bool) (a2 : VecFields) (a3 : State) (h3 : memOk a3) : NextMemOk (execFrelu a0 a1
    a2 a3) := by
  unfold execFrelu
  repeat' with_reducible first
    | assumption | apply memOk_vecExec | apply memOk_vecLanes

theorem memOk_execFsel (a0 : Nat) (a1 : Bool) (a2 : VecFields) (a3 : State) (h3 : memOk a3) : NextMemOk (execFsel a0 a1 a2
    a3) := by
  unfold execFsel
  repeat' with_reducible first
    | assumption | apply memOk_vecExec | apply memOk_vecLanes

theorem memOk_execFeq (a0 : Nat) (a1 : Bool) (a2 : VecFields) (a3 : State) (h3 : memOk a3) : NextMemOk (execFeq a0 a1 a2
    a3) := by
  unfold execFeq
  repeat' with_reducible first
    | assumption | apply memOk_vecExec | apply memOk_vecLanes

theorem memOk_execFmuls (a0 : Nat) (a1 : Bool) (a2 : VecFields) (a3 : State) (h3 : memOk a3) : NextMemOk (execFmuls a0 a1
    a2 a3) := by
  unfold execFmuls
  repeat' with_reducible first
    | assumption | apply memOk_vecExec | apply memOk_vecLanes

theorem memOk_execFadds (a0 : Nat) (a1 : Bool) (a2 : VecFields) (a3 : State) (h3 : memOk a3) : NextMemOk (execFadds a0 a1
    a2 a3) := by
  unfold execFadds
  repeat' with_reducible first
    | assumption | apply memOk_vecExec | apply memOk_vecLanes

theorem memOk_execFrecip (a0 : Nat) (a1 : Bool) (a2 : VecFields) (a3 : State) (h3 : memOk a3) : NextMemOk (execFrecip a0
    a1 a2 a3) := by
  unfold execFrecip
  repeat' with_reducible first
    | assumption | apply memOk_vecExec | apply memOk_vecLanes

theorem memOk_execFexp (a0 : Nat) (a1 : Bool) (a2 : VecFields) (a3 : State) (h3 : memOk a3) : NextMemOk (execFexp a0 a1 a2
    a3) := by
  unfold execFexp
  repeat' with_reducible first
    | assumption | apply memOk_vecExec | apply memOk_vecLanes

theorem memOk_execFmaxr (a0 : Nat) (a1 : Bool) (a2 : VecFields) (a3 : State) (h3 : memOk a3) : NextMemOk (execFmaxr a0 a1
    a2 a3) := by
  unfold execFmaxr
  repeat' with_reducible first
    | assumption | apply memOk_vecExec | apply memOk_vecReduce

theorem memOk_execFminr (a0 : Nat) (a1 : Bool) (a2 : VecFields) (a3 : State) (h3 : memOk a3) : NextMemOk (execFminr a0 a1
    a2 a3) := by
  unfold execFminr
  repeat' with_reducible first
    | assumption | apply memOk_vecExec | apply memOk_vecReduce

theorem memOk_execIadd (a0 : Nat) (a1 : Bool) (a2 : VecFields) (a3 : State) (h3 : memOk a3) : NextMemOk (execIadd a0 a1 a2
    a3) := by
  unfold execIadd
  repeat' with_reducible first
    | assumption | apply memOk_vecExec | apply memOk_vecLanes

theorem memOk_execIsub (a0 : Nat) (a1 : Bool) (a2 : VecFields) (a3 : State) (h3 : memOk a3) : NextMemOk (execIsub a0 a1 a2
    a3) := by
  unfold execIsub
  repeat' with_reducible first
    | assumption | apply memOk_vecExec | apply memOk_vecLanes

theorem memOk_execImul (a0 : Nat) (a1 : Bool) (a2 : VecFields) (a3 : State) (h3 : memOk a3) : NextMemOk (execImul a0 a1 a2
    a3) := by
  unfold execImul
  repeat' with_reducible first
    | assumption | apply memOk_vecExec | apply memOk_vecLanes

theorem memOk_execImax (a0 : Nat) (a1 : Bool) (a2 : VecFields) (a3 : State) (h3 : memOk a3) : NextMemOk (execImax a0 a1 a2
    a3) := by
  unfold execImax
  repeat' with_reducible first
    | assumption | apply memOk_vecExec | apply memOk_vecLanes

theorem memOk_execImin (a0 : Nat) (a1 : Bool) (a2 : VecFields) (a3 : State) (h3 : memOk a3) : NextMemOk (execImin a0 a1 a2
    a3) := by
  unfold execImin
  repeat' with_reducible first
    | assumption | apply memOk_vecExec | apply memOk_vecLanes

theorem memOk_execIshl (a0 : Nat) (a1 : Bool) (a2 : VecFields) (a3 : State) (h3 : memOk a3) : NextMemOk (execIshl a0 a1 a2
    a3) := by
  unfold execIshl
  repeat' with_reducible first
    | assumption | apply memOk_vecExec | apply memOk_vecLanes

theorem memOk_execCvtif (a0 : Nat) (a1 : Bool) (a2 : VecFields) (a3 : State) (h3 : memOk a3) : NextMemOk (execCvtif a0 a1
    a2 a3) := by
  unfold execCvtif
  repeat' with_reducible first
    | assumption | apply memOk_vecExec | apply memOk_vecLanes

theorem memOk_vecMxStore (a0 : Win) (a1 : VecFields) (a2 : Core) (h2 : coreMemOk a2) : coreMemOk (vecMxStore a0 a1 a2) := by
  unfold vecMxStore
  repeat' with_reducible first
    | assumption | apply memOk_putLane | apply memOk_coreWr | apply coreMemOk_iter | simp only | intro _

theorem memOk_execMxst (a0 : Nat) (a1 : Bool) (a2 : VecFields) (a3 : State) (h3 : memOk a3) : NextMemOk (execMxst a0 a1 a2
    a3) := by
  unfold execMxst
  repeat' with_reducible first
    | assumption | apply memOk_issue | apply memOk_updCoreNext | apply memOk_vecMxStore | intro _

theorem memOk_execLocalMove (a0 : Nat) (a1 : Bool) (a2 : MoveFields) (a3 : SramEcc) (a4 : State) (h4 : memOk a4) :
    NextMemOk (execLocalMove a0 a1 a2 a3 a4) := by
  unfold execLocalMove
  repeat' with_reducible first
    | assumption | apply memOk_issue | apply memOk_coreEcc | apply memOk_updCoreNext | apply memOk_moveBytes | intro _

theorem memOk_queueSlab (a0 : State) (a1 : SlabReq) (h0 : memOk a0) : memOk (queueSlab a0 a1) := by
  unfold queueSlab
  repeat' with_reducible first
    | assumption | apply memOk_setF | simp only [↓memOk_mk] | apply memParts_of

theorem memOk_execAlloc (a0 : Nat) (a1 : Bool) (a2 a3 : Nat) (a4 : Bool) (a5 : State) (h5 : memOk a5) : NextMemOk
    (execAlloc a0 a1 a2 a3 a4 a5) := by
  unfold execAlloc
  repeat' with_reducible first
    | assumption | apply memOk_issue | apply memOk_queueSlab | apply memOk_updCoreNext | simp only
    | simp only [↓coreMemOk_mk] | apply coreMemParts_mk | apply coreMemOk_weight | apply coreMemOk_act | apply coreMemOk_acc | apply coreMemOk_prog
    | apply coreMemOk_planeA | apply coreMemOk_shadowA | apply coreMemOk_planeB | apply coreMemOk_shadowB | intro _

theorem memOk_execFree (a0 : Nat) (a1 : Bool) (a2 : Nat) (a3 : State) (h3 : memOk a3) : NextMemOk (execFree a0 a1 a2 a3)
    := by
  unfold execFree
  repeat' with_reducible first
    | assumption | apply memOk_issue | apply memOk_queueSlab | apply memOk_updCoreNext | simp only
    | simp only [↓coreMemOk_mk] | apply coreMemParts_mk | apply coreMemOk_weight | apply coreMemOk_act | apply coreMemOk_acc | apply coreMemOk_prog
    | apply coreMemOk_planeA | apply coreMemOk_shadowA | apply coreMemOk_planeB | apply coreMemOk_shadowB | intro _

theorem memOk_execFsig (a0 : Nat) (a1 : Bool) (a2 a3 : Nat) (a4 : State) (h4 : memOk a4) : NextMemOk (execFsig a0 a1 a2 a3
    a4) := by
  unfold execFsig
  repeat' with_reducible first
    | assumption | apply memOk_issue | apply memOk_advance | apply memOk_fenceSignal | apply memOk_stepFail | apply memOk_ite
    | intro _

theorem memOk_execFwait (a0 : Nat) (a1 : Bool) (a2 a3 : Nat) (a4 : Bool) (a5 : State) (h5 : memOk a5) : NextMemOk
    (execFwait a0 a1 a2 a3 a4 a5) := by
  unfold execFwait
  repeat' with_reducible first
    | assumption | apply memOk_issue | apply memOk_coreOf | apply memOk_stepFail | apply memOk_advance
    | apply memOk_updCoreNext | apply memOk_failFlag | apply memOk_putCore | apply memOk_ite | simp only
    | simp only [↓coreMemOk_mk] | apply coreMemParts_mk | apply coreMemOk_weight | apply coreMemOk_act | apply coreMemOk_acc | apply coreMemOk_prog
    | apply coreMemOk_planeA | apply coreMemOk_shadowA | apply coreMemOk_planeB | apply coreMemOk_shadowB | intro _ | split

theorem memOk_lateFlags (a0 : Core) (a1 a2 : Bool) (h0 : coreMemOk a0) : coreMemOk (lateFlags a0 a1 a2) := by
  unfold lateFlags
  repeat' with_reducible first
    | assumption | simp only [↓coreMemOk_mk] | apply coreMemParts_mk | apply coreMemOk_weight | apply coreMemOk_act | apply coreMemOk_acc
    | apply coreMemOk_prog | apply coreMemOk_planeA | apply coreMemOk_shadowA | apply coreMemOk_planeB | apply coreMemOk_shadowB

theorem memOk_execLateFeatureTest (a0 : Nat) (a1 : Bool) (a2 : Nat) (a3 : Bool) (a4 a5 : Nat) (a6 : State)
    (h6 : memOk a6) : NextMemOk (execLateFeatureTest a0 a1 a2 a3 a4 a5 a6) := by
  unfold execLateFeatureTest
  repeat' with_reducible first
    | assumption | apply memOk_issue | apply memOk_programFault | apply memOk_updCoreNext | apply memOk_lateFlags
    | apply memOk_coreWrN | apply memOk_ite | apply coreMemOk_ite | simp only | intro _ | split

theorem memOk_execSketchHalving (a0 : State) (h0 : memOk a0) : NextMemOk (execSketchHalving a0) := by
  unfold execSketchHalving
  repeat' with_reducible first
    | assumption | apply NextMemOk.next | apply nextMemOk_ite | simp only [↓memOk_mk] | apply memParts_of | intro _

theorem memOk_mergeEntry (a0 : State) (a1 : Nat) (a2 : Table) (a3 : Nat) (a4 : Nat × Nat) (h0 : memOk a0) : memOk
    (mergeEntry a0 a1 a2 a3 a4) := by
  unfold mergeEntry
  repeat' with_reducible first
    | assumption | apply memOk_mergeVersion | apply memOk_ite | simp only | intro _

theorem memOk_execDeltaMergePassEnd (a0 : Nat) (a1 : State) (h1 : memOk a1) : NextMemOk (execDeltaMergePassEnd a0 a1) :=
    by
  unfold execDeltaMergePassEnd
  repeat' with_reducible first
    | assumption | apply memOk_mergeEntry | apply memOk_updPart | exact .fault | apply NextMemOk.next | apply nextMemOk_ite
    | apply memOk_each | simp only [↓memOk_mk] | apply memParts_of | intro _ | split

theorem memOk_execBestEffortFlit (a0 : Nat) (a1 : RxMark) (a2 : List Byte) (a3 : State) (h3 : memOk a3) : NextMemOk
    (execBestEffortFlit a0 a1 a2 a3) := by
  unfold execBestEffortFlit
  repeat' with_reducible first
    | assumption | apply memOk_countFec | apply memOk_updPort | apply memOk_beFlitIn | exact .fault | apply NextMemOk.next
    | apply nextMemOk_ite | simp only | intro _

theorem memOk_execGreyLaneRecord (a0 : BeHeader) (a1 : List Byte) (a2 : State) (h2 : memOk a2) : NextMemOk
    (execGreyLaneRecord a0 a1 a2) := by
  unfold execGreyLaneRecord
  repeat' with_reducible first
    | assumption | apply memOk_bePacket

theorem memOk_execPromotionFetch (a0 : BeHeader) (a1 : List Byte) (a2 : State) (h2 : memOk a2) : NextMemOk
    (execPromotionFetch a0 a1 a2) := by
  unfold execPromotionFetch
  repeat' with_reducible first
    | assumption | apply memOk_bePacket

theorem memOk_execFirmwareManagement (a0 : BeHeader) (a1 : List Byte) (a2 : State) (h2 : memOk a2) : NextMemOk
    (execFirmwareManagement a0 a1 a2) := by
  unfold execFirmwareManagement
  repeat' with_reducible first
    | assumption | apply memOk_bePacket

theorem memOk_execMarkerFlit (a0 a1 : Nat) (a2 : RxMark) (a3 : List Byte) (a4 : State) (h4 : memOk a4) : NextMemOk
    (execMarkerFlit a0 a1 a2 a3 a4) := by
  unfold execMarkerFlit
  repeat' with_reducible first
    | assumption | apply memOk_ctlFlitIn | apply memOk_syncReached | apply memOk_hearMarker | apply memOk_ite | intro _

theorem memOk_syncEvent (a0 : State) (h0 : memOk a0) : memOk (syncEvent a0) := by
  unfold syncEvent
  repeat' with_reducible first
    | assumption | apply memOk_healthEvent

theorem memOk_execMarkerHoldover (a0 : State) (h0 : memOk a0) : NextMemOk (execMarkerHoldover a0) := by
  unfold execMarkerHoldover
  repeat' with_reducible first
    | assumption | apply memOk_setF | apply memOk_setSync | apply memOk_syncEvent | apply memOk_addF | apply NextMemOk.next
    | apply nextMemOk_ite | simp only [↓memOk_mk] | apply memParts_of | intro _

theorem memOk_execMasterTakeover (a0 : State) (h0 : memOk a0) : NextMemOk (execMasterTakeover a0) := by
  unfold execMasterTakeover
  repeat' with_reducible first
    | assumption | apply memOk_syncReached | apply memOk_capChange | apply memOk_becomeMaster | apply NextMemOk.next
    | apply nextMemOk_ite | intro _ | split

theorem memOk_execFlipFlit (a0 : Nat) (a1 : RxMark) (a2 : List Byte) (a3 : State) (h3 : memOk a3) : NextMemOk
    (execFlipFlit a0 a1 a2 a3) := by
  unfold execFlipFlit
  repeat' with_reducible first
    | assumption | apply memOk_ctlArrive | apply memOk_announceFlip | intro _

theorem memOk_execResetDone (a0 : Nat) (a1 : RxMark) (a2 : List Byte) (a3 : State) (h3 : memOk a3) : NextMemOk
    (execResetDone a0 a1 a2 a3) := by
  unfold execResetDone
  repeat' with_reducible first
    | assumption | apply memOk_ctlArrive | apply memOk_reportDone | intro _

theorem memOk_execIdleInsertionMessage (a0 : Nat) (a1 : RxMark) (a2 : List Byte) (a3 : State) (h3 : memOk a3) : NextMemOk
    (execIdleInsertionMessage a0 a1 a2 a3) := by
  unfold execIdleInsertionMessage
  repeat' with_reducible first
    | assumption | apply memOk_ctlArrive | apply memOk_armIdle | apply memOk_each | intro _

theorem memOk_hearSlip (a0 : State) (a1 a2 a3 a4 a5 : Nat) (h0 : memOk a0) : memOk (hearSlip a0 a1 a2 a3 a4 a5) := by
  unfold hearSlip
  repeat' with_reducible first
    | assumption | apply memOk_updPart | apply memOk_ite | intro _

theorem memOk_execSlipFlit (a0 : Nat) (a1 : RxMark) (a2 : List Byte) (a3 : State) (h3 : memOk a3) : NextMemOk
    (execSlipFlit a0 a1 a2 a3) := by
  unfold execSlipFlit
  repeat' with_reducible first
    | assumption | apply memOk_ctlArrive | apply memOk_hearSlip | apply memOk_each | intro _

theorem memOk_execAbandonFlit (a0 : Nat) (a1 : RxMark) (a2 : List Byte) (a3 : State) (h3 : memOk a3) : NextMemOk
    (execAbandonFlit a0 a1 a2 a3) := by
  unfold execAbandonFlit
  repeat' with_reducible first
    | assumption | apply memOk_ctlArrive | apply memOk_stepEnd | apply memOk_ite | apply memOk_each | intro _ | split

theorem memOk_execManagement (a0 : Nat) (a1 : RxMark) (a2 : List Byte) (a3 : State) (h3 : memOk a3) : NextMemOk
    (execManagement a0 a1 a2 a3) := by
  unfold execManagement
  repeat' with_reducible first
    | assumption | apply memOk_ctlArrive | simp only [↓memOk_mk] | apply memParts_of | intro _

theorem memOk_execLinkPcsDown (a0 : Nat) (a1 : State) (h1 : memOk a1) : NextMemOk (execLinkPcsDown a0 a1) := by
  unfold execLinkPcsDown
  repeat' with_reducible first
    | assumption | apply memOk_markPortOut | exact .fault | apply NextMemOk.next | apply nextMemOk_ite | intro _

theorem memOk_execFuseLoad (a0 : State) (h0 : memOk a0) : NextMemOk (execFuseLoad a0) := by
  unfold execFuseLoad
  repeat' with_reducible first
    | assumption | apply memOk_enterAmber | apply memOk_loadFuses | apply NextMemOk.next | apply memOk_ite | intro _

theorem memOk_refusePeer (a0 : State) (a1 : Nat) (h0 : memOk a0) : memOk (refusePeer a0 a1) := by
  unfold refusePeer
  repeat' with_reducible first
    | assumption | apply memOk_markPortOut | apply memOk_advanceStart | apply memOk_updPort | apply memOk_ite | intro _

theorem memOk_execLinkTraining (a0 a1 : Nat) (a2 : List Nat) (a3 : Coord) (a4 : Nat) (a5 : State) (h5 : memOk a5) :
    NextMemOk (execLinkTraining a0 a1 a2 a3 a4 a5) := by
  unfold execLinkTraining
  repeat' with_reducible first
    | assumption | apply memOk_measurePort | apply memOk_refusePeer | exact .fault | apply NextMemOk.next | apply memOk_ite
    | apply nextMemOk_ite | simp only | intro _

theorem memOk_execLinkPortUp (a0 a1 : Nat) (a2 : List Nat) (a3 : Coord) (a4 : Nat) (a5 : State) (h5 : memOk a5) :
    NextMemOk (execLinkPortUp a0 a1 a2 a3 a4 a5) := by
  unfold execLinkPortUp
  repeat' with_reducible first
    | assumption | apply memOk_measurePort | apply memOk_refusePeer | apply memOk_portUp | exact .fault
    | apply NextMemOk.next | apply memOk_ite | apply nextMemOk_ite | simp only | intro _

theorem memOk_execSyncWaitEvent (a0 : State) (h0 : memOk a0) : NextMemOk (execSyncWaitEvent a0) := by
  unfold execSyncWaitEvent
  repeat' with_reducible first
    | assumption | apply memOk_healthEvent | apply NextMemOk.next | apply memOk_ite | intro _

theorem memOk_loadBulk (a0 : State) (h0 : memOk a0) : memOk (loadBulk a0) := by
  unfold loadBulk
  repeat' with_reducible first
    | assumption | apply memOk_copyCells | simp only [↓memOk_mk] | apply memParts_of | apply memParts_hbm | apply wf_mem_hbm
    | apply wf_mem_boot

theorem memOk_enterGreen (a0 : State) (h0 : memOk a0) : memOk (enterGreen a0) := by
  unfold enterGreen
  repeat' with_reducible first
    | assumption | apply memOk_capRewrite | apply memOk_defaultPartitions | apply memOk_loadBulk | apply memOk_setF
    | simp only [↓memOk_mk] | apply memParts_of | apply memParts_boot | exact wf_nil

theorem memOk_execLoadState (a0 : Bool) (a1 : State) (h1 : memOk a1) : NextMemOk (execLoadState a0 a1) := by
  unfold execLoadState
  repeat' with_reducible first
    | assumption | apply memOk_enterGreen | apply memOk_awaitImage | apply NextMemOk.next | apply memOk_ite | intro _

theorem memOk_execStartHeld (a0 : State) (h0 : memOk a0) : NextMemOk (execStartHeld a0) := by
  unfold execStartHeld
  repeat' with_reducible first
    | assumption | apply memOk_setF | apply NextMemOk.next | apply memOk_ite | simp only [↓memOk_mk] | apply memParts_of
    | intro _

theorem memOk_execMailboxLockRead (a0 a1 : Nat) (a2 : State) (h2 : memOk a2) : NextMemOk (execMailboxLockRead a0 a1 a2) :=
    by
  unfold execMailboxLockRead
  repeat' with_reducible first
    | assumption | apply memOk_mbAccess | apply memOk_lockSettle | intro _

theorem memOk_execArmSnapshot (a0 : Nat) (a1 : State) (h1 : memOk a1) : NextMemOk (execArmSnapshot a0 a1) := by
  unfold execArmSnapshot
  repeat' with_reducible first
    | assumption | apply memOk_serveMsg | apply memOk_mbAck | apply memOk_armSnapshot | apply memOk_ite
    | (apply optMemOk_elim; case' e => assumption) | intro _ | split

theorem memOk_cacheUe (a0 : State) (a1 a2 a3 : Nat) (h0 : memOk a0) : memOk (cacheUe a0 a1 a2 a3) := by
  unfold cacheUe
  repeat' with_reducible first
    | assumption | apply memOk_sramUe | simp only [↓memOk_mk] | apply memParts_of

theorem memOk_installWalk (a0 : State) (a1 a2 a3 : Nat) (a4 : Xl) (h0 : memOk a0) : memOk (installWalk a0 a1 a2 a3 a4) :=
    by
  unfold installWalk
  repeat' with_reducible first
    | assumption | apply memOk_utlbPut | apply memOk_l2Put | apply memOk_pasidPut | apply memOk_cachePut

theorem memOk_walkMiss (a0 : State) (a1 a2 a3 : Nat) (a4 : Bool) (h0 : memOk a0) : memOk (walkMiss a0 a1 a2 a3 a4) := by
  unfold walkMiss
  repeat' with_reducible first
    | assumption | apply memOk_addF | apply memOk_installWalk | apply memOk_engineGoes | apply memOk_walkFails
    | apply memOk_ite | simp only | intro _

theorem memOk_lookupMiss (a0 : State) (a1 a2 a3 : Nat) (a4 : Bool) (h0 : memOk a0) : memOk (lookupMiss a0 a1 a2 a3 a4) :=
    by
  unfold lookupMiss
  repeat' with_reducible first
    | assumption | apply memOk_touchTlb | apply memOk_engineGoes | apply memOk_addF | apply memOk_walkMiss | apply memOk_ite
    | intro _ | split

theorem memOk_execTranslationWalk (a0 : WalkRequest) (a1 : SramEcc) (a2 : State) (h2 : memOk a2) : NextMemOk
    (execTranslationWalk a0 a1 a2) := by
  unfold execTranslationWalk
  repeat' with_reducible first
    | assumption | apply memOk_cacheCe | apply memOk_cacheUe | apply memOk_lookupMiss | exact .fault | apply NextMemOk.next
    | apply nextMemOk_ite | simp only | intro _ | split

theorem memOk_acFlush (a0 : State) (h0 : memOk a0) : memOk (acFlush a0) := by
  unfold acFlush
  repeat' with_reducible first
    | assumption | apply memOk_fqPost | apply memOk_ite | simp only [↓memOk_mk] | apply memParts_of | intro _ | split

theorem memOk_execFaultRecordWrite (a0 : State) (h0 : memOk a0) : NextMemOk (execFaultRecordWrite a0) := by
  unfold execFaultRecordWrite
  repeat' with_reducible first
    | assumption | apply memOk_acFlush | apply memOk_fqWrite | apply NextMemOk.next | apply nextMemOk_ite | simp only [↓memOk_mk]
    | apply memParts_of | intro _ | split

theorem memOk_execMirrorDone (a0 : State) (h0 : memOk a0) : NextMemOk (execMirrorDone a0) := by
  unfold execMirrorDone
  repeat' with_reducible first
    | assumption | apply memOk_setF | apply NextMemOk.next | simp only [↓memOk_mk] | apply memParts_of | apply memParts_hbm
    | apply wf_wrBytes | apply wf_mem_hbm | split

theorem memOk_execInvalidationComplete (a0 : State) (h0 : memOk a0) : NextMemOk (execInvalidationComplete a0) := by
  unfold execInvalidationComplete
  repeat' with_reducible first
    | assumption | apply memOk_invBegin | apply memOk_setF | apply NextMemOk.next | apply nextMemOk_ite | simp only [↓memOk_mk]
    | apply memParts_of | intro _ | split

theorem memOk_halveAll (a0 : State) (a1 : Fld) (h0 : memOk a0) : memOk (halveAll a0 a1) := by
  unfold halveAll
  repeat' with_reducible first
    | assumption | apply memOk_setF | apply memOk_iter | intro _

theorem memOk_execCeCounterHalving (a0 : State) (h0 : memOk a0) : NextMemOk (execCeCounterHalving a0) := by
  unfold execCeCounterHalving
  repeat' with_reducible first
    | assumption | apply memOk_halveAll | apply NextMemOk.next | apply nextMemOk_ite | simp only [↓memOk_mk] | apply memParts_of
    | intro _

theorem memOk_execDigestDone (a0 : State) (h0 : memOk a0) : NextMemOk (execDigestDone a0) := by
  unfold execDigestDone
  repeat' with_reducible first
    | assumption | apply memOk_dropRefs | apply memOk_telemAdd | apply memOk_putDigest | apply memOk_setF
    | apply NextMemOk.next | apply memOk_ite | simp only [↓memOk_mk] | apply memParts_of | intro _ | split

theorem memOk_execReadinessDeadline (a0 : Nat) (a1 : State) (h1 : memOk a1) : NextMemOk (execReadinessDeadline a0 a1) :=
    by
  unfold execReadinessDeadline
  repeat' with_reducible first
    | assumption | apply memOk_judgeGroup | exact .fault | apply NextMemOk.next | apply nextMemOk_ite | apply memOk_each
    | simp only | intro _

theorem memOk_dropAll (a0 : State) (a1 : Nat) (h0 : memOk a0) : memOk (dropAll a0 a1) := by
  unfold dropAll
  repeat' with_reducible first
    | assumption | apply memOk_releaseObj | apply memOk_putFence | apply memOk_each | simp only [↓memOk_mk] | apply memParts_of
    | intro _

theorem memOk_finishForced (a0 : State) (a1 : Nat) (h0 : memOk a0) : memOk (finishForced a0 a1) := by
  unfold finishForced
  repeat' with_reducible first
    | assumption | apply memOk_freeContext | apply memOk_dropAll | apply memOk_each | intro _

theorem memOk_execPartitionResetDone (a0 : Nat) (a1 : State) (h1 : memOk a1) : NextMemOk (execPartitionResetDone a0 a1) :=
    by
  unfold execPartitionResetDone
  repeat' with_reducible first
    | assumption | apply memOk_finishForced | apply memOk_updPart | exact .fault | apply NextMemOk.next | apply nextMemOk_ite
    | intro _ | split

theorem memOk_execPoweredDownDomainAccess (a0 : Nat) (a1 : Bool) (a2 : State) (h2 : memOk a2) : NextMemOk
    (execPoweredDownDomainAccess a0 a1 a2) := by
  unfold execPoweredDownDomainAccess
  repeat' with_reducible first
    | assumption | apply memOk_unpowered | apply NextMemOk.next | apply memOk_ite | intro _

theorem memOk_goneOn (a0 : State) (a1 : Nat) (a2 : Core) (a3 : Nat) (h0 : memOk a0) (h2 : coreMemOk a2) : memOk (goneOn a0
    a1 a2 a3) := by
  unfold goneOn
  repeat' with_reducible first
    | assumption | apply memOk_putCore | simp only [↓coreMemOk_mk] | apply coreMemParts_mk | apply coreMemOk_weight | apply coreMemOk_act
    | apply coreMemOk_acc | apply coreMemOk_prog | apply coreMemOk_planeA | apply coreMemOk_shadowA | apply coreMemOk_planeB | apply coreMemOk_shadowB

theorem memOk_begun (a0 : State) (h0 : memOk a0) : memOk (begun a0) := by
  unfold begun
  repeat' with_reducible first
    | assumption | simp only [↓memOk_mk] | apply memParts_of

theorem memOk_sketchTick (a0 : State) (h0 : memOk a0) : memOk (sketchTick a0) := by
  unfold sketchTick
  repeat' with_reducible first
    | assumption | apply memOk_setF | apply memOk_ite | simp only [↓memOk_mk] | apply memParts_of | intro _

theorem memOk_beginTick (a0 : State) (h0 : memOk a0) : memOk (beginTick a0) := by
  unfold beginTick
  repeat' with_reducible first
    | assumption | apply memOk_refreshOver | apply memOk_sketchTick | apply memOk_reacquireDue | apply memOk_partBegin
    | apply memOk_each | intro _

theorem memOk_setLane (a0 : Core) (a1 a2 : Nat) (a3 : BitVec 32) (h0 : coreMemOk a0) : coreMemOk (setLane a0 a1 a2 a3) := by
  unfold setLane
  repeat' with_reducible first
    | assumption | simp only [↓coreMemOk_mk] | apply coreMemParts_mk | apply coreMemOk_weight | apply coreMemOk_act | apply coreMemOk_acc
    | apply coreMemOk_prog | apply coreMemOk_planeA | apply coreMemOk_shadowA | apply coreMemOk_planeB | apply coreMemOk_shadowB

theorem memOk_fetchCheck (a0 : State) (a1 : Nat) (h0 : memOk a0) : memOk (fetchCheck a0 a1) := by
  unfold fetchCheck
  repeat' with_reducible first
    | assumption | apply memOk_programFault | apply memOk_ite | intro _

theorem memOk_partEnd (a0 : State) (a1 : Nat) (h0 : memOk a0) : memOk (partEnd a0 a1) := by
  unfold partEnd
  repeat' with_reducible first
    | assumption | apply memOk_readyPass | apply memOk_missPass | apply memOk_sendPass | apply memOk_after
    | apply memOk_execGroupClaim | apply memOk_execReadinessDeadline | apply memOk_execLinkLossEffectiveTick
    | apply memOk_execSliceEnd | apply memOk_refreshReady

theorem memOk_endTick (a0 : State) (h0 : memOk a0) : memOk (endTick a0) := by
  unfold endTick
  repeat' with_reducible first
    | assumption | apply memOk_partEnd | apply memOk_fetchCheck | apply memOk_slotPass | apply memOk_each | apply memOk_iter
    | simp only [↓memOk_mk] | apply memParts_of | intro _

theorem memOk_blockEdge (a0 : State) (h0 : memOk a0) : memOk (blockEdge a0) := by
  unfold blockEdge
  repeat' with_reducible first
    | assumption | apply memOk_fireBefore | apply memOk_beginTick | apply memOk_aclkEdge | apply memOk_endTick
    | apply memOk_ite | intro _

/-- A command keeps every memory in its canonical form. -/

theorem memOk_exec (i : Instr) (s : State) (h : memOk s) : NextMemOk (exec i s) := by
  cases i with
  | coldReset => exact memOk_execColdReset _ h
  | coldResetRelease _ _ => exact memOk_execColdResetRelease _ _ _ h
  | warmReset => exact memOk_execWarmReset _ h
  | warmResetShort => exact memOk_execWarmResetShort _ h
  | warmResetRelease => exact memOk_execWarmResetRelease _ h
  | clockLoss => exact memOk_execClockLoss _ h
  | powerBudgetCapture _ => exact memOk_execPowerBudgetCapture _ _ h
  | pwrStateRun => exact memOk_execPwrStateRun _ h
  | pwrStateHold => exact memOk_execPwrStateHold _ h
  | pwrStatePrepareOff => exact memOk_execPwrStatePrepareOff _ h
  | prepareOffDone => exact memOk_execPrepareOffDone _ h
  | pwrStateOff => exact memOk_execPwrStateOff _ h
  | powerRemoved => exact memOk_execPowerRemoved _ h
  | thermalAlarm => exact memOk_execThermalAlarm _ h
  | thermalReaise => exact memOk_execThermalReaise _ h
  | thermalRelease => exact memOk_execThermalRelease _ h
  | tpulseEdge _ _ => exact memOk_execTpulseEdge _ _ _ h
  | tpulseHoldover => exact memOk_execTpulseHoldover _ h
  | functionLevelReset _ => exact memOk_execFunctionLevelReset _ _ h
  | functionResetComplete _ => exact memOk_execFunctionResetComplete _ _ h
  | functionResetBound _ => exact memOk_execFunctionResetBound _ _ h
  | atsInvalidate _ _ _ => exact memOk_execAtsInvalidate _ _ _ _ h
  | atsInvalidateDone => exact memOk_execAtsInvalidateDone _ h
  | atsCompletion _ => exact memOk_execAtsCompletion _ _ h
  | priResponse _ _ => exact memOk_execPriResponse _ _ _ h
  | registerWrite _ _ _ _ => exact memOk_execRegisterWrite _ _ _ _ _ h
  | counterRead _ _ _ => exact memOk_execCounterRead _ _ _ _ h
  | doorbellSqTail _ _ _ _ => exact memOk_execDoorbellSqTail _ _ _ _ _ h
  | doorbellCq _ _ _ _ => exact memOk_execDoorbellCq _ _ _ _ _ h
  | doorbellEq _ _ _ _ => exact memOk_execDoorbellEq _ _ _ _ _ h
  | admqTailWrite _ => exact memOk_execAdmqTailWrite _ _ h
  | admcqHeadWrite _ => exact memOk_execAdmcqHeadWrite _ _ h
  | admeqHeadWrite _ => exact memOk_execAdmeqHeadWrite _ _ h
  | descriptorFetch _ => exact memOk_execDescriptorFetch _ _ h
  | dispatch _ => exact memOk_execDispatch _ _ h
  | commandRetire _ _ => exact memOk_execCommandRetire _ _ _ h
  | queueTimeoutCheck => exact memOk_execQueueTimeoutCheck _ h
  | msixModerationExpire _ => exact memOk_execMsixModerationExpire _ _ h
  | nop _ => exact memOk_execNop _ _ h
  | copy _ => exact memOk_execCopy _ _ h
  | fill _ => exact memOk_execFill _ _ h
  | execBuffer _ => exact memOk_execExecBuffer _ _ h
  | launchStep _ => exact memOk_execLaunchStep _ _ h
  | createObject _ => exact memOk_execCreateObject _ _ h
  | freeObject _ => exact memOk_execFreeObject _ _ h
  | objectRelease _ => exact memOk_execObjectRelease _ _ h
  | createFence _ => exact memOk_execCreateFence _ _ h
  | destroyFence _ => exact memOk_execDestroyFence _ _ h
  | fenceFree _ => exact memOk_execFenceFree _ _ h
  | queryCapabilities _ => exact memOk_execQueryCapabilities _ _ h
  | loadProgram _ => exact memOk_execLoadProgram _ _ h
  | unloadProgram _ => exact memOk_execUnloadProgram _ _ h
  | grantArena _ => exact memOk_execGrantArena _ _ h
  | revokeArena _ => exact memOk_execRevokeArena _ _ h
  | bindTable _ => exact memOk_execBindTable _ _ h
  | unbindTable _ => exact memOk_execUnbindTable _ _ h
  | loadCodebook _ => exact memOk_execLoadCodebook _ _ h
  | update _ => exact memOk_execUpdate _ _ h
  | bindStream _ => exact memOk_execBindStream _ _ h
  | unbindStream _ => exact memOk_execUnbindStream _ _ h
  | sealEpoch _ => exact memOk_execSeal _ _ h
  | sealComplete _ => exact memOk_execSealComplete _ _ h
  | flip _ => exact memOk_execFlip _ _ h
  | readTick _ => exact memOk_execReadTick _ _ h
  | readSnapshot _ => exact memOk_execReadSnapshot _ _ h
  | createContext _ => exact memOk_execCreateContext _ _ h
  | destroyContext _ => exact memOk_execDestroyContext _ _ h
  | destroyComplete _ => exact memOk_execDestroyComplete _ _ h
  | destroyWatchdog _ => exact memOk_execDestroyWatchdog _ _ h
  | partitionResetOverrun _ => exact memOk_execPartitionResetOverrun _ _ h
  | createPartition _ => exact memOk_execCreatePartition _ _ h
  | resizePartition _ => exact memOk_execResizePartition _ _ h
  | destroyPartition _ => exact memOk_execDestroyPartition _ _ h
  | loadGroup _ => exact memOk_execLoadGroup _ _ h
  | unloadGroup _ => exact memOk_execUnloadGroup _ _ h
  | setContextSched _ => exact memOk_execSetContextSched _ _ h
  | setCalibration _ => exact memOk_execSetCalibration _ _ h
  | readAccounting _ => exact memOk_execReadAccounting _ _ h
  | grantPages _ => exact memOk_execGrantPages _ _ h
  | revokePages _ => exact memOk_execRevokePages _ _ h
  | resetInstance _ => exact memOk_execResetInstance _ _ h
  | replayHoldingRing _ => exact memOk_execReplayHoldingRing _ _ h
  | setQueue _ => exact memOk_execSetQueue _ _ h
  | partitionStepBoundary _ => exact memOk_execPartitionStepBoundary _ _ h
  | stepLaunch _ => exact memOk_execStepLaunch _ _ h
  | timedPointMiss _ _ => exact memOk_execTimedPointMiss _ _ _ h
  | slip _ => exact memOk_execSlip _ _ h
  | idleInsertion _ => exact memOk_execIdleInsertion _ _ h
  | tealFlip _ => exact memOk_execTealFlip _ _ h
  | snapshotLatch => exact memOk_execSnapshotLatch _ h
  | domainResetFire => exact memOk_execDomainResetFire _ h
  | domainResetLocalDone => exact memOk_execDomainResetLocalDone _ h
  | domainResetDeadline => exact memOk_execDomainResetDeadline _ h
  | sliceEnd _ => exact memOk_execSliceEnd _ _ h
  | stepSuspend _ => exact memOk_execStepSuspend _ _ h
  | groupClaim _ => exact memOk_execGroupClaim _ _ h
  | controlNop _ _ => exact memOk_execControlNop _ _ _ h
  | li _ _ _ _ => exact memOk_execLi _ _ _ _ _ h
  | addi _ _ _ _ _ => exact memOk_execAddi _ _ _ _ _ _ h
  | add _ _ _ _ _ => exact memOk_execAdd _ _ _ _ _ _ h
  | sub _ _ _ _ _ => exact memOk_execSub _ _ _ _ _ _ h
  | cmp _ _ _ _ => exact memOk_execCmp _ _ _ _ _ h
  | br _ _ _ _ => exact memOk_execBr _ _ _ _ _ h
  | loop _ _ _ _ => exact memOk_execLoop _ _ _ _ _ h
  | sync _ _ => exact memOk_execSync _ _ _ h
  | twait _ _ _ => exact memOk_execTwait _ _ _ _ h
  | rdtick _ _ _ => exact memOk_execRdtick _ _ _ _ h
  | halt _ _ => exact memOk_execHalt _ _ _ h
  | tileMatrix _ _ _ _ => exact memOk_execTileMatrix _ _ _ _ _ h
  | tileL1 _ _ _ _ => exact memOk_execTileL1 _ _ _ _ _ h
  | tileL2 _ _ _ _ => exact memOk_execTileL2 _ _ _ _ _ h
  | tileDot _ _ _ _ => exact memOk_execTileDot _ _ _ _ _ h
  | tileHamming _ _ _ _ => exact memOk_execTileHamming _ _ _ _ _ h
  | tileMaxPlus _ _ _ _ => exact memOk_execTileMaxPlus _ _ _ _ _ h
  | tileMinPlus _ _ _ _ => exact memOk_execTileMinPlus _ _ _ _ _ h
  | tileConvolution _ _ _ _ => exact memOk_execTileConvolution _ _ _ _ _ h
  | tileEq _ _ _ _ => exact memOk_execTileEq _ _ _ _ _ h
  | tileNe _ _ _ _ => exact memOk_execTileNe _ _ _ _ _ h
  | tileLt _ _ _ _ => exact memOk_execTileLt _ _ _ _ _ h
  | tileLe _ _ _ _ => exact memOk_execTileLe _ _ _ _ _ h
  | tileGt _ _ _ _ => exact memOk_execTileGt _ _ _ _ _ h
  | tileGe _ _ _ _ => exact memOk_execTileGe _ _ _ _ _ h
  | tileComplete _ => exact memOk_execTileComplete _ _ h
  | selectBegin _ _ _ => exact memOk_execSelectBegin _ _ _ _ h
  | selectEnd _ _ _ _ _ _ _ => exact memOk_execSelectEnd _ _ _ _ _ _ _ _ h
  | merge _ _ _ _ _ => exact memOk_execMerge _ _ _ _ _ _ h
  | vld _ _ _ _ => exact memOk_execVld _ _ _ _ _ h
  | vst _ _ _ => exact memOk_execVst _ _ _ _ h
  | vimm _ _ _ => exact memOk_execVimm _ _ _ _ h
  | vidx _ _ _ => exact memOk_execVidx _ _ _ _ h
  | fadd _ _ _ => exact memOk_execFadd _ _ _ _ h
  | fsub _ _ _ => exact memOk_execFsub _ _ _ _ h
  | fmul _ _ _ => exact memOk_execFmul _ _ _ _ h
  | ffma _ _ _ => exact memOk_execFfma _ _ _ _ h
  | fmax _ _ _ => exact memOk_execFmax _ _ _ _ h
  | fmin _ _ _ => exact memOk_execFmin _ _ _ _ h
  | fabs _ _ _ => exact memOk_execFabs _ _ _ _ h
  | fneg _ _ _ => exact memOk_execFneg _ _ _ _ h
  | frelu _ _ _ => exact memOk_execFrelu _ _ _ _ h
  | fsel _ _ _ => exact memOk_execFsel _ _ _ _ h
  | flt _ _ _ => exact memOk_execFlt _ _ _ _ h
  | feq _ _ _ => exact memOk_execFeq _ _ _ _ h
  | fmuls _ _ _ => exact memOk_execFmuls _ _ _ _ h
  | fadds _ _ _ => exact memOk_execFadds _ _ _ _ h
  | fexp2 _ _ _ => exact memOk_execFexp2 _ _ _ _ h
  | flog2 _ _ _ => exact memOk_execFlog2 _ _ _ _ h
  | frecip _ _ _ => exact memOk_execFrecip _ _ _ _ h
  | frsqrt _ _ _ => exact memOk_execFrsqrt _ _ _ _ h
  | fexp _ _ _ => exact memOk_execFexp _ _ _ _ h
  | fsigmoid _ _ _ => exact memOk_execFsigmoid _ _ _ _ h
  | ftanh _ _ _ => exact memOk_execFtanh _ _ _ _ h
  | fsum _ _ _ => exact memOk_execFsum _ _ _ _ h
  | fmaxr _ _ _ => exact memOk_execFmaxr _ _ _ _ h
  | fminr _ _ _ => exact memOk_execFminr _ _ _ _ h
  | iadd _ _ _ => exact memOk_execIadd _ _ _ _ h
  | isub _ _ _ => exact memOk_execIsub _ _ _ _ h
  | imul _ _ _ => exact memOk_execImul _ _ _ _ h
  | imax _ _ _ => exact memOk_execImax _ _ _ _ h
  | imin _ _ _ => exact memOk_execImin _ _ _ _ h
  | ishl _ _ _ => exact memOk_execIshl _ _ _ _ h
  | ishr _ _ _ => exact memOk_execIshr _ _ _ _ h
  | cvtif _ _ _ => exact memOk_execCvtif _ _ _ _ h
  | cvtfi _ _ _ => exact memOk_execCvtfi _ _ _ _ h
  | mxst _ _ _ => exact memOk_execMxst _ _ _ _ h
  | localMove _ _ _ _ => exact memOk_execLocalMove _ _ _ _ _ h
  | tsend _ _ _ _ _ _ => exact memOk_execTsend _ _ _ _ _ _ _ h
  | rarm _ _ _ => exact memOk_execRarm _ _ _ _ h
  | rwait _ _ _ => exact memOk_execRwait _ _ _ _ h
  | alloc _ _ _ _ _ => exact memOk_execAlloc _ _ _ _ _ _ h
  | free _ _ _ => exact memOk_execFree _ _ _ _ h
  | slabServe => exact memOk_execSlabServe _ h
  | fsig _ _ _ _ => exact memOk_execFsig _ _ _ _ _ h
  | fwait _ _ _ _ _ => exact memOk_execFwait _ _ _ _ _ _ h
  | yield _ _ => exact memOk_execYield _ _ _ h
  | lateFeatureTest _ _ _ _ _ _ => exact memOk_execLateFeatureTest _ _ _ _ _ _ _ h
  | timedSend _ _ _ => exact memOk_execTimedSend _ _ _ _ h
  | deliveryLanded _ _ => exact memOk_execDeliveryLanded _ _ _ h
  | featureReady _ _ => exact memOk_execFeatureReady _ _ _ h
  | lookupId _ _ _ _ _ => exact memOk_execLookupId _ _ _ _ _ _ h
  | promotionCopyDone _ _ => exact memOk_execPromotionCopyDone _ _ _ h
  | sketchHalving => exact memOk_execSketchHalving _ h
  | sketchClear => exact memOk_execSketchClear _ h
  | crimsonQuotaWrite _ _ => exact memOk_execCrimsonQuotaWrite _ _ _ h
  | exchangeServe _ _ _ _ => exact memOk_execExchangeServe _ _ _ _ _ h
  | carryAreaFinal _ => exact memOk_execCarryAreaFinal _ _ h
  | twinCatchupDone _ => exact memOk_execTwinCatchupDone _ _ h
  | deltaMergePassEnd _ => exact memOk_execDeltaMergePassEnd _ _ h
  | timedFlit _ _ _ => exact memOk_execTimedFlit _ _ _ _ h
  | bestEffortFlit _ _ _ => exact memOk_execBestEffortFlit _ _ _ _ h
  | beRetryTimeout _ => exact memOk_execBeRetryTimeout _ _ h
  | bePacketTimeout _ => exact memOk_execBePacketTimeout _ _ h
  | updateStreamPacket _ _ => exact memOk_execUpdateStreamPacket _ _ _ h
  | greyLaneRecord _ _ => exact memOk_execGreyLaneRecord _ _ _ h
  | greyLaneReturn _ _ => exact memOk_execGreyLaneReturn _ _ _ h
  | promotionFetch _ _ => exact memOk_execPromotionFetch _ _ _ h
  | promotionData _ _ => exact memOk_execPromotionData _ _ _ h
  | firmwareManagement _ _ => exact memOk_execFirmwareManagement _ _ _ h
  | markerFlit _ _ _ _ => exact memOk_execMarkerFlit _ _ _ _ _ h
  | syncMarkerSend => exact memOk_execSyncMarkerSend _ h
  | markerHoldover => exact memOk_execMarkerHoldover _ h
  | unaligned => exact memOk_execUnaligned _ h
  | masterTakeover => exact memOk_execMasterTakeover _ h
  | flipFlit _ _ _ => exact memOk_execFlipFlit _ _ _ _ h
  | snapshotAnnouncement _ _ _ => exact memOk_execSnapshotAnnouncement _ _ _ _ h
  | resetFlit _ _ _ => exact memOk_execResetFlit _ _ _ _ h
  | resetDone _ _ _ => exact memOk_execResetDone _ _ _ _ h
  | idleInsertionMessage _ _ _ => exact memOk_execIdleInsertionMessage _ _ _ _ h
  | slipFlit _ _ _ => exact memOk_execSlipFlit _ _ _ _ h
  | linkLossNotice _ _ _ => exact memOk_execLinkLossNotice _ _ _ _ h
  | abandonFlit _ _ _ => exact memOk_execAbandonFlit _ _ _ _ h
  | management _ _ _ => exact memOk_execManagement _ _ _ _ h
  | linkPcsDown _ => exact memOk_execLinkPcsDown _ _ h
  | stackReadBeat _ _ _ _ => exact memOk_execStackReadBeat _ _ _ _ _ h
  | stackReadTimeout _ => exact memOk_execStackReadTimeout _ _ h
  | refreshWindow _ _ => exact memOk_execRefreshWindow _ _ _ h
  | spRefUrgent _ _ _ => exact memOk_execSpRefUrgent _ _ _ _ h
  | fuseLoad => exact memOk_execFuseLoad _ h
  | flashRead _ => exact memOk_execFlashRead _ _ h
  | verify => exact memOk_execVerify _ h
  | firmwareStart => exact memOk_execFirmwareStart _ h
  | hbmTrainDone _ _ => exact memOk_execHbmTrainDone _ _ _ h
  | hbmTrainFail _ => exact memOk_execHbmTrainFail _ _ h
  | bistAndRepair _ => exact memOk_execBistAndRepair _ _ h
  | linkTraining _ _ _ _ _ => exact memOk_execLinkTraining _ _ _ _ _ _ h
  | linkPortUp _ _ _ _ _ => exact memOk_execLinkPortUp _ _ _ _ _ _ h
  | linkRetry => exact memOk_execLinkRetry _ h
  | syncWaitEvent => exact memOk_execSyncWaitEvent _ h
  | loadState _ => exact memOk_execLoadState _ _ h
  | startStateLimit => exact memOk_execStartStateLimit _ h
  | startHeld => exact memOk_execStartHeld _ h
  | capabilityRewriteDone => exact memOk_execCapabilityRewriteDone _ h
  | cpHoldSet _ => exact memOk_execCpHoldSet _ _ h
  | cpHoldClear _ => exact memOk_execCpHoldClear _ _ h
  | watchdogKick _ => exact memOk_execWatchdogKick _ _ h
  | watchdogExpire _ => exact memOk_execWatchdogExpire _ _ h
  | firmwareAccess _ _ _ => exact memOk_execFirmwareAccess _ _ _ _ h
  | flashCommandRelease => exact memOk_execFlashCommandRelease _ h
  | mailboxLockRead _ _ => exact memOk_execMailboxLockRead _ _ _ h
  | mailboxRelease _ _ => exact memOk_execMailboxRelease _ _ _ h
  | mailboxRing _ _ => exact memOk_execMailboxRing _ _ _ h
  | mailboxAck _ _ _ => exact memOk_execMailboxAck _ _ _ _ h
  | mailboxUnpowered _ _ => exact memOk_execMailboxUnpowered _ _ _ h
  | getStatus _ => exact memOk_execGetStatus _ _ h
  | pushBundle _ => exact memOk_execPushBundle _ _ h
  | flashUpdate _ _ => exact memOk_execFlashUpdate _ _ _ h
  | retrainPort _ _ _ _ => exact memOk_execRetrainPort _ _ _ _ _ h
  | domainReset _ => exact memOk_execDomainReset _ _ h
  | armSnapshot _ => exact memOk_execArmSnapshot _ _ h
  | addSoftRepair _ => exact memOk_execAddSoftRepair _ _ h
  | commandUnknown _ => exact memOk_execCommandUnknown _ _ h
  | snapshotArm => exact memOk_execSnapshotArm _ h
  | domainResetArm => exact memOk_execDomainResetArm _ h
  | nocOwnershipWrite _ _ => exact memOk_execNocOwnershipWrite _ _ _ h
  | slotOwnershipWrite _ _ _ => exact memOk_execSlotOwnershipWrite _ _ _ _ h
  | translationWalk _ _ => exact memOk_execTranslationWalk _ _ _ h
  | pageRequestResponse _ => exact memOk_execPageRequestResponse _ _ h
  | faultRecordWrite => exact memOk_execFaultRecordWrite _ h
  | accessCounterDecay => exact memOk_execAccessCounterDecay _ h
  | acClear _ => exact memOk_execAcClear _ _ h
  | acClearAll => exact memOk_execAcClearAll _ h
  | mirrorGo => exact memOk_execMirrorGo _ h
  | mirrorDone => exact memOk_execMirrorDone _ h
  | invalidateAll => exact memOk_execInvalidateAll _ h
  | invalidatePasid _ => exact memOk_execInvalidatePasid _ _ h
  | invalidatePasidRange _ => exact memOk_execInvalidatePasidRange _ _ h
  | invalidateDomain _ => exact memOk_execInvalidateDomain _ _ h
  | invalidateDomainRange _ => exact memOk_execInvalidateDomainRange _ _ h
  | invalidatePasidEntry _ => exact memOk_execInvalidatePasidEntry _ _ h
  | invalidationComplete => exact memOk_execInvalidationComplete _ h
  | forerunnerModeSet _ => exact memOk_execForerunnerModeSet _ _ h
  | translationRegionSet _ => exact memOk_execTranslationRegionSet _ _ h
  | keySlotLoad _ => exact memOk_execKeySlotLoad _ _ h
  | keySlotClear _ => exact memOk_execKeySlotClear _ _ h
  | keySlotEffect => exact memOk_execKeySlotEffect _ h
  | ceCounterHalving => exact memOk_execCeCounterHalving _ h
  | ashTest _ _ => exact memOk_execAshTest _ _ _ h
  | ashTestResult _ _ _ => exact memOk_execAshTestResult _ _ _ _ h
  | ashWatchSet _ => exact memOk_execAshWatchSet _ _ h
  | ashWatchClear _ => exact memOk_execAshWatchClear _ _ h
  | unitMarkOut _ => exact memOk_execUnitMarkOut _ _ h
  | digestGo => exact memOk_execDigestGo _ h
  | digestDone => exact memOk_execDigestDone _ h
  | powerWindow _ => exact memOk_execPowerWindow _ _ h
  | linkLossEffectiveTick _ => exact memOk_execLinkLossEffectiveTick _ _ h
  | readinessDeadline _ => exact memOk_execReadinessDeadline _ _ h
  | partitionResetDone _ => exact memOk_execPartitionResetDone _ _ h
  | wrapperInstructionUpdate _ => exact memOk_execWrapperInstructionUpdate _ _ h
  | poweredDownDomainAccess _ _ => exact memOk_execPoweredDownDomainAccess _ _ _ h

end Sys2Proof.Machine
end

