-- ==== Sys2Proof/Laws/PerInstr.lean ====
section
/-! SUPPORT. Laws over the commands as syntax, one lemma for each constructor. -/

namespace Sys2Proof.Laws.Fits

open Sys2Proof Sys2Proof.Machine

/-- R159: the word of a core instruction has 128 bits. -/
def Statement (i : Instr) : Prop := ∀ w, encodeCore i = some w → w < 2 ^ 128

/-- A command that is no core instruction has no word. -/
theorem of_none {i : Instr} (h : encodeCore i = none) : Statement i := fun w hw => by rw [h] at hw; cases hw

/-- A packed word of at most 128 bits. -/
theorem of_pack {i : Instr} {l : List (Nat × Nat)} (h : encodeCore i = some (pack l)) (hl : (l.map (·.1)).sum ≤ 128) : Statement i := by
  intro w hw
  rw [h] at hw
  cases hw
  exact Nat.lt_of_lt_of_le (pack_lt l) (Nat.pow_le_pow_right (by decide) hl)

theorem coldReset : Statement (.coldReset) := of_none rfl
theorem coldResetRelease : ∀ a0 a1, Statement (.coldResetRelease a0 a1) := fun _ _ => of_none rfl
theorem warmReset : Statement (.warmReset) := of_none rfl
theorem warmResetShort : Statement (.warmResetShort) := of_none rfl
theorem warmResetRelease : Statement (.warmResetRelease) := of_none rfl
theorem clockLoss : Statement (.clockLoss) := of_none rfl
theorem powerBudgetCapture : ∀ a0, Statement (.powerBudgetCapture a0) := fun _ => of_none rfl
theorem pwrStateRun : Statement (.pwrStateRun) := of_none rfl
theorem pwrStateHold : Statement (.pwrStateHold) := of_none rfl
theorem pwrStatePrepareOff : Statement (.pwrStatePrepareOff) := of_none rfl
theorem prepareOffDone : Statement (.prepareOffDone) := of_none rfl
theorem pwrStateOff : Statement (.pwrStateOff) := of_none rfl
theorem powerRemoved : Statement (.powerRemoved) := of_none rfl
theorem thermalAlarm : Statement (.thermalAlarm) := of_none rfl
theorem thermalReaise : Statement (.thermalReaise) := of_none rfl
theorem thermalRelease : Statement (.thermalRelease) := of_none rfl
theorem tpulseEdge : ∀ a0 a1, Statement (.tpulseEdge a0 a1) := fun _ _ => of_none rfl
theorem tpulseHoldover : Statement (.tpulseHoldover) := of_none rfl
theorem functionLevelReset : ∀ a0, Statement (.functionLevelReset a0) := fun _ => of_none rfl
theorem functionResetComplete : ∀ a0, Statement (.functionResetComplete a0) := fun _ => of_none rfl
theorem functionResetBound : ∀ a0, Statement (.functionResetBound a0) := fun _ => of_none rfl
theorem atsInvalidate : ∀ a0 a1 a2, Statement (.atsInvalidate a0 a1 a2) := fun _ _ _ => of_none rfl
theorem atsInvalidateDone : Statement (.atsInvalidateDone) := of_none rfl
theorem atsCompletion : ∀ a0, Statement (.atsCompletion a0) := fun _ => of_none rfl
theorem priResponse : ∀ a0 a1, Statement (.priResponse a0 a1) := fun _ _ => of_none rfl
theorem registerWrite : ∀ a0 a1 a2 a3, Statement (.registerWrite a0 a1 a2 a3) := fun _ _ _ _ => of_none rfl
theorem counterRead : ∀ a0 a1 a2, Statement (.counterRead a0 a1 a2) := fun _ _ _ => of_none rfl
theorem doorbellSqTail : ∀ a0 a1 a2 a3, Statement (.doorbellSqTail a0 a1 a2 a3) := fun _ _ _ _ => of_none rfl
theorem doorbellCq : ∀ a0 a1 a2 a3, Statement (.doorbellCq a0 a1 a2 a3) := fun _ _ _ _ => of_none rfl
theorem doorbellEq : ∀ a0 a1 a2 a3, Statement (.doorbellEq a0 a1 a2 a3) := fun _ _ _ _ => of_none rfl
theorem admqTailWrite : ∀ a0, Statement (.admqTailWrite a0) := fun _ => of_none rfl
theorem admcqHeadWrite : ∀ a0, Statement (.admcqHeadWrite a0) := fun _ => of_none rfl
theorem admeqHeadWrite : ∀ a0, Statement (.admeqHeadWrite a0) := fun _ => of_none rfl
theorem descriptorFetch : ∀ a0, Statement (.descriptorFetch a0) := fun _ => of_none rfl
theorem dispatch : ∀ a0, Statement (.dispatch a0) := fun _ => of_none rfl
theorem commandRetire : ∀ a0 a1, Statement (.commandRetire a0 a1) := fun _ _ => of_none rfl
theorem queueTimeoutCheck : Statement (.queueTimeoutCheck) := of_none rfl
theorem msixModerationExpire : ∀ a0, Statement (.msixModerationExpire a0) := fun _ => of_none rfl
theorem nop : ∀ a0, Statement (.nop a0) := fun _ => of_none rfl
theorem copy : ∀ a0, Statement (.copy a0) := fun _ => of_none rfl
theorem fill : ∀ a0, Statement (.fill a0) := fun _ => of_none rfl
theorem execBuffer : ∀ a0, Statement (.execBuffer a0) := fun _ => of_none rfl
theorem launchStep : ∀ a0, Statement (.launchStep a0) := fun _ => of_none rfl
theorem createObject : ∀ a0, Statement (.createObject a0) := fun _ => of_none rfl
theorem freeObject : ∀ a0, Statement (.freeObject a0) := fun _ => of_none rfl
theorem objectRelease : ∀ a0, Statement (.objectRelease a0) := fun _ => of_none rfl
theorem createFence : ∀ a0, Statement (.createFence a0) := fun _ => of_none rfl
theorem destroyFence : ∀ a0, Statement (.destroyFence a0) := fun _ => of_none rfl
theorem fenceFree : ∀ a0, Statement (.fenceFree a0) := fun _ => of_none rfl
theorem queryCapabilities : ∀ a0, Statement (.queryCapabilities a0) := fun _ => of_none rfl
theorem loadProgram : ∀ a0, Statement (.loadProgram a0) := fun _ => of_none rfl
theorem unloadProgram : ∀ a0, Statement (.unloadProgram a0) := fun _ => of_none rfl
theorem grantArena : ∀ a0, Statement (.grantArena a0) := fun _ => of_none rfl
theorem revokeArena : ∀ a0, Statement (.revokeArena a0) := fun _ => of_none rfl
theorem bindTable : ∀ a0, Statement (.bindTable a0) := fun _ => of_none rfl
theorem unbindTable : ∀ a0, Statement (.unbindTable a0) := fun _ => of_none rfl
theorem loadCodebook : ∀ a0, Statement (.loadCodebook a0) := fun _ => of_none rfl
theorem update : ∀ a0, Statement (.update a0) := fun _ => of_none rfl
theorem bindStream : ∀ a0, Statement (.bindStream a0) := fun _ => of_none rfl
theorem unbindStream : ∀ a0, Statement (.unbindStream a0) := fun _ => of_none rfl
theorem sealEpoch : ∀ a0, Statement (.sealEpoch a0) := fun _ => of_none rfl
theorem sealComplete : ∀ a0, Statement (.sealComplete a0) := fun _ => of_none rfl
theorem flip : ∀ a0, Statement (.flip a0) := fun _ => of_none rfl
theorem readTick : ∀ a0, Statement (.readTick a0) := fun _ => of_none rfl
theorem readSnapshot : ∀ a0, Statement (.readSnapshot a0) := fun _ => of_none rfl
theorem createContext : ∀ a0, Statement (.createContext a0) := fun _ => of_none rfl
theorem destroyContext : ∀ a0, Statement (.destroyContext a0) := fun _ => of_none rfl
theorem destroyComplete : ∀ a0, Statement (.destroyComplete a0) := fun _ => of_none rfl
theorem destroyWatchdog : ∀ a0, Statement (.destroyWatchdog a0) := fun _ => of_none rfl
theorem partitionResetOverrun : ∀ a0, Statement (.partitionResetOverrun a0) := fun _ => of_none rfl
theorem createPartition : ∀ a0, Statement (.createPartition a0) := fun _ => of_none rfl
theorem resizePartition : ∀ a0, Statement (.resizePartition a0) := fun _ => of_none rfl
theorem destroyPartition : ∀ a0, Statement (.destroyPartition a0) := fun _ => of_none rfl
theorem loadGroup : ∀ a0, Statement (.loadGroup a0) := fun _ => of_none rfl
theorem unloadGroup : ∀ a0, Statement (.unloadGroup a0) := fun _ => of_none rfl
theorem setContextSched : ∀ a0, Statement (.setContextSched a0) := fun _ => of_none rfl
theorem setCalibration : ∀ a0, Statement (.setCalibration a0) := fun _ => of_none rfl
theorem readAccounting : ∀ a0, Statement (.readAccounting a0) := fun _ => of_none rfl
theorem grantPages : ∀ a0, Statement (.grantPages a0) := fun _ => of_none rfl
theorem revokePages : ∀ a0, Statement (.revokePages a0) := fun _ => of_none rfl
theorem resetInstance : ∀ a0, Statement (.resetInstance a0) := fun _ => of_none rfl
theorem replayHoldingRing : ∀ a0, Statement (.replayHoldingRing a0) := fun _ => of_none rfl
theorem setQueue : ∀ a0, Statement (.setQueue a0) := fun _ => of_none rfl
theorem partitionStepBoundary : ∀ a0, Statement (.partitionStepBoundary a0) := fun _ => of_none rfl
theorem stepLaunch : ∀ a0, Statement (.stepLaunch a0) := fun _ => of_none rfl
theorem timedPointMiss : ∀ a0 a1, Statement (.timedPointMiss a0 a1) := fun _ _ => of_none rfl
theorem slip : ∀ a0, Statement (.slip a0) := fun _ => of_none rfl
theorem idleInsertion : ∀ a0, Statement (.idleInsertion a0) := fun _ => of_none rfl
theorem tealFlip : ∀ a0, Statement (.tealFlip a0) := fun _ => of_none rfl
theorem snapshotLatch : Statement (.snapshotLatch) := of_none rfl
theorem domainResetFire : Statement (.domainResetFire) := of_none rfl
theorem domainResetLocalDone : Statement (.domainResetLocalDone) := of_none rfl
theorem domainResetDeadline : Statement (.domainResetDeadline) := of_none rfl
theorem sliceEnd : ∀ a0, Statement (.sliceEnd a0) := fun _ => of_none rfl
theorem stepSuspend : ∀ a0, Statement (.stepSuspend a0) := fun _ => of_none rfl
theorem groupClaim : ∀ a0, Statement (.groupClaim a0) := fun _ => of_none rfl
theorem controlNop : ∀ a0 a1, Statement (.controlNop a0 a1) := by
  intros
  exact of_pack rfl (by simp)
theorem li : ∀ a0 a1 a2 a3, Statement (.li a0 a1 a2 a3) := by
  intros
  exact of_pack rfl (by simp)
theorem addi : ∀ a0 a1 a2 a3 a4, Statement (.addi a0 a1 a2 a3 a4) := by
  intros
  exact of_pack rfl (by simp)
theorem add : ∀ a0 a1 a2 a3 a4, Statement (.add a0 a1 a2 a3 a4) := by
  intros
  exact of_pack rfl (by simp)
theorem sub : ∀ a0 a1 a2 a3 a4, Statement (.sub a0 a1 a2 a3 a4) := by
  intros
  exact of_pack rfl (by simp)
theorem cmp : ∀ a0 a1 a2 a3, Statement (.cmp a0 a1 a2 a3) := by
  intros
  exact of_pack rfl (by simp)
theorem br : ∀ a0 a1 a2 a3, Statement (.br a0 a1 a2 a3) := by
  intros
  exact of_pack rfl (by simp)
theorem loop : ∀ a0 a1 a2 a3, Statement (.loop a0 a1 a2 a3) := by
  intros
  exact of_pack rfl (by simp)
theorem sync : ∀ a0 a1, Statement (.sync a0 a1) := by
  intros
  exact of_pack rfl (by simp)
theorem twait : ∀ a0 a1 a2, Statement (.twait a0 a1 a2) := by
  intros
  exact of_pack rfl (by simp)
theorem rdtick : ∀ a0 a1 a2, Statement (.rdtick a0 a1 a2) := by
  intros
  exact of_pack rfl (by simp)
theorem halt : ∀ a0 a1, Statement (.halt a0 a1) := by
  intros
  exact of_pack rfl (by simp)
theorem tileMatrix : ∀ a0 a1 a2 a3, Statement (.tileMatrix a0 a1 a2 a3) := by
  intros
  exact of_pack rfl (by simp)
theorem tileL1 : ∀ a0 a1 a2 a3, Statement (.tileL1 a0 a1 a2 a3) := by
  intros
  exact of_pack rfl (by simp)
theorem tileL2 : ∀ a0 a1 a2 a3, Statement (.tileL2 a0 a1 a2 a3) := by
  intros
  exact of_pack rfl (by simp)
theorem tileDot : ∀ a0 a1 a2 a3, Statement (.tileDot a0 a1 a2 a3) := by
  intros
  exact of_pack rfl (by simp)
theorem tileHamming : ∀ a0 a1 a2 a3, Statement (.tileHamming a0 a1 a2 a3) := by
  intros
  exact of_pack rfl (by simp)
theorem tileMaxPlus : ∀ a0 a1 a2 a3, Statement (.tileMaxPlus a0 a1 a2 a3) := by
  intros
  exact of_pack rfl (by simp)
theorem tileMinPlus : ∀ a0 a1 a2 a3, Statement (.tileMinPlus a0 a1 a2 a3) := by
  intros
  exact of_pack rfl (by simp)
theorem tileConvolution : ∀ a0 a1 a2 a3, Statement (.tileConvolution a0 a1 a2 a3) := by
  intros
  exact of_pack rfl (by simp)
theorem tileEq : ∀ a0 a1 a2 a3, Statement (.tileEq a0 a1 a2 a3) := by
  intros
  exact of_pack rfl (by simp)
theorem tileNe : ∀ a0 a1 a2 a3, Statement (.tileNe a0 a1 a2 a3) := by
  intros
  exact of_pack rfl (by simp)
theorem tileLt : ∀ a0 a1 a2 a3, Statement (.tileLt a0 a1 a2 a3) := by
  intros
  exact of_pack rfl (by simp)
theorem tileLe : ∀ a0 a1 a2 a3, Statement (.tileLe a0 a1 a2 a3) := by
  intros
  exact of_pack rfl (by simp)
theorem tileGt : ∀ a0 a1 a2 a3, Statement (.tileGt a0 a1 a2 a3) := by
  intros
  exact of_pack rfl (by simp)
theorem tileGe : ∀ a0 a1 a2 a3, Statement (.tileGe a0 a1 a2 a3) := by
  intros
  exact of_pack rfl (by simp)
theorem tileComplete : ∀ a0, Statement (.tileComplete a0) := fun _ => of_none rfl
theorem selectBegin : ∀ a0 a1 a2, Statement (.selectBegin a0 a1 a2) := by
  intros
  exact of_pack rfl (by simp)
theorem selectEnd : ∀ a0 a1 a2 a3 a4 a5 a6, Statement (.selectEnd a0 a1 a2 a3 a4 a5 a6) := by
  intros
  exact of_pack rfl (by simp)
theorem merge : ∀ a0 a1 a2 a3 a4, Statement (.merge a0 a1 a2 a3 a4) := by
  intros
  exact of_pack rfl (by simp)
theorem vld : ∀ a0 a1 a2 a3, Statement (.vld a0 a1 a2 a3) := by
  intros
  exact of_pack rfl (by simp)
theorem vst : ∀ a0 a1 a2, Statement (.vst a0 a1 a2) := by
  intros
  exact of_pack rfl (by simp)
theorem vimm : ∀ a0 a1 a2, Statement (.vimm a0 a1 a2) := by
  intros
  exact of_pack rfl (by simp)
theorem vidx : ∀ a0 a1 a2, Statement (.vidx a0 a1 a2) := by
  intros
  exact of_pack rfl (by simp)
theorem fadd : ∀ a0 a1 a2, Statement (.fadd a0 a1 a2) := by
  intros
  exact of_pack rfl (by simp)
theorem fsub : ∀ a0 a1 a2, Statement (.fsub a0 a1 a2) := by
  intros
  exact of_pack rfl (by simp)
theorem fmul : ∀ a0 a1 a2, Statement (.fmul a0 a1 a2) := by
  intros
  exact of_pack rfl (by simp)
theorem ffma : ∀ a0 a1 a2, Statement (.ffma a0 a1 a2) := by
  intros
  exact of_pack rfl (by simp)
theorem fmax : ∀ a0 a1 a2, Statement (.fmax a0 a1 a2) := by
  intros
  exact of_pack rfl (by simp)
theorem fmin : ∀ a0 a1 a2, Statement (.fmin a0 a1 a2) := by
  intros
  exact of_pack rfl (by simp)
theorem fabs : ∀ a0 a1 a2, Statement (.fabs a0 a1 a2) := by
  intros
  exact of_pack rfl (by simp)
theorem fneg : ∀ a0 a1 a2, Statement (.fneg a0 a1 a2) := by
  intros
  exact of_pack rfl (by simp)
theorem frelu : ∀ a0 a1 a2, Statement (.frelu a0 a1 a2) := by
  intros
  exact of_pack rfl (by simp)
theorem fsel : ∀ a0 a1 a2, Statement (.fsel a0 a1 a2) := by
  intros
  exact of_pack rfl (by simp)
theorem flt : ∀ a0 a1 a2, Statement (.flt a0 a1 a2) := by
  intros
  exact of_pack rfl (by simp)
theorem feq : ∀ a0 a1 a2, Statement (.feq a0 a1 a2) := by
  intros
  exact of_pack rfl (by simp)
theorem fmuls : ∀ a0 a1 a2, Statement (.fmuls a0 a1 a2) := by
  intros
  exact of_pack rfl (by simp)
theorem fadds : ∀ a0 a1 a2, Statement (.fadds a0 a1 a2) := by
  intros
  exact of_pack rfl (by simp)
theorem fexp2 : ∀ a0 a1 a2, Statement (.fexp2 a0 a1 a2) := by
  intros
  exact of_pack rfl (by simp)
theorem flog2 : ∀ a0 a1 a2, Statement (.flog2 a0 a1 a2) := by
  intros
  exact of_pack rfl (by simp)
theorem frecip : ∀ a0 a1 a2, Statement (.frecip a0 a1 a2) := by
  intros
  exact of_pack rfl (by simp)
theorem frsqrt : ∀ a0 a1 a2, Statement (.frsqrt a0 a1 a2) := by
  intros
  exact of_pack rfl (by simp)
theorem fexp : ∀ a0 a1 a2, Statement (.fexp a0 a1 a2) := by
  intros
  exact of_pack rfl (by simp)
theorem fsigmoid : ∀ a0 a1 a2, Statement (.fsigmoid a0 a1 a2) := by
  intros
  exact of_pack rfl (by simp)
theorem ftanh : ∀ a0 a1 a2, Statement (.ftanh a0 a1 a2) := by
  intros
  exact of_pack rfl (by simp)
theorem fsum : ∀ a0 a1 a2, Statement (.fsum a0 a1 a2) := by
  intros
  exact of_pack rfl (by simp)
theorem fmaxr : ∀ a0 a1 a2, Statement (.fmaxr a0 a1 a2) := by
  intros
  exact of_pack rfl (by simp)
theorem fminr : ∀ a0 a1 a2, Statement (.fminr a0 a1 a2) := by
  intros
  exact of_pack rfl (by simp)
theorem iadd : ∀ a0 a1 a2, Statement (.iadd a0 a1 a2) := by
  intros
  exact of_pack rfl (by simp)
theorem isub : ∀ a0 a1 a2, Statement (.isub a0 a1 a2) := by
  intros
  exact of_pack rfl (by simp)
theorem imul : ∀ a0 a1 a2, Statement (.imul a0 a1 a2) := by
  intros
  exact of_pack rfl (by simp)
theorem imax : ∀ a0 a1 a2, Statement (.imax a0 a1 a2) := by
  intros
  exact of_pack rfl (by simp)
theorem imin : ∀ a0 a1 a2, Statement (.imin a0 a1 a2) := by
  intros
  exact of_pack rfl (by simp)
theorem ishl : ∀ a0 a1 a2, Statement (.ishl a0 a1 a2) := by
  intros
  exact of_pack rfl (by simp)
theorem ishr : ∀ a0 a1 a2, Statement (.ishr a0 a1 a2) := by
  intros
  exact of_pack rfl (by simp)
theorem cvtif : ∀ a0 a1 a2, Statement (.cvtif a0 a1 a2) := by
  intros
  exact of_pack rfl (by simp)
theorem cvtfi : ∀ a0 a1 a2, Statement (.cvtfi a0 a1 a2) := by
  intros
  exact of_pack rfl (by simp)
theorem mxst : ∀ a0 a1 a2, Statement (.mxst a0 a1 a2) := by
  intros
  exact of_pack rfl (by simp)
theorem localMove : ∀ a0 a1 a2 a3, Statement (.localMove a0 a1 a2 a3) := by
  intros
  exact of_pack rfl (by simp)
theorem tsend : ∀ a0 a1 a2 a3 a4 a5, Statement (.tsend a0 a1 a2 a3 a4 a5) := by
  intros
  exact of_pack rfl (by simp)
theorem rarm : ∀ a0 a1 a2, Statement (.rarm a0 a1 a2) := by
  intros
  exact of_pack rfl (by simp)
theorem rwait : ∀ a0 a1 a2, Statement (.rwait a0 a1 a2) := by
  intros
  exact of_pack rfl (by simp)
theorem alloc : ∀ a0 a1 a2 a3 a4, Statement (.alloc a0 a1 a2 a3 a4) := by
  intros
  exact of_pack rfl (by simp)
theorem free : ∀ a0 a1 a2, Statement (.free a0 a1 a2) := by
  intros
  exact of_pack rfl (by simp)
theorem slabServe : Statement (.slabServe) := of_none rfl
theorem fsig : ∀ a0 a1 a2 a3, Statement (.fsig a0 a1 a2 a3) := by
  intros
  exact of_pack rfl (by simp)
theorem fwait : ∀ a0 a1 a2 a3 a4, Statement (.fwait a0 a1 a2 a3 a4) := by
  intros
  exact of_pack rfl (by simp)
theorem yield : ∀ a0 a1, Statement (.yield a0 a1) := by
  intros
  exact of_pack rfl (by simp)
theorem lateFeatureTest : ∀ a0 a1 a2 a3 a4 a5, Statement (.lateFeatureTest a0 a1 a2 a3 a4 a5) := by
  intros
  exact of_pack rfl (by simp)
theorem timedSend : ∀ a0 a1 a2, Statement (.timedSend a0 a1 a2) := fun _ _ _ => of_none rfl
theorem deliveryLanded : ∀ a0 a1, Statement (.deliveryLanded a0 a1) := fun _ _ => of_none rfl
theorem featureReady : ∀ a0 a1, Statement (.featureReady a0 a1) := fun _ _ => of_none rfl
theorem lookupId : ∀ a0 a1 a2 a3 a4, Statement (.lookupId a0 a1 a2 a3 a4) := fun _ _ _ _ _ => of_none rfl
theorem promotionCopyDone : ∀ a0 a1, Statement (.promotionCopyDone a0 a1) := fun _ _ => of_none rfl
theorem sketchHalving : Statement (.sketchHalving) := of_none rfl
theorem sketchClear : Statement (.sketchClear) := of_none rfl
theorem crimsonQuotaWrite : ∀ a0 a1, Statement (.crimsonQuotaWrite a0 a1) := fun _ _ => of_none rfl
theorem exchangeServe : ∀ a0 a1 a2 a3, Statement (.exchangeServe a0 a1 a2 a3) := fun _ _ _ _ => of_none rfl
theorem carryAreaFinal : ∀ a0, Statement (.carryAreaFinal a0) := fun _ => of_none rfl
theorem twinCatchupDone : ∀ a0, Statement (.twinCatchupDone a0) := fun _ => of_none rfl
theorem deltaMergePassEnd : ∀ a0, Statement (.deltaMergePassEnd a0) := fun _ => of_none rfl
theorem timedFlit : ∀ a0 a1 a2, Statement (.timedFlit a0 a1 a2) := fun _ _ _ => of_none rfl
theorem bestEffortFlit : ∀ a0 a1 a2, Statement (.bestEffortFlit a0 a1 a2) := fun _ _ _ => of_none rfl
theorem beRetryTimeout : ∀ a0, Statement (.beRetryTimeout a0) := fun _ => of_none rfl
theorem bePacketTimeout : ∀ a0, Statement (.bePacketTimeout a0) := fun _ => of_none rfl
theorem updateStreamPacket : ∀ a0 a1, Statement (.updateStreamPacket a0 a1) := fun _ _ => of_none rfl
theorem greyLaneRecord : ∀ a0 a1, Statement (.greyLaneRecord a0 a1) := fun _ _ => of_none rfl
theorem greyLaneReturn : ∀ a0 a1, Statement (.greyLaneReturn a0 a1) := fun _ _ => of_none rfl
theorem promotionFetch : ∀ a0 a1, Statement (.promotionFetch a0 a1) := fun _ _ => of_none rfl
theorem promotionData : ∀ a0 a1, Statement (.promotionData a0 a1) := fun _ _ => of_none rfl
theorem firmwareManagement : ∀ a0 a1, Statement (.firmwareManagement a0 a1) := fun _ _ => of_none rfl
theorem markerFlit : ∀ a0 a1 a2 a3, Statement (.markerFlit a0 a1 a2 a3) := fun _ _ _ _ => of_none rfl
theorem syncMarkerSend : Statement (.syncMarkerSend) := of_none rfl
theorem markerHoldover : Statement (.markerHoldover) := of_none rfl
theorem unaligned : Statement (.unaligned) := of_none rfl
theorem masterTakeover : Statement (.masterTakeover) := of_none rfl
theorem flipFlit : ∀ a0 a1 a2, Statement (.flipFlit a0 a1 a2) := fun _ _ _ => of_none rfl
theorem snapshotAnnouncement : ∀ a0 a1 a2, Statement (.snapshotAnnouncement a0 a1 a2) := fun _ _ _ => of_none rfl
theorem resetFlit : ∀ a0 a1 a2, Statement (.resetFlit a0 a1 a2) := fun _ _ _ => of_none rfl
theorem resetDone : ∀ a0 a1 a2, Statement (.resetDone a0 a1 a2) := fun _ _ _ => of_none rfl
theorem idleInsertionMessage : ∀ a0 a1 a2, Statement (.idleInsertionMessage a0 a1 a2) := fun _ _ _ => of_none rfl
theorem slipFlit : ∀ a0 a1 a2, Statement (.slipFlit a0 a1 a2) := fun _ _ _ => of_none rfl
theorem linkLossNotice : ∀ a0 a1 a2, Statement (.linkLossNotice a0 a1 a2) := fun _ _ _ => of_none rfl
theorem abandonFlit : ∀ a0 a1 a2, Statement (.abandonFlit a0 a1 a2) := fun _ _ _ => of_none rfl
theorem management : ∀ a0 a1 a2, Statement (.management a0 a1 a2) := fun _ _ _ => of_none rfl
theorem linkPcsDown : ∀ a0, Statement (.linkPcsDown a0) := fun _ => of_none rfl
theorem stackReadBeat : ∀ a0 a1 a2 a3, Statement (.stackReadBeat a0 a1 a2 a3) := fun _ _ _ _ => of_none rfl
theorem stackReadTimeout : ∀ a0, Statement (.stackReadTimeout a0) := fun _ => of_none rfl
theorem refreshWindow : ∀ a0 a1, Statement (.refreshWindow a0 a1) := fun _ _ => of_none rfl
theorem spRefUrgent : ∀ a0 a1 a2, Statement (.spRefUrgent a0 a1 a2) := fun _ _ _ => of_none rfl
theorem fuseLoad : Statement (.fuseLoad) := of_none rfl
theorem flashRead : ∀ a0, Statement (.flashRead a0) := fun _ => of_none rfl
theorem verify : Statement (.verify) := of_none rfl
theorem firmwareStart : Statement (.firmwareStart) := of_none rfl
theorem hbmTrainDone : ∀ a0 a1, Statement (.hbmTrainDone a0 a1) := fun _ _ => of_none rfl
theorem hbmTrainFail : ∀ a0, Statement (.hbmTrainFail a0) := fun _ => of_none rfl
theorem bistAndRepair : ∀ a0, Statement (.bistAndRepair a0) := fun _ => of_none rfl
theorem linkTraining : ∀ a0 a1 a2 a3 a4, Statement (.linkTraining a0 a1 a2 a3 a4) := fun _ _ _ _ _ => of_none rfl
theorem linkPortUp : ∀ a0 a1 a2 a3 a4, Statement (.linkPortUp a0 a1 a2 a3 a4) := fun _ _ _ _ _ => of_none rfl
theorem linkRetry : Statement (.linkRetry) := of_none rfl
theorem syncWaitEvent : Statement (.syncWaitEvent) := of_none rfl
theorem loadState : ∀ a0, Statement (.loadState a0) := fun _ => of_none rfl
theorem startStateLimit : Statement (.startStateLimit) := of_none rfl
theorem startHeld : Statement (.startHeld) := of_none rfl
theorem capabilityRewriteDone : Statement (.capabilityRewriteDone) := of_none rfl
theorem cpHoldSet : ∀ a0, Statement (.cpHoldSet a0) := fun _ => of_none rfl
theorem cpHoldClear : ∀ a0, Statement (.cpHoldClear a0) := fun _ => of_none rfl
theorem watchdogKick : ∀ a0, Statement (.watchdogKick a0) := fun _ => of_none rfl
theorem watchdogExpire : ∀ a0, Statement (.watchdogExpire a0) := fun _ => of_none rfl
theorem firmwareAccess : ∀ a0 a1 a2, Statement (.firmwareAccess a0 a1 a2) := fun _ _ _ => of_none rfl
theorem flashCommandRelease : Statement (.flashCommandRelease) := of_none rfl
theorem mailboxLockRead : ∀ a0 a1, Statement (.mailboxLockRead a0 a1) := fun _ _ => of_none rfl
theorem mailboxRelease : ∀ a0 a1, Statement (.mailboxRelease a0 a1) := fun _ _ => of_none rfl
theorem mailboxRing : ∀ a0 a1, Statement (.mailboxRing a0 a1) := fun _ _ => of_none rfl
theorem mailboxAck : ∀ a0 a1 a2, Statement (.mailboxAck a0 a1 a2) := fun _ _ _ => of_none rfl
theorem mailboxUnpowered : ∀ a0 a1, Statement (.mailboxUnpowered a0 a1) := fun _ _ => of_none rfl
theorem getStatus : ∀ a0, Statement (.getStatus a0) := fun _ => of_none rfl
theorem pushBundle : ∀ a0, Statement (.pushBundle a0) := fun _ => of_none rfl
theorem flashUpdate : ∀ a0 a1, Statement (.flashUpdate a0 a1) := fun _ _ => of_none rfl
theorem retrainPort : ∀ a0 a1 a2 a3, Statement (.retrainPort a0 a1 a2 a3) := fun _ _ _ _ => of_none rfl
theorem domainReset : ∀ a0, Statement (.domainReset a0) := fun _ => of_none rfl
theorem armSnapshot : ∀ a0, Statement (.armSnapshot a0) := fun _ => of_none rfl
theorem addSoftRepair : ∀ a0, Statement (.addSoftRepair a0) := fun _ => of_none rfl
theorem commandUnknown : ∀ a0, Statement (.commandUnknown a0) := fun _ => of_none rfl
theorem snapshotArm : Statement (.snapshotArm) := of_none rfl
theorem domainResetArm : Statement (.domainResetArm) := of_none rfl
theorem nocOwnershipWrite : ∀ a0 a1, Statement (.nocOwnershipWrite a0 a1) := fun _ _ => of_none rfl
theorem slotOwnershipWrite : ∀ a0 a1 a2, Statement (.slotOwnershipWrite a0 a1 a2) := fun _ _ _ => of_none rfl
theorem translationWalk : ∀ a0 a1, Statement (.translationWalk a0 a1) := fun _ _ => of_none rfl
theorem pageRequestResponse : ∀ a0, Statement (.pageRequestResponse a0) := fun _ => of_none rfl
theorem faultRecordWrite : Statement (.faultRecordWrite) := of_none rfl
theorem accessCounterDecay : Statement (.accessCounterDecay) := of_none rfl
theorem acClear : ∀ a0, Statement (.acClear a0) := fun _ => of_none rfl
theorem acClearAll : Statement (.acClearAll) := of_none rfl
theorem mirrorGo : Statement (.mirrorGo) := of_none rfl
theorem mirrorDone : Statement (.mirrorDone) := of_none rfl
theorem invalidateAll : Statement (.invalidateAll) := of_none rfl
theorem invalidatePasid : ∀ a0, Statement (.invalidatePasid a0) := fun _ => of_none rfl
theorem invalidatePasidRange : ∀ a0, Statement (.invalidatePasidRange a0) := fun _ => of_none rfl
theorem invalidateDomain : ∀ a0, Statement (.invalidateDomain a0) := fun _ => of_none rfl
theorem invalidateDomainRange : ∀ a0, Statement (.invalidateDomainRange a0) := fun _ => of_none rfl
theorem invalidatePasidEntry : ∀ a0, Statement (.invalidatePasidEntry a0) := fun _ => of_none rfl
theorem invalidationComplete : Statement (.invalidationComplete) := of_none rfl
theorem forerunnerModeSet : ∀ a0, Statement (.forerunnerModeSet a0) := fun _ => of_none rfl
theorem translationRegionSet : ∀ a0, Statement (.translationRegionSet a0) := fun _ => of_none rfl
theorem keySlotLoad : ∀ a0, Statement (.keySlotLoad a0) := fun _ => of_none rfl
theorem keySlotClear : ∀ a0, Statement (.keySlotClear a0) := fun _ => of_none rfl
theorem keySlotEffect : Statement (.keySlotEffect) := of_none rfl
theorem ceCounterHalving : Statement (.ceCounterHalving) := of_none rfl
theorem ashTest : ∀ a0 a1, Statement (.ashTest a0 a1) := fun _ _ => of_none rfl
theorem ashTestResult : ∀ a0 a1 a2, Statement (.ashTestResult a0 a1 a2) := fun _ _ _ => of_none rfl
theorem ashWatchSet : ∀ a0, Statement (.ashWatchSet a0) := fun _ => of_none rfl
theorem ashWatchClear : ∀ a0, Statement (.ashWatchClear a0) := fun _ => of_none rfl
theorem unitMarkOut : ∀ a0, Statement (.unitMarkOut a0) := fun _ => of_none rfl
theorem digestGo : Statement (.digestGo) := of_none rfl
theorem digestDone : Statement (.digestDone) := of_none rfl
theorem powerWindow : ∀ a0, Statement (.powerWindow a0) := fun _ => of_none rfl
theorem linkLossEffectiveTick : ∀ a0, Statement (.linkLossEffectiveTick a0) := fun _ => of_none rfl
theorem readinessDeadline : ∀ a0, Statement (.readinessDeadline a0) := fun _ => of_none rfl
theorem partitionResetDone : ∀ a0, Statement (.partitionResetDone a0) := fun _ => of_none rfl
theorem wrapperInstructionUpdate : ∀ a0, Statement (.wrapperInstructionUpdate a0) := fun _ => of_none rfl
theorem poweredDownDomainAccess : ∀ a0 a1, Statement (.poweredDownDomainAccess a0 a1) := fun _ _ => of_none rfl

end Sys2Proof.Laws.Fits
end

