-- ==== Sys2Proof/Tests/Slice0.lean ====
section
/-! SUPPORT. Tests: ill-formed commands that the checks refuse, words of the spec's encodings, and states that meet the
hypotheses of the statements. -/

open Sys2Proof Sys2Proof.Machine

namespace Sys2Proof.Tests

set_option maxRecDepth 8000

/-! ### States for the tests -/

/-- Core 5 has task 0 and stands at an instruction, the word of which lies at index 0; a nop follows it. -/
def standing (i : Instr) (f : Core → Core) : State :=
  { State.reset with cores := [(5, f { prog := wrLE [] 0 16 ((encodeCore i).getD 0), task := some 0 })] }

/-- Core 5 stands at the instruction and may go on. -/
def standsAt (s : State) (i : Instr) : Bool :=
  atInstr s 5 i && (coreOf s 5).tiles.isEmpty && (coreOf s 5).gWait.isEmpty && (decodeCore 5 (wordAt s 5 (nextPc s 5 % 16384))).isSome

theorem stands (s : State) (i : Instr) (h : standsAt s i = true) : legalAt s 5 (nextPc s 5) ∧ atCommand s 5 i := by
  simp only [standsAt, atInstr, Bool.and_eq_true, decide_eq_true_eq, List.isEmpty_iff] at h
  exact ⟨h.2, by decide, h.1.1.1.1, h.1.1.1.2, h.1.1.2, h.1.2⟩

/-- A step of context 1 runs on partition 0. -/
def running (r : StepRun) (s : State) : State := { s with steps.running := [(0, { r with ctx := 1 })] }

/-- A vector instruction's fields. -/
def lanes : VecFields := ⟨31, 1, 2, 30, 14, false, false, 0x100, 0, 0, 0x3F800000⟩

/-! ### Ill-formed commands -/

theorem test_units_refused_a :
    [Instr.functionLevelReset 16, .functionResetComplete 16, .functionResetBound 16, .atsCompletion { engine := 102 }, .priResponse 16 .success,
     .doorbellSqTail 0 0x1000000 0 0, .doorbellCq 0 0x1000000 0 0, .doorbellEq 0 0x1000000 0 0, .msixModerationExpire 2048,
     .objectRelease 1048576, .fenceFree 1048576, .destroyComplete 4096, .destroyWatchdog 4096, .partitionResetOverrun 64,
     .partitionStepBoundary 64, .stepLaunch 64, .timedPointMiss 64 0, .timedPointMiss 0 64, .slip 64, .idleInsertion 64, .sliceEnd 64,
     .stepSuspend 64, .groupClaim 64, .tileComplete 64, .deltaMergePassEnd 8, .crimsonQuotaWrite 64 0].all (fun i => !i.unitsExist) = true := by decide

theorem test_units_refused_b :
    [Instr.controlNop 64 false, .li 64 false 0 0, .addi 64 false 0 0 0, .add 64 false 0 0 0, .sub 64 false 0 0 0, .cmp 64 false 0 0,
     .br 64 false 0 0, .loop 64 false 0 0, .sync 64 false, .twait 64 false 0, .rdtick 64 false 0, .halt 64 false,
     .tileMatrix 64 false {} .good, .tileL1 64 false {} .good, .tileL2 64 false {} .good, .tileDot 64 false {} .good,
     .tileHamming 64 false {} .good, .tileMaxPlus 64 false {} .good, .tileMinPlus 64 false {} .good, .tileConvolution 64 false {} .good,
     .tileEq 64 false {} .good, .tileNe 64 false {} .good, .tileLt 64 false {} .good, .tileLe 64 false {} .good, .tileGt 64 false {} .good,
     .tileGe 64 false {} .good, .selectBegin 64 false {}, .selectEnd 64 false false false 0 0 .good, .merge 64 false 0 0 .good,
     .localMove 64 false {} .good, .tsend 64 false 0 0 0 0, .rarm 64 false 0, .rwait 64 false 0, .alloc 64 false 0 12 false, .free 64 false 0,
     .fsig 64 false 0 0, .fwait 64 false 0 0 false, .yield 64 false, .lateFeatureTest 64 false 0 false 0 0].all (fun i => !i.unitsExist) = true := by decide

theorem test_units_refused_c :
    [Instr.vld 64 false lanes .good, .vst 64 false lanes, .vimm 64 false lanes, .vidx 64 false lanes, .fadd 64 false lanes, .fsub 64 false lanes,
     .fmul 64 false lanes, .ffma 64 false lanes, .fmax 64 false lanes, .fmin 64 false lanes, .fabs 64 false lanes, .fneg 64 false lanes,
     .frelu 64 false lanes, .fsel 64 false lanes, .flt 64 false lanes, .feq 64 false lanes, .fmuls 64 false lanes, .fadds 64 false lanes,
     .fexp2 64 false lanes, .flog2 64 false lanes, .frecip 64 false lanes, .frsqrt 64 false lanes, .fexp 64 false lanes,
     .fsigmoid 64 false lanes, .ftanh 64 false lanes, .fsum 64 false lanes, .fmaxr 64 false lanes, .fminr 64 false lanes,
     .iadd 64 false lanes, .isub 64 false lanes, .imul 64 false lanes, .imax 64 false lanes, .imin 64 false lanes, .ishl 64 false lanes,
     .ishr 64 false lanes, .cvtif 64 false lanes, .cvtfi 64 false lanes, .mxst 64 false lanes].all (fun i => !i.unitsExist) = true := by decide

theorem test_units_refused_d :
    [Instr.timedSend 64 0 .good, .deliveryLanded 64 0, .featureReady 64 0, .lookupId 64 0 0 0 .good, .exchangeServe 64 0 0 0,
     .carryAreaFinal 64, .timedFlit 60 {} [], .bestEffortFlit 60 {} [], .beRetryTimeout 60, .markerFlit 60 0 {} [], .flipFlit 60 {} [], .snapshotAnnouncement 60 {} [], .resetFlit 60 {} [],
     .resetDone 60 {} [], .idleInsertionMessage 60 {} [], .slipFlit 60 {} [], .linkLossNotice 60 {} [], .abandonFlit 60 {} [], .management 60 {} [], .linkPcsDown 60,
     .stackReadBeat 20 0 (.step 0) 0, .stackReadTimeout 20, .refreshWindow 64 0, .spRefUrgent 20 0 false, .spRefUrgent 0 64 false,
     .hbmTrainDone 20 0, .hbmTrainFail 20, .linkTraining 60 0 [] default 0, .linkPortUp 60 0 [] default 0, .cpHoldSet 4, .cpHoldClear 4,
     .watchdogKick 4, .watchdogExpire 4, .firmwareAccess 4 default .good, .mailboxLockRead 0 64, .mailboxRelease 0 64, .mailboxRing 0 64,
     .mailboxAck 0 64 0, .mailboxUnpowered 64 false, .getStatus 64, .pushBundle 64, .flashUpdate 64 false, .retrainPort 64 false 0 [],
     .domainReset 64, .armSnapshot 64, .addSoftRepair 64, .commandUnknown 64, .nocOwnershipWrite 128 0, .slotOwnershipWrite 60 0 0,
     .slotOwnershipWrite 0 140 0, .translationWalk { engine := 102 } .good, .acClear 131072].all (fun i => !i.unitsExist) = true := by decide

theorem test_control_fields_refused :
    [Instr.li 5 false 16 0, .addi 5 false 16 0 0, .addi 5 false 0 16 0, .add 5 false 16 0 0, .add 5 false 0 16 0, .add 5 false 0 0 16,
     .sub 5 false 16 0 0, .sub 5 false 0 16 0, .sub 5 false 0 0 16, .cmp 5 false 16 0, .cmp 5 false 0 16, .br 5 false 8 0,
     .br 5 false 0 16384, .loop 5 false 16 0, .loop 5 false 0 16384, .rdtick 5 false 16].all (fun i => !i.wf) = true := by decide

theorem test_tile_fields_refused :
    [{ arrays := 0 }, { arrays := 4 }, { fmtA := 14 }, { fmtW := 14 }, { fmtOut := 16 }, { dest := 6 }, { mBlk := 4096 }, { kAct := 256 },
     { nAct := 128 }, { actAddr := 32768 }, { wAddr := 4096 }, { accRow := 1024 }, { outAddr := 32768 }, { xg := 16 }, { imm8 := 256 },
     { ab := 16 }].all (fun (f : TileFields) => !(Instr.tileMatrix 5 false f .good).wf && !(Instr.tileGe 5 false f .good).wf) = true := by decide

theorem test_select_fields_refused :
    ([{ k := 0 }, { k := 257 }, { rows := 0 }, { rows := 65537 }, { rowBase := 16384 }, { a := 16 }, { b := 16 }].all
      (fun (f : SelectFields) => !(Instr.selectBegin 5 false f).wf) &&
    [Instr.selectEnd 5 false true true 32768 0 .good, .selectEnd 5 false true true 0 65536 .good, .merge 5 false 32768 0 .good,
     .merge 5 false 0 65536 .good].all (fun i => !i.wf)) = true := by decide

theorem test_vector_fields_refused :
    [{ lanes with vd := 32 }, { lanes with va := 32 }, { lanes with vb := 32 }, { lanes with vc := 32 }, { lanes with fmt := 16 },
     { lanes with addr := 32768 }, { lanes with ab := 16 }, { lanes with ga := 16 }].all
      (fun f => !(Instr.vld 5 false f .good).wf && !(Instr.fadd 5 false f).wf && !(Instr.cvtfi 5 false f).wf) = true := by decide

theorem test_vector_combinations_refused :
    [Instr.vld 5 false { lanes with acc := true, fmt := 7 } .good, .vst 5 false { lanes with acc := true, tiled := true },
     .mxst 5 false { lanes with fmt := 8 }, .mxst 5 false { lanes with fmt := 8, tiled := true, acc := true },
     .mxst 5 false { lanes with fmt := 7, tiled := true }].all (fun i => !i.wf) = true := by decide

theorem test_move_fields_refused :
    [⟨3, 0, 0, 0, 1, 0⟩, ⟨5, 0, 0, 0, 1, 0⟩, ⟨0, 4, 0, 0, 1, 0⟩, ⟨0, 0, 4194304, 0, 1, 0⟩, ⟨0, 0, 16, 0, 1, 0⟩, ⟨0, 0, 0, 4194304, 1, 0⟩,
     ⟨0, 0, 0, 16, 1, 0⟩, ⟨0, 0, 0, 0, 0, 0⟩, ⟨0, 0, 0, 0, 131073, 0⟩, ⟨0, 0, 0, 0, 1, 16⟩].all
      (fun f => !(Instr.localMove 5 false f .good).wf) = true := by decide

theorem test_other_fields_refused :
    [Instr.tsend 5 false 65536 0 0 0, .tsend 5 false 0 2 0 0, .tsend 5 false 0 0 4194304 0, .tsend 5 false 0 0 16 0, .tsend 5 false 0 0 0 16,
     .rarm 5 false 65536, .rwait 5 false 65536, .alloc 5 false 16 12 false, .alloc 5 false 1 11 false, .alloc 5 false 1 25 false,
     .free 5 false 16, .fsig 5 false 1048576 0, .fsig 5 false 0 16, .fwait 5 false 1048576 0 false, .fwait 5 false 0 16 false,
     .lateFeatureTest 5 false 1024 false 0 0, .lateFeatureTest 5 false 0 false 32768 0,
     .lateFeatureTest 5 false 0 false 0 16].all (fun i => !i.wf) = true := by decide

theorem test_well_formed :
    [Instr.li 5 false 15 7, .br 63 true 7 16383, .tileMatrix 5 false { arrays := 3 } .good, .vld 5 false lanes .good,
     .mxst 5 false { lanes with fmt := 8, tiled := true }, .localMove 5 false ⟨4, 3, 32, 64, 131072, 15⟩ .good, .alloc 5 false 1 24 true,
     .selectBegin 5 false {}, .merge 5 false 32767 65535 .good, .fsig 5 false 1048575 15, .stepLaunch 63, .slotOwnershipWrite 59 139 0].all (fun i => i.wf) = true := by decide

/-! ### Words of R160 to R173, their bits written out -/

/-- addi, class 0, op 2: d 1 at 13, a 2 at 17, the immediate 9 at 64. -/
theorem test_word_addi : decodeCore 7 (0x02 <<< 4 ||| 1 <<< 13 ||| 2 <<< 17 ||| 9 <<< 64) = some (.addi 7 false 1 2 9) := by decide

/-- L1 tile, class 1, op 1: array B at 13, FP8 E5M2 at 15, dest 3 at 27, m_blk 5 at 33, imm8 255 at 116. -/
theorem test_word_tile : decodeCore 7 (1 ||| 0x01 <<< 4 ||| 2 <<< 13 ||| 1 <<< 15 ||| 3 <<< 27 ||| 5 <<< 33 ||| 0xFF <<< 116) =
    some (.tileL1 7 false { arrays := 2, fmtA := 1, dest := 3, mBlk := 5, imm8 := 255 } .good) := by decide

/-- merge, class 2, op 2: src_addr 6 at 13, n_in - 1 = 255 at 28. -/
theorem test_word_merge : decodeCore 7 (2 ||| 0x02 <<< 4 ||| 6 <<< 13 ||| 255 <<< 28) = some (.merge 7 false 6 255 .good) := by decide

/-- ishr, class 3, op 0x46: vd 4 at 13, va 5 at 18, imm32 31 at 62, with dw at 12. -/
theorem test_word_ishr : decodeCore 7 (3 ||| 0x46 <<< 4 ||| 1 <<< 12 ||| 4 <<< 13 ||| 5 <<< 18 ||| 31 <<< 62) =
    some (.ishr 7 true ⟨4, 5, 0, 0, 0, false, false, 0, 0, 0, 31⟩) := by decide

/-- local move, class 4: accumulator to weights, source 32, destination 96, one unit of 32 bytes. -/
theorem test_word_move : decodeCore 7 (4 ||| 1 <<< 13 ||| 2 <<< 16 ||| 32 <<< 19 ||| 96 <<< 41 ||| 1 <<< 63) =
    some (.localMove 7 false ⟨1, 2, 32, 96, 1, 0⟩ .good) := by decide

/-- rarm, class 5, op 1: stream 513 at 13. -/
theorem test_word_rarm : decodeCore 7 (5 ||| 0x01 <<< 4 ||| 513 <<< 13) = some (.rarm 7 false 513) := by decide

/-- free, class 6, op 1: a 3 at 17. -/
theorem test_word_free : decodeCore 7 (6 ||| 0x01 <<< 4 ||| 3 <<< 17) = some (.free 7 false 3) := by decide

/-- fsig, class 7: fence 70000 at 13, a 3 at 33. -/
theorem test_word_fsig : decodeCore 7 (7 ||| 70000 <<< 13 ||| 3 <<< 33) = some (.fsig 7 false 70000 3) := by decide

/-- yield, class 8, and the late-feature test, class 9: feature 339 at 13, mask_addr 2 at 24. -/
theorem test_word_yield : decodeCore 7 (8 ||| 1 <<< 12) = some (.yield 7 true) ∧
    decodeCore 7 (9 ||| 339 <<< 13 ||| 1 <<< 23 ||| 2 <<< 24) = some (.lateFeatureTest 7 false 339 true 2 0) := by decide

/-! ### Every core instruction can stand at its word, ready to go on -/

theorem test_stands_control :
    [Instr.controlNop 5 true, .li 5 true 3 7, .addi 5 false 1 2 9, .add 5 true 3 4 6, .sub 5 false 15 14 13, .cmp 5 false 1 2, .br 5 false 7 16383,
     .loop 5 false 15 0, .sync 5 false, .twait 5 false 1, .rdtick 5 false 15, .halt 5 false, .tsend 5 false 65535 1 4194272 15,
     .rarm 5 false 65535, .rwait 5 false 0, .alloc 5 true 15 24 true, .free 5 false 15, .fsig 5 false 1048575 15,
     .fwait 5 false 1048575 15 true, .yield 5 true, .lateFeatureTest 5 false 1023 true 32767 15,
     .localMove 5 false ⟨4, 3, 4194272, 4194272, 131072, 15⟩ .good].all (fun i => standsAt (standing i id) i) = true := by decide

theorem test_stands_vector_a :
    [Instr.vld 5 false lanes .good, .vst 5 false lanes, .vimm 5 false lanes, .vidx 5 false lanes, .fadd 5 false lanes, .fsub 5 false lanes,
     .fmul 5 false lanes, .ffma 5 false lanes, .fmax 5 false lanes, .fmin 5 false lanes, .fabs 5 false lanes, .fneg 5 false lanes,
     .frelu 5 false lanes, .fsel 5 false lanes, .flt 5 false lanes, .feq 5 false lanes, .fmuls 5 false lanes, .fadds 5 false lanes,
     .cvtif 5 false lanes, .cvtfi 5 false lanes].all (fun i => standsAt (standing i id) i) = true := by decide

theorem test_stands_vector_b :
    [Instr.fexp2 5 false lanes, .flog2 5 false lanes, .frecip 5 false lanes, .frsqrt 5 false lanes, .fexp 5 false lanes, .fsigmoid 5 false lanes,
     .ftanh 5 false lanes, .fsum 5 false lanes, .fmaxr 5 false lanes, .fminr 5 false lanes, .iadd 5 false lanes, .isub 5 false lanes,
     .imul 5 false lanes, .imax 5 false lanes, .imin 5 false lanes, .ishl 5 false lanes, .ishr 5 false lanes,
     .mxst 5 false { lanes with fmt := 8, tiled := true }].all (fun i => standsAt (standing i id) i) = true := by decide

/-- The fields of a tile that every mode but convolution takes. -/
def tileOk (mode : TileMode) : TileFields :=
  match mode with
  | .matrix | .convolution => { arrays := 3, fmtA := 2, fmtW := 2, fmtOut := 15, dest := 0, mBlk := 63, kAct := 127, nAct := 127 }
  | .hamming => { arrays := 1, fmtA := 3, fmtW := 3, fmtOut := 15, mBlk := 3, kAct := 127, nAct := 127 }
  | .eq | .ne | .lt | .le | .gt | .ge => { arrays := 1, fmtA := 2, fmtW := 2, dest := 3, mBlk := 3, kAct := 127, nAct := 127 }
  | _ => { arrays := 1, fmtA := 2, fmtW := 2, fmtOut := 15, dest := 0, mBlk := 3, kAct := 127, nAct := 127 }

theorem test_stands_tile :
    [TileMode.matrix, .l1, .l2, .dot, .hamming, .maxPlus, .minPlus, .convolution, .eq, .ne, .lt, .le, .gt, .ge].all (fun m =>
      standsAt (standing (tileCmd m 5 false (tileOk m) .good) id) (tileCmd m 5 false (tileOk m) .good)) = true := by decide

/-! ### States that meet the hypotheses of the statements -/

theorem witness_StepRunsFront : ({ State.reset with pending := [.halt 5 false, .coldReset] } : State).pending = .halt 5 false :: [.coldReset] := rfl

/-- A block in green stage that counts edges. -/
def ticking (n : Nat) : State := { State.reset with bound := { porLow := false, stage := 2, hostAnswers := true }, time := { tick := n, sinceAdjust := 1022 } }

theorem witness_IdleIsOneEdge : State.reset.pending = [] ∧ aclkRuns State.reset = false ∧ (ticking 7).pending = [] ∧ aclkRuns (ticking 7) = true ∧
    (ticking 7).time.sinceAdjust < 1023 := by decide

theorem witness_GRegisterFile : (15 : Nat) ≠ 0 ∧ (14 : Nat) ≠ 15 := by decide

/-- A step in which stream 3 has room and its delivery 0 has landed, stream 4 is full and its delivery is lost, and feature 0 is
ready and feature 1 is not. -/
def stepA : StepRun :=
  { base := 90, tasks := [{ index := 0, state := .running }, { index := 1, state := .running }],
    streams := [{ number := 3, landed := [(0, 0)] }, { number := 4, armed := 1, landed := [(0, 2)] }, { number := 5 }],
    features := [{ ready := true, lateBit := true }, {}] }

/-- Core 5 stands at an instruction of that step at tick 100. -/
def inStep (i : Instr) (f : Core → Core) : State := { running stepA (standing i f) with time := { tick := 100 } }

theorem witness_ControlWritesRegister :
    (let s := standing (.li 5 false 15 7) id
     legalAt s 5 (nextPc s 5) ∧ atCommand s 5 (.li 5 false 15 7)) ∧
    (let s := inStep (.rdtick 5 false 15) id
     (legalAt s 5 (nextPc s 5) ∧ atCommand s 5 (.rdtick 5 false 15)) ∧ (runOf s (coreOf s 5).part).isSome = true) :=
  ⟨stands _ _ (by decide), stands _ _ (by decide), by decide⟩

theorem witness_ControlFlow :
    (let s := standing (.br 5 false 7 16383) (fun k => { k with prog := wr8 k.prog 0 (rd8 k.prog 0) })
     (legalAt s 5 (nextPc s 5) ∧ atCommand s 5 (.br 5 false 7 16383)) ∧ legalAt s 5 16383 ∧ (16383 : Nat) < 16384) ∧
    (let s := standing (.loop 5 false 15 0) id
     (legalAt s 5 (nextPc s 5) ∧ atCommand s 5 (.loop 5 false 15 0)) ∧ legalAt s 5 0 ∧ (15 : Nat) ≠ 0) :=
  ⟨⟨stands _ _ (by decide), by unfold legalAt; decide, by decide⟩, stands _ _ (by decide), by unfold legalAt; decide, by decide⟩

/-- That step with `n` timed sends of core 5, its first core, queued on stream 3. -/
def sending (n : Nat) : StepRun := { stepA with streams := [{ number := 3, srcCore := 0, sends := List.replicate n (0, 0, 0, 0) }] }

/-- Core 5 stands at an instruction of that step at tick 100. -/
def inSending (n : Nat) (i : Instr) (f : Core → Core) : State := { running (sending n) (standing i f) with time := { tick := 100 } }

theorem witness_SyncAndTwait :
    (let s := standing (.sync 5 false) id
     (legalAt s 5 (nextPc s 5) ∧ atCommand s 5 (.sync 5 false)) ∧ (coreOf s 5).allocs = 0 ∧ coreSends s 5 = 0) ∧
    (let s := standing (.sync 5 false) (fun k => { k with allocs := 1 })
     (legalAt s 5 (nextPc s 5) ∧ atCommand s 5 (.sync 5 false)) ∧ (coreOf s 5).allocs ≠ 0) ∧
    (let s := inSending 1 (.sync 5 false) id
     (legalAt s 5 (nextPc s 5) ∧ atCommand s 5 (.sync 5 false)) ∧ (coreOf s 5).allocs = 0 ∧ coreSends s 5 ≠ 0) ∧
    (let s := inStep (.twait 5 false 10) id
     (legalAt s 5 (nextPc s 5) ∧ atCommand s 5 (.twait 5 false 10)) ∧ runOf s (coreOf s 5).part = some { stepA with ctx := 1 } ∧
     (10#64).toNat % 2 ^ 32 ≤ s.time.tick - 90) ∧
    (let s := inStep (.twait 5 false 11) id
     (legalAt s 5 (nextPc s 5) ∧ atCommand s 5 (.twait 5 false 11)) ∧ runOf s (coreOf s 5).part = some { stepA with ctx := 1 } ∧
     s.time.tick - 90 < (11#64).toNat % 2 ^ 32) :=
  ⟨⟨stands _ _ (by decide), by decide⟩, ⟨stands _ _ (by decide), by decide⟩, ⟨stands _ _ (by decide), by decide⟩,
   ⟨stands _ _ (by decide), by decide⟩, stands _ _ (by decide), by decide⟩

theorem witness_HaltEndsTask :
    (let s := inStep (.halt 5 false) id
     atCommand s 5 (.halt 5 false) ∧ (coreOf s 5).sel = none ∧ (coreOf s 5).allocs = 0 ∧ coreSends s 5 = 0 ∧ (coreOf s 5).task = some 0 ∧
     runOf s (coreOf s 5).part = some { stepA with ctx := 1 } ∧ (∀ x ∈ stepA.tasks, x.state ≠ .waiting) ∧
     stepA.tasks = [{ index := 0, state := .running }, { index := 1, state := .running }]) :=
  ⟨(stands _ _ (by decide)).2, by decide⟩

/-- A core with an open selection. -/
def selecting (k : Core) : Core := { k with sel := some { k := 256, rows := 256 }, g := [(1, 4 + 4 * 32)] }

/-- A convolution that its rules allow: 4 taps of 32 positions. -/
def convTile : TileFields := { arrays := 1, fmtA := 2, fmtW := 2, fmtOut := 15, mBlk := 3, kAct := 127, nAct := 127, xg := 1 }

theorem witness_TileIssues :
    (let i := tileCmd .matrix 5 false { tileOk .matrix with dest := 4 } .good
     let s := standing i selecting
     (legalAt s 5 (nextPc s 5) ∧ atCommand s 5 i) ∧ tileLegal .matrix { tileOk .matrix with dest := 4 } = true ∧ (coreOf s 5).sel ≠ none) ∧
    (let i := tileCmd .convolution 5 false convTile .good
     let s := standing i selecting
     (legalAt s 5 (nextPc s 5) ∧ atCommand s 5 i) ∧ tileLegal .convolution convTile = true ∧ convGeo (gReg (coreOf s 5) 1) ≠ none) ∧
    [TileMode.l1, .l2, .dot, .hamming, .maxPlus, .minPlus, .eq, .ne, .lt, .le, .gt, .ge].all (fun m => tileLegal m (tileOk m)) = true ∧
    (let i := tileCmd .eq 5 false (tileOk .matrix) .good
     let s := standing i id
     (legalAt s 5 (nextPc s 5) ∧ atCommand s 5 i) ∧ variantOf s = .jujorL ∧ tileLegal .eq (tileOk .matrix) = false) :=
  ⟨⟨stands _ _ (by decide), by decide⟩, ⟨stands _ _ (by decide), by decide⟩, by decide, stands _ _ (by decide), by decide⟩

theorem witness_TileCompletes :
    (let s : State := { State.reset with cores := [(63, { tiles := [{}, {}] })] }
     (63 : Nat) < 64 ∧ (coreOf s 63).tiles = {} :: [{}]) ∧
    (let t : Tile := { fields := { dest := 5 }, intResult := true }
     t.intResult = true ∧ t.mode ≠ .maxPlus ∧ t.mode ≠ .minPlus ∧ (t.fields.dest = 1 ∨ t.fields.dest = 2 ∨ t.fields.dest = 5)) := by decide

theorem witness_SelectionLife :
    (let i : Instr := .selectBegin 5 false { k := 256, rows := 256 }
     let s := standing i id
     (legalAt s 5 (nextPc s 5) ∧ atCommand s 5 i) ∧ (coreOf s 5).sel = none ∧ 256 * 256 ≤ 65536) ∧
    (let i : Instr := .selectEnd 5 false true false 32767 0 .good
     let s := standing i selecting
     (legalAt s 5 (nextPc s 5) ∧ atCommand s 5 i) ∧ (coreOf s 5).sel = some { k := 256, rows := 256 }) ∧
    (let i : Instr := .merge 5 false 32767 65535 .good
     let s := standing i selecting
     (legalAt s 5 (nextPc s 5) ∧ atCommand s 5 i) ∧ (coreOf s 5).sel = some { k := 256, rows := 256 }) ∧
    (∀ i, (mget ({ k := 256 } : Selection).lists i).length ≤ 256) :=
  ⟨⟨stands _ _ (by decide), by decide⟩, ⟨stands _ _ (by decide), by decide⟩, ⟨stands _ _ (by decide), by decide⟩, fun _ => Nat.zero_le _⟩

theorem witness_VectorInstructions :
    (let s := standing (.fadd 5 true lanes) id
     legalAt s 5 (nextPc s 5) ∧ atCommand s 5 (.fadd 5 true lanes)) ∧
    (let s := standing (.ishr 5 false lanes) id
     legalAt s 5 (nextPc s 5) ∧ atCommand s 5 (.ishr 5 false lanes)) ∧
    (let s := standing (.fexp2 5 false lanes) id
     legalAt s 5 (nextPc s 5) ∧ atCommand s 5 (.fexp2 5 false lanes)) ∧
    (let s := standing (.vld 5 false { lanes with acc := true } .good) id
     legalAt s 5 (nextPc s 5) ∧ atCommand s 5 (.vld 5 false { lanes with acc := true } .good)) ∧
    (let s := standing (.vst 5 false { lanes with acc := true }) id
     legalAt s 5 (nextPc s 5) ∧ atCommand s 5 (.vst 5 false { lanes with acc := true })) ∧
    (let s := standing (.vst 5 false lanes) id
     legalAt s 5 (nextPc s 5) ∧ atCommand s 5 (.vst 5 false lanes)) ∧
    (let s := standing (.mxst 5 false { lanes with fmt := 13, tiled := true }) id
     legalAt s 5 (nextPc s 5) ∧ atCommand s 5 (.mxst 5 false { lanes with fmt := 13, tiled := true })) :=
  ⟨stands _ _ (by decide), stands _ _ (by decide), stands _ _ (by decide), stands _ _ (by decide), stands _ _ (by decide),
   stands _ _ (by decide), stands _ _ (by decide)⟩

theorem witness_LocalMove :
    (let i : Instr := .localMove 5 false ⟨0, 3, 0, 4194272, 1, 0⟩ .good
     let s := standing i id
     let k := moveBytes (winOf s 5) ⟨0, 3, 0, 4194272, 1, 0⟩ (coreOf s 5)
     (legalAt s 5 (nextPc s 5) ∧ atCommand s 5 i) ∧ legalAt (putCore s 5 k) 5 (nextPc s 5)) :=
  ⟨stands _ _ (by decide), by unfold legalAt; decide⟩

theorem witness_TimedInstructions :
    (let s := inStep (.tsend 5 false 3 1 4194272 15) id
     (legalAt s 5 (nextPc s 5) ∧ atCommand s 5 (.tsend 5 false 3 1 4194272 15)) ∧ (runOf s (coreOf s 5).part).isSome = true ∧
     (streamOf stepA 3).isSome = true ∧ coreSends s 5 < 8) ∧
    (let s := inSending 8 (.tsend 5 false 3 1 4194272 15) id
     (legalAt s 5 (nextPc s 5) ∧ atCommand s 5 (.tsend 5 false 3 1 4194272 15)) ∧ (streamOf (sending 8) 3).isSome = true ∧ 8 ≤ coreSends s 5) ∧
    (let s := inStep (.rarm 5 false 3) id
     (legalAt s 5 (nextPc s 5) ∧ atCommand s 5 (.rarm 5 false 3)) ∧ (streamOf stepA 3).map (fun t => decide (t.armed < t.waited + t.ring)) = some true) ∧
    (let s := inStep (.rarm 5 false 4) id
     (legalAt s 5 (nextPc s 5) ∧ atCommand s 5 (.rarm 5 false 4)) ∧ (streamOf stepA 4).map (fun t => decide (t.waited + t.ring ≤ t.armed)) = some true) ∧
    (let s := inStep (.rwait 5 false 3) id
     (legalAt s 5 (nextPc s 5) ∧ atCommand s 5 (.rwait 5 false 3)) ∧ (streamOf stepA 3).map (fun t => mfind t.landed t.waited) = some (some 0)) ∧
    (let s := inStep (.rwait 5 false 5) id
     (legalAt s 5 (nextPc s 5) ∧ atCommand s 5 (.rwait 5 false 5)) ∧ (streamOf stepA 5).map (fun t => mfind t.landed t.waited) = some none) ∧
    (let s := inStep (.rwait 5 false 4) id
     (legalAt s 5 (nextPc s 5) ∧ atCommand s 5 (.rwait 5 false 4)) ∧ (streamOf stepA 4).map (fun t => mfind t.landed t.waited) = some (some (1 + 1))) :=
  ⟨⟨stands _ _ (by decide), by decide⟩, ⟨stands _ _ (by decide), by decide⟩, ⟨stands _ _ (by decide), by decide⟩, ⟨stands _ _ (by decide), by decide⟩,
   ⟨stands _ _ (by decide), by decide⟩, ⟨stands _ _ (by decide), by decide⟩, stands _ _ (by decide), by decide⟩

/-- The slab unit with one request of core 63 and an arena of one page. -/
def slabWith (q : SlabReq) (last : Option Nat) : State :=
  { State.reset with time := { tick := 103 }, front := { slab := [q], slabLast := last, ctxs := [(1, { arena := [{ va := 0x2000000, free := [(25, 0)] }] })] } }

theorem witness_Slab :
    (let s := standing (.alloc 5 false 15 24 true) id
     legalAt s 5 (nextPc s 5) ∧ atCommand s 5 (.alloc 5 false 15 24 true)) ∧
    (let s := standing (.free 5 false 15) id
     legalAt s 5 (nextPc s 5) ∧ atCommand s 5 (.free 5 false 15)) ∧
    (let s := slabWith { core := 63, ctx := 1, order := 24, dest := 15 } (some 100)
     (100 : Nat) + 3 ≤ s.time.tick ∧ (buddyAlloc (ctxOf s 1).arena 24).isSome = true) ∧
    (let s := slabWith { core := 63, ctx := 1, order := 26, dest := 15 } none
     buddyAlloc (ctxOf s 1).arena 26 = none) ∧
    (let a := ((buddyAlloc [{ va := 0x2000000, free := [(25, 0)] }] 12).getD (0, [])).2
     (buddyFree a 0x2000000).isSome = true) ∧
    (let s := slabWith { isAlloc := false, core := 63, ctx := 1 } none
     s.front.slab = { isAlloc := false, core := 63, ctx := 1 } :: [] ∧ s.front.slabLast = none) :=
  ⟨stands _ _ (by decide), stands _ _ (by decide), by decide, by decide, by decide, by decide⟩

/-- The step's context 1 owns fence 1048575. -/
def withFence (f : Fence) (s : State) : State := { s with front := { s.front with fences := [(1048575, f)] } }

theorem witness_FenceInstructions :
    (let i : Instr := .fsig 5 false 1048575 15
     let s := withFence { state := .pending, ctx := 1, value := 4 } (inStep i (fun k => { k with g := [(15, 4)] }))
     (legalAt s 5 (nextPc s 5) ∧ atCommand s 5 i) ∧ (coreOf s 5).allocs = 0 ∧ coreSends s 5 = 0 ∧ maySignal s (ctxOfCore s 5) 1048575 = true ∧
     (fenceOf s 1048575).state = .pending ∧ (fenceOf s 1048575).upAt ≠ some s.time.tick ∧ gReg (coreOf s 5) 15 ≠ BitVec.allOnes 64 ∧
     (fenceOf s 1048575).value.toNat ≤ (gReg (coreOf s 5) 15).toNat) ∧
    (let i : Instr := .fsig 5 false 1048575 15
     let s := withFence { state := .pending, ctx := 2 } (inStep i id)
     (legalAt s 5 (nextPc s 5) ∧ atCommand s 5 i) ∧ (coreOf s 5).allocs = 0 ∧ coreSends s 5 = 0 ∧ maySignal s (ctxOfCore s 5) 1048575 = false) ∧
    (let i : Instr := .fwait 5 false 1048575 15 true
     let s := withFence { state := .pending, ctx := 2 } (inStep i id)
     (legalAt s 5 (nextPc s 5) ∧ atCommand s 5 i) ∧ maySignal s (ctxOfCore s 5) 1048575 = false) ∧
    (let i : Instr := .fwait 5 false 1048575 15 true
     let s := withFence { state := .signalled, ctx := 1, value := 4 } (inStep i (fun k => { k with g := [(15, 4)] }))
     (legalAt s 5 (nextPc s 5) ∧ atCommand s 5 i) ∧ maySignal s (ctxOfCore s 5) 1048575 = true ∧ (fenceOf s 1048575).upAt ≠ some s.time.tick ∧
     (gReg (coreOf s 5) 15).toNat ≤ (fenceOf s 1048575).value.toNat ∧ (fenceOf s 1048575).state ≠ .error) ∧
    (let i : Instr := .fwait 5 false 1048575 15 true
     let s := withFence { state := .error, ctx := 1, value := 4 } (inStep i (fun k => { k with g := [(15, 5)] }))
     (legalAt s 5 (nextPc s 5) ∧ atCommand s 5 i) ∧ maySignal s (ctxOfCore s 5) 1048575 = true ∧ (fenceOf s 1048575).upAt ≠ some s.time.tick ∧
     (fenceOf s 1048575).value.toNat < (gReg (coreOf s 5) 15).toNat ∧ (fenceOf s 1048575).state = .error) ∧
    (let i : Instr := .fwait 5 false 1048575 15 true
     let s := withFence { state := .pending, ctx := 1, value := 4 } (inStep i (fun k => { k with g := [(15, 5)] }))
     (legalAt s 5 (nextPc s 5) ∧ atCommand s 5 i) ∧ maySignal s (ctxOfCore s 5) 1048575 = true ∧ (fenceOf s 1048575).upAt ≠ some s.time.tick ∧
     (fenceOf s 1048575).value.toNat < (gReg (coreOf s 5) 15).toNat ∧ (fenceOf s 1048575).state ≠ .error) :=
  ⟨⟨stands _ _ (by decide), by decide⟩, ⟨stands _ _ (by decide), by decide⟩, ⟨stands _ _ (by decide), by decide⟩, ⟨stands _ _ (by decide), by decide⟩,
   ⟨stands _ _ (by decide), by decide⟩, stands _ _ (by decide), by decide⟩

theorem witness_YieldAndLateFeatures :
    (let s := running { group := true } (standing (.yield 5 false) id)
     (legalAt s 5 (nextPc s 5) ∧ atCommand s 5 (.yield 5 false)) ∧ (coreOf s 5).sel = none ∧ yieldIgnored s 5 = true) ∧
    (let s := running { tasks := [{ index := 0, state := .running }] } (standing (.yield 5 false) id)
     (legalAt s 5 (nextPc s 5) ∧ atCommand s 5 (.yield 5 false)) ∧ (coreOf s 5).sel = none ∧ yieldIgnored s 5 = false ∧ (coreOf s 5).allocs = 0 ∧ coreSends s 5 = 0 ∧
     preemptWanted s (coreOf s 5).part = false) ∧
    (let i : Instr := .lateFeatureTest 5 false 0 false 32767 15
     let s := inStep i id
     (legalAt s 5 (nextPc s 5) ∧ atCommand s 5 i) ∧ runOf s (coreOf s 5).part = some { stepA with ctx := 1 } ∧
     stepA.features[0]?.map (fun f => f.ready) = some true) ∧
    (let i : Instr := .lateFeatureTest 5 false 1 false 32767 15
     let s := inStep i id
     (legalAt s 5 (nextPc s 5) ∧ atCommand s 5 i) ∧ runOf s (coreOf s 5).part = some { stepA with ctx := 1 } ∧
     stepA.features[1]?.map (fun f => f.ready) = some false) :=
  ⟨⟨stands _ _ (by decide), by decide⟩, ⟨stands _ _ (by decide), by decide⟩, ⟨stands _ _ (by decide), by decide⟩,
   stands _ _ (by decide), by decide⟩

/-- Fields of `n` bytes at offsets, in `size` bytes. -/
def block (size : Nat) (l : List (Nat × Nat × Nat)) : List Byte := l.foldl (fun b f => putAt b f.1 (leBytes f.2.1 f.2.2)) (leBytes size 0)

/-- A descriptor with an opcode and fields. -/
def desc (op : Nat) (l : List (Nat × Nat × Nat)) : Desc := { raw := block 64 ((0, 1, op) :: l) }

/-- A green block at tick 1024 with context 1 on partition 1, whose addresses below 32 MiB the copy engine and the front end
find in their micro-TLBs. -/
def base : State :=
  { State.reset with
    bound := { porLow := false, stage := 2, hostAnswers := true },
    start := { shadow := some {} },
    time := { tick := 1024 },
    trans := { utlb := [(84, [{ pa := 17179869184 }]), (100, [{ pa := 17179869184 }])] },
    front := { ctxs := [(1, { state := .active, function := 3, partition := 1, objQuota := 2, fenceQuota := 2, sramCount := 16 })] },
    parts := { parts := [(1, { state := .active, coreMask := 3 })], pageOwn := [(512, 1)] } }

/-- The command of a descriptor, just dispatched on context 1 as job 7. -/
def jobFor (d : Desc) : Job := { ctx := 1, desc := d, start := some 1024 }
def dsp (d : Desc) (f : State → State) : State :=
  let s := f base
  { s with front := { s.front with jobs := [(7, jobFor d)], executing := some 7 } }

theorem dsp_is (d : Desc) (f : State → State) : dispatchedAs (dsp d f) 7 (dOpcode d) (jobFor d) := ⟨rfl, rfl, rfl, rfl⟩

/-- Other front-end state. -/
def fe (f : FrontEnd → FrontEnd) (s : State) : State := { s with front := f s.front }

theorem witness_DoorbellsMove :
    (let s : State := { State.reset with front := { ctxs := [(4095, { state := .broken, function := 15, sq := [(3, { log2 := 16 })], cq := { log2 := 16 }, eq := { log2 := 16 } })] } }
     let c := ctxOf s 4095
     (4095 : Nat) < 4096 ∧ (3 : Nat) < 4 ∧ 4095 * 0x1000 + 0x28 < 0x1000000 ∧ c.function = 15 ∧ (c.state = .active ∨ c.state = .broken) ∧ (mget c.sq 3).log2 ≠ 0 ∧
     (0xFFFF : W32).toNat % 65536 < 2 ^ (mget c.sq 3).log2 ∧ 65535 < 2 ^ c.cq.log2 ∧ 65535 < 2 ^ c.eq.log2 ∧ c.eq.dropped = 0 ∧ c.function ≠ 14 ∧ (0x03#8 : BitVec 8) ≠ 0x0F#8 ∧ (0x03#8 : BitVec 8) ≠ 0xFF#8) := by decide

theorem witness_AdministratorIndices :
    (let s := setF (setF (setF base qfAdmqLog2 16) qfAdmcqLog2 16) qfAdmeqLog2 12
     s.bound.hostAnswers = true ∧ (0xFFFF : W32).toNat % 65536 < admDepth s qfAdmqLog2 16 ∧ 65535 < admDepth s qfAdmcqLog2 16 ∧
     4095 < admDepth s qfAdmeqLog2 12 ∧ s.front.admDropped = 0) ∧ State.reset.bound.hostAnswers = false := by decide

theorem witness_Administrator :
    (let s := setF base qfAdmqTail 63
     s.bound.stage = 2 ∧ frontRuns s = true ∧ getF s qfAdmqTail ≠ getF s qfAdmqHead ∧ s.front.admFetched = [] ∧
     admReserved s < admDepth s qfAdmcqLog2 16 - 1) ∧
    (let s := fe (fun f => { f with admFetched := [desc 0x80 []], lastDispatch := some 1020 }) base
     slotFree s = true ∧ (desc 0x80 []).headCode = 0 ∧ dWaitEn (desc 0x80 []) = false ∧ dSerial (desc 0x80 []) = false) ∧
    (let s := fe (fun f => { f with lastDispatch := some 1021 }) base
     s.front.lastDispatch = some 1021 ∧ s.time.tick < 1021 + 4) ∧
    (dsp (desc 0 []) id).front.executing ≠ none ∧
    (let x : Job := { admin := true, desc := desc 0x80 [], status := .done }
     x.code = 0 ∧ x.parent = none ∧ x.refs = [] ∧ x.copyEngine = none ∧ x.servedAt = none ∧ dSignalEn x.desc = false ∧ dIrq x.desc = false ∧ dOpcode x.desc = 0x80) := by decide

theorem witness_QueueTimers :
    (let s := ticking 1023
     s.time.tick % 1024 ≠ 0) ∧
    (let x : Job := { desc := desc 1 [], status := .waiting, limit := 1024, timerAt := 0 }
     let s : State := { base with front := { jobs := [(7, x)] } }
     s.time.tick % 1024 = 0 ∧ s.front.ctxs = [] ∧ x.limit ≠ 0 ∧ x.timerAt + x.limit ≤ s.time.tick ∧ dOpcode x.desc = 1 ∧ x.parent = none) ∧
    (let s := fe (fun f => { f with vectors := [(2047, { pending := true, lastAt := some 1024 })] }) base
     (2047 : Nat) < 2048 ∧ s.bound.stage ≠ 0 ∧ 2047 ∉ s.bound.msixMasked ∧ (mget s.front.vectors 2047).pending = true ∧
     1024 + 64 * getF s qfInterval 2047 ≤ s.time.tick) := by decide

theorem witness_FenceSignals :
    (let s := withFence { state := .pending, value := 4, upAt := some 1023 } base
     ((fenceOf s 1048575).upAt ≠ some s.time.tick ∧ (fenceOf s 1048575).state = .pending ∧ (4 : BitVec 64) ≠ BitVec.allOnes 64 ∧ (fenceOf s 1048575).value.toNat ≤ (4 : BitVec 64).toNat)) ∧
    (fenceOf (withFence { state := .error } base) 1048575).state = .error ∧ (fenceOf (withFence { state := .error } base) 1048575).upAt ≠ some 1024 ∧
    ({ req := 1 } : FenceUp).req < ({ req := 2 } : FenceUp).req := by decide

/-- create-object of one page at 32 MiB. -/
def newObj : Desc := desc 0x10 [(0x20, 8, 33554432), (0x28, 8, 33554432), (0x30, 8, 1)]

theorem witness_ObjectCommands_a : dispatchedAs (dsp newObj id) 7 0x10 (jobFor newObj) ∧
    (let b := begun (dsp newObj id)
     objPlaceOk b 1 33554432 33554432 = true ∧ objOverlaps b 1 33554432 33554432 = false ∧ objQuotaOk b 1 = true ∧ b.front.objAlloc.take.isSome = true) ∧
    objPlaceOk base 1 33554432 0 = false ∧
    (let o : Obj := { va := 33554432, size := 33554432, ctx := 1, allocated := true }
     let b := begun (dsp newObj (fe (fun f => { f with objs := [(0, o), (1, { o with va := 0 })] })))
     objQuotaOk b 1 = false ∧ objOverlaps b 1 67108864 33554432 = false) := ⟨dsp_is newObj id, by decide⟩

theorem witness_ObjectCommands_b :
    (let d := desc 0x11 [(0x20, 4, 1048575)]
     let s := dsp d (fe (fun f => { f with objs := [(1048575, { ctx := 1, allocated := true })] }))
     dispatchedAs s 7 0x11 (jobFor d) ∧ (objOf s (hIndex (d8 (jobFor d).desc 0x20))).bindings = 0 ∧
     (let t := fe (fun f => { f with objs := [(1048575, { ctx := 1, allocated := true, bindings := 1 })] }) s
      (objOf t (hIndex (d8 (jobFor d).desc 0x20))).bindings ≠ 0)) ∧
    (let s := fe (fun f => { f with objs := [(1048575, { gen := 0xFFFFFF, allocated := true, freed := true, freeJobs := [7] })],
                                    jobs := [(7, { status := .waiting })] }) base
     (1048575 : Nat) < 1048576 ∧ (objOf s 1048575).allocated = true ∧ (objOf s 1048575).freed = true ∧ (objOf s 1048575).refs = 0 ∧
     (objOf s 1048575).freeJobs = [7] ∧ (objOf s 1048575).gen ≤ 0xFFFFFF ∧ jobOf s 7 = some { status := .waiting }) :=
  ⟨⟨dsp_is (desc 0x11 [(0x20, 4, 1048575)]) _, by decide⟩, by decide⟩

theorem witness_FenceAndArenaCommands_a :
    (let d := desc 0x12 [(0x20, 8, 5)]
     dispatchedAs (dsp d id) 7 0x12 (jobFor d) ∧ fenceQuotaOk (begun (dsp d id)) 1 = true ∧ (dsp d id).front.fenceAlloc.take.isSome = true ∧
     fenceQuotaOk (begun (dsp d (fe (fun f => { f with fences := [(0, { state := .pending, ctx := 1 }), (1, { state := .error, ctx := 1 })] })))) 1 = false) ∧
    (let d := desc 0x13 [(0x20, 4, 1048575)]
     let s := dsp d (withFence { state := .pending, ctx := 1 })
     dispatchedAs s 7 0x13 (jobFor d) ∧ maySignal (begun s) 1 1048575 = true ∧ (fenceOf s 1048575).state ≠ .error ∧
     (fenceOf s 1048575).upAt ≠ some s.time.tick ∧ maySignal (begun (dsp d id)) 1 1048575 = false) ∧
    (let s := withFence { state := .error, destroying := true, destroyJobs := [7] } (fe (fun f => { f with jobs := [(7, { status := .waiting })] }) base)
     (1048575 : Nat) < 1048576 ∧ (fenceOf s 1048575).destroying = true ∧ (fenceOf s 1048575).state ≠ .free ∧ fenceNamed s 1048575 = false ∧
     (fenceOf s 1048575).destroyJobs = [7] ∧ jobOf s 7 = some { status := .waiting }) :=
  ⟨⟨dsp_is (desc 0x12 [(0x20, 8, 5)]) id, by decide⟩, ⟨dsp_is (desc 0x13 [(0x20, 4, 1048575)]) _, by decide⟩, by decide⟩

/-- Context 1 with an arena, and object 9 of some pages. -/
def arenaOf (a : List ArenaPage) (pages : Nat) (s : State) : State :=
  { s with front := { s.front with ctxs := [(1, { state := .active, arena := a })], objs := [(9, { size := BitVec.ofNat 64 (pages * 33554432), allocated := true, ctx := 1 })] } }

theorem witness_FenceAndArenaCommands_b :
    (let d := desc 0x22 [(0x20, 8, 9)]
     let s := dsp d (arenaOf [] 4096)
     dispatchedAs s 7 0x22 (jobFor d) ∧ hIndex (d8 (jobFor d).desc 0x20) = 9 ∧ (ctxOf s 1).arena.any (fun a => a.obj == 9) = false ∧
     (ctxOf s 1).arena.length + (objOf s 9).size.toNat / 2 ^ 25 ≤ 4096 ∧
     (let t := dsp d (arenaOf [{ obj := 8 }] 4096)
      (ctxOf t 1).arena.any (fun a => a.obj == 9) = false ∧ 4096 < (ctxOf t 1).arena.length + (objOf t 9).size.toNat / 2 ^ 25) ∧
     (ctxOf (dsp d (arenaOf [{ obj := 9 }] 1)) 1).arena.any (fun a => a.obj == 9) = true) ∧
    (let d := desc 0x23 [(0x20, 8, 9)]
     let mine := fun (s : State) => (ctxOf s 1).arena.filter (fun a => a.obj == 9)
     dispatchedAs (dsp d (arenaOf [] 1)) 7 0x23 (jobFor d) ∧ mine (dsp d (arenaOf [] 1)) = [] ∧
     mine (dsp d (arenaOf [{ obj := 9, used := [(12, 0)] }] 1)) ≠ [] ∧
     (mine (dsp d (arenaOf [{ obj := 9, used := [(12, 0)] }] 1))).any (fun a => !a.used.isEmpty) = true ∧
     mine (dsp d (arenaOf [{ obj := 9 }] 1)) ≠ [] ∧ (mine (dsp d (arenaOf [{ obj := 9 }] 1))).any (fun a => !a.used.isEmpty) = false) :=
  ⟨⟨dsp_is (desc 0x22 [(0x20, 8, 9)]) _, by decide⟩, dsp_is (desc 0x23 [(0x20, 8, 9)]) _, by decide⟩

/-- Object 9 at address 0 of one page, of context 1. -/
def obj9 (s : State) : State := fe (fun f => { f with objs := [(9, { size := 33554432, allocated := true, ctx := 1 })] }) s

theorem witness_TransferCommands_a :
    (let d := desc 1 [(0x14, 4, 4), (0x20, 8, 9), (0x28, 8, 9), (0x30, 8, 33554428), (0x38, 8, 0)]
     let s := dsp d obj9
     let u : State := { begun s with front := { (begun s).front with jobs := [(7, { jobFor d with status := .waiting, copyEngine := some 0, servedAt := some s.time.tick })] } }
     dispatchedAs s 7 1 (jobFor d) ∧ s.front.jobs = [(7, jobFor d)] ∧ attached s 7 = false ∧ objRange s (d8 d 0x20) (dOff d 0x30) (dLen d) = (0, 33554428) ∧
     objRange s (d8 d 0x28) (dOff d 0x38) (dLen d) = (0, 0) ∧ Span.bad u (engCopy 0) 1 ⟨33554428, dLen d, false⟩ = none ∧
     Span.bad u (engCopy 0) 1 ⟨0, dLen d, true⟩ = none) :=
  ⟨dsp_is (desc 1 [(0x14, 4, 4), (0x20, 8, 9), (0x28, 8, 9), (0x30, 8, 33554428), (0x38, 8, 0)]) obj9, by decide⟩

theorem witness_TransferCommands_b :
    (let d := desc 2 [(0x14, 4, 8), (0x20, 8, 9), (0x28, 8, 33554424), (0x30, 8, 1)]
     let s := dsp d obj9
     let u : State := { begun s with front := { (begun s).front with jobs := [(7, { jobFor d with status := .waiting, copyEngine := some 0, servedAt := some s.time.tick })] } }
     dispatchedAs s 7 2 (jobFor d) ∧ objRange s (d8 d 0x20) (dOff d 0x28) (dLen d) = (0, 33554424) ∧
     Span.bad u (engCopy 0) 1 ⟨33554424, dLen d, true⟩ = none) ∧
    (let d := desc 0x33 [(0x14, 4, 32), (0x20, 8, 33554400)]
     let s := dsp d obj9
     let u : State := { begun s with front := { (begun s).front with jobs := [(7, { jobFor d with status := .waiting, copyEngine := some 0, servedAt := some s.time.tick })] } }
     dispatchedAs s 7 0x33 (jobFor d) ∧ Span.bad u (engCopy 0) 1 ⟨d8 d 0x20, dLen d, false⟩ = none) :=
  ⟨⟨dsp_is (desc 2 [(0x14, 4, 8), (0x20, 8, 9), (0x28, 8, 33554424), (0x30, 8, 1)]) obj9, by decide⟩,
   dsp_is (desc 0x33 [(0x14, 4, 32), (0x20, 8, 33554400)]) obj9, by decide⟩

theorem witness_PlainCommands_a :
    (dispatchedAs (dsp (desc 0 []) id) 7 0 (jobFor (desc 0 [])) ∧ dispatchedAs (dsp (desc 0x40 []) id) 7 0x40 (jobFor (desc 0x40 [])) ∧
     (jobFor (desc 0x40 [])).start = some 1024) ∧
    (let d := desc 0x41 [(0x14, 4, 8), (0x20, 8, 9)]
     dispatchedAs (dsp d obj9) 7 0x41 (jobFor d) ∧ objRange (begun (dsp d obj9)) (d8 d 0x20) (dOff d 0x28) 8 = (0, 0)) ∧
    (let d := desc 0x14 [(0x14, 4, 64)]
     dispatchedAs (dsp d id) 7 0x14 (jobFor d) ∧ dispatchedAs (dsp d (fe (fun f => { f with capBusy := true }))) 7 0x14 (jobFor d)) ∧
    (let d := desc 3 [(0x14, 4, 2), (0x20, 8, 9)]
     let s := dsp d obj9
     dispatchedAs s 7 3 (jobFor d) ∧ objRange (begun s) (d8 d 0x20) (dOff d 0x28) (64 * dLen d) = (0, 0) ∧
     (List.range (dLen d)).all (fun k => (vaRead (begun s) 1 (0 + 64 * k) 64).1 == 0 && bufferItemOk (begun s) (vaRead (begun s) 1 (0 + 64 * k) 64).2) = true) :=
  ⟨⟨dsp_is (desc 0 []) id, dsp_is (desc 0x40 []) id, rfl⟩, ⟨dsp_is (desc 0x41 [(0x14, 4, 8), (0x20, 8, 9)]) obj9, by decide⟩,
   ⟨dsp_is (desc 0x14 [(0x14, 4, 64)]) id, dsp_is (desc 0x14 [(0x14, 4, 64)]) _⟩, dsp_is (desc 3 [(0x14, 4, 2), (0x20, 8, 9)]) obj9, by decide⟩

theorem witness_PlainCommands_b :
    (let x : Job := { admin := true, desc := desc 0x14 [(0x14, 4, 64)] }
     let s : State := { base with front := { jobs := [(7, x)], executing := some 7 } }
     dispatchedAs s 7 0x14 x ∧ s.front.capBusy = false ∧ x.admin = true) ∧
    (let d := desc 0x32 [(0x14, 4, 65536), (0x20, 8, 9), (0x30, 8, 63 + 256)]
     let s := dsp d obj9
     dispatchedAs s 7 0x32 (jobFor d) ∧ objRange (begun s) (d8 d 0x20) (dOff d 0x28) (dLen d) = (0, 0) ∧
     bits (d8 d 0x30) 0 6 + bits (d8 d 0x30) 8 8 ≤ 64 ∧ dLen d ≤ bits (d8 d 0x30) 8 8 * 65536 ∧ codebookUsed s 63 1 = false ∧ 64 < 63 + 2) :=
  ⟨⟨⟨rfl, rfl, rfl, rfl⟩, by decide⟩, dsp_is (desc 0x32 [(0x14, 4, 65536), (0x20, 8, 9), (0x30, 8, 63 + 256)]) obj9, by decide⟩

/-- The smallest step program: one block, one variant, no tasks. -/
def image : List Byte := block 208 [(0, 4, 0x4A4A5350), (4, 2, 1), (6, 2, 1), (8, 8, 208), (0x14, 4, 1000), (0x20, 8, 128), (128, 8, 144)]

/-- A state in which page 0 of context 1 holds some bytes. -/
def holding (bs : List Byte) (s : State) : State := { obj9 s with mem := { s.mem with hbm := wrBytes [] 17179869184 bs } }

theorem witness_ProgramCommands_a :
    (let d := desc 0x20 [(0x20, 8, 9)]
     let s := dsp d (holding image)
     let u := touchRead (begun s) engFront 1 0 208
     dispatchedAs s 7 0x20 (jobFor d) ∧ vaRead (begun s) 1 (objOf s 9).va.toNat 128 = (0, image.take 128) ∧
     vaRead (begun s) 1 (objOf s 9).va.toNat 208 = (0, image) ∧ imgBytes (image.take 128) = 208 ∧ 208 ≤ (objOf s 9).size.toNat ∧
     loadCode u 1 9 image = 0 ∧ loadCode u 1 9 (putAt image 0 [0]) ≠ 0) :=
  ⟨dsp_is (desc 0x20 [(0x20, 8, 9)]) _, by decide⟩

/-- Context 1 has loaded that program as number 9. -/
def loaded (s : State) : State := { s with steps := { s.steps with programs := [(9, { ctx := 1, part := 1, image := image })] } }

theorem witness_ProgramCommands_b :
    (let d := desc 0x21 [(0x20, 8, 9)]
     dispatchedAs (dsp d loaded) 7 0x21 (jobFor d)) ∧
    (let d := desc 4 [(0x14, 4, 1), (0x20, 8, 9)]
     let s := dsp d loaded
     dispatchedAs s 7 4 (jobFor d) ∧ (mfind s.steps.programs 9).isSome = true ∧ imgGroup image = (ctxOf s 1).group ∧
     bits (d8 d 0x30) 0 4 < imgVariants image ∧ (settleLaunch image d (s.front.lastDispatch.getD s.time.tick)).1 = 0) :=
  ⟨dsp_is (desc 0x21 [(0x20, 8, 9)]) _, dsp_is (desc 4 [(0x14, 4, 1), (0x20, 8, 9)]) _, by decide⟩

/-- Group 255 is context 1's, with epoch 6 active. -/
def grouped (g : EpochGroup) (s : State) : State := { s with upd := { s.upd with groups := [(255, { g with valid := true, ctx := 1, active := 6 })] } }

theorem witness_UpdateCommands_a :
    (let d := desc 0x34 [(0x20, 8, 255 + 255 * 256)]
     let s := dsp d (grouped {})
     dispatchedAs s 7 0x34 (jobFor d) ∧ (mget s.upd.streams 255).bound = false ∧ ownGroup s 1 255 = true ∧ ownGroup (dsp d id) 1 255 = false) ∧
    (let d := desc 0x35 [(0x20, 8, 255)]
     let s := dsp d (fun s => { s with upd := { s.upd with streams := [(255, { ctx := 1, bound := true })] } })
     dispatchedAs s 7 0x35 (jobFor d) ∧ (mget s.upd.streams 255).bound = true ∧ (mget s.upd.streams 255).ctx = 1 ∧
     (mget (dsp d id).upd.streams 255).bound = false) ∧
    (let d := desc 0x36 [(0x20, 4, 255), (0x24, 4, 7)]
     let s := dsp d (grouped {})
     dispatchedAs s 7 0x36 (jobFor d) ∧ ownGroup s 1 255 = true ∧ d4 d 0x24 = (groupOf s 255).active + 1 ∧ ownGroup (dsp d id) 1 255 = false) :=
  ⟨⟨dsp_is (desc 0x34 [(0x20, 8, 255 + 255 * 256)]) _, by decide⟩, ⟨dsp_is (desc 0x35 [(0x20, 8, 255)]) _, by decide⟩,
   dsp_is (desc 0x36 [(0x20, 4, 255), (0x24, 4, 7)]) _, by decide⟩

theorem witness_UpdateCommands_b :
    (let s := fe (fun f => { f with jobs := [(7, { status := .waiting })] }) (grouped { sealJobs := [7], staging := .opened } base)
     (groupOf s 255).sealJobs = [7] ∧ sealReady s 255 7 = true ∧ jobOf s 7 = some { status := .waiting } ∧ (groupOf s 255).announced = none) ∧
    (let s := fe (fun f => { f with jobs := [(7, { status := .waiting })] }) (grouped { sealJobs := [7], staging := .opened, announced := some (7, 1025, 1048576) } base)
     (groupOf s 255).sealJobs = [7] ∧ sealReady s 255 7 = true ∧ jobOf s 7 = some { status := .waiting } ∧
     (groupOf s 255).announced = some (7, 1025, 1048576) ∧ (groupOf s 255).armed = none ∧ s.time.tick < 1025) ∧
    (let d := desc 0x37 [(0x20, 4, 255), (0x24, 4, 7), (0x28, 8, 1024)]
     let s := dsp d (grouped {})
     dispatchedAs s 7 0x37 (jobFor d) ∧ (jobFor d).start = some 1024 ∧ 1024 + domainB s ≤ d8 d 0x28 ∧ ownGroup s 1 255 = true ∧
     (groupOf s 255).armed = none ∧ (groupOf s 255).announced = none ∧ d4 d 0x24 = (groupOf s 255).active + 1 ∧
     (groupOf s 255).active + 1 < 2 ^ 32 ∧ 2 * domainB s ≤ 1048576 ∧
     d8 (desc 0x37 [(0x28, 8, 1023)]) 0x28 < 1024 + domainB s ∧ (groupOf (dsp d (grouped { armed := some (2000, 1048576) })) 255).armed ≠ none) :=
  ⟨by decide, by decide, dsp_is (desc 0x37 [(0x20, 4, 255), (0x24, 4, 7), (0x28, 8, 1024)]) _, by decide⟩

/-- A parameter block for context 4095 on partition 1. -/
def params : List Byte :=
  block 128 [(0, 4, 4095 + 65536), (8, 4, 1), (0x14, 4, 1 + 65536), (0x28, 8, 6), (0x68, 8, 6), (0x78, 8, 6)]

/-- Host bytes at address 0. -/
def hostBytes (bs : List Byte) (s : State) : State := { s with mem := { s.mem with host := wrBytes [] 0 bs } }

theorem witness_ContextCommands_a :
    (let d := desc 0x80 []
     let s := dsp d (hostBytes params)
     dispatchedAs s 7 0x80 (jobFor d) ∧ createCode (begun s) (rdBytes s.mem.host 0 128) = 0 ∧ bits (fieldAt params 0 4) 0 12 = 4095 ∧
     createCode (begun (dsp d id)) (rdBytes [] 0 128) ≠ 0) ∧
    (let d := desc 0x81 [(0x20, 8, 1)]
     dispatchedAs (dsp d id) 7 0x81 (jobFor d) ∧ (ctxOf (dsp d id) 1).state ≠ .free ∧ (ctxOf (dsp d id) 1).state ≠ .destroying ∧
     (ctxOf (dsp d id) 2).state = .free) ∧
    (let s : State := { base with front := { ctxs := [(4095, { state := .destroying, abort := some { job := some 7, forced := true } })], jobs := [(7, { status := .waiting })] } }
     (4095 : Nat) < 4096 ∧ (ctxOf s 4095).state = .destroying ∧ ctxReleased s 4095 = true ∧ jobOf s 7 = some { status := .waiting } ∧
     (ctxOf s 4095).abort.map (fun a => (a.job, a.forced)) = some (some 7, true)) :=
  ⟨⟨dsp_is (desc 0x80 []) _, by decide⟩, ⟨dsp_is (desc 0x81 [(0x20, 8, 1)]) _, by decide⟩, by decide⟩

theorem witness_ContextCommands_b :
    (let d := desc 0x87 [(0x20, 4, 1), (0x24, 4, 1000), (0x28, 4, 15 + 16)]
     let s := dsp d id
     dispatchedAs s 7 0x87 (jobFor d) ∧ schedCode (begun s) 1 1000 15 1 false = 0 ∧ schedCode (begun s) 1 1001 15 1 false ≠ 0) ∧
    (let d := desc 0x88 [(0x20, 4, 1), (0x24, 4, 9), (0x28, 4, 700)]
     let s := dsp d loaded
     dispatchedAs s 7 0x88 (jobFor d) ∧ (ctxOf s 1).state ≠ .free ∧ s.steps.programs.any (fun e => e.1 == d4 d 0x24 && e.2.ctx == 1) = true ∧
     d4 d 0x28 ≠ 0 ∧ d4 (desc 0x88 []) 0x28 = 0) ∧
    (let d := desc 0x89 [(0x14, 4, 1), (0x20, 4, 4095)]
     dispatchedAs (dsp d id) 7 0x89 (jobFor d) ∧ dLen d ≠ 0 ∧ 4095 + dLen d ≤ 4096) ∧
    (let d := desc 0x90 [(0x20, 8, 1)]
     let s := dsp d (fe (fun f => { f with ctxs := [(1, { state := .broken })] }))
     dispatchedAs s 7 0x90 (jobFor d) ∧ (ctxOf s 1).state = .broken ∧ (ctxOf s 1).holding = [] ∧ (ctxOf (dsp d id) 1).state ≠ .broken) ∧
    (let d := desc 0x91 [(0x20, 4, 1 + 3 * 4096), (0x24, 4, 60000000), (0x28, 8, 255)]
     dispatchedAs (dsp d id) 7 0x91 (jobFor d) ∧ (ctxOf (dsp d id) 1).state ≠ .free ∧ bits (d4 d 0x24) 0 26 ≤ 60000000) :=
  ⟨⟨dsp_is (desc 0x87 [(0x20, 4, 1), (0x24, 4, 1000), (0x28, 4, 15 + 16)]) _, by decide⟩,
   ⟨dsp_is (desc 0x88 [(0x20, 4, 1), (0x24, 4, 9), (0x28, 4, 700)]) _, by decide⟩,
   ⟨dsp_is (desc 0x89 [(0x14, 4, 1), (0x20, 4, 4095)]) _, by decide⟩, ⟨dsp_is (desc 0x90 [(0x20, 8, 1)]) _, by decide⟩,
   dsp_is (desc 0x91 [(0x20, 4, 1 + 3 * 4096), (0x24, 4, 60000000), (0x28, 8, 255)]) _, by decide⟩

/-- A partition block: a partition and its core mask. -/
def partBlock (p mask : Nat) : List Byte := block 32 [(0, 4, p), (8, 8, mask)]

theorem witness_PartitionCommands_a :
    (let d := desc 0x82 []
     let s := dsp d (hostBytes (partBlock 63 (2 ^ 63)))
     dispatchedAs s 7 0x82 (jobFor d) ∧ (readPartBlock s 0).partition = 63 ∧ (partOf s 63).state = .absent ∧
     masksOk (begun s) (readPartBlock s 0) = true ∧ masksOk (begun (dsp d (hostBytes (partBlock 63 0)))) (readPartBlock (dsp d (hostBytes (partBlock 63 0))) 0) = false ∧
     (partOf s 1).state ≠ .absent) ∧
    (let d := desc 0x83 []
     let s := dsp d (hostBytes (partBlock 1 (2 ^ 63)))
     dispatchedAs s 7 0x83 (jobFor d) ∧ (readPartBlock s 0).partition = 1 ∧ (partOf s 1).state = .active ∧ (partOf s 1).resize = none ∧ (partOf s 1).resizeRest = none ∧
     (partOf s 1).destroyJob = none ∧ resizeOk (begun s) (readPartBlock s 0) = true ∧
     resizeOk (begun (dsp d (hostBytes (partBlock 1 0)))) (readPartBlock (dsp d (hostBytes (partBlock 1 0))) 0) = false) ∧
    (let d := desc 0x84 [(0x20, 8, 1)]
     let s := dsp d (fe (fun f => { f with ctxs := [] }))
     dispatchedAs s 7 0x84 (jobFor d) ∧ (partOf s 1).state = .active ∧ (partOf s 1).destroyJob = none ∧ (partOf s 1).group = none ∧
     ctxsOf (begun s) 1 = [] ∧ ctxsOf (begun (dsp d id)) 1 ≠ []) :=
  ⟨⟨dsp_is (desc 0x82 []) _, by decide⟩, ⟨dsp_is (desc 0x83 []) _, by decide⟩, dsp_is (desc 0x84 [(0x20, 8, 1)]) _, by decide⟩

/-- A block of a domain of two. -/
def member (s : State) : State := { s with start := { s.start with record := { s.start.record with domainMember := true, extent := { x := 2, y := 1, z := 1 } } } }

theorem witness_PartitionCommands_b :
    (let d := desc 0x85 [(0x20, 8, 1), (0x28, 8, 64)]
     let s := dsp d (fun s => hostBytes (block 128 [(64, 2, 5), (66, 2, 1), (72, 8, 0)]) (member s))
     dispatchedAs s 7 0x85 (jobFor d) ∧ memberBit s = true ∧ (partOf s 1).state = .active ∧ (partOf s 1).group = none ∧
     (readGroup (begun s) 64).isSome = true ∧ memberBit (dsp d id) = false ∧ readGroup (begun (dsp d member)) 64 = none ∧ (partOf s 2).state ≠ .active) ∧
    (let d := desc 0x86 [(0x20, 8, 1)]
     let s := dsp d (fun s => { s with parts := { parts := [(1, { state := .active, group := some {} })] } })
     dispatchedAs s 7 0x86 (jobFor d) ∧ (partOf s 1).group ≠ none ∧ hasGroupCtx s 1 = false ∧ (partOf (dsp d id) 1).group = none) ∧
    (let d := desc 0x8A [(0x14, 4, 512), (0x20, 8, 1), (0x28, 8, 0)]
     dispatchedAs (dsp d id) 7 0x8A (jobFor d) ∧ (partOf (dsp d id) 1).state = .active ∧ dLen d = 512) ∧
    (let d := desc 0x8B [(0x14, 4, 512), (0x20, 8, 1), (0x28, 8, 0)]
     dispatchedAs (dsp d id) 7 0x8B (jobFor d) ∧ (partOf (dsp d id) 1).state ≠ .absent ∧ dLen d = 512) :=
  ⟨⟨dsp_is (desc 0x85 [(0x20, 8, 1), (0x28, 8, 64)]) _, by decide⟩, ⟨dsp_is (desc 0x86 [(0x20, 8, 1)]) _, by decide⟩,
   ⟨dsp_is (desc 0x8A [(0x14, 4, 512), (0x20, 8, 1), (0x28, 8, 0)]) _, by decide⟩,
   dsp_is (desc 0x8B [(0x14, 4, 512), (0x20, 8, 1), (0x28, 8, 0)]) _, by decide⟩

/-- Page 0 of lane unit 4 exists, belongs to partition 1, and can be granted to it. -/
theorem witness_PartitionCommands_c :
    (let d := desc 0x8A [(0x14, 4, 1), (0x20, 8, 1), (0x28, 8, 2048)]
     let s : State := { base with bound := { base.bound with stackUp := 0xFFFFF, spCfg := [(1, 48)] }, parts := { parts := [(1, { state := .active, luMask := 16 })] } }
     dPages d = [2048] ∧ (dPages d).all (pageGrantable s 1) = true ∧ (dPages d).all (pageGrantable base 1) = false) ∧
    (let d := desc 0x8B [(0x14, 4, 1), (0x20, 8, 1), (0x28, 8, 2048)]
     let s : State := { base with bound := { base.bound with stackUp := 0xFFFFF, spCfg := [(1, 48)] }, parts := { parts := [(1, { state := .active, luMask := 16 })], pageOwn := [(2048, 1)] } }
     (dPages d).all (fun i => pageExists s i && pageOwner s i == 1) = true ∧ (dPages d).all (fun i => pageExists base i && pageOwner base i == 1) = false) := by decide

theorem witness_ResetsAndWatchdog :
    (let a : Abort := { job := some 7, since := 0 }
     let s : State := { base with time := { tick := 1400000 }, front := { ctxs := [(4095, { state := .destroying, abort := some a })] } }
     (ctxOf s 4095).abort = some a ∧ (ctxOf s 4095).state = .destroying ∧ a.job ≠ none ∧ a.forced = false ∧ a.since + 1400000 ≤ s.time.tick) ∧
    (ctxOf base 1).state ≠ .destroying ∧
    (let s : State := { base with parts := { parts := [(63, { resetUntil := some 1024 })] } }
     (partOf s 63).resetUntil = some 1024 ∧ s.time.tick ≤ 1024) ∧
    (let s : State := { base with parts := { parts := [(63, { resetUntil := some 1023 })] } }
     (partOf s 63).resetUntil = some 1023 ∧ 1023 < s.time.tick) ∧
    (fnCtxs base 15 true = [] ∧ 0 < (15 : Nat) ∧ (15 : Nat) < 16) ∧
    dispatchedAs (dsp (desc 0x8C [(0x20, 8, 3)]) id) 7 0x8C (jobFor (desc 0x8C [(0x20, 8, 3)])) ∧
    (let s : State := { base with bound := { base.bound with instResets := [(15, 0, none)] } }
     s.bound.instResets = [(15, 0, none)] ∧ fnCtxs s 15 true = []) ∧
    (let s : State := { base with time := { tick := 1400000 }, bound := { base.bound with instResets := [(3, 0, none)] } }
     s.bound.instResets = [(3, 0, none)] ∧ 0 + 1400000 ≤ s.time.tick ∧ fnCtxs s 3 true = [1] ∧ (ctxOf s 1).partition < 64) :=
  ⟨by decide, by decide, by decide, by decide, by decide, dsp_is (desc 0x8C [(0x20, 8, 3)]) _, by decide, by decide⟩

/-- A bound table of one row, numbered 9, in object 10. -/
def tdesc (shard : Nat) : List Byte := block 64 [(0, 4, 9), (4, 4, 16 + 4 * 65536), (8, 8, 2 ^ 56 + 10), (0x10, 5, 1), (0x22, 2, shard)]

/-- Context 1 holds that descriptor in object 9 and owns object 10, one page of stack 4. -/
def binding (shard : Nat) (s : State) : State :=
  let t := holding (tdesc shard) s
  { t with bound := { t.bound with stackUp := 0xFFFFF, spCfg := [(1, 48)] }, regs := (setF t tuValid 1).regs,
           trans := { t.trans with pasidCache := [(0, 1)] }, parts := { t.parts with pageOwn := [(512, 1), (2048, 1)] },
           front := { t.front with objs := [(9, { size := 33554432, allocated := true, ctx := 1 }),
                                            (10, { va := 2 ^ 36, size := 33554432, type := 1, gen := 0, allocated := true, ctx := 1 })] } }

set_option maxRecDepth 40000 in
theorem witness_TableCommands_a :
    (let d := desc 0x30 [(0x20, 8, 9)]
     let s := dsp d (binding 0xFFFF)
     let u := touchRead (begun s) engFront 1 0 64
     let t : Table := { desc := tdesc 0xFFFF |>.take 64, ctx := 1, part := 1, obj := 10, bindJob := some 7 }
     dispatchedAs s 7 0x30 (jobFor d) ∧ objRange (begun s) (d8 d 0x20) (dOff d 0x28) 64 = (0, 0) ∧ vaRead (begun s) 1 0 64 = (0, tdesc 0xFFFF) ∧
     bindCode u 1 9 { t with desc := ownDesc (tdesc 0xFFFF) 1 } = 0 ∧ (walkPages u 1 (objPages (objOf u 10))).1 = 0 ∧ (pmapRoom u 1).isSome = true ∧
     bindCode u 1 9 { t with desc := ownDesc (tdesc 5) 1 } ≠ 0) :=
  ⟨dsp_is (desc 0x30 [(0x20, 8, 9)]) _, by decide⟩

/-- Table 65535 of context 1 on partition 1. -/
def tabled (f : Table → Table) (s : State) : State :=
  { s with emb := { s.emb with tables := [(65535, f { desc := tdesc 0xFFFF, ctx := 1, part := 1, obj := 10 })] } }

theorem witness_TableCommands_b :
    (let d := desc 0x31 [(0x20, 8, 65535)]
     dispatchedAs (dsp d (tabled id)) 7 0x31 (jobFor d) ∧ (tableFor (dsp d (tabled id)) 1 65535).isSome = true ∧ tableFor (dsp d id) 1 65535 = none) ∧
    (let s : State := { tabled id base with upd := { catchup := [65535] } }
     (tableOf s 65535).isSome = true ∧ 65535 ∈ s.upd.catchup ∧ 65535 ∉ (tabled id base).upd.catchup) ∧
    deltaTables (tabled id base) 7 = [] ∧
    (let t : Table → Table := fun t => { t with desc := putAt t.desc 4 (leBytes 4 (16 + 4 * 65536 + 2 ^ 23 + 7 * 2 ^ 24)) }
     deltaTables (tabled t base) 7 = [65535] ∧ (tableOf (tabled t base) 65535).isSome = true) ∧
    (let u := fun s => resetsDue (latchDue s)
     let s := u (grouped { armed := some (1024, 5) } base)
     let t := u (grouped { announced := some (7, 1024, 5) } base)
     (groupOf s 255).armed = some (1024, 5) ∧ 1024 ≤ s.time.tick ∧ (groupOf (u (grouped { armed := some (1025, 5) } base)) 255).armed = some (1025, 5) ∧
     s.time.tick < 1025 ∧
     (groupOf t 255).armed = none ∧ (groupOf t 255).announced = some (7, 1024, 5) ∧ (groupOf t 255).missed = false ∧ 1024 ≤ t.time.tick ∧
     (groupOf (u (grouped { announced := some (7, 1024, 5), missed := true } base)) 255).missed = true) :=
  ⟨⟨dsp_is (desc 0x31 [(0x20, 8, 65535)]) _, by decide⟩, by decide⟩

/-- Partition 1 runs a step. -/
def stepping (r : StepRun) (s : State) : State := { s with steps := { s.steps with running := [(1, r)] } }
/-- One submission to partition 1. -/
def submitted (u : Submission) (s : State) : State := { s with steps := { s.steps with subs := [{ u with part := 1 }] } }
/-- A run of context 1 in which nothing is to be reported at tick 1024. -/
def run1 : StepRun := { ctx := 1, base := 1000, deadline := 24, maxSlips := 1 }

theorem witness_StepSchedule_a :
    (atBoundary base 63 = true ∧ atBoundary (stepping run1 base) 1 = false) ∧
    (let u := fireBefore 6 (submitted { next := 1024 } base)
     dueSubs u 1 ≠ [] ∧ launchesOn u = true ∧ dueSubs (fireBefore 6 (submitted { next := 1025 } base)) 1 = []) ∧
    (let u : Submission := { group := true, next := 1024 }
     u.index < u.count ∧ u.next ≤ base.time.tick + groupLead base 1 ∧ u.judged ≠ some u.next ∧ u.claimDone = false ∧
     u.next ≤ base.time.tick + groupLead base 1 + 8192) ∧
    (let s : State := stepping run1 { base with cores := [(1, { part := 1, task := some 0 })] }
     runOf s 1 = some run1 ∧ (corePoints s 1 run1 1).filter (fun d => decide (d ≤ s.time.tick) && !notMissed s 1 run1 d) = [1024] ∧
     (corePoints s 1 run1 0).filter (fun d => decide (d ≤ s.time.tick) && !notMissed s 1 run1 d) = [] ∧ run1.slips < run1.maxSlips ∧
     ({ run1 with slips := 1 } : StepRun).maxSlips ≤ ({ run1 with slips := 1 } : StepRun).slips) ∧
    (let s : State := { base with parts := { parts := [(1, { slips := [{ tEff := 1024 }] })] } }
     let u := fireBefore 4 s
     (partOf u 1).slips = [{ tEff := 1024 }] ∧ 1024 ≤ u.time.tick) ∧
    (let a : ArmedAction := { kind := .idleInsertion, scope := 63, tick := 1024 }
     let v := fireBefore 5 { base with time := { base.time with armed := [a] } }
     v.time.armed = [a] ∧ a.kind = .idleInsertion ∧ a.scope = 63 ∧ a.tick ≤ v.time.tick) ∧
    (let s : State := { base with parts := { parts := [(63, { holder := some 4, sliceEnd := 1024 })] } }
     (partOf s 63).holder = some 4 ∧ (partOf s 63).sliceOver = false ∧ (partOf s 63).claimed = false ∧ (partOf s 63).sliceEnd ≤ s.time.tick) ∧
    (let r : StepRun := { run1 with tasks := [{ state := .saved }, { state := .halted }] }
     let s : State := stepping r { base with parts := { parts := [(1, { claimed := true })] } }
     runOf s 1 = some r ∧ mayLeave s 1 r = true) ∧
    (let r : StepRun := { run1 with lossAt := [(59, 1024)] }
     runOf (stepping r base) 1 = some r ∧ r.lossAt = [(59, 1024)]) := by decide

/-- A feature of table 65535 with one bag of one ID. -/
def feat : FeatureRun := { tableId := 65535, readyAt := 1024 }

theorem witness_LookupCommands_a :
    (let r : StepRun := { run1 with features := [feat] }
     let s := tabled id (stepping r base)
     runOf s 1 = some r ∧ r.features[0]? = some feat ∧ feat.ready = false ∧ 0 < feat.batch ∧ lookupWaits s 1 r 0 feat 0 0 .good = false ∧ (ticking 1023).time.tick < feat.readyAt ∧ feat.readyAt ≤ s.time.tick ∧
     (let f := { feat with lengths := [(0, 1)] }
      featureResolved s 1 { r with features := [f] } f = (0, true) ∧ (tableFor s 1 65535).isSome = true) ∧
     (let f := { feat with offsetsVa := 0x4000000000000000 }
      (featureResolved s 1 { r with features := [f] } f).1 ≠ 0)) ∧
    (let q : Promotion := { table := 65535, row := 0 }
     let s := tabled id { base with emb := { promos := [q] } }
     s.emb.promos.find? (fun q => q.table == 65535 && q.row == 0 && promoTurn s q) = some q ∧
     (tableOf s 65535).map (fun t => ownerOf s t 0) = some (none, 0)) ∧
    ((ticking (2 ^ 48)).time.tick % 2 ^ max 16 (getF (ticking (2 ^ 48)) eeDecayLog2) = 0 ∧ rising (ticking (2 ^ 48)).emb.sketch = true ∧
     base.time.tick % 2 ^ max 16 (getF base eeDecayLog2) ≠ 0) ∧
    getF (setF base eeSketchClear 1) eeSketchClear = 1 := by decide

/-- The second feature's ID is another block's, and the first feature's are not all resolved. -/
theorem witness_LookupCommands_waits :
    (let r : StepRun := { run1 with features := [feat, { feat with lengths := [(0, 1)] }] }
     let s := tabled (fun t => { t with desc := tdesc 255 }) (stepping r { base with trans := { utlb := [(engStack (laneUnit base 1 / 4), [{ pa := 17179869184 }])] }, parts := { base.parts with parts := [(1, { state := .active, shardMaps := [(255, [5])] })] } })
     let f : FeatureRun := { feat with lengths := [(0, 1)] }
     runOf s 1 = some r ∧ r.features[1]? = some f ∧ f.ready = false ∧ 0 < f.batch ∧ lookupWaits s 1 r 1 f 0 0 .good = true) := by decide

theorem witness_LookupCommands_b :
    (let others := fun (s : State) (p : Nat) => (List.range 64).foldl (fun n k => if k = p then n else n + getF s eeQuotaUnits k) 0
     hasCrimson base = true ∧ others base 63 + (0xC00 : W32).toNat % 4096 ≤ crimsonUnits base ∧ crimsonUnits base < others base 63 + (0xC01 : W32).toNat % 4096 ∧
     crimsonUsed (setF base eeQuotaUnits 0xC00 63) 63 ≤ crimsonQuota (setF base eeQuotaUnits 0xC00 63) 63 ∧
     hasCrimson { base with start := { base.start with shadow := some { variant := .jujorS } } } = false) ∧
    (let m : List Byte := block 256 [(6, 2, 1), (0x20, 8, 64), (64, 8, 96), (96 + 14, 2, 1), (96 + 0x20, 8, 160), (160, 4, 65535)]
     let r : StepRun := { ctx := 1, program := 9, group := true, inRecords := [(0, [(0, 0), (2 ^ 40, 0)])] }
     let s : State := tabled id { base with steps := { programs := [(9, { image := m })], running := [(1, r)] } }
     let v := varEntry (runEntry s 1 r).1 0 r.variant
     let f := imgFeature (runEntry s 1 r).1 v 0 0
     let u := updRun s 1 (fun y => { y with inRecords := mset y.inRecords 0 ((mget r.inRecords 0).filter (fun x => recordFeature x != 0)) })
     runOf s 1 = some r ∧ r.group = true ∧ 0 < v.features ∧ 0 < imgBlocks (runEntry s 1 r).1 ∧
     (mget r.inRecords 0).filter (fun x => recordFeature x == 0) ≠ [] ∧ (tableFor u r.ctx f.tableId).isSome = true ∧
     epochServedRemote (groupOf u (tdGroup (tdesc 0xFFFF))) 0 = true ∧ epochServedRemote (groupOf u (tdGroup (tdesc 0xFFFF))) 1 = false) ∧
    (let s : State := { base with front := { ctxs := [(1, { stepNext := 1 })] }, emb := { carries := [{ part := 63, ctx := 1 }] } }
     carryDue s 63 = some { part := 63, ctx := 1 }) := by decide

theorem witness_IdsFindTheirRows :
    (let r : StepRun := { run1 with features := [feat] }
     let s := fun f => tabled (fun t => { t with desc := putAt t.desc 4 (leBytes 4 (16 + 4 * 65536 + f)) }) (stepping r base)
     let d := fun f => putAt (tdesc 0xFFFF) 4 (leBytes 4 (16 + 4 * 65536 + f))
     (tableFor (s 0) 1 65535).map (·.desc) = some (d 0) ∧ runOf (s 0) 1 = some r ∧ r.features[0]? = some feat ∧ tdHashed (d 0) = false ∧
     0 < tdRows (d 0) ∧ tdRows (d 0) ≤ 1 ∧ tdSubst (d 0) = false ∧ tdSubst (d (2 ^ 21)) = true ∧ tdHashed (d (2 ^ 21)) = false ∧
     tdHashed (d (2 ^ 20)) = true ∧ 0 < tdRows (d (2 ^ 20))) := by decide

theorem witness_RowsHaveOwners :
    (let s : State := { base with parts := { parts := [(1, { shardMaps := [(255, [0, 5])] })] } }
     let t : Table := { desc := tdesc 255, part := 1 }
     tdShard (tdesc 0xFFFF) = 0xFFFF ∧ tdShard t.desc ≠ 0xFFFF ∧ (mget (partOf s 1).shardMaps (tdShard t.desc))[2 % 2]? = some 0 ∧
     (mget (partOf s 1).shardMaps (tdShard t.desc))[3 % 2]? = some 5 ∧ 0 < tdRows t.desc ∧ 5 % shardCount s t = 3 % shardCount s t) := by decide

/-- Other link state. -/
def lnk (f : Links → Links) (s : State) : State := { s with links := f s.links }
/-- Port 59 in a state. -/
def p59 (p : Port) (s : State) : State := lnk (fun l => { l with ports := [(59, p)] }) s

theorem witness_LinkCommands_a :
    (let es := fun (v : W32) => (List.range 4).map (fun b => (4 * 127 + b, bits v.toNat (8 * b) 8))
     let next := fun (v : W32) (s : State) => (es v).foldl (fun m (e : Nat × Nat) => mput m e.1 e.2) s.links.nocNext
     let t := lnk (fun l => { l with nocOwn := (List.range 381).map (fun i => (i, 1)) }) base
     base.bound.hostAnswers = true ∧ nocOwned (next 0xFF3F0001 base) base ≤ 384 ∧ (es 0xFF3F0001).all (fun e => ownerOk e.2) = true ∧
     384 < nocOwned (next 0x01010101 t) t) ∧
    portPresent base 59 = true ∧
    (let e : BeFlit := { sentAt := some 0, resends := 15 }
     let s := fun (e : BeFlit) => p59 { retry := [e] } (ticking 2048)
     (portOf (s e) 59).retry = [e] ∧ e.sentAt = some 0 ∧ 0 + 2048 ≤ (s e).time.tick ∧ (∀ x ∈ [e], x.sentAt ≠ none → x.resends < 16) ∧
     16 ≤ { e with resends := 16 }.resends ∧ (ticking 2047).time.tick < 0 + 2048 ∧ (portOf base 59).retry = []) ∧
    (let p : BePacket := { born := 24 }
     let s := lnk (fun l => { l with beOut := [p] }) { base with time := { tick := 1000024 } }
     s.links.beOut[0]? = some p ∧ p.born + 1000000 ≤ s.time.tick ∧ p.src = s.start.record.coord ∧ (ticking 1000023).time.tick < p.born + 1000000) ∧
    ((portOf (p59 { up := true } base) 59).up = true ∧ (portOf base 59).up = false ∧ (portOf base 59).out = false) := by decide +kernel

/-- What partition 1 sends when it is due at tick 1024: a stream of every kind. -/
theorem witness_LinkCommands_sends :
    (let t : StreamRun := { number := 65535, kind := 3, slots := [24], sends := [(0, 0, 1008, 0)] }
     let r : StepRun := { run1 with streams := [t] }
     let v := fireBefore 7 (stepping r base)
     runOf v 1 = some r ∧ streamOf r 65535 = some t ∧ sendDue v r t = true ∧ sendDue v r { t with slots := [25] } = false ∧ t.kind ≤ 3) ∧
    (let t : StreamRun := { number := 65535, kind := 6, slots := [24], sends := [(0, 0, 1008, 0)] }
     let r : StepRun := { run1 with streams := [t] }
     let v := fireBefore 7 (stepping r base)
     runOf v 1 = some r ∧ streamOf r 65535 = some t ∧ sendDue v r t = true ∧ t.kind = 6) := by decide

/-- A flit of R211 with fields in its header and payload, its CRC in its place. -/
def wire (crc : Nat) (l : List (Nat × Nat × Nat)) : List Byte := block 256 ((12, 4, crc) :: l)

set_option maxRecDepth 100000 in
theorem witness_LinkCommands_b :
    (let w := wire 1233839543 [(0, 4, 35 * 32)]
     flitGood {} w = true ∧ flitGood { word1 := 2 } w = false ∧ bits (fieldAt w 0 4) 0 2 = 0) ∧
    (let m : List Byte := block 256 [(6, 2, 1), (0x20, 8, 64), (64, 8, 96), (96 + 0x30, 5, 160), (96 + 0x35, 3, 1), (160, 4, 2), (164, 4, 59 + 35 * 65536), (168, 4, 1), (176, 4, 1)]
     let s : State := { base with steps := { programs := [(9, { image := m })], running := [(1, { program := 9 })] } }
     (resvFor s 59 (slotTickOf s (bits (35 * 32) 15 6) (bits (35 * 32) 5 10))).isSome = true ∧ (nextSlot s 59).isSome = true ∧
     nextSlot base 59 = none ∧ resvFor base 59 64 = none ∧ (portOf s 59).out = false ∧ (portOf s 59).overBudget = false) ∧
    (let w := wire 1942027060 [(0, 4, 1)]
     flitGood {} w = true ∧ bits (fieldAt w 0 4) 0 2 = 1 ∧ (portOf (p59 { up := true } base) 59).up = true) := by decide +kernel

/-- A block of a domain at another place. -/
def elsewhere : Coord := { x := 63, y := 31, z := 31 }

theorem witness_PacketCommands :
    (let p : BeHeader := { src := elsewhere, dst := {}, flow := 255, seq := 2 ^ 32 - 1, flits := 64 }
     let s := lnk (fun l => { l with flowRx := [(flowKey elsewhere 5 255, 2 ^ 32 - 1)] }) base
     1 ≤ p.flits ∧ p.flits ≤ 64 ∧ p.dst = s.start.record.coord ∧ p.seq = mget s.links.flowRx (flowKey p.src 5 p.flow) ∧ s.links.flowHeld = []) ∧
    (let p : BeHeader := { src := elsewhere, seq := 2 ^ 31 - 1 }
     let s := lnk (fun l => { l with flowRx := [(flowKey elsewhere 0 0, 2 ^ 32 - 1)] }) base
     (2 ^ 31 ≤ ({ p with seq := 2 ^ 31 - 2 + 2 ^ 31 }.seq + 2 ^ 32 - mget s.links.flowRx (flowKey p.src 0 p.flow)) % 2 ^ 32)) ∧
    (elsewhere ≠ base.start.record.coord ∧ ({ flits := 0 } : BeHeader).flits = 0 ∧ 64 < ({ flits := 65 } : BeHeader).flits) := by decide

/-- Partition 63 is in placement group 65535. -/
def placed (s : State) : State := { s with parts := { parts := [(63, { state := .active, group := some { number := 65535 } })] } }

/-- Bytes of a control message of a type from `elsewhere`, number 65535, for group 65535, with its fields. -/
def ctl (type a b c : Nat) : List (Nat × Nat × Nat) :=
  [(0, 4, 2), (4, 4, type), (0x10, 2, 65535), (0x12, 2, 65535), (0x14, 2, 65535), (0x18, 8, a), (0x20, 8, b), (0x28, 8, c)]

set_option maxRecDepth 100000 in
/-- A message of each type whose flit is good. -/
theorem witness_MessageCommands_a :
    (let bs := wire 902559305 (ctl 2 (255 + 7 * 2 ^ 32) 1024 1000)
     flitGood {} bs = true ∧ bits (fieldAt bs 0 4) 0 2 = 2 ∧ (ctlRead bs).map (·.type) = some 2) ∧
    (let bs := wire 1493953087 (ctl 11 0 0 0)
     flitGood {} bs = true ∧ bits (fieldAt bs 0 4) 0 2 = 2 ∧ ctlRead bs = none) ∧
    [1, 2, 3, 4, 5, 6, 7, 8, 9, 10].all (fun k => (ctlRead (block 256 (ctl k 0 0 0))).map (fun m => m.type) == some k) = true ∧
    ctlRead (block 256 ((0x16, 2, 1) :: ctl 4 0 0 0)) = none := by decide +kernel

theorem witness_MessageCommands_b :
    (let m : CtlMsg := { type := 2, origin := elsewhere, seq := 65535 }
     let s := member base
     domainMember base = false ∧ domainMember s = true ∧ ctlSeen s m = false ∧ s.time.armed.length < 64 ∧
     ctlSeen { s with time := { s.time with seen := [(elsewhere, 65535, 0)] } } m = true ∧ ctlSeen s { m with origin := {} } = true ∧
     unpackCoord 0 = s.start.record.coord ∧ unpackCoord 65535 ≠ s.start.record.coord ∧
     groupParts (placed s) 65535 = [63] ∧ groupParts s 65535 = [] ∧
     (runOf { placed s with steps := { running := [(63, { group := true })] } } 63).isSome = true) := by decide

/-- Armed actions. -/
def armedAt (l : List ArmedAction) (s : State) : State := { s with time := { s.time with armed := l } }

theorem witness_DomainTimeCommands_a :
    (let s := p59 { up := true } (member base)
     domainMember s = true ∧ (portOf s 59).up = true ∧ (portOf base 59).up = false) ∧
    (base.time.tick % 65536 ≠ 0 ∧ domainMember (setF (member (ticking 65536)) tbMaster 1) = true ∧ (ticking 65536).time.tick % 65536 = 0 ∧
     getF (setF (member (ticking 65536)) tbMaster 1) tbMaster = 1) ∧
    (let s := setF (ticking 262144) tbSyncState 2
     getF s tbMaster = 0 ∧ getF s tbSyncState = 2 ∧ s.time.lastMarker + 262144 ≤ s.time.tick ∧ bestUpstream s = none ∧
     (ticking 262143).time.tick < s.time.lastMarker + 262144) ∧
    (let s := setF (ticking 60000000) tbSyncState 3
     getF s tbSyncState = 3 ∧ s.time.holdoverAt + 60000000 ≤ s.time.tick ∧ getF s tbUnaligned = 0 ∧ s.steps.running = [] ∧
     base.time.tick < base.time.holdoverAt + 60000000) ∧
    (let s := setF (ticking 524288) bcState 9
     let s : State := { s with start := { s.start with shadow := some {}, record := { domainMember := true, extent := { x := 2, y := 1, z := 1 }, ranks := [some elsewhere, some {}] } } }
     ownRank s = some 1 ∧ domainMember s = true ∧ getF s tbMaster = 0 ∧ 9 ≤ getF s bcState ∧ s.start.startTick + (4 + 4 * 1) * 65536 ≤ s.time.tick ∧
     rankSilent s 1 = true ∧ ownRank base = none) := by decide

theorem witness_DomainTimeCommands_b :
    (getF64 base tbSnapAtLo < base.time.tick ∧ (let s := setF base tbSnapAtLo 1024
     base.bound.hostAnswers = true ∧ s.time.tick ≤ getF64 s tbSnapAtLo ∧ getF s tbSnapDomain = 0 ∧ s.time.armed.length < 64) ∧
     64 ≤ (armedAt (List.replicate 64 {}) base).time.armed.length) ∧
    (let a : ArmedAction := { kind := .snapshot, tick := 1024, number := 255 }
     let s := armedAt [a] base
     s.time.armed = [a] ∧ a.kind = .snapshot ∧ a.own = false ∧ a.tick ≤ s.time.tick ∧ (ticking 1023).time.tick < a.tick ∧ (armedAt [a] (ticking 1023)).time.armed = [a]) ∧
    (let a : ArmedAction := { kind := .domainReset, tick := 1024 }
     (armedAt [a] base).time.armed = [a] ∧ a.kind = .domainReset ∧ a.tick ≤ base.time.tick) ∧
    (base.time.resetRunning = false ∧ { base with time := { base.time with resetRunning := true } }.time.resetRunning = true) ∧
    (let s := setF (setF (ticking 30000) tbResetBusy 1) tbDomainB 16000
     getF s tbResetBusy = 1 ∧ s.time.resetAt + 14000 + getF s tbDomainB ≤ s.time.tick ∧ s.time.resetMailbox = none ∧ getF base tbResetBusy = 0) := by decide

/-- A block in a state of start. -/
def starting (n : Nat) (s : State) : State := setF s bcState n

theorem witness_StartCommands :
    (getF (starting 1 base) bcState = 1 ∧ getF (starting 2 base) bcState = 2 ∧ getF (starting 3 base) bcState = 3 ∧
     getF (starting 5 base) bcState = 5 ∧ getF (starting 7 base) bcState = 7 ∧ getF base bcState = 0) ∧
    (let s := starting 3 base
     bundleCode (setF s bcBootLock 1) s.start.flashAnswered [] [] [] = 0x0909) ∧
    (let s := starting 6 { base with bound := { base.bound with spTrainStart := 0x80000 } }
     stackTrains s 19 = true ∧ stackTrains base 19 = false) ∧
    (let s := fe (fun f => { f with capBusy := true, capMore := true }) base
     s.front.capBusy = true ∧ s.front.capMore = true) ∧
    (let s := fe (fun f => { f with capBusy := true }) base
     s.front.capBusy = true ∧ s.front.capMore = false ∧ s.front.capJobs = [] ∧ base.front.capBusy = false) := by decide

/-- Port 59 may train, with an expected peer. -/
def training (s : State) : State :=
  starting 8 { s with bound := { s.bound with lkTxEn := BitVec.allOnes 60 },
                      start := { s.start with record := { s.start.record with allowed := BitVec.allOnes 60, expected := [(59, (elsewhere, 29))] } } }

theorem witness_LinkStartCommands :
    (portTrains (training base) 59 = true ∧ portTrains base 59 = false ∧ wrongPeer (training base) 59 elsewhere 29 = false ∧
     wrongPeer (training base) 59 elsewhere 28 = true) ∧
    (let s := training (ticking 7000000000)
     8 ≤ getF s bcState ∧ getF s bcState ≤ 11 ∧ portsWait s = true ∧ s.links.retryAt + 7000000000 ≤ s.time.tick ∧
     base.time.tick < base.links.retryAt + 7000000000) ∧
    (getF (starting 9 base) bcState = 9 ∧ getF (starting 10 base) bcState = 10 ∧ (starting 10 base).start.record.partitions = [] ∧
     getF (starting 8 base) bcState = 8 ∧ 11 ≤ getF (starting 11 base) bcState) ∧
    (let s : State := starting 10 { base with bound := { base.bound with pwr := 1 } }
     s.bound.pwr ≠ 0 ∧ 1 ≤ getF s bcState ∧ getF s bcState ≤ 10 ∧ base.bound.pwr = 0) := by decide

/-- The block's control processor 3 runs, with a window of one page. -/
def cp3 (s : State) : State := setF (setF (setF s ccRunning 15) ccAdmwinSize 1) ccPeriod 1 3

theorem witness_FirmwareCommands :
    (base.bound.hostAnswers = true ∧ base.ctrl.powered = true ∧ bit (getF (setF base ccHold 8) ccHold) 3 = true ∧ bit (getF (setF base ccHold 0) ccHold) 3 = false ∧
     { base with ctrl := { base.ctrl with powered := false } }.ctrl.powered = false) ∧
    (let s := cp3 (ticking 2048)
     cpRuns s 3 = true ∧ 0 < getF s ccPeriod 3 ∧ mget s.ctrl.kicked 3 + getF s ccPeriod 3 * 2048 ≤ s.time.tick ∧
     (ticking 2047).time.tick < mget s.ctrl.kicked 3 + getF s ccPeriod 3 * 2048 ∧ cpRuns { s with ctrl := { s.ctrl with powered := false } } 3 = false) ∧
    (let a : FwAccess := { kind := .read, addr := 0x1FFFFC }
     let w : FwAccess := { kind := .write, addr := 0x1FFFFF, data := [1] }
     let h : FwAccess := { kind := .write, addr := 0x100000000FFF, data := [1] }
     a.kind = .read ∧ a.addr + a.len ≤ 0x200000 ∧ w.kind = .write ∧ w.addr + w.data.length ≤ 0x200000 ∧ 0x100000000000 ≤ h.addr ∧
     inWindow (cp3 base) (h.addr - 0x100000000000) h.data.length = true ∧ inWindow (cp3 base) (h.addr - 0x100000000000) 2 = false ∧
     onRing (cp3 base) true (winBase (cp3 base) + (h.addr - 0x100000000000)) h.data.length = false) ∧
    (let s := setF (setF (cp3 base) ccFlashUnlock 1) bcPolicy 2
     flashAllowed s = true ∧ cpRuns s 3 = true ∧ s.steps.running = [] ∧ s.ctrl.heldFlash = [] ∧ flashAllowed (cp3 base) = false ∧
     (stepping run1 s).steps.running ≠ []) ∧
    (let s : State := { base with ctrl := { base.ctrl with heldFlash := [(0, 4096, [1])] } }
     s.steps.running = [] ∧ s.ctrl.heldFlash = [(0, 4096, [1])]) := by decide

/-- One mailbox in a state. -/
def boxed (m : Nat) (b : Mailbox) (s : State) : State := { s with ctrl := { s.ctrl with mailboxes := [(m, b)] } }

theorem witness_MailboxCommands :
    (base.ctrl.powered = true ∧ (mboxOf base 63).lock = 0 ∧ mbSender 63 4 = true ∧ mbSender 0 5 = true ∧ isCp 4 = true ∧ isCp 5 = false) ∧
    (let s := boxed 63 { lock := 4, pending := true } base
     (mboxOf s 63).lock ≠ 0 ∧ (mboxOf s 63).lock ≠ 5 ∧ mbOwner s 63 4 = true ∧ mbOwner s 63 5 = false ∧ mbReceiver 63 = 4 ∧ (mboxOf s 63).pending = true) ∧
    { base with ctrl := { base.ctrl with powered := false } }.ctrl.powered = false := by decide

/-- A message of a command waits in mailbox 7, its bytes at host address 0, on a block in green. -/
def messaged (c : Nat) (l : List (Nat × Nat × Nat)) (s : State) : State :=
  let t := boxed 7 { lock := 5, pending := true } (setF (setF (cp3 (starting 11 s)) ccFlashUnlock 1) bcPolicy 6)
  { t with ctrl := { t.ctrl with imageRuns := true }, mem := { t.mem with host := wrBytes [] 0 (block 256 ((0, 2, c) :: l)) } }

/-- A message of the mailbox with a command. -/
def asks (s : State) (c : Nat) : Bool := match mboxMsg s 7 with | some x => x.command == c | none => false
/-- What its payload passes. -/
def asking (s : State) (f : MboxMsg → Bool) : Bool := match mboxMsg s 7 with | some x => f x | none => false

theorem witness_ServiceCommands_a :
    mboxMsg base 7 = none ∧ asks (messaged 1 [] base) 1 = true ∧
    (let s := messaged 2 [] base
     asks s 2 = true ∧ getF s bcState ≠ 4 ∧ getF (starting 4 s) bcState = 4 ∧ asks (starting 4 s) 2 = true ∧ asking (starting 4 s) (pushInside (starting 4 s)) = true) ∧
    (let s := messaged 3 [] base
     asks s 3 = true ∧ greenFw s = true ∧ flashAllowed s = true ∧ asking s (pushInside s) = true ∧ s.steps.running = [] ∧
     flashAllowed (setF s ccFlashUnlock 0) = false ∧ greenFw (starting 4 s) = false) := by decide

theorem witness_ServiceCommands_b :
    (let s := p59 { out := true, peer := some (elsewhere, 29) } (messaged 4 [(32, 4, 59)] base)
     let t : State := { s with start := { s.start with record := { s.start.record with allowed := BitVec.allOnes 60 } } }
     asks s 4 = true ∧ greenFw s = true ∧ asking s (fun x => payAt s x 0 4 == 59) = true ∧ retrainOk s 59 = true ∧
     bit s.start.record.allowed.toNat 59 = false ∧ bit t.start.record.allowed.toNat 59 = true ∧ retrainOk t 59 = true ∧ retrainOk base 59 = false) ∧
    (let s := messaged 5 [] base
     asks s 5 = true ∧ greenFw s = true ∧ s.time.resetMailbox = none ∧ getF s tbResetBusy = 0 ∧ (armReset s (some 7)).isSome = true ∧
     armReset (armedAt (List.replicate 64 {}) s) (some 7) = none) ∧
    (let s := messaged 6 [(32, 8, 1024)] base
     asks s 6 = true ∧ greenFw s = true ∧ asking s (fun x => (armSnapshot s (payAt s x 0 8) (payAt s x 8 4 % 256) (bit (payAt s x 0xC 4) 0)).isSome) = true ∧
     asking (messaged 6 [] base) (fun x => armSnapshot s (payAt (messaged 6 [] base) x 0 8) 0 false == none) = true) ∧
    (let s := messaged 7 [] base
     asks s 7 = true ∧ s.ctrl.imageRuns = true ∧ bit (getF s bcPolicy) 2 = true ∧ pendingSlot s = some 0 ∧
     pendingSlot { s with regs := (iter 64 (fun i s => setF s bcEntry600 1 i) s).regs } = none) ∧
    (asks (messaged 0 [] base) 0 = true ∧ asks (messaged 8 [] base) 8 = true) := by decide

/-- Other translation state. -/
def trn (f : Translation → Translation) (s : State) : State := { s with trans := f s.trans }

theorem witness_WalkCommands_a :
    (let s := dsp (desc 0 []) (binding 0xFFFF)
     let w : WalkRequest := { engine := 83, ctx := 1, va := 0x1000000000, write := true }
     let x := walk s 0 1 (2 ^ 36) true
     (ctxOf s 1).state ≠ .free ∧ (ctxOf s 1).pasid = 0 ∧ (ctxOf s 1).partition = 1 ∧ tlbHit s w.engine 0 w.va.toNat = none ∧
     atsAddress s w.va.toNat = false ∧ x.code = 0 ∧ (walk base 0 1 (2 ^ 36) true).code ≠ 0 ∧ tlbHit base 101 0 (2 ^ 36) = none ∧ (ctxOf s 2).state = .free) ∧
    (let s := trn (fun t => { t with preqs := [(15, { used := true })] }) base
     (mget s.trans.preqs 15).used = true ∧ (mget base.trans.preqs 15).used = false ∧ base.bound.hostAnswers = true ∧ bit (0x10F : W32).toNat 8 = true ∧
     bits (0x10F : W32).toNat 0 4 = 15 ∧ bit (0xF : W32).toNat 8 = false ∧ bits (0xF : W32).toNat 0 4 = 15) ∧
    (let s := setF base tuForerunner 1
     let a : AtsReply := { engine := 83, ctx := 1, va := 0x7FFFFFFFFFFFFF, readOk := true, writeOk := false }
     (ctxOf s a.ctx).state ≠ .free ∧ atsAddress s a.va.toNat = true ∧ a.denied = false ∧ (if a.write then a.writeOk else a.readOk) = true ∧
     (if { a with write := true }.write then a.writeOk else a.readOk) = false) ∧
    (base.trans.atsDrain = false ∧ (trn (fun t => { t with atsDrain := true }) base).trans.atsDrain = true) ∧
    (let s := trn (fun t => { t with fqHeld := [[1]] }) base
     s.trans.fqHeld = [[1]] ∧ fqFull s = false ∧ s.trans.acPending = [] ∧ fqFull (setF s tuFqTail 63) = true ∧ base.trans.fqHeld = []) := by decide

theorem witness_TranslationCommands :
    (let s := setF (ticking 65536) tuDecayLog2 16
     getF s tuDecayLog2 ≠ 0 ∧ s.time.tick % 2 ^ getF s tuDecayLog2 = 0 ∧ rising s.trans.acs = true ∧ getF (setF s tuDecayLog2 0) tuDecayLog2 = 0) ∧
    (base.bound.hostAnswers = true ∧ base.trans.mirror = none ∧ mirrorRefused base (getF64 base tuSrcLo) (getF64 base tuDstLo) (getF base tuLen) = true ∧
     base.trans.invQ = [] ∧ base.emb.pmap = [] ∧
     (let s := setF (setF (setF base tuFirstPage 2048) tuPages 1) tuLen 64
      let t := setF s tuDstHi 16
      s.trans.mirror = none ∧ mirrorRefused t (getF64 t tuSrcLo) (getF64 t tuDstLo) (getF t tuLen) = false)) ∧
    16 ≤ (trn (fun t => { t with invQ := List.replicate 16 {} }) base).trans.invQ.length ∧
    (let s := setF (fe (fun f => { f with ctxs := [] }) base) bcPolicy 1
     noContexts s = true ∧ bit (getF s bcPolicy) 0 = true ∧ noContexts base = false ∧ bit (getF base bcPolicy) 0 = false) ∧
    (let s : State := { State.reset with bound := { stage := 2, hostAnswers := true, stackUp := 0xFFFFF, spCfg := [(1, 48)] } }
     regionOk s 2048 1 = true ∧ regionOk base 2048 1 = false ∧ keysReady base = true ∧
     keysReady (trn (fun t => { t with keyPending := some (63, true, State.reset.trans.keyData) }) base) = false) ∧
    (let s := trn (fun t => { t with mirror := some (64, 128, 64), keyPending := some (63, true, State.reset.trans.keyData), invQ := [{ scope := 2, pasid := 1, seq := 65535 }] }) base
     s.trans.mirror = some (64, 128, 64) ∧ s.trans.keyPending = some (63, true, State.reset.trans.keyData) ∧ s.trans.invQ ≠ [] ∧ invWaits s { scope := 2, pasid := 1, seq := 65535 } = false) ∧
    (let s : State := { base with emb := { pmap := [(3, { ctx := 1, used := true })] }, parts := { parts := [(1, { rewalk := [3] })] } }
     invWaits s {} = true) := by decide

theorem witness_HealthCommands_a :
    ((ticking (2 ^ 41)).time.tick % 2 ^ 41 = 0 ∧ base.time.tick % 2 ^ 41 ≠ 0) ∧
    (let ok := fun (s : State) u => ashUnit s u && ashMayRun s u && ashIsDue s u && !s.health.ashRunning.contains u
     ok base 0x103F = true ∧ ok base 0x3000 = false ∧ ashUnit base 0x503B = true ∧ ashUnit base 0x3000 = false) ∧
    (let s : State := { base with health := { ashRunning := [0x103F] } }
     s.health.ashRunning.contains 0x103F = true ∧ base.health.ashRunning.contains 0x103F = false) ∧
    (base.bound.hostAnswers = true ∧ portPresent base 59 = true ∧ stackPresent base 19 = true ∧ corePresent base 63 = true ∧ coreOut base 63 = false ∧
     coreOut (setF64 base mfOutLo (2 ^ 63)) 63 = true) ∧
    (base.health.digest = none ∧ { base with health := { digest := some { ctx := 1, len := 32 } } }.health.digest ≠ none ∧
     (digestRange base 1 0 0 32).1 ≠ 0 ∧
     (digestRange (fe (fun f => { f with objs := [(9, { size := 33554432, type := 1, gen := 0, allocated := true, ctx := 1 })] }) base) 1 (2 ^ 56 + 9) 0 32).1 = 0) ∧
    bit ({ base with bound := { base.bound with stackLost := 0x80000 } } : State).bound.stackLost.toNat 19 = true := by decide

theorem witness_HealthCommands_b :
    (let m : List Byte := block 256 [(6, 2, 1), (0x20, 8, 64), (64, 8, 96), (96 + 0x38, 5, 160), (96 + 0x3D, 3, 1), (160, 8, 19 * 2 ^ 48), (168, 8, 2 ^ 63)]
     let s : State := { base with steps := { programs := [(9, { image := m })], running := [(63, { program := 9 })] } }
     refreshEntry s 63 0 = some { start := 0, ticks := 0, group := 19, mask := 2 ^ 63 } ∧ refreshEntry s 63 1 = none ∧
     (runOf s 63).map (fun r => decide (r.base + 0 ≤ s.time.tick ∧ 0 ∉ r.refDone)) = some true) ∧
    (let m : List Byte := block 256 [(6, 2, 1), (0x20, 8, 64), (64, 8, 96), (96 + 0x38, 5, 160), (96 + 0x3D, 3, 1), (160, 8, 1025 + 19 * 2 ^ 48), (168, 8, 2 ^ 63)]
     let s : State := { base with steps := { programs := [(9, { image := m })], running := [(63, { program := 9, refDone := [0] })] } }
     refreshEntry s 63 0 = some { start := 1025, ticks := 0, group := 19, mask := 2 ^ 63 } ∧
     (runOf s 63).map (fun r => decide (s.time.tick < r.base + 1025 ∧ 0 ∈ r.refDone)) = some true) ∧
    (refGranted base 19 63 = false ∧ refGranted { base with bound := { base.bound with refGrant := [(19, 2 ^ 63)] } } 19 63 = true) := by decide

theorem witness_PowerCommands :
    (let u := fun (s : State) w => telemAdd { applyBudget s with health.windowAt := s.time.tick } 0 w
     let r := fun (s : State) w => idleRatio w (shadowOf (u s w)).idleW (getF (u s w) bcEffectiveW) (getF (u s w) hpRatio)
     let t := setF base hpRatio 100
     (r base 0 = 0 ∧ getF (u base 0) hpRatio = 0 ∧ 0 ≤ getF (u base 0) bcEffectiveW) ∧
     (r t 1023 ≠ 0 ∧ getF (u t 1023) hpRatio ≠ 0 ∧ getF (u t 1023) bcEffectiveW < 1023)) := by decide

theorem witness_ResetCommands :
    (State.reset.bound.powered = true ∧ State.reset.bound.porLow = true) ∧
    (base.bound.powered = true ∧ base.bound.porLow = false ∧ base.bound.warmHeld = false ∧ base.bound.clockLost = false) ∧
    (let s : State := { base with bound := { base.bound with warmHeld := true, clockLost := true } }
     s.bound.warmHeld = true ∧ s.bound.clockLost = true) ∧
    (let s : State := { base with bound := { base.bound with warmHeld := true } }
     s.bound.warmHeld = true ∧ s.bound.clockLost = false) ∧
    ({ base with bound := { base.bound with powered := false } }.bound.powered = false) := by decide

theorem witness_SidebandCommands :
    (sideOn State.reset = false ∧ sideOn base = true ∧ getF base bcPwrAck ≠ 3 ∧ getF base bcState ≤ 7 ∧ getF (setF base bcPwrAck 2) bcPwrAck = 2 ∧
     getF base bcPwrAck ≠ 2 ∧ getF (setF base bcPwrAck 3) bcPwrAck = 3) ∧
    (base.bound.thermActive = false ∧ { base with bound := { base.bound with thermActive := true } }.bound.thermActive = true) ∧
    (let s : State := { base with start := { base.start with record := { tpulseEn := true } }, bound := { base.bound with lastTpulse := some 1000 } }
     sideOn s = true ∧ s.start.record.tpulseEn = true ∧ s.bound.lastTpulse = some 1000 ∧ 1000 + 50000000 ≤ 50001000 ∧ 50000999 < 1000 + 50000000) ∧
    (let s : State := { base with bound := { base.bound with prepareOff := true, pwr := 2 }, front := {} }
     s.bound.prepareOff = true ∧ s.steps.running = [] ∧ getF s bcPwrAck < 2 ∧ s.front.ctxs = [] ∧ s.bound.pwr = 2 ∧ base.bound.prepareOff = false) := by decide

theorem witness_RegisterCommands :
    (let s := base
     let f := tuSrcLo
     let a := 0x100048
     s.bound.hostAnswers = true ∧ unitOff s a = false ∧ a % 4 = 0 ∧ fieldsAt a = [f] ∧ f.stride = 0 ∧ f.off = a ∧ writable s 5 f = true ∧ f.acc = .rw ∧
     f ≠ mpKeyData ∧ f ≠ ccPeriod ∧ ¬(0x1401000 ≤ a ∧ a < 0x1401800) ∧ f.lo + f.width ≤ 32 ∧
     a % 8 = 0 ∧ lockWord a = none ∧ lockWord (a + 4) = none ∧ unitOff (clearRc s a) (a + 4) = false ∧ wholeWords a 0x03#8 = false ∧
     wholeWords (a + 4) 0xFF#8 = false) ∧
    plainAt 0x100048 ∧
    unitOff { base with ctrl := { base.ctrl with powered := false } } 0x1400004 = true :=
  ⟨by decide, fun _ _ _ => rfl, by decide⟩

theorem witness_EncodeDecode :
    (let i : Instr := .tileMatrix 63 true { (tileOk .matrix) with ab := 15 } .good
     i.wf = true ∧ goodReads i = true ∧ (encodeCore i).isSome = true) := by decide

theorem witness_EveryCommandServed :
    (Instr.mailboxRing 5 63).unitsExist = true ∧ (Instr.mailboxRing 5 64).unitsExist = false := by decide

/-- A block with bytes in host memory and one in a core, and a command waiting. -/
def withBytes : State :=
  { State.reset with pending := [.halt 5 false], mem := { host := [(7, 1), (9, 2)] }, cores := [(5, { act := [(3, 4)] })] }

theorem witness_MemoriesStayCanonical : memOk withBytes ∧ ∃ t, step withBytes = .next t := by
  refine ⟨⟨⟨rfl, rfl, rfl, rfl, rfl, rfl⟩, fun c => ?_⟩, ?_⟩
  · by_cases h : c = 5
    · subst h; exact ⟨⟨rfl, rfl, rfl, rfl⟩, rfl, rfl, rfl, rfl⟩
    · have e : coreOf withBytes c = {} := by
        rw [coreOf, mget, mgetD]
        have : mfind withBytes.cores c = none := by simp [withBytes, mfind, Ne.symm h]
        rw [this]; rfl
      rw [e]; exact ⟨⟨rfl, rfl, rfl, rfl⟩, rfl, rfl, rfl, rfl⟩
  · exact ⟨_, rfl⟩

end Sys2Proof.Tests
end

/-! Doorbells and the queue of commands (R11, R16, R275, R276, R296). -/

namespace Sys2Proof.Proofs

open Sys2Proof Sys2Proof.Machine

/-! ### The queue -/

theorem step_cons {s : State} {c : Instr} {rest : List Instr} (h : s.pending = c :: rest) :
    step s = exec c { s with pending := rest } := by
  rw [step, h]

/-- Settles O1: it is the second case of `step`. -/
theorem stepRunsFront : Obligations.StepRunsFront := fun _ _ _ h => step_cons h

/-! ### Doorbells -/

theorem wholeWords_of_pair {a : Nat} {be : BitVec 8} (ha : a % 8 = 0) (h : be = 0x0F#8 ∨ be = 0xFF#8) : wholeWords a be = true := by
  obtain rfl | rfl := h
  · simp [wholeWords, show a % 4 = 0 by omega]
  · simp [wholeWords, ha]

theorem wholeWords_of_other {be : BitVec 8} (a : Nat) (h : be ≠ 0x0F#8) (h' : be ≠ 0xFF#8) : wholeWords a be = false := by
  simp [wholeWords, h, h']

theorem pageCtx_add (n : Nat) {k : Nat} (h : k < 0x1000) : pageCtx (n * 0x1000 + k) = n := by
  rw [pageCtx]; omega

theorem pagePlace_add (n : Nat) {k : Nat} (h : k < 0x1000) : pagePlace (n * 0x1000 + k) = k := by
  rw [pagePlace]; omega

theorem tailQueue_of_lt {q : Nat} (h : q < 4) : tailQueue (8 * q) = some q := by
  rw [tailQueue, if_pos (by omega)]
  exact congrArg some (by omega)

/-- R275: a write of whole words to the page of a context that takes doorbells, through its function. -/
theorem doorbell_taken {s : State} {fn n k : Nat} {be : BitVec 8} (e : Nat → Context → State → State) (hn : n < 4096) (hk : k < 0x1000)
    (hk8 : k % 8 = 0) (hf : (ctxOf s n).function = fn) (hs : (ctxOf s n).state = .active ∨ (ctxOf s n).state = .broken)
    (hbe : be = 0x0F#8 ∨ be = 0xFF#8) : doorbell s fn (n * 0x1000 + k) be e = .next (e n (ctxOf s n) s) := by
  rw [doorbell, if_neg (by omega), pageCtx_add n hk]
  exact if_pos ⟨wholeWords_of_pair (by omega) hbe, hf, hs⟩

/-- R16, R275: a write through another function, or one that does not cover whole words. -/
theorem doorbell_ignored {s : State} {fn n k : Nat} {be : BitVec 8} (e : Nat → Context → State → State) (hn : n < 4096) (hk : k < 0x1000)
    (h : (ctxOf s n).function ≠ fn ∨ (be ≠ 0x0F#8 ∧ be ≠ 0xFF#8)) : doorbell s fn (n * 0x1000 + k) be e = .next s := by
  rw [doorbell, if_neg (by omega), pageCtx_add n hk]
  refine if_neg fun ⟨hw, hf, _⟩ => ?_
  obtain h | ⟨h, h'⟩ := h
  · exact h hf
  · rw [wholeWords_of_other _ h h'] at hw
    cases hw

theorem flushCtxLost_none {s : State} {n : Nat} (h : (ctxOf s n).eq.dropped = 0) : flushCtxLost s n = s := by
  rw [flushCtxLost]
  exact if_pos (.inl h)

/-- R276: a value in range moves a queue's tail. -/
theorem execDoorbellSqTail_moves {s : State} {fn n q : Nat} {v : BitVec 64} {be : BitVec 8} (hn : n < 4096) (hq : q < 4)
    (hf : (ctxOf s n).function = fn) (hs : (ctxOf s n).state = .active ∨ (ctxOf s n).state = .broken) (hbe : be = 0x0F#8 ∨ be = 0xFF#8)
    (hl : (mget (ctxOf s n).sq q).log2 ≠ 0) (hx : bits v.toNat 0 16 < 2 ^ (mget (ctxOf s n).sq q).log2) :
    execDoorbellSqTail fn (n * 0x1000 + 8 * q) v be s =
      .next (updSubq s n q (fun y => { y with tail := bits v.toNat 0 16 })) := by
  refine (doorbell_taken (k := 8 * q) _ hn (by omega) (by omega) hf hs hbe).trans (congrArg _ ?_)
  rw [pagePlace_add n (by omega), tailQueue_of_lt hq]
  exact if_neg (by omega)

/-- R276: a value in range moves the head of the completion ring. -/
theorem execDoorbellCq_moves {s : State} {fn n : Nat} {v : BitVec 64} {be : BitVec 8} (hn : n < 4096) (hf : (ctxOf s n).function = fn)
    (hs : (ctxOf s n).state = .active ∨ (ctxOf s n).state = .broken) (hbe : be = 0x0F#8 ∨ be = 0xFF#8)
    (hx : bits v.toNat 0 16 < 2 ^ (ctxOf s n).cq.log2) :
    execDoorbellCq fn (n * 0x1000 + 0x20) v be s = .next (updCtx s n (fun c => { c with cq.head := bits v.toNat 0 16 })) := by
  refine (doorbell_taken (k := 0x20) _ hn (by omega) (by omega) hf hs hbe).trans (congrArg _ ?_)
  rw [pagePlace_add n (by omega)]
  exact (if_neg (by omega)).trans (if_neg (by omega))

/-- R276, R296: a value in range moves the head of the event ring; with no drops to tell, that is all. -/
theorem execDoorbellEq_moves {s : State} {fn n : Nat} {v : BitVec 64} {be : BitVec 8} (hn : n < 4096) (hf : (ctxOf s n).function = fn)
    (hs : (ctxOf s n).state = .active ∨ (ctxOf s n).state = .broken) (hbe : be = 0x0F#8 ∨ be = 0xFF#8)
    (hx : bits v.toNat 0 16 < 2 ^ (ctxOf s n).eq.log2) (hd : (ctxOf s n).state = .broken ∨ (ctxOf s n).eq.dropped = 0) :
    execDoorbellEq fn (n * 0x1000 + 0x28) v be s = .next (updCtx s n (fun c => { c with eq.head := bits v.toNat 0 16 })) := by
  refine (doorbell_taken (k := 0x28) _ hn (by omega) (by omega) hf hs hbe).trans (congrArg _ ?_)
  rw [pagePlace_add n (by omega)]
  refine (if_neg (by omega)).trans ((if_neg (by omega)).trans ?_)
  dsimp only
  split
  next ha =>
    obtain hb | hd := hd
    · rw [hb] at ha; cases ha
    · exact flushCtxLost_none (by rw [ctxOf_updCtx_self]; exact hd)
  next => rfl

/-- Settles O18, from one lemma for each of the three doorbells. -/
theorem doorbellsMove : Obligations.DoorbellsMove := by
  intro s fn n q v be hn hq c x page
  have hx : bits v.toNat 0 16 = x := by rw [bits, Nat.pow_zero, Nat.div_one]; rfl
  refine ⟨fun hf hs hbe => ⟨fun hl hlt => ?_, fun hlt => ?_, fun hlt hd => ?_⟩, fun h => ⟨?_, ?_, ?_⟩⟩
  · exact hx ▸ execDoorbellSqTail_moves hn hq hf hs hbe hl (hx ▸ hlt)
  · exact hx ▸ execDoorbellCq_moves hn hf hs hbe (hx ▸ hlt)
  · exact hx ▸ execDoorbellEq_moves hn hf hs hbe (hx ▸ hlt) hd
  · change execDoorbellSqTail _ _ v be s = _
    exact doorbell_ignored (k := 8 * q) _ hn (by omega) h
  · change execDoorbellCq _ _ v be s = _
    exact doorbell_ignored (k := 0x20) _ hn (by omega) h
  · change execDoorbellEq _ _ v be s = _
    exact doorbell_ignored (k := 0x28) _ hn (by omega) h

end Sys2Proof.Proofs

/-! The slab unit: alloc and free, their service, and the buddy rules (R14, R170, R257, R258). -/

namespace Sys2Proof.Proofs

open Sys2Proof Sys2Proof.Machine

/-! ### Queueing a request -/

/-- A core instruction that queues a request and changes its core by `f`, seen from the core, the slab unit and the rest. -/
theorem queueSlab_updCoreNext {s : State} {c : Nat} {q : SlabReq} {f : Core → Core} (hl : legalAt s c (nextPc s c))
    (hp : (f (coreOf s c)).part = (coreOf s c).part) (hg : (f (coreOf s c)).prog = (coreOf s c).prog)
    (hpc : (f (coreOf s c)).pc = (coreOf s c).pc) (ht : (f (coreOf s c)).task.isSome = true) :
    let s' := updCoreNext (queueSlab s q) c f
    coreOf s' c = { f (coreOf s c) with pc := nextPc s c, waitAt := none } ∧
    s'.front.slab = insertSlab { q with came := s.time.tick } s.front.slab ∧ (∀ e, e ≠ c → coreOf s' e = coreOf s e) ∧
    s'.mem = s.mem ∧ s'.steps = s.steps := by
  have hn : nextPc (queueSlab s q) c = nextPc s c := by rw [nextPc, queueSlab_core, nextPc]
  intro s'
  have hs : s' = goneOn (queueSlab s q) c (f (coreOf s c)) (nextPc s c) := by
    rw [← hn]
    have hc := queueSlab_core s q c
    exact (updCoreNext_goneOn (queueSlab s q) c f (by rw [hc, hp]) (by rw [hc, hg]) (by rw [hc, hpc]) (by rw [hc, ht])
      (by rw [hn, queueSlab_legal]; exact hl)).trans (by rw [hc])
  rw [hs]
  refine ⟨goneOn_core .., ?_, fun e he => ?_, ?_, ?_⟩
  · rw [goneOn, putCore_front, queueSlab_slab]; rfl
  · rw [goneOn_ne _ _ _ _ _ he, queueSlab_core]
  · rw [goneOn, putCore_mem, queueSlab_mem]
  · rw [goneOn, putCore_steps, queueSlab_steps]

theorem execAlloc_at {s : State} {c d order : Nat} {dw must : Bool} (h : atCommand s c (.alloc c dw d order must)) :
    execAlloc c dw d order must s = .next (updCoreNext
      (queueSlab s { isAlloc := true, core := c, ctx := ctxOfCore s c, part := partOfCore s c, order := order, must := must, dest := d }) c
      (fun k => { k with allocs := k.allocs + 1, gWait := if d = 0 then k.gWait else k.gWait ++ [d] })) := issue_at _ _ _ _ _ _ h

theorem execFree_at {s : State} {c a : Nat} {dw : Bool} (h : atCommand s c (.free c dw a)) :
    execFree c dw a s = .next (updCoreNext
      (queueSlab s { isAlloc := false, core := c, ctx := ctxOfCore s c, part := partOfCore s c, addr := gReg (coreOf s c) a }) c
      (fun k => { k with allocs := k.allocs + 1 })) := issue_at _ _ _ _ _ _ h

/-! ### Serving a request -/

/-- The state in which the slab unit serves the request that it took from its queue. -/
def slabTaken (s : State) (rest : List SlabReq) : State := { s with front.slab := rest, front.slabLast := some s.time.tick }

/-- R258: the unit takes the oldest request where its pace allows. -/
theorem execSlabServe_taken {s : State} {q : SlabReq} {rest : List SlabReq} (h : s.front.slab = q :: rest)
    (hf : s.front.slabLast = none ∨ ∃ t, s.front.slabLast = some t ∧ t + 3 ≤ s.time.tick) :
    execSlabServe s = .next (serveSlab (slabTaken s rest) q) := by
  rw [execSlabServe, h]
  obtain hf | ⟨t, hf, ht⟩ := hf
  · rw [hf]; rfl
  · rw [hf]
    exact if_pos (decide_eq_true ht)

theorem slabReturn_slab (s : State) (q : SlabReq) (v : BitVec 64) (b : Bool) : (slabReturn s q v b).front.slab = s.front.slab := by
  rw [slabReturn_front]

theorem slabReturn_ctx (s : State) (q : SlabReq) (v : BitVec 64) (b : Bool) (n : Nat) : ctxOf (slabReturn s q v b) n = ctxOf s n :=
  ctxOf_congr (slabReturn_front ..) n

@[simp] theorem ctxOf_slabTaken (s : State) (rest : List SlabReq) (n : Nat) : ctxOf (slabTaken s rest) n = ctxOf s n := rfl

@[simp] theorem coreOf_slabTaken (s : State) (rest : List SlabReq) (n : Nat) : coreOf (slabTaken s rest) n = coreOf s n := rfl

/-- R170: what a served alloc leaves of its core. -/
theorem slabReturn_alloc {s : State} {q : SlabReq} {v : BitVec 64} (h : q.core < 64) (ha : q.isAlloc = true) :
    (q.dest ≠ 0 → gReg (coreOf (slabReturn s q v false) q.core) q.dest = v) ∧
    (coreOf (slabReturn s q v false) q.core).allocs = (coreOf s q.core).allocs - 1 := by
  rw [slabReturn_core s q v h, if_pos ha]
  exact ⟨fun hd => gReg_setG_self _ _ _ hd, setG_allocs ..⟩

theorem gReg_setG_zero (k : Core) (d : Nat) : gReg (setG k d 0) d = 0 := by
  by_cases hd : d = 0
  · rw [hd, gReg, if_pos rfl]
  · exact gReg_setG_self _ _ _ hd

/-- R170: an alloc that found no block writes 0 and sets fail. -/
theorem slabReturn_none {s : State} {q : SlabReq} (h : q.core < 64) (ha : q.isAlloc = true) :
    (coreOf (slabReturn s q 0 true) q.core).fail = true ∧ gReg (coreOf (slabReturn s q 0 true) q.core) q.dest = 0 := by
  rw [slabReturn_fail s q 0 h ha]
  exact ⟨rfl, gReg_setG_zero ..⟩

theorem serveSlab_alloc {s : State} {q : SlabReq} {a : Nat} {arena : List ArenaPage} (hq : q.isAlloc = true)
    (hb : buddyAlloc (ctxOf s q.ctx).arena q.order = some (a, arena)) :
    serveSlab s q = slabReturn (addF (updCtx s q.ctx (fun c => { c with arena := arena })) mpAllocs) q (BitVec.ofNat 64 a) false := by
  rw [serveSlab, hq, hb]; rfl

theorem serveSlab_full {s : State} {q : SlabReq} (hq : q.isAlloc = true) (hm : q.must = false)
    (hb : buddyAlloc (ctxOf s q.ctx).arena q.order = none) : serveSlab s q = slabReturn (addF s mpFails) q 0 true := by
  rw [serveSlab, hq, hb]
  simp [hm]

theorem serveSlab_free {s : State} {q : SlabReq} {arena : List ArenaPage} (hq : q.isAlloc = false)
    (hb : buddyFree (ctxOf s q.ctx).arena q.addr.toNat = some arena) :
    serveSlab s q = slabReturn (updCtx (addF s mpFrees) q.ctx (fun c => { c with arena := arena })) q 0 false := by
  rw [serveSlab, hq, hb]; rfl

/-! ### The buddy rules (R257) -/

theorem firstBelow_lt {n i : Nat} {p : Nat → Bool} (h : firstBelow n p = some i) : i < n :=
  List.mem_range.1 (List.mem_of_find?_eq_some h)

theorem firstBlock_lt {arena : List ArenaPage} {j i off : Nat} (h : firstBlock arena j = some (i, off)) : i < arena.length := by
  rw [firstBlock, Option.map_eq_some_iff] at h
  obtain ⟨x, hx, he⟩ := h
  cases he
  exact firstBelow_lt hx

theorem findBlock_lt {arena : List ArenaPage} {k j i off : Nat} (h : findBlock arena k = some (j, i, off)) : i < arena.length := by
  rw [findBlock] at h
  split at h
  · cases h
  · rw [Option.map_eq_some_iff] at h
    obtain ⟨⟨x, y⟩, hx, he⟩ := h
    cases he
    exact firstBlock_lt hx

/-- R257: a block that the buddy rules hand out lies in a page of the arena, which records it as used. -/
theorem buddyAlloc_page {arena arena' : List ArenaPage} {k a : Nat} (h : buddyAlloc arena k = some (a, arena')) :
    arena'.length = arena.length ∧ ∃ i off, i < arena.length ∧ a = (arena.getD i default).va.toNat + off ∧
      (k, off) ∈ (arena'.getD i default).used ∧ (arena'.getD i default).va = (arena.getD i default).va ∧
      ∀ j, j ≠ i → arena'.getD j default = arena.getD j default := by
  rw [buddyAlloc, Option.map_eq_some_iff] at h
  obtain ⟨⟨o, i, off⟩, hx, he⟩ := h
  have hi := findBlock_lt hx
  cases he
  refine ⟨List.length_set, i, off, hi, rfl, ?_, ?_, fun j hj => ?_⟩
  · simp [hi]
  · simp [hi]
  · rw [List.getD_eq_getElem?_getD, List.getElem?_set_ne (Ne.symm hj), List.getD_eq_getElem?_getD]

/-- Settles O15, from the lemmas on queueing, on serving and on the buddy rules. -/
theorem slabUnit : Obligations.SlabUnit := by
  refine ⟨fun s c dw must d a order hl => ⟨fun hc => ?_, fun hc => ?_⟩,
    fun s q rest hs hq hf => ⟨fun ha b arena hb => ?_, fun ha hm hb => ?_, fun ha arena hb => ?_⟩, fun _ _ _ _ h => buddyAlloc_page h⟩
  · obtain ⟨-, ht, -, -, hg⟩ := id hc
    have h := queueSlab_updCoreNext (s := s) (c := c)
      (q := { isAlloc := true, core := c, ctx := ctxOfCore s c, part := partOfCore s c, order := order, must := must, dest := d })
      (f := fun k => { k with allocs := k.allocs + 1, gWait := if d = 0 then k.gWait else k.gWait ++ [d] }) hl rfl rfl rfl ht
    rw [hg] at h
    exact ⟨_, execAlloc_at hc, h⟩
  · obtain ⟨-, ht, -⟩ := id hc
    exact ⟨_, execFree_at hc, queueSlab_updCoreNext hl rfl rfl rfl ht⟩
  · obtain ⟨hreg, hn⟩ := slabReturn_alloc (s := addF (updCtx (slabTaken s rest) q.ctx (fun c => { c with arena := arena })) mpAllocs)
      (v := BitVec.ofNat 64 b) hq ha
    refine ⟨_, (execSlabServe_taken hs hf).trans (congrArg _ (serveSlab_alloc ha hb)), ?_, ?_, hreg, hn, ?_⟩
    · rw [slabReturn_slab, addF_front]; rfl
    · rw [slabReturn_ctx, ctxOf_addF, ctxOf_updCtx_self, ctxOf_slabTaken]
    · rw [slabReturn_mem, addF_mem, updCtx_mem]; rfl
  · obtain ⟨hfail, hreg⟩ := slabReturn_none (s := addF (slabTaken s rest) mpFails) hq ha
    refine ⟨_, (execSlabServe_taken hs hf).trans (congrArg _ (serveSlab_full ha hm hb)), ?_, hfail, hreg, ?_⟩
    · rw [slabReturn_slab, addF_front]; rfl
    · rw [slabReturn_mem, addF_mem]; rfl
  · refine ⟨_, (execSlabServe_taken hs hf).trans (congrArg _ (serveSlab_free ha hb)), ?_, ?_, ?_⟩
    · rw [slabReturn_slab, updCtx, putCtx, addF_front]; rfl
    · rw [slabReturn_ctx, ctxOf_updCtx_self, ctxOf_addF, ctxOf_slabTaken]
    · rw [slabReturn_mem, updCtx_mem, addF_mem]; rfl

end Sys2Proof.Proofs

/-! What happens to steps at their ticks (R5, R174, R175, R199, R202, R219, R220, R224, R306, R318, R320, R323). -/

namespace Sys2Proof.Proofs

open Sys2Proof Sys2Proof.Machine

/-- A command that names a partition which exists gets past the check of its number. -/
theorem res_of_part {p : Nat} (h : p < 64) (r : Res) : (if 64 ≤ p then .fault .noSuchUnit else r) = r := if_neg (Nat.not_le.2 h)

/-! ### What falls due in a partition -/

theorem launchesDue_due {v : State} {p : Nat} (h : dueSubs v p ≠ []) (ho : launchesOn v = true) :
    launchesDue v p = slipsDue (launchDue v p) p := by
  rw [launchesDue, if_neg (by simp [h, ho])]

theorem launchesDue_not {v : State} {p : Nat} (h : dueSubs v p = [] ∨ launchesOn v = false) : launchesDue v p = v := by
  rw [launchesDue, if_pos]
  obtain h | h := h <;> simp [h]

theorem slipsDue_one {v : State} {p : Nat} {n : SlipNotice} (h : (partOf v p).slips = [n]) (ht : n.tEff ≤ v.time.tick) :
    slipsDue v p = applySlip (updPart v p (fun x => { x with slips := [] })) p n := by
  have hd : decide (n.tEff ≤ now v) = true := decide_eq_true ht
  rw [slipsDue, h]
  simp only [updPart, h, List.filter_cons, List.filter_nil, hd]
  rfl

section

variable (v : State) (a : ArmedAction)

theorem insertIdle_time : (insertIdle v a).time = v.time := rfl

theorem insertIdle_running : (insertIdle v a).steps.running = v.steps.running := rfl

theorem insertIdle_cores : (insertIdle v a).cores = v.cores := rfl

/-- R202: an insertion moves the launches of its scope at or after its tick. -/
theorem insertIdle_subs : (insertIdle v a).steps.subs = v.steps.subs.map (fun u =>
    if u.part = a.scope ∧ u.group = a.domainWide ∧ a.tick ≤ u.next then { u with next := u.next + a.amount, dueNext := u.dueNext + a.amount }
    else u) := rfl

end

theorem insertionsDue_one {v : State} {p : Nat} {a : ArmedAction} (h : v.time.armed = [a]) (hk : a.kind = .idleInsertion)
    (ha : a.scope = p) (ht : a.tick ≤ v.time.tick) : insertionsDue v p = insertIdle { v with time.armed := [] } a := by
  have hd : (a.kind == .idleInsertion && a.scope == p && decide (a.tick ≤ now v)) = true := by simp [hk, ha, now, ht]
  rw [insertionsDue, h]
  simp only [List.filter_cons, List.filter_nil, hd]
  rfl

section

variable {s : State} {p : Nat} (hp : p < 64)

include hp

/-! ### Boundaries and launches -/

theorem execPartitionStepBoundary_at (h : atBoundary s p = true) :
    execPartitionStepBoundary p s = .next (chooseHolder (applyChanges s p) p) := by
  rw [execPartitionStepBoundary, res_of_part hp, boundary, if_pos h]

theorem execPartitionStepBoundary_not (h : atBoundary s p = false) : execPartitionStepBoundary p s = .next s := by
  rw [execPartitionStepBoundary, res_of_part hp, boundary, h]; rfl

theorem execStepLaunch_due (h : dueSubs (fireBefore 6 s) p ≠ []) (ho : launchesOn (fireBefore 6 s) = true) :
    execStepLaunch p s = .next (slipsDue (launchDue (fireBefore 6 s) p) p) := by
  rw [execStepLaunch, res_of_part hp, launchesDue_due h ho]

theorem execStepLaunch_not (h : dueSubs (fireBefore 6 s) p = [] ∨ launchesOn (fireBefore 6 s) = false) :
    execStepLaunch p s = .next (fireBefore 6 s) := by
  rw [execStepLaunch, res_of_part hp, launchesDue_not h]

theorem execReadinessDeadline_one {u : Submission} (hs : s.steps.subs = [u]) (hu : u.part = p) (hg : u.group = true)
    (hi : u.index < u.count) (hn : u.next ≤ s.time.tick + groupLead s p) (hj : u.judged ≠ some u.next) (ho : launchesOn s = true) :
    execReadinessDeadline p s = .next (judgeGroup s u) := by
  rw [execReadinessDeadline, res_of_part hp, ho, hs]
  dsimp only
  rw [List.filter_cons_of_pos (by simp [hu, hg, hi, now, hn, hj])]
  rfl

theorem execGroupClaim_one {u : Submission} (hs : s.steps.subs = [u]) (hu : u.part = p) (hg : u.group = true) (hc : u.claimDone = false)
    (hi : u.index < u.count) (hn : u.next ≤ s.time.tick + groupLead s p + 8192) : execGroupClaim p s = .next (claim s u) := by
  rw [execGroupClaim, res_of_part hp, hs]
  dsimp only
  rw [List.filter_cons_of_pos (by simp [hu, hg, hc, hi, now, hn])]
  rfl

/-! ### Slips, insertions, missed points -/

theorem execSlip_one {n : SlipNotice} (h : (partOf (fireBefore 4 s) p).slips = [n]) (ht : n.tEff ≤ (fireBefore 4 s).time.tick) :
    execSlip p s = .next (applySlip (updPart (fireBefore 4 s) p (fun x => { x with slips := [] })) p n) := by
  rw [execSlip, res_of_part hp, slipsDue_one h ht]

theorem execTimedPointMiss_eq {c : Nat} (hc : c < 64) : execTimedPointMiss p c s = .next (missPoint s p c) := by
  rw [execTimedPointMiss, if_neg (by omega)]

theorem execIdleInsertion_one {a : ArmedAction} (h : (fireBefore 5 s).time.armed = [a]) (hk : a.kind = .idleInsertion) (ha : a.scope = p)
    (ht : a.tick ≤ (fireBefore 5 s).time.tick) :
    execIdleInsertion p s = .next (insertIdle { fireBefore 5 s with time.armed := [] } a) := by
  rw [execIdleInsertion, res_of_part hp, insertionsDue_one h hk ha ht]

/-! ### Slices, suspension, lost links -/

theorem execSliceEnd_over {n : Nat} (hh : (partOf s p).holder = some n) (ho : (partOf s p).sliceOver = false)
    (hc : (partOf s p).claimed = false) (he : (partOf s p).sliceEnd ≤ s.time.tick) : execSliceEnd p s = .next (endSlice s p n) := by
  rw [execSliceEnd, res_of_part hp]
  have hd : decide (now s < (partOf s p).sliceEnd) = false := decide_eq_false (Nat.not_lt.2 he)
  simp only [hh, ho, hc, hd]
  rfl

theorem execStepSuspend_leaves {r : StepRun} (hr : runOf s p = some r) (hl : mayLeave s p r = true) :
    execStepSuspend p s = .next (suspendStep s p r) := by
  rw [execStepSuspend, res_of_part hp, hr]
  exact if_pos hl

theorem execLinkLossEffectiveTick_one {r : StepRun} {q t : Nat} (hr : runOf s p = some r) (hl : r.lossAt = [(q, t)]) :
    execLinkLossEffectiveTick p s = .next (if t ≤ s.time.tick then stepEnd s p 0x0602 else s) := by
  rw [execLinkLossEffectiveTick, res_of_part hp, hr]
  dsimp only
  rw [hl, List.any_cons, List.any_nil, Bool.or_false, now]
  by_cases h : t ≤ s.time.tick <;> simp [h]

end

/-- The deadlines of a core that have come and are missed. -/
def missed (s : State) (p c : Nat) (r : StepRun) : List Nat :=
  (corePoints s p r c).filter (fun d => decide (d ≤ now s) && !notMissed s p r d)

theorem missPoint_none {s : State} {p c : Nat} {r : StepRun} (hr : runOf s p = some r) (h : missed s p c r = []) : missPoint s p c = s := by
  rw [missed] at h
  rw [missPoint, hr]
  simp only [h]

theorem missPoint_one {s : State} {p c d : Nat} {r : StepRun} (hr : runOf s p = some r) (h : missed s p c r = [d]) :
    missPoint s p c = if r.maxSlips ≤ r.slips then stepFail s p 0x0402
      else issueSlip s p { tEff := d + leadOf s p r.group, step := r.number, origin := blockIndex s p, cause := 1, group := r.group } := by
  rw [missed] at h
  rw [missPoint, hr]
  simp only [h, List.foldl_nil]

/-- Settles O34, from one lemma for each of its commands. -/
theorem stepSchedule : Obligations.StepSchedule := by
  intro s p hp
  refine ⟨?_, ?_, ⟨fun h ho => ?_, fun h => ?_⟩, fun u hs hu hg hi hn hj ho => ?_, fun c r hc hr => ⟨fun h => ?_, fun d h => ?_⟩,
    fun n h ht => ?_, fun a h hk ha ht => ?_, fun n hh ho hc he => ?_, fun r hr hl => ?_, fun u hs hu hg hc hi hn => ?_, fun r q t hr hl => ?_⟩
  · exact execPartitionStepBoundary_at hp
  · exact execPartitionStepBoundary_not hp
  · exact execStepLaunch_due hp h ho
  · exact execStepLaunch_not hp h
  · exact execReadinessDeadline_one hp hs hu hg hi hn hj ho
  · exact (execTimedPointMiss_eq hp hc).trans (congrArg _ (missPoint_none hr h))
  · exact (execTimedPointMiss_eq hp hc).trans (congrArg _ (missPoint_one hr h))
  · exact execSlip_one hp h ht
  · exact ⟨_, execIdleInsertion_one hp h hk ha ht, by rw [insertIdle_time], by rw [insertIdle_subs, ha],
      by rw [insertIdle_running], by rw [insertIdle_cores]⟩
  · exact execSliceEnd_over hp hh ho hc he
  · exact execStepSuspend_leaves hp hr hl
  · exact execGroupClaim_one hp hs hu hg hc hi hn
  · exact execLinkLossEffectiveTick_one hp hr hl

end Sys2Proof.Proofs

/-! Mailboxes: the lock, the doorbell and the acknowledgement (R14, R379 to R382). -/

namespace Sys2Proof.Proofs

open Sys2Proof Sys2Proof.Machine

/-! ### What a read of a lock answers -/

@[simp] theorem mbReply_time (s : State) (w v : Nat) : (mbReply s w v).time = s.time := by
  rw [mbReply]; split <;> rfl

@[simp] theorem mbReply_powered (s : State) (w v : Nat) : (mbReply s w v).ctrl.powered = s.ctrl.powered := by
  rw [mbReply]; split <;> rfl

theorem mbReply_cp {w : Nat} (h : isCp w = true) (s : State) (v : Nat) : mget (mbReply s w v).ctrl.cpRead (w - 1) = BitVec.ofNat 64 v := by
  rw [mbReply, if_pos h]
  exact mget_mset_self ..

theorem mbReply_host {w : Nat} (h : isCp w = false) (s : State) (v : Nat) : (mbReply s w v).reply.data = BitVec.ofNat 64 v := by
  rw [mbReply, h]; rfl

theorem lockSeen_own {w : Nat} (h : w ≠ 0) : lockSeen w w = 0 := by
  rw [lockSeen, if_neg h, if_pos rfl]

theorem lockSeen_other {o w : Nat} (h : o ≠ 0) (h' : o ≠ w) : lockSeen o w = o := by
  rw [lockSeen, if_neg h, if_neg h']

/-! ### Whose the lock is after the reads of a tick -/

theorem lockOwner_held {b : Mailbox} (m : Nat) (h : b.before ≠ 0) : lockOwner m b = b.before := if_pos h

theorem lockOwner_one {m w : Nat} {b : Mailbox} (h : b.before = 0) (hr : b.readers = [w]) (hw : mbSender m w = true) : lockOwner m b = w := by
  rw [lockOwner, if_neg (not_not.2 h), hr, List.filter_cons_of_pos hw]
  rfl

theorem lockOwner_two {m w w' : Nat} {b : Mailbox} (h : b.before = 0) (hr : b.readers = [w, w']) (hw : mbSender m w = true)
    (hw' : mbSender m w' = true) : lockOwner m b = min w w' := by
  have hs : sortNat [w, w'] = if w ≤ w' then [w, w'] else [w', w] := by simp only [sortNat, List.foldr_cons, List.foldr_nil, insertNat]
  rw [lockOwner, if_neg (not_not.2 h), hr, List.filter_cons_of_pos hw, List.filter_cons_of_pos hw', List.filter_nil, hs]
  by_cases hle : w ≤ w'
  · rw [if_pos hle, Nat.min_eq_left hle]; rfl
  · rw [if_neg hle, Nat.min_eq_right (by omega)]; rfl

theorem lockOwner_stranger {m w : Nat} {b : Mailbox} (h : b.before = 0) (hr : b.readers = [w]) (hw : mbSender m w = false) : lockOwner m b = 0 := by
  rw [lockOwner, if_neg (not_not.2 h), hr, List.filter_cons_of_neg (by rw [hw]; decide)]
  rfl

/-! ### Settling the reads of a tick -/

theorem lockSettle_one {s : State} {m w : Nat} {b : Mailbox} (hr : b.readers = [w]) :
    lockSettle s m b = mbReply (putMbox s m { b with lock := lockOwner m b }) w (lockSeen (lockOwner m b) w) := by
  rw [lockSettle, hr]; rfl

theorem mboxOf_lockSettle (s : State) (m k : Nat) (b : Mailbox) :
    mboxOf (lockSettle s m b) k = mboxOf (putMbox s m { b with lock := lockOwner m b }) k :=
  each_inv (fun t => mboxOf t k = mboxOf (putMbox s m { b with lock := lockOwner m b }) k) _ _ _ rfl
    fun _ _ h => (mbReply_boxes ..).trans h

theorem mboxOf_lockSettle_self (s : State) (m : Nat) (b : Mailbox) : mboxOf (lockSettle s m b) m = { b with lock := lockOwner m b } := by
  rw [mboxOf_lockSettle, mboxOf_putMbox_self]

theorem mboxOf_lockSettle_ne (s : State) {m k : Nat} (b : Mailbox) (h : k ≠ m) : mboxOf (lockSettle s m b) k = mboxOf s k := by
  rw [mboxOf_lockSettle, mboxOf_putMbox_ne _ _ h]

/-- The notes of a mailbox after the first read of its lock in a tick. -/
def firstRead (s : State) (m w : Nat) : Mailbox :=
  { mboxOf s m with readAt := s.time.tick, readers := [w], before := (mboxOf s m).lock }

theorem lockJoin_first {s : State} {m : Nat} (w : Nat) (h : (mboxOf s m).readAt ≠ s.time.tick ∨ (mboxOf s m).readers = []) :
    lockJoin s m w = firstRead s m w := by
  rw [lockJoin]
  refine if_neg fun ⟨ht, hr, _⟩ => ?_
  obtain h | h := h
  · exact h ht
  · exact hr h

/-- R14: a read joins the reads of its tick, the lock being still as they left it. -/
theorem lockJoin_second {s : State} {m w w' : Nat} (hb : mboxOf s m = { firstRead s m w with lock := w, before := 0 }) (hw : mbSender m w = true) :
    lockJoin s m w' = { mboxOf s m with readers := [w, w'] } := by
  have hr : (mboxOf s m).readers = [w] := by rw [hb]; rfl
  have hl : (mboxOf s m).lock = lockOwner m (mboxOf s m) := by
    rw [lockOwner_one (by rw [hb]) hr hw, hb]
  rw [lockJoin]
  refine (if_pos ⟨by rw [hb]; rfl, by rw [hr]; simp, hl⟩).trans ?_
  rw [hr]; rfl

section

variable {s : State} {w m : Nat} (hm : m < 64) (hp : s.ctrl.powered = true)

include hm hp

theorem execMailboxLockRead_on : execMailboxLockRead w m s = .next (lockSettle s m (lockJoin s m w)) := mbAccess_on _ _ _ _ hm hp

theorem execMailboxRelease_owner (h : mbOwner s m w = true) : execMailboxRelease w m s = .next (mbRelease s m) := by
  rw [execMailboxRelease, mbAccess_on _ _ _ _ hm hp, if_pos h]

theorem execMailboxRing_owner (h : mbOwner s m w = true) : execMailboxRing w m s = .next (mbRing s m) := by
  rw [execMailboxRing, mbAccess_on _ _ _ _ hm hp, if_pos h]

theorem execMailboxRelease_other (h : mbOwner s m w = false) : execMailboxRelease w m s = .next (addF s ccMbBad) := by
  rw [execMailboxRelease, mbAccess_on _ _ _ _ hm hp, h]; rfl

theorem execMailboxRing_other (h : mbOwner s m w = false) : execMailboxRing w m s = .next (addF s ccMbBad) := by
  rw [execMailboxRing, mbAccess_on _ _ _ _ hm hp, h]; rfl

theorem execMailboxAck_receiver (c : Code) (h : w = mbReceiver m) : execMailboxAck w m c s = .next (mbAck s m c) := by
  rw [execMailboxAck, mbAccess_on _ _ _ _ hm hp, if_pos h]

theorem execMailboxAck_other (c : Code) (h : w ≠ mbReceiver m) : execMailboxAck w m c s = .next (addF s ccMbBad) := by
  rw [execMailboxAck, mbAccess_on _ _ _ _ hm hp, if_neg h]; rfl

theorem execMailboxUnpowered_on (b : Bool) : execMailboxUnpowered m b s = .next s := by
  rw [execMailboxUnpowered, if_pos ⟨hm, hp⟩]

/-- The first read of a lock in a tick: what it answers, and whose the lock is. -/
theorem execMailboxLockRead_first (h : (mboxOf s m).readAt ≠ s.time.tick ∨ (mboxOf s m).readers = []) {o : Nat}
    (ho : lockOwner m (firstRead s m w) = o) : ∃ t, execMailboxLockRead w m s = .next t ∧
      t = mbReply (putMbox s m { firstRead s m w with lock := o }) w (lockSeen o w) ∧
      mboxOf t m = { firstRead s m w with lock := o } ∧ ∀ k, k ≠ m → mboxOf t k = mboxOf s k := by
  refine ⟨_, execMailboxLockRead_on hm hp, ?_, ?_, fun k hk => mboxOf_lockSettle_ne _ _ hk⟩
  · rw [lockJoin_first w h, lockSettle_one rfl, ho]
  · rw [lockJoin_first w h, mboxOf_lockSettle_self, ho]

/-- R380: a sender takes a free lock, and of the senders that read it in one tick the lowest has it (R14). -/
theorem lockRead_free (h : (mboxOf s m).readAt ≠ s.time.tick ∨ (mboxOf s m).readers = []) (hl : (mboxOf s m).lock = 0)
    (hs : mbSender m w = true) (hw : w ≠ 0) : ∃ t, execMailboxLockRead w m s = .next t ∧ (mboxOf t m).lock = w ∧
      (isCp w = true → mget t.ctrl.cpRead (w - 1) = 0) ∧ (isCp w = false → t.reply.data = 0) ∧ (∀ k, k ≠ m → mboxOf t k = mboxOf s k) ∧
      (∀ w', mbSender m w' = true → w' ≠ 0 → ∃ v, execMailboxLockRead w' m t = .next v ∧ (mboxOf v m).lock = min w w') := by
  obtain ⟨t, he, ht, hb, hk⟩ := execMailboxLockRead_first hm hp h (lockOwner_one (b := firstRead s m w) hl rfl hs)
  rw [lockSeen_own hw] at ht
  refine ⟨t, he, by rw [hb], fun hc => by rw [ht]; exact mbReply_cp hc .., fun hc => by rw [ht]; exact mbReply_host hc .., hk,
    fun w' hs' _ => ?_⟩
  have hp' : t.ctrl.powered = true := by rw [ht, mbReply_powered]; exact hp
  have htick : t.time = s.time := by rw [ht, mbReply_time]; rfl
  have hb' : mboxOf t m = { firstRead t m w with lock := w, before := 0 } := by
    rw [firstRead, htick, hb, firstRead, hl]
  refine ⟨_, execMailboxLockRead_on hm hp', ?_⟩
  rw [mboxOf_lockSettle_self, lockJoin_second hb' hs]
  exact lockOwner_two (by rw [hb']) rfl hs hs'

/-- R380: a read by another of a lock that is held tells who holds it. -/
theorem lockRead_held (h : (mboxOf s m).readAt ≠ s.time.tick ∨ (mboxOf s m).readers = []) (hl : (mboxOf s m).lock ≠ 0)
    (hw : (mboxOf s m).lock ≠ w) (hc : isCp w = false) : ∃ t, execMailboxLockRead w m s = .next t ∧
      t.reply.data = BitVec.ofNat 64 (mboxOf s m).lock ∧ (mboxOf t m).lock = (mboxOf s m).lock ∧ ∀ k, k ≠ m → mboxOf t k = mboxOf s k := by
  obtain ⟨t, he, ht, hb, hk⟩ := execMailboxLockRead_first (w := w) hm hp h (lockOwner_held m hl)
  refine ⟨t, he, ?_, by rw [hb]; rfl, hk⟩
  rw [ht, mbReply_host hc]
  exact congrArg _ (lockSeen_other hl hw)

/-- R379: one that may not send on the mailbox does not take its lock. -/
theorem lockRead_stranger (h : (mboxOf s m).readAt ≠ s.time.tick ∨ (mboxOf s m).readers = []) (hl : (mboxOf s m).lock = 0)
    (hs : mbSender m w = false) (hc : isCp w = false) : ∃ t, execMailboxLockRead w m s = .next t ∧ t.reply.data = 0xFFFF ∧ (mboxOf t m).lock = 0 := by
  obtain ⟨t, he, ht, hb, -⟩ := execMailboxLockRead_first hm hp h (lockOwner_stranger (b := firstRead s m w) hl rfl hs)
  exact ⟨t, he, by rw [ht]; exact mbReply_host hc .., by rw [hb]⟩

end

/-! ### Without power (R382) -/

section

variable {s : State} {m : Nat} (hm : m < 64) (hp : s.ctrl.powered = false)

include hm hp

theorem execMailboxUnpowered_off (b : Bool) : execMailboxUnpowered m b s = .next (unpowered s (0x1401000 + 32 * m) b) := by
  rw [execMailboxUnpowered, if_neg (by rw [hp]; simp), mbAccess_off _ _ _ _ hm hp]

theorem execMailboxRing_off {w : Nat} : execMailboxRing w m s = .next (unpowered s (0x1401000 + 32 * m) true) := mbAccess_off _ _ _ _ hm hp

theorem execMailboxLockRead_off {w : Nat} : execMailboxLockRead w m s = .next (unpowered s (0x1401000 + 32 * m) false) :=
  mbAccess_off _ _ _ _ hm hp

end

theorem mbRelease_alone {s : State} {m : Nat} (h : (mboxOf s m).readAt ≠ s.time.tick ∨ (mboxOf s m).before = 0) :
    mbRelease s m = putMbox s m {} := by
  rw [mbRelease]
  refine if_neg fun ⟨ht, hb⟩ => ?_
  obtain h | h := h
  · exact h ht
  · exact hb h

/-- Settles O46, from the lemmas on each access to a powered mailbox and on `mbAccess` without power. -/
theorem mailboxCommands : Obligations.MailboxCommands := by
  intro s w m hm
  refine ⟨fun hp => ⟨fun h => ⟨?_, ?_, ?_⟩, fun ho h => ?_, fun ho => ?_, fun ho => ?_, fun c => ⟨?_, fun hw => ⟨?_, fun hn => ?_⟩⟩, ?_⟩,
    fun hp => ⟨fun b => ?_, ?_, ?_⟩⟩
  · exact lockRead_free hm hp h
  · exact lockRead_held hm hp h
  · exact lockRead_stranger hm hp h
  · refine ⟨_, execMailboxRelease_owner hm hp ho, ?_⟩
    rw [mbRelease_alone h]
    exact ⟨mboxOf_putMbox_self .., fun k hk => mboxOf_putMbox_ne _ _ hk⟩
  · refine ⟨execMailboxRing_owner hm hp ho, ?_⟩
    rw [mboxOf_mbRing]
    exact ⟨rfl, rfl⟩
  · exact ⟨execMailboxRelease_other hm hp ho, execMailboxRing_other hm hp ho⟩
  · exact execMailboxAck_other hm hp c
  · exact execMailboxAck_receiver hm hp c hw
  · rw [mboxOf_mbAck s m c hn]
    exact ⟨rfl, rfl, rfl⟩
  · exact execMailboxUnpowered_on hm hp
  · exact execMailboxUnpowered_off hm hp b
  · exact execMailboxRing_off hm hp
  · exact ⟨_, execMailboxLockRead_off hm hp, rfl⟩

end Sys2Proof.Proofs

/-! Reads and writes of registers (R10 to R12, R15, R20, R46). -/

namespace Sys2Proof.Proofs

open Sys2Proof Sys2Proof.Machine

theorem hostWrite_answers {s : State} (h : s.bound.hostAnswers = true) (f : State → State) : hostWrite s f = .next (f s) := by
  rw [hostWrite, if_pos h]

theorem wholeWords_word {a : Nat} (h : a % 4 = 0) : wholeWords a 0x0F#8 = true := by
  simp [wholeWords, h]

theorem wholeWords_pair {a : Nat} (h : a % 8 = 0) : wholeWords a 0xFF#8 = true := by
  simp [wholeWords, h]

/-! ### One word -/

theorem busWrite_on {s : State} {a : Nat} (h : unitOff s a = false) (who w : Nat) :
    busWrite s who a w = rowWrite who a w (writeWord s who a w) := by
  rw [busWrite, h]; rfl

theorem busWrite_off {s : State} {a : Nat} (h : unitOff s a = true) (who w : Nat) : busWrite s who a w = unpowered s a true := by
  rw [busWrite, if_pos h]

theorem busRead_plain {s : State} {a : Nat} (h : unitOff s a = false) (hl : lockWord a = none) (who : Nat) :
    busRead s who a = (readWord s a, clearRc s a) := by
  rw [busRead, h, hl]; rfl

theorem busRead_off {s : State} {a : Nat} (h : unitOff s a = true) (who : Nat) : busRead s who a = (0xFFFFFFFF, unpowered s a false) := by
  rw [busRead, if_pos h]

theorem clearRc_mem (s : State) (a : Nat) : (clearRc s a).mem = s.mem :=
  each_inv (fun t : State => t.mem = s.mem) _ _ _ rfl fun f t h => by
    split
    · rw [setF_mem, h]
    · exact h

/-! ### A write to a plain register field (R12) -/

theorem bits_of_word {f : Fld} (v : Nat) (h : f.lo + f.width ≤ 32) : bits (v % 2 ^ 32) f.lo f.width = bits v f.lo f.width := by
  obtain ⟨r, hr⟩ : ∃ r, 32 = f.lo + (f.width + r) := ⟨32 - (f.lo + f.width), by omega⟩
  rw [bits, bits, hr, Nat.pow_add, Nat.mod_mul_right_div_self, Nat.pow_add, Nat.mod_mul_right_mod]

theorem writeWord_field {s : State} {a : Nat} {f : Fld} (hf : fieldsAt a = [f]) (ha : ¬(0x1401000 ≤ a ∧ a < 0x1401800)) (who w : Nat) :
    writeWord s who a w = writeField who a w f s := by
  rw [writeWord, if_neg (fun h => ha ⟨h.1, h.2.1⟩), hf]; rfl

theorem writeField_rw {s : State} {who : Nat} {f : Fld} (hs : f.stride = 0) (hw : writable s who f = true) (hr : f.acc = .rw)
    (hk : f ≠ mpKeyData) (hp : f ≠ ccPeriod) (a w : Nat) : writeField who a w f s = setF s f (keptBits f (bits w f.lo f.width)) := by
  rw [writeField]
  simp only [hs, if_true, if_neg hk, hr, hw, if_neg hp]
  rfl

/-! ### Accesses of the host -/

section

variable {s : State} {a : Nat} (hh : s.bound.hostAnswers = true)

include hh

theorem execRegisterWrite_word (h : a % 4 = 0) (w : Nat) (v : BitVec 64) :
    execRegisterWrite w a v 0x0F#8 s = .next (busWrite s w a (v.toNat % 2 ^ 32)) := by
  rw [execRegisterWrite, hostWrite_answers hh, wholeWords_word h]; rfl

theorem execRegisterWrite_pair (h : a % 8 = 0) (w : Nat) (v : BitVec 64) :
    execRegisterWrite w a v 0xFF#8 s = .next (busWrite (busWrite s w a (v.toNat % 2 ^ 32)) w (a + 4) (v.toNat / 2 ^ 32)) := by
  rw [execRegisterWrite, hostWrite_answers hh, wholeWords_pair h]; rfl

theorem execRegisterWrite_part {e : BitVec 8} (h : wholeWords a e = false) (w : Nat) (v : BitVec 64) : execRegisterWrite w a v e s = .next s := by
  rw [execRegisterWrite, hostWrite_answers hh, h]; rfl

theorem execCounterRead_word (h : a % 4 = 0) : execCounterRead false a 0x0F#8 s =
    .next { (busRead s hostReq a).2 with reply.data := BitVec.ofNat 64 (busRead s hostReq a).1 } := by
  rw [execCounterRead, hostWrite_answers hh, wholeWords_word h]
  simp only [Bool.not_true, Bool.or_self, Bool.false_eq_true, if_false, busReadN, show (0x0F#8 == 0xFF#8) = false from rfl]

theorem execCounterRead_pair (h : a % 8 = 0) : execCounterRead false a 0xFF#8 s =
    .next { (busRead (busRead s hostReq a).2 hostReq (a + 4)).2 with
      reply.data := BitVec.ofNat 64 ((busRead s hostReq a).1 + (busRead (busRead s hostReq a).2 hostReq (a + 4)).1 * 2 ^ 32) } := by
  rw [execCounterRead, hostWrite_answers hh, wholeWords_pair h]
  simp only [Bool.not_true, Bool.or_self, Bool.false_eq_true, if_false, busReadN, show (0xFF#8 == 0xFF#8) = true from rfl, if_true]

theorem execCounterRead_part {b : Bool} {e : BitVec 8} (h : b = true ∨ wholeWords a e = false) :
    execCounterRead b a e s = .next { s with reply.data := 0 } := by
  rw [execCounterRead, hostWrite_answers hh]
  refine congrArg _ (if_pos ?_)
  obtain h | h := h <;> simp [h]

/-- R12: a write to a plain field of a register puts its bits there and changes nothing else. -/
theorem execRegisterWrite_field {w : Nat} {f : Fld} (v : BitVec 64) (hu : unitOff s a = false) (ha : a % 4 = 0) (hpl : plainAt a)
    (hf : fieldsAt a = [f]) (hs : f.stride = 0) (hw : writable s w f = true) (hr : f.acc = .rw) (hk : f ≠ mpKeyData) (hp : f ≠ ccPeriod)
    (hm : ¬(0x1401000 ≤ a ∧ a < 0x1401800)) (hl : f.lo + f.width ≤ 32) :
    execRegisterWrite w a v 0x0F#8 s = .next (setF s f (keptBits f (bits v.toNat f.lo f.width))) := by
  rw [execRegisterWrite_word hh ha, busWrite_on hu, hpl, writeWord_field hf hm, writeField_rw hs hw hr hk hp, bits_of_word _ hl]

end

/-- Settles O55, from one lemma for each form of access. -/
theorem registerCommands : Obligations.RegisterCommands := by
  intro s a
  refine ⟨fun hh hu ha => ⟨fun w v => ?_, fun hl => ?_, fun w f v hpl hf hs hoff hw hr hk hp hm hlw => ?_, fun ha8 => ⟨fun w v => ?_, ?_⟩⟩,
    fun hh => ⟨fun w v e he => ?_, fun b e he => ?_⟩, fun hh hu => ⟨fun b => ?_, rfl, fun ha => ⟨fun w v => ?_, ?_⟩⟩, fun hu b => ?_, fun i => ?_⟩
  · exact (execRegisterWrite_word hh ha w v).trans (congrArg _ (busWrite_on hu ..))
  · refine ⟨_, execCounterRead_word hh ha, ?_, ?_⟩
    · rw [busRead_plain hu hl]
    · rw [busRead_plain hu hl]
      exact clearRc_mem s a
  · have hat : f.at 0 = a := by rw [Fld.at, hoff, Nat.mul_zero, Nat.add_zero]
    refine ⟨_, execRegisterWrite_field hh v hu ha hpl hf hs hw hr hk hp hm hlw, getF_setF_self _ _ _ _ hlw, fun g j hg => ?_, setF_mem .., setF_cores ..⟩
    exact getF_setF_ne _ _ _ _ _ _ (hat ▸ hg)
  · exact execRegisterWrite_pair hh ha8 w v
  · intro hl hl4 hu4
    refine ⟨_, execCounterRead_pair hh ha8, ?_, ?_⟩
    · rw [busRead_plain hu hl, busRead_plain hu4 hl4]
    · rw [busRead_plain hu hl, busRead_plain hu4 hl4]
      exact (clearRc_mem ..).trans (clearRc_mem ..)
  · exact execRegisterWrite_part hh he w v
  · exact execCounterRead_part hh he
  · change execPoweredDownDomainAccess a b s = _
    rw [execPoweredDownDomainAccess, hh, hu]; rfl
  · exact (execRegisterWrite_word hh ha w v).trans (congrArg _ (busWrite_off hu ..))
  · refine (execCounterRead_word hh ha).trans (congrArg _ ?_)
    rw [busRead_off hu]; rfl
  · change execPoweredDownDomainAccess a b s = _
    rw [execPoweredDownDomainAccess, hu, Bool.and_false]; rfl
  · exact ⟨_, rfl, rfl, rfl⟩

end Sys2Proof.Proofs

/-! Every command that names units which exist has a next state (R13). -/

namespace Sys2Proof.Proofs
open Sys2Proof Sys2Proof.Machine

/-- A result is a next state where `b` holds, and the stop for a unit that does not exist where it does not. -/
def NextIf (b : Bool) (r : Res) : Prop := (b = true → ∃ t, r = .next t) ∧ (b = false → r = .fault .noSuchUnit)

theorem nextIf_true {r : Res} (h : ∃ t, r = .next t) : NextIf true r := ⟨fun _ => h, nofun⟩

theorem nextIf_lt {n N : Nat} {r : Res} (h : (n < N → ∃ t, r = .next t) ∧ (¬ n < N → r = .fault .noSuchUnit)) : NextIf (decide (n < N)) r :=
  ⟨fun hb => h.1 (of_decide_eq_true hb), fun hb => h.2 (of_decide_eq_false hb)⟩

theorem nextIf_guard {n N : Nat} {r : Res} (h : ∃ t, r = .next t) : NextIf (decide (n < N)) (if N ≤ n then .fault .noSuchUnit else r) :=
  nextIf_lt ⟨fun hn => by rwa [if_neg (Nat.not_le.2 hn)], fun hn => if_pos (Nat.not_lt.1 hn)⟩

theorem nextIf_guards {m n M N : Nat} {r : Res} (h : ∃ t, r = .next t) :
    NextIf (decide (m < M ∧ n < N)) (if M ≤ m ∨ N ≤ n then .fault .noSuchUnit else r) := by
  refine ⟨fun hb => ?_, fun hb => if_pos ?_⟩
  · have hb := of_decide_eq_true hb
    rwa [if_neg (by omega)]
  · have hb := of_decide_eq_false hb
    omega

theorem tileExec_served (i : Instr) (m : TileMode) (c : Nat) (dw : Bool) (f : TileFields) (ecc : SramEcc) (s : State) :
    (c < 64 → ∃ t, tileExec i m c dw f ecc s = .next t) ∧ (¬ c < 64 → tileExec i m c dw f ecc s = .fault .noSuchUnit) :=
  issue_served ..

theorem vecExec_served (i : Instr) (c : Nat) (dw : Bool) (s : State) (g : Core → Core) :
    (c < 64 → ∃ t, vecExec i c dw s g = .next t) ∧ (¬ c < 64 → vecExec i c dw s g = .fault .noSuchUnit) :=
  issue_served ..

theorem ctlArrive_served (s : State) (q : Nat) (fec : RxMark) (bs : List Byte) (want : Nat) (e : CtlMsg → State → State) :
    (q < 60 → ∃ t, ctlArrive q fec bs want e s = .next t) ∧ (¬ q < 60 → ctlArrive q fec bs want e s = .fault .noSuchUnit) :=
  ctlFlitIn_served ..

theorem execMailboxUnpowered_served (s : State) (m : Nat) (w : Bool) :
    (m < 64 → ∃ t, execMailboxUnpowered m w s = .next t) ∧ (¬ m < 64 → execMailboxUnpowered m w s = .fault .noSuchUnit) := by
  rw [execMailboxUnpowered]
  refine ⟨fun h => ?_, fun h => ?_⟩
  · split
    · exact ⟨_, rfl⟩
    · exact (mbAccess_served ..).1 h
  · rw [if_neg (fun hm => h hm.1)]
    exact (mbAccess_served ..).2 h

/-- R13: every command, by the operation that it goes through. -/
theorem exec_nextIf (i : Instr) (s : State) : NextIf i.unitsExist (exec i s) := by
  cases i with dsimp only [exec, Instr.unitsExist]
  -- core instructions
  | controlNop | li | addi | add | sub | cmp | br | loop | sync | twait | rdtick | halt | selectBegin | selectEnd | merge | vld | vst |
    mxst | localMove | tsend | rarm | rwait | alloc | free | fsig | fwait | yield | lateFeatureTest =>
    exact nextIf_lt (issue_served ..)
  -- tile instructions
  | tileMatrix | tileL1 | tileL2 | tileDot | tileHamming | tileMaxPlus | tileMinPlus | tileConvolution | tileEq | tileNe | tileLt | tileLe
    | tileGt | tileGe =>
    exact nextIf_lt (tileExec_served ..)
  -- operations between vector registers
  | vimm | vidx | fadd | fsub | fmul | ffma | fmax | fmin | fabs | fneg | frelu | fsel | flt | feq | fmuls | fadds | fexp2 | flog2 |
    frecip | frsqrt | fexp | fsigmoid | ftanh | fsum | fmaxr | fminr | iadd | isub | imul | imax | imin | ishl | ishr | cvtif | cvtfi =>
    exact nextIf_lt (vecExec_served ..)
  -- control flits
  | markerFlit =>
    exact nextIf_lt (ctlFlitIn_served ..)
  | flipFlit | snapshotAnnouncement | resetFlit | resetDone | idleInsertionMessage | slipFlit | linkLossNotice | abandonFlit | management =>
    exact nextIf_lt (ctlArrive_served ..)
  -- mailboxes and their services
  | mailboxLockRead | mailboxRelease | mailboxRing | mailboxAck =>
    exact nextIf_lt (mbAccess_served ..)
  | getStatus | pushBundle | flashUpdate | retrainPort | domainReset | armSnapshot | addSoftRepair =>
    exact nextIf_lt (serveMsg_served ..)
  | mailboxUnpowered =>
    exact nextIf_lt (execMailboxUnpowered_served ..)
  -- doorbells
  | doorbellSqTail | doorbellCq | doorbellEq =>
    exact nextIf_lt (doorbell_served ..)
  -- dispatched commands
  | nop | copy | fill | execBuffer | launchStep | createObject | freeObject | createFence | destroyFence | queryCapabilities | loadProgram
    | unloadProgram | grantArena | revokeArena | bindTable | unbindTable | loadCodebook | update | bindStream | unbindStream | sealEpoch |
    flip | readTick | readSnapshot | createContext | destroyContext | createPartition | resizePartition | destroyPartition | loadGroup |
    unloadGroup | setContextSched | setCalibration | readAccounting | grantPages | revokePages | resetInstance | replayHoldingRing |
    setQueue =>
    exact nextIf_true (runJob_served ..)
  -- commands that name no unit and have one outcome, the register writes of the host among them
  | coldReset | coldResetRelease | warmReset | warmResetShort | warmResetRelease | clockLoss | powerBudgetCapture | pwrStateRun |
    pwrStateHold | pwrStatePrepareOff | prepareOffDone | pwrStateOff | powerRemoved | thermalAlarm | thermalReaise | thermalRelease |
    tpulseEdge | tpulseHoldover | atsInvalidate | registerWrite | counterRead | admqTailWrite | admcqHeadWrite | admeqHeadWrite | tealFlip
    | snapshotLatch | domainResetFire | sketchClear | updateStreamPacket | greyLaneRecord | greyLaneReturn | promotionFetch |
    promotionData | firmwareManagement | fuseLoad | flashRead | verify | firmwareStart | bistAndRepair | linkRetry | syncWaitEvent |
    loadState | startStateLimit | startHeld | flashCommandRelease | snapshotArm | domainResetArm | pageRequestResponse | acClearAll |
    mirrorGo | invalidateAll | invalidatePasid | invalidatePasidRange | invalidateDomain | invalidateDomainRange | invalidatePasidEntry |
    forerunnerModeSet | translationRegionSet | keySlotLoad | keySlotClear | ashWatchSet | ashWatchClear | unitMarkOut | digestGo |
    powerWindow | wrapperInstructionUpdate | poweredDownDomainAccess =>
    exact nextIf_true ⟨_, rfl⟩
  -- commands that name a unit and have one outcome where it exists
  | functionLevelReset | partitionStepBoundary | stepLaunch | slip | idleInsertion | tileComplete | timedSend | deltaMergePassEnd |
    stackReadTimeout | refreshWindow | hbmTrainDone | hbmTrainFail | linkTraining | linkPortUp | cpHoldSet | cpHoldClear | watchdogKick |
    watchdogExpire | firmwareAccess | commandUnknown | nocOwnershipWrite | acClear =>
    exact nextIf_guard ⟨_, rfl⟩
  -- commands that name a unit and whose outcomes are told apart: each is a next state
  | priResponse | destroyComplete | partitionResetOverrun | stepSuspend | deliveryLanded | lookupId | carryAreaFinal | beRetryTimeout |
    linkPcsDown | stackReadBeat | linkLossEffectiveTick | partitionResetDone =>
    refine nextIf_guard ?_
    repeat' split
    all_goals exact ⟨_, rfl⟩
  | functionResetComplete | functionResetBound | atsCompletion | msixModerationExpire | objectRelease | fenceFree | destroyWatchdog |
    sliceEnd | groupClaim | featureReady | crimsonQuotaWrite | exchangeServe | timedFlit | bestEffortFlit | translationWalk |
    readinessDeadline =>
    refine nextIf_guard ?_
    dsimp only
    repeat' split
    all_goals exact ⟨_, rfl⟩
  -- commands that name two units
  | timedPointMiss | spRefUrgent | slotOwnershipWrite =>
    refine nextIf_guards ?_
    repeat' split
    all_goals exact ⟨_, rfl⟩
  -- commands that name no unit and whose outcomes are told apart
  | atsInvalidateDone | descriptorFetch | dispatch | commandRetire | queueTimeoutCheck | sealComplete | domainResetLocalDone |
    domainResetDeadline | slabServe | promotionCopyDone | sketchHalving | twinCatchupDone | bePacketTimeout | syncMarkerSend |
    markerHoldover | unaligned | masterTakeover | capabilityRewriteDone | faultRecordWrite | accessCounterDecay | mirrorDone |
    invalidationComplete | keySlotEffect | ceCounterHalving | ashTest | ashTestResult | digestDone =>
    refine nextIf_true ?_
    dsimp only [execAtsInvalidateDone, execDescriptorFetch, execDispatch, execCommandRetire, execQueueTimeoutCheck, execSealComplete,
      execDomainResetLocalDone, execDomainResetDeadline, execSlabServe, execPromotionCopyDone, execSketchHalving, execTwinCatchupDone,
      execBePacketTimeout, execSyncMarkerSend, execMarkerHoldover, execUnaligned, execMasterTakeover, execCapabilityRewriteDone,
      execFaultRecordWrite, execAccessCounterDecay, execMirrorDone, execInvalidationComplete, execKeySlotEffect, execCeCounterHalving,
      execAshTest, execAshTestResult, execDigestDone]
    repeat' split
    all_goals exact ⟨_, rfl⟩

/-- Settles O58, from `exec_nextIf`. -/
theorem everyCommandServed : Obligations.EveryCommandServed := exec_nextIf

end Sys2Proof.Proofs

/-! The power limiter's windows (R40, R417 to R419). -/

namespace Sys2Proof.Proofs

open Sys2Proof Sys2Proof.Machine

/-- The two registers that a window writes read as written. -/
theorem getF_window (u : State) (e r : Nat) (he : e < 1024) : getF (setF (setF u hpEstW e) hpRatio r) hpRatio = r % 16384 ∧
    getF (setF (setF u hpEstW e) hpRatio r) hpEstW = e :=
  ⟨getF_setF_self _ _ _ _ (by decide), (getF_setF_ne _ hpRatio hpEstW _ _ _ (by decide)).trans
    ((getF_setF_self _ _ _ _ (by decide)).trans (Nat.mod_eq_of_lt he))⟩

/-- Settles O52, from the laws of one window and of the backstop. -/
theorem powerCommands : Obligations.PowerCommands := by
  intro s w u limit old r v
  obtain ⟨hlow, hover⟩ := powerWindow_step s u w r rfl rfl
  exact ⟨hlow, hover, judgeBackstop_off v w limit, getF_window u (min 1023 w) r (by omega)⟩

end Sys2Proof.Proofs

/-! The state after reset (R20, R37, R41, R112). -/

namespace Sys2Proof.Proofs

open Sys2Proof Sys2Proof.Machine

/-- A register that nothing has written reads as its reset value. -/
theorem getF_unwritten {s : State} (h : s.regs = []) (f : Fld) (i : Nat) : getF s f i = bits (f.rst % 2 ^ 32) f.lo f.width := by
  rw [getF, wordD, h, mfind, Option.getD_none, BitVec.toNat_ofNat]

/-- R151: a core that nothing has used has no task, and its g registers read 0. -/
theorem idle_core (r : Nat) : (default : Core).task = none ∧ gReg default r = 0 :=
  ⟨rfl, by rw [gReg]; exact ite_self 0⟩

/-- Settles O60, from the values with which the state's fields are declared. -/
theorem resetValues : Obligations.ResetValues := by
  have hcore : ∀ c, coreOf State.reset c = default := fun _ => rfl
  refine ⟨rfl, rfl, ⟨?_, fun c => ?_⟩, fun _ => rfl, getF_unwritten rfl, fun c r => ?_⟩
  · exact ⟨rfl, rfl, rfl, rfl, rfl, rfl⟩
  · rw [hcore]
    exact ⟨⟨rfl, rfl, rfl, rfl⟩, rfl, rfl, rfl, rfl⟩
  · rw [hcore]
    exact idle_core r

end Sys2Proof.Proofs

/-! Resets, their releases, loss of clock and of power (R33, R37 to R39, R41, R47, R50, R242, R251, R264, R390). -/

namespace Sys2Proof.Proofs

open Sys2Proof Sys2Proof.Machine

/-! ### The beginning of staged start -/

/-- A processor that starts changes registers and the control complex alone. -/
theorem cpStart_frame (s : State) (n : Nat) : cpStart s n = { s with regs := (cpStart s n).regs, ctrl := (cpStart s n).ctrl } := rfl

/-- R374, R390: what the beginning of amber stage changes. -/
theorem enterAmber_frame (s : State) : enterAmber s =
    { s with bound := { s.bound with stage := 1, hostAnswers := true, flCsN := false, flResetN := true },
             regs := (enterAmber s).regs, ctrl := (enterAmber s).ctrl } := rfl

theorem getF_enterAmber (s : State) : getF (enterAmber s) bcState = 2 :=
  (getF_cpStart _ 0).trans (getF_setF_self _ _ _ _ (by decide))

/-! ### Cold reset -/

theorem execColdReset_next (s : State) : ∃ t, execColdReset s = .next t ∧ t.time.tick = 0 ∧ t.mem.hbm = [] ∧ t.mem.ctrlSram = [] ∧
    t.mem.host = s.mem.host ∧ t.mem.flash = s.mem.flash ∧ t.start.fuses = s.start.fuses ∧ t.cores = [] ∧ t.bound.stage = 0 ∧
    t.bound.hostAnswers = false ∧ t.bound.pwr = s.bound.pwr ∧ getF t bcPwrState = s.bound.pwr % 4 ∧ t.front = State.reset.front ∧
    t.emb = State.reset.emb ∧ t.pending = s.pending := by
  obtain ⟨htime, hmem, hstart, hcores, hfront, hemb, hpending⟩ := followPins_frame (outsideOf s) s
  obtain ⟨hstage, hanswers, hpwr⟩ := followPins_bound (outsideOf s) s
  refine ⟨_, rfl, ?_⟩
  rw [htime, hmem, hstart, hcores, hfront, hemb, hpending, hstage, hanswers, hpwr, followPins_pwr]
  exact ⟨rfl, rfl, rfl, rfl, rfl, rfl, rfl, rfl, rfl, rfl, rfl, rfl, rfl, rfl⟩

/-- R37, R50, R390: at the rising edge of `por_n` the straps are sampled and start begins. -/
theorem execColdResetRelease_begins {s : State} (o e : Bool) (hp : s.bound.powered = true) (hl : s.bound.porLow = true) :
    ∃ t, execColdResetRelease o e s = .next t ∧ getF t bcState = 1 ∧ t.bound.porLow = false ∧ t.start.startTick = s.time.tick ∧
      getF t bcFlOctal = b2n o ∧ getF t bcTestEn = b2n e ∧ t.mem = s.mem := by
  have hb : ∀ b : Bool, b2n b % 2 ^ 1 = b2n b := by decide
  rw [execColdResetRelease, hp, hl, Bool.and_self, if_pos rfl]
  refine ⟨_, rfl, getF_setF_self _ _ _ _ (by decide), rfl, rfl, ?_, ?_, rfl⟩
  · refine (getF_setF_ne _ bcState bcFlOctal _ _ _ (by decide)).trans ?_
    refine (getF_setF_disj _ bcTestEn bcFlOctal _ 0 0 rfl rfl (by decide) (by decide)).trans ?_
    exact (getF_setF_self _ _ _ _ (by decide)).trans (hb o)
  · refine (getF_setF_ne _ bcState bcTestEn _ _ _ (by decide)).trans ?_
    exact (getF_setF_self _ _ _ _ (by decide)).trans (hb e)

theorem execColdResetRelease_off {s : State} (o e : Bool) (h : s.bound.powered = false ∨ s.bound.porLow = false) :
    execColdResetRelease o e s = .next s := by
  rw [execColdResetRelease, if_neg]
  obtain h | h := h <;> simp [h]

/-! ### Warm reset -/

/-- R38: a warm reset and one that is too short are seen where the always-on domains see their inputs and none is held. -/
theorem warm_seen {s : State} (hp : s.bound.powered = true) (hl : s.bound.porLow = false) (hw : s.bound.warmHeld = false) :
    (s.bound.powered && !s.bound.porLow && !s.bound.warmHeld) = true := by
  rw [hp, hl, hw]; rfl

theorem warm_unseen {s : State} (h : s.bound.powered = false ∨ s.bound.porLow = true ∨ s.bound.warmHeld = true) :
    ¬ (s.bound.powered && !s.bound.porLow && !s.bound.warmHeld) = true := by
  obtain h | h | h := h <;> simp [h]

theorem execWarmReset_next {s : State} (h : (s.bound.powered && !s.bound.porLow && !s.bound.warmHeld) = true) :
    ∃ t, execWarmReset s = .next t ∧ t.bound.warmHeld = true ∧ t.time.tick = s.time.tick ∧ t.mem.hbm = s.mem.hbm ∧ t.mem.host = s.mem.host ∧
      t.mem.ctrlSram = [] ∧ t.cores = [] ∧ t.bound.stage = 0 ∧ t.front.capGen = (s.front.capGen + 1) % 2 ^ 32 ∧ t.front.jobs = [] ∧
      t.front.ctxs = [] ∧ t.front.objAlloc = (fencesGone (objectsGone s)).front.objAlloc ∧
      t.front.fenceAlloc = (fencesGone (objectsGone s)).front.fenceAlloc ∧ t.start.shadow = some s.start.fuses ∧
      t.health.telem = s.health.telem ∧ t.emb = State.reset.emb ∧ t.steps = State.reset.steps := by
  rw [execWarmReset, if_pos h]
  dsimp only
  generalize hu : ({ setF (setF (warmState s) hpGo21C 0) bcPwrAck (if s.bound.pwr = 1 then 1 else 0) with
    bound.warmHeld := true, front.capGen := (s.front.capGen + 1) % 2 ^ 32 } : State) = u
  obtain ⟨hstart, hbound, htime, hmem, hcores, hfront, hhealth, hemb, hsteps⟩ := loadFuses_frame u
  refine ⟨_, rfl, ?_⟩
  rw [hstart, hbound, htime, hmem, hcores, hfront, hhealth, hemb, hsteps]
  subst hu
  exact ⟨rfl, rfl, rfl, rfl, rfl, rfl, rfl, rfl, rfl, rfl, rfl, rfl, rfl, rfl, rfl, rfl⟩

theorem execWarmReset_off {s : State} (h : ¬ (s.bound.powered && !s.bound.porLow && !s.bound.warmHeld) = true) :
    execWarmReset s = .next s := by
  rw [execWarmReset, if_neg h]

theorem execWarmResetShort_counts {s : State} (h : (s.bound.powered && !s.bound.porLow && !s.bound.warmHeld) = true) :
    execWarmResetShort s = .next (addF s bcWrstShort) := by
  rw [execWarmResetShort, if_pos h]

theorem execWarmResetShort_off {s : State} (h : ¬ (s.bound.powered && !s.bound.porLow && !s.bound.warmHeld) = true) :
    execWarmResetShort s = .next s := by
  rw [execWarmResetShort, if_neg h]

/-- R38, R39: staged start is repeated from amber. -/
theorem execWarmResetRelease_amber {s : State} (hw : s.bound.warmHeld = true) (hc : s.bound.clockLost = false) :
    ∃ t, execWarmResetRelease s = .next t ∧ t.bound.warmHeld = false ∧ getF t bcState = 2 ∧ t.bound.stage = 1 ∧
      t.bound.hostAnswers = true ∧ t.start.startTick = s.time.tick ∧ t.mem = s.mem := by
  rw [execWarmResetRelease, if_pos hw]
  simp only [hc, Bool.false_eq_true, if_false]
  refine ⟨_, rfl, ?_⟩
  rw [getF_enterAmber, enterAmber_frame]
  exact ⟨rfl, rfl, rfl, rfl, rfl, rfl⟩

/-- R33: a clock lost while the reset was held still needs a reset of its own. -/
theorem execWarmResetRelease_lost {s : State} (hw : s.bound.warmHeld = true) (hc : s.bound.clockLost = true) :
    execWarmResetRelease s = .next { s with bound.warmHeld := false, start.startTick := s.time.tick } := by
  rw [execWarmResetRelease, if_pos hw]
  exact congrArg _ (if_pos hc)

theorem execWarmResetRelease_off {s : State} (hw : s.bound.warmHeld = false) : execWarmResetRelease s = .next s := by
  rw [execWarmResetRelease, if_neg (by rw [hw]; decide)]

/-! ### Loss of clock -/

/-- R33: while a warm reset is held the loss is recorded alone. -/
theorem execClockLoss_held {s : State} (hw : s.bound.warmHeld = true) : ∃ t, execClockLoss s = .next t ∧ t.bound.clockLost = true ∧
    getF t bcRootClkLost = 1 ∧ t.bound.warmHeld = true ∧ t.mem = s.mem := by
  rw [execClockLoss, if_pos hw]
  exact ⟨_, rfl, rfl, getF_setF_self _ _ _ _ (by decide), hw, rfl⟩

/-- R33: every domain but the always-on ones stops. -/
theorem execClockLoss_stops {s : State} (hp : s.bound.powered = true) (hl : s.bound.porLow = false) (hw : s.bound.warmHeld = false)
    (hc : s.bound.clockLost = false) : ∃ t, execClockLoss s = .next t ∧ t.bound.clockLost = true ∧ getF t bcRootClkLost = 1 ∧
      t.time.tick = s.time.tick ∧ t.cores = [] ∧ t.start.shadow = s.start.shadow := by
  rw [execClockLoss, if_neg (by rw [hw]; decide), if_pos (by rw [hp, hl, hc]; rfl)]
  exact ⟨_, rfl, rfl, getF_setF_self _ _ _ _ (by decide), rfl, rfl, rfl⟩

theorem execClockLoss_off {s : State} (h : s.bound.powered = false ∨ s.bound.porLow = true) (hw : s.bound.warmHeld = false) :
    execClockLoss s = .next s := by
  rw [execClockLoss, if_neg (by rw [hw]; decide), if_neg]
  obtain h | h := h <;> simp [h]

/-- Settles O53, from one lemma for each case of each command. -/
theorem resetCommands : Obligations.ResetCommands := by
  intro s
  refine ⟨execColdReset_next s, fun o e hp hl => execColdResetRelease_begins o e hp hl, fun o e h => execColdResetRelease_off o e h,
    fun hp hl hw => ⟨execWarmReset_next (warm_seen hp hl hw), execWarmResetShort_counts (warm_seen hp hl hw)⟩,
    fun h => ⟨execWarmReset_off (warm_unseen h), execWarmResetShort_off (warm_unseen h), fun hw => ?_⟩, fun hw => execClockLoss_held hw,
    fun hw hc => execWarmResetRelease_lost hw hc, fun hw hc => execWarmResetRelease_amber hw hc, fun hw => execWarmResetRelease_off hw,
    fun hp hl hw hc => execClockLoss_stops hp hl hw hc, ⟨_, rfl, rfl, rfl, rfl, rfl, rfl, rfl⟩⟩
  refine execClockLoss_off ?_ hw
  obtain h | h | h := h
  · exact .inl h
  · exact .inr h
  · rw [hw] at h; cases h

end Sys2Proof.Proofs

/-! The sideband: power budget and power states, the thermal alarm and the time pulse (R40 to R45, R382, R393, R420). -/

namespace Sys2Proof.Proofs

open Sys2Proof Sys2Proof.Machine

/-! ### What the commands leave, and when they leave everything -/

/-- Before the always-on domains see their inputs no command of the sideband changes anything. -/
theorem sideband_unseen {s : State} (h : sideOn s = false) :
    (∀ w, execPowerBudgetCapture w s = .next s) ∧ execPwrStateRun s = .next s ∧ execPwrStateHold s = .next s ∧
    execPwrStatePrepareOff s = .next s ∧ execPwrStateOff s = .next s ∧ execThermalAlarm s = .next s ∧ execThermalReaise s = .next s ∧
    execThermalRelease s = .next s ∧ (∀ b k, execTpulseEdge b k s = .next s) ∧ execTpulseHoldover s = .next s := by
  simp [execPowerBudgetCapture, execPwrStateRun, execPwrStateHold, execPwrStatePrepareOff, execPwrStateOff, execThermalAlarm,
    execThermalReaise, execThermalRelease, execTpulseEdge, execTpulseHoldover, h]

/-- R41: once off has been acknowledged the block does not return. -/
theorem pwr_off_stays {s : State} (h : getF s bcPwrAck = 3) : execPwrStateRun s = .next s ∧ execPwrStateHold s = .next s ∧
    execPwrStatePrepareOff s = .next s ∧ execPwrStateOff s = .next s := by
  simp [execPwrStateRun, execPwrStateHold, execPwrStatePrepareOff, execPwrStateOff, h]

/-- R40: the beginning of the shutdown sequence. -/
theorem startPrepare_pwr (s : State) (p : Nat) (hp : p < 4) : getF (startPrepare s p) bcPwrState = p ∧
    (startPrepare s p).bound.fetchStopped = true ∧ (startPrepare s p).bound.prepareOff = true ∧ (startPrepare s p).mem = s.mem ∧
    (startPrepare s p).ctrl = s.ctrl :=
  ⟨(fetchIdle_pwr s p _ hp (getF_lt s bcPwrAck 0) true true).1, rfl, rfl, rfl, rfl⟩

/-- R40, R382: off is acknowledged, and the control complex is without power. -/
theorem getF_reachOff (s : State) : getF (reachOff s) bcPwrAck = 3 :=
  (getF_congr (s := putPwr s 3 3) rfl _ _).trans (putPwr_pwr s 3 3 (by decide) (by decide)).2

theorem thermal_idle {s : State} (h : s.bound.thermActive = false) : execThermalReaise s = .next s ∧ execThermalRelease s = .next s := by
  simp [execThermalReaise, execThermalRelease, h]

/-- R196: steering after an accepted edge moves no pin and no register. -/
theorem pulseSteer_frame (s : State) : (pulseSteer s).bound = s.bound ∧ (pulseSteer s).regs = s.regs := by
  rw [pulseSteer]
  dsimp only
  split <;> exact ⟨rfl, rfl⟩

/-- R45: an accepted edge is remembered and ends holdover. -/
theorem acceptPulse_next (s : State) (k : Nat) : (acceptPulse k s).bound.lastTpulse = some k ∧ getF (acceptPulse k s) bcTpulseHoldover = 0 := by
  obtain ⟨hbound, hregs⟩ := pulseSteer_frame (setF { s with bound.lastTpulse := some k } bcTpulseHoldover 0)
  exact ⟨by rw [acceptPulse, hbound]; rfl, (getF_congr hregs _ _).trans (getF_setF_self _ _ _ _ (by decide))⟩

/-! ### Power budget and power states (R40, R41) -/

section

variable {s : State} (hs : sideOn s = true)

include hs

/-- R40: a captured budget waits for the window that applies it. -/
theorem execPowerBudgetCapture_waits (w : BitVec 10) : ∃ t, execPowerBudgetCapture w s = .next t ∧ getF t bcCapturedW = w.toNat ∧
    t.bound.budgetPending = true ∧ getF t bcEffectiveW = getF s bcEffectiveW := by
  rw [execPowerBudgetCapture, if_pos hs]
  refine ⟨_, rfl, (getF_setF_self s bcCapturedW w.toNat 0 (by decide)).trans (Nat.mod_eq_of_lt w.isLt), rfl, ?_⟩
  exact getF_setF_disj s bcCapturedW bcEffectiveW _ 0 0 rfl rfl (by decide) (by decide)

/-- R40: until off has been acknowledged a request is followed. -/
theorem pwr_followed (h : getF s bcPwrAck ≠ 3) : (sideOn s && getF s bcPwrAck != 3) = true := by
  rw [hs, Bool.true_and, bne_iff_ne]; exact h

theorem execPwrStateRun_resumes (h : getF s bcPwrAck ≠ 3) : execPwrStateRun s = .next (resumeRun s 0) := by
  rw [execPwrStateRun, if_pos (pwr_followed hs h)]

theorem execPwrStateHold_resumes (h : getF s bcPwrAck ≠ 3) : execPwrStateHold s = .next (resumeRun s 1) := by
  rw [execPwrStateHold, if_pos (pwr_followed hs h)]

/-- R40: hold is acknowledged at once, and fetch goes on. -/
theorem execPwrStateHold_acks (h : getF s bcPwrAck ≠ 3) (hst : getF s bcState ≤ 7) : ∃ t, execPwrStateHold s = .next t ∧
    getF t bcPwrState = 1 ∧ getF t bcPwrAck = 1 ∧ t.bound.fetchStopped = false := by
  obtain ⟨hpwr, hack⟩ := fetchIdle_pwr s 1 1 (by decide) (by decide) false false
  exact ⟨_, (execPwrStateHold_resumes hs h).trans (congrArg _ (resumeRun_hold s hst)), hpwr, hack, rfl⟩

theorem execPwrStatePrepareOff_starts (h : getF s bcPwrAck ≠ 3) : execPwrStatePrepareOff s = .next (startPrepare s 2) := by
  rw [execPwrStatePrepareOff, if_pos (pwr_followed hs h)]

/-- R40: off before prepare-off has been acknowledged. -/
theorem execPwrStateOff_starts (h : getF s bcPwrAck ≠ 3) (h2 : getF s bcPwrAck ≠ 2) : execPwrStateOff s = .next (startPrepare s 3) := by
  rw [execPwrStateOff, if_pos (pwr_followed hs h), if_neg h2]

theorem execPwrStateOff_reaches (h2 : getF s bcPwrAck = 2) : execPwrStateOff s = .next (reachOff s) := by
  rw [execPwrStateOff, if_pos (pwr_followed hs (by rw [h2]; decide)), if_pos h2]

/-! ### The thermal alarm (R42, R43, R420) -/

theorem execThermalAlarm_first (h : s.bound.thermActive = false) : execThermalAlarm s =
    .next (thermLevel (setF { addF s bcThermFalls with bound.thermActive := true } bcThermAlarm 1) 1) := by
  rw [execThermalAlarm, if_pos hs]
  exact congrArg _ (if_neg (by rw [addF_bound, h]; decide))

theorem execThermalAlarm_again (h : s.bound.thermActive = true) : execThermalAlarm s = .next (addF s bcThermFalls) := by
  rw [execThermalAlarm, if_pos hs]
  exact congrArg _ (if_pos (by rw [addF_bound]; exact h))

theorem execThermalReaise_raises (h : s.bound.thermActive = true) : execThermalReaise s = .next (thermLevel s (min 3 (getF s hpLevel + 1))) := by
  rw [execThermalReaise, hs, h]; rfl

theorem execThermalRelease_ends (h : s.bound.thermActive = true) : ∃ t, execThermalRelease s = .next t ∧ t.bound.thermActive = false ∧
    t.bound.thermGate = 0 ∧ getF t hpLevel = 0 ∧ getF t bcThermAlarm = 0 := by
  rw [execThermalRelease, hs, h, Bool.and_self, if_pos rfl]
  refine ⟨_, rfl, rfl, rfl, getF_setF_self _ _ _ _ (by decide), ?_⟩
  exact (getF_setF_ne _ hpLevel bcThermAlarm _ _ _ (by decide)).trans (getF_setF_self _ _ _ _ (by decide))

/-! ### The time pulse (R44, R45, R196) -/

variable (hen : s.start.record.tpulseEn = true)

include hen

theorem execTpulseEdge_accepted (k : Nat) (h : ∀ t, s.bound.lastTpulse = some t → t + 50000000 ≤ k) :
    execTpulseEdge true k s = .next (acceptPulse k s) := by
  rw [execTpulseEdge, hs, hen, Bool.and_self, Bool.and_self, if_pos rfl]
  cases hl : s.bound.lastTpulse with
  | none => rfl
  | some t => exact congrArg _ (if_neg (Nat.not_lt.2 (h t hl)))

theorem execTpulseEdge_ignored (k t : Nat) (hl : s.bound.lastTpulse = some t) (h : k < t + 50000000) :
    execTpulseEdge true k s = .next (addF s bcTpulseIgnored) := by
  rw [execTpulseEdge, hs, hen, Bool.and_self, Bool.and_self, if_pos rfl, hl]
  exact congrArg _ (if_pos h)

theorem execTpulseHoldover_held : ∃ u, execTpulseHoldover s = .next u ∧ getF u bcTpulseHoldover = 1 := by
  rw [execTpulseHoldover, hs, hen, Bool.and_self, if_pos rfl]
  exact ⟨_, rfl, getF_setF_self _ _ _ _ (by decide)⟩

end

/-! ### The end of prepare-off (R40, R262) -/

theorem execPrepareOffDone_waits {s : State} (h : s.bound.prepareOff = false ∨ s.steps.running ≠ [] ∨ 2 ≤ getF s bcPwrAck) :
    execPrepareOffDone s = .next s := by
  rw [execPrepareOffDone, if_neg]
  simp only [Bool.and_eq_true, List.isEmpty_iff, decide_eq_true_eq]
  rintro ⟨⟨hp, hr⟩, ha⟩
  obtain h | h | h := h
  · rw [hp] at h; cases h
  · exact h hr
  · omega

/-- R27, R40: with every port idle the pins of the power request stand. -/
theorem idleLinks_bound (s : State) : (idleLinks s).bound = { s.bound with lkTxEn := 0 } := by
  rw [idleLinks]
  dsimp only
  rw [setF_bound, (eachUpdPort_frame _ s).1]

theorem execPrepareOffDone_acks {s : State} (hp : s.bound.prepareOff = true) (hr : s.steps.running = []) (ha : getF s bcPwrAck < 2)
    (hc : s.front.ctxs = []) (hpwr : s.bound.pwr = 2) : ∃ t, execPrepareOffDone s = .next t ∧ getF t bcPwrAck = 2 ∧ t.bound.lkTxEn = 0 := by
  have hb := idleLinks_bound s
  have hgo : (s.bound.prepareOff && s.steps.running.isEmpty && decide (getF s bcPwrAck < 2)) = true := by
    rw [hp, hr, decide_eq_true ha]; rfl
  rw [execPrepareOffDone, if_pos hgo, hc]
  simp only [List.filter_nil, List.map_nil, each_nil]
  rw [if_neg (by rw [hb]; change s.bound.pwr ≠ 3; omega)]
  refine ⟨_, rfl, (putPwr_pwr _ _ 2 (by rw [hb]; change s.bound.pwr < 4; omega) (by decide)).2, ?_⟩
  rw [putPwr_frame, hb]

/-- Settles O54, from one lemma for each case of each command. -/
theorem sidebandCommands : Obligations.SidebandCommands := by
  intro s
  refine ⟨fun hs => sideband_unseen hs, fun hs => ⟨fun w => execPowerBudgetCapture_waits hs w, fun h => ⟨⟨execPwrStateRun_resumes hs h,
      execPwrStateHold_resumes hs h⟩, fun hst => execPwrStateHold_acks hs h hst, ?_, fun h2 => ?_, fun h2 => ?_⟩, fun h => pwr_off_stays h,
      fun h => execThermalAlarm_first hs h, fun h => ⟨execThermalAlarm_again hs h, execThermalReaise_raises hs h, execThermalRelease_ends hs h⟩,
      fun h => thermal_idle h, fun hen => ⟨fun k h => ?_, fun k t hl h => execTpulseEdge_ignored hs hen k t hl h,
      execTpulseHoldover_held hs hen⟩⟩,
    fun h => execPrepareOffDone_waits h, fun hp hr ha hc hpwr => execPrepareOffDone_acks hp hr ha hc hpwr⟩
  · obtain ⟨hpwr, hfetch, hprep, hmem, -⟩ := startPrepare_pwr s 2 (by decide)
    exact ⟨_, execPwrStatePrepareOff_starts hs h, hpwr, hfetch, hprep, hmem⟩
  · exact ⟨_, execPwrStateOff_reaches hs h2, getF_reachOff s, rfl, rfl⟩
  · obtain ⟨hpwr, -, hprep, -, hctrl⟩ := startPrepare_pwr s 3 (by decide)
    exact ⟨_, execPwrStateOff_starts hs h h2, hpwr, hprep, hctrl⟩
  · exact ⟨_, execTpulseEdge_accepted hs hen k h, acceptPulse_next s k⟩

end Sys2Proof.Proofs

/-! Staged start from the fuses to the stacks (R22, R264, R374, R387, R388, R390, R392, R394). -/

namespace Sys2Proof.Proofs

open Sys2Proof Sys2Proof.Machine

/-! ### The fuses and the flash -/

/-- R374, R390, R394: the fuses are shadowed, amber begins, and CP0 runs. -/
theorem execFuseLoad_next {s : State} (h : getF s bcState = 1) : ∃ t, execFuseLoad s = .next t ∧ t.start.shadow = some s.start.fuses ∧
    getF t bcState = 2 ∧ t.bound.stage = 1 ∧ t.bound.hostAnswers = true ∧ bit (getF t ccRunning) 0 = true ∧ t.mem = s.mem := by
  obtain ⟨hstart, -, -, hmem, -⟩ := loadFuses_frame s
  rw [execFuseLoad, if_pos h]
  refine ⟨_, rfl, ?_, getF_enterAmber _, rfl, rfl, cpStart_running _, ?_⟩
  · rw [enterAmber_frame, hstart]
  · rw [enterAmber_frame, hmem]

theorem execFuseLoad_other {s : State} (h : getF s bcState ≠ 1) : execFuseLoad s = .next s := by
  rw [execFuseLoad, if_neg h]

/-- R30: the read command changes the pins of the flash alone. -/
theorem flashCommandOf_frame (s : State) : (flashCommandOf s).mem = s.mem := by
  rw [flashCommandOf]
  split <;> rfl

/-- R387: the record at byte 0 of the boot store, the image at byte 262,144. -/
theorem execFlashRead_next {s : State} (a : Bool) (h : getF s bcState = 2) : ∃ t, execFlashRead a s = .next t ∧ getF t bcState = 3 ∧
    t.start.flashAnswered = a ∧ (a = false → t.mem = s.mem) ∧ (a = true → t.mem.bootStore = (let h := rdBytes s.mem.flash 0 256
      copyCells s.mem.flash (recImageOffset h) (min (recImageBytes h) 8388608)
        (copyCells s.mem.flash 0 (min (recBytes h) 262144) s.mem.bootStore 0) 262144)) := by
  have hmem := flashCommandOf_frame s
  rw [execFlashRead, if_pos h]
  refine ⟨_, rfl, getF_setF_self _ _ _ _ (by decide), rfl, ?_, ?_⟩
  · rintro rfl
    exact hmem
  · rintro rfl
    simp only [if_true, setF_mem, bundleFrom, hmem]

theorem execFlashRead_other {s : State} (a : Bool) (h : getF s bcState ≠ 2) : execFlashRead a s = .next s := by
  rw [execFlashRead, if_neg h]

/-! ### The bundle's checks (R388) -/

theorem eachUpdPort_start (l : List Nat) (s : State) :
    (each l (fun q s => updPort s q (fun x => { x with up := false })) s).start = s.start :=
  each_inv (fun u : State => u.start = s.start) l _ s rfl fun _ _ h => h

/-- R27, R49: idling the ports leaves the values of start and every register but that of the upstream port. -/
theorem quietPorts_start (s : State) : (quietPorts s).start = s.start := by
  rw [quietPorts]
  dsimp only
  rw [setF_start, eachUpdPort_start]

theorem getF_quietPorts (s : State) (f : Fld) (i : Nat) (h : f.at i ≠ tbUpstream.at 0) : getF (quietPorts s) f i = getF s f i := by
  rw [quietPorts]
  refine (getF_congr (by dsimp only) f i).trans ((getF_setF_ne _ tbUpstream f _ _ _ h).trans ?_)
  exact getF_congr (eachUpdPort_frame _ s).2 f i

/-- R388, R390: start awaits an image with the code of the check that failed. -/
theorem awaitImage_next (s : State) (c : Code) : getF (awaitImage s c) bcState = 4 ∧ getF (awaitImage s c) bcCode = c.toNat ∧
    getF (awaitImage s c) bcBootLock = getF s bcBootLock ∧ (awaitImage s c).start = s.start := by
  refine ⟨getF_setF_self _ _ _ _ (by decide), ?_, ?_, ?_⟩
  · exact (getF_setF_disj _ bcState bcCode _ 0 0 rfl rfl (by decide) (by decide)).trans
      ((getF_setF_self _ _ _ _ (by decide)).trans (Nat.mod_eq_of_lt c.isLt))
  · refine (getF_setF_disj _ bcState bcBootLock _ 0 0 rfl rfl (by decide) (by decide)).trans ?_
    refine (getF_setF_disj _ bcCode bcBootLock _ 0 0 rfl rfl (by decide) (by decide)).trans ?_
    exact getF_quietPorts s bcBootLock 0 (by decide)
  · rw [awaitImage, setF_start, setF_start, quietPorts_start]

/-- R388: a bundle that fails a check leaves start awaiting an image. -/
theorem judgeBundle_refused (s : State) {c : Code} (h : c ≠ 0) (bs image : List Byte) : judgeBundle s c bs image = awaitImage s c := by
  rw [judgeBundle, beq_eq_false_iff_ne.2 h]

/-- R388, R391: the boot lock is set, and the bundle in the boot store is judged. -/
theorem execVerify_judges {s : State} (h : getF s bcState = 3) : execVerify s = .next (judgeBundle (setF s bcBootLock 1)
    (bundleCode (setF s bcBootLock 1) s.start.flashAnswered (storedRecord (setF s bcBootLock 1)) (storedImage (setF s bcBootLock 1))
      (leBytes 48 s.start.imageDigest.toNat)) (storedRecord (setF s bcBootLock 1)) (storedImage (setF s bcBootLock 1))) := by
  rw [execVerify, if_pos h, verifyStore, setF_start]

theorem execVerify_other {s : State} (h : getF s bcState ≠ 3) : execVerify s = .next s := by
  rw [execVerify, if_neg h]

/-! ### Firmware, stacks and tests -/

theorem execFirmwareStart_next {s : State} (h : getF s bcState = 5) : execFirmwareStart s =
    .next (advanceStart (setF { cpStart (cpStart (cpStart s 1) 2) 3 with
      bound.spRstN := BitVec.ofNat 20 (maskOf 20 (stackPresent s)), bound.spTrainStart := BitVec.ofNat 20 (maskOf 20 (stackPresent s)) } bcState 6)) := by
  rw [execFirmwareStart, if_pos h]

theorem execFirmwareStart_other {s : State} (h : getF s bcState ≠ 5) : execFirmwareStart s = .next s := by
  rw [execFirmwareStart, if_neg h]

/-- R22: a stack that trains comes up or is lost; any other stays as it is. -/
theorem hbmTrain_next {s : State} {k : Nat} (hk : k < 20) (c : W32) :
    (stackTrains s k = true → execHbmTrainDone k c s =
        .next (advanceStart { s with bound.stackUp := s.bound.stackUp ||| (1#20 <<< k), bound.spCfg := mset s.bound.spCfg k c }) ∧
      execHbmTrainFail k s = .next (advanceStart { s with bound.stackLost := s.bound.stackLost ||| (1#20 <<< k) })) ∧
    (stackTrains s k = false → execHbmTrainDone k c s = .next s ∧ execHbmTrainFail k s = .next s) := by
  rw [execHbmTrainDone, execHbmTrainFail, if_neg (Nat.not_le.2 hk), if_neg (Nat.not_le.2 hk)]
  refine ⟨fun h => ?_, fun h => ?_⟩
  · rw [if_pos h, if_pos h]
    exact ⟨rfl, rfl⟩
  · rw [h]
    exact ⟨rfl, rfl⟩

theorem execBistAndRepair_cases (s : State) (l : List W32) : (getF s bcState ≠ 7 → execBistAndRepair l s = .next s) ∧
    (getF s bcState = 7 → execBistAndRepair l s = .next (leaveBist (each (repairSources s l) addRepair s))) := by
  rw [execBistAndRepair]
  exact ⟨fun h => by rw [if_neg h], fun h => by rw [if_pos h]⟩

/-! ### The capability table (R264) -/

theorem capabilityRewrite_idle {s : State} (h : s.front.capBusy = false) : execCapabilityRewriteDone s = .next s := by
  rw [execCapabilityRewriteDone, h]; rfl

/-- R264: changes of a later tick make another rewrite. -/
theorem capabilityRewrite_again {s : State} (h : s.front.capBusy = true) (hm : s.front.capMore = true) :
    ∃ t, execCapabilityRewriteDone s = .next t ∧ t.front.capBusy = true ∧ t.front.capMore = false ∧
      t.front.capGen = (s.front.capGen + 1) % 2 ^ 32 := by
  rw [execCapabilityRewriteDone, if_pos h]
  simp only [hm, if_true]
  exact ⟨_, rfl, h, rfl, rfl⟩

theorem capabilityRewrite_done {s : State} (h : s.front.capBusy = true) (hm : s.front.capMore = false) (hj : s.front.capJobs = []) :
    ∃ t, execCapabilityRewriteDone s = .next t ∧ t.front.capBusy = false ∧ t.front.capGen = (s.front.capGen + 1) % 2 ^ 32 := by
  rw [execCapabilityRewriteDone, if_pos h]
  simp only [hm, hj, each_nil, Bool.false_eq_true, if_false]
  exact ⟨_, rfl, rfl, rfl⟩

/-- Settles O43, from one lemma for each state of start. -/
theorem startCommands : Obligations.StartCommands := by
  intro s
  refine ⟨fun h => execFuseLoad_next h, fun h => execFuseLoad_other h,
    fun a => ⟨fun h => execFlashRead_next a h, fun h => execFlashRead_other a h⟩, fun h => execVerify_other h,
    fun h => ⟨execVerify_judges h, fun hc => ?_⟩, fun h => execFirmwareStart_next h, fun h => execFirmwareStart_other h,
    fun k c hk => hbmTrain_next hk c, fun l => execBistAndRepair_cases s l, fun h => capabilityRewrite_idle h,
    fun h hm => capabilityRewrite_again h hm, fun h hm hj => capabilityRewrite_done h hm hj⟩
  obtain ⟨hstate, hcode, hlock, hstart⟩ := awaitImage_next (setF s bcBootLock 1)
    (bundleCode (setF s bcBootLock 1) s.start.flashAnswered (storedRecord (setF s bcBootLock 1)) (storedImage (setF s bcBootLock 1))
      (leBytes 48 s.start.imageDigest.toNat))
  refine ⟨_, (execVerify_judges h).trans (congrArg _ (judgeBundle_refused _ hc _ _)), hstate, hcode,
    hlock.trans (getF_setF_self _ _ _ _ (by decide)), ?_⟩
  rw [hstart, setF_start]

end Sys2Proof.Proofs

/-! Staged start from the ports to green (R27, R35, R225, R390, R392, R393). -/

namespace Sys2Proof.Proofs

open Sys2Proof Sys2Proof.Machine

/-! ### Training a port (R27, R35, R225, R385) -/

theorem wrongPeer_measurePort (s : State) (q f : Nat) (d : List Nat) (c : Coord) (k : Nat) :
    wrongPeer (measurePort s q f d c k) q c k = wrongPeer s q c k := by
  rw [measurePort, wrongPeer, wrongPeer, updPort_start]

/-- R27, R392: a port that does not train stays as it is. -/
theorem linkTraining_other {s : State} {q : Nat} (hq : q < 60) (f : Nat) (d : List Nat) (c : Coord) (k : Nat) (h : portTrains s q = false) :
    execLinkTraining q f d c k s = .next s ∧ execLinkPortUp q f d c k s = .next s := by
  rw [execLinkTraining, execLinkPortUp, if_neg (Nat.not_le.2 hq), if_neg (Nat.not_le.2 hq), h]
  exact ⟨rfl, rfl⟩

/-- R35, R385: a port that trains is measured, and refused where it finds another peer than the expected one. -/
theorem linkTraining_trains {s : State} {q : Nat} (hq : q < 60) (f : Nat) (d : List Nat) (c : Coord) (k : Nat) (h : portTrains s q = true) :
    (wrongPeer s q c k = false → execLinkTraining q f d c k s = .next (measurePort s q f d c k) ∧
      execLinkPortUp q f d c k s = .next (portUp (measurePort s q f d c k) q)) ∧
    (wrongPeer s q c k = true → execLinkTraining q f d c k s = .next (refusePeer (measurePort s q f d c k) q) ∧
      execLinkPortUp q f d c k s = .next (refusePeer (measurePort s q f d c k) q)) := by
  rw [execLinkTraining, execLinkPortUp, if_neg (Nat.not_le.2 hq), if_neg (Nat.not_le.2 hq), if_pos h, if_pos h]
  dsimp only
  rw [wrongPeer_measurePort]
  exact ⟨fun hw => by rw [hw]; exact ⟨rfl, rfl⟩, fun hw => by rw [hw]; exact ⟨rfl, rfl⟩⟩

/-! ### Waiting for ports and for time (R392) -/

theorem execLinkRetry_again {s : State} (h8 : 8 ≤ getF s bcState) (h11 : getF s bcState ≤ 11) (hw : portsWait s = true)
    (ht : s.links.retryAt + 7000000000 ≤ s.time.tick) : execLinkRetry s = .next { s with links.retryAt := s.time.tick } := by
  rw [execLinkRetry, if_pos ⟨h8, h11, hw, ht⟩]; rfl

theorem execLinkRetry_early {s : State} (h : s.time.tick < s.links.retryAt + 7000000000) : execLinkRetry s = .next s := by
  rw [execLinkRetry, if_neg fun ⟨_, _, _, ht⟩ => absurd ht (Nat.not_le.2 h)]

theorem execSyncWaitEvent_cases (s : State) : (getF s bcState = 9 → execSyncWaitEvent s = .next (healthEvent s { source := 11 })) ∧
    (getF s bcState ≠ 9 → execSyncWaitEvent s = .next s) := by
  rw [execSyncWaitEvent]
  exact ⟨fun h => by rw [if_pos h], fun h => by rw [if_neg h]⟩

/-! ### The load state (R390, R392) -/

theorem quietPorts_stage (s : State) : (quietPorts s).bound.stage = s.bound.stage := by
  rw [quietPorts]
  dsimp only
  rw [setF_bound, (eachUpdPort_frame _ s).1]

theorem awaitImage_stage (s : State) (c : Code) : (awaitImage s c).bound.stage = s.bound.stage := by
  rw [awaitImage, setF_bound, setF_bound, quietPorts_stage]

/-- R390: a load that fails leaves start awaiting an image with 0x090A. -/
theorem awaitImage_load (s : State) : getF (awaitImage s 0x090A) bcState = 4 ∧ getF (awaitImage s 0x090A) bcCode = 0x090A := by
  obtain ⟨hstate, hcode, -⟩ := awaitImage_next s 0x090A
  exact ⟨hstate, hcode⟩

theorem execLoadState_other {s : State} (b : Bool) (h : getF s bcState ≠ 10) : execLoadState b s = .next s := by
  rw [execLoadState, if_neg h]

theorem execLoadState_fails {s : State} (h : getF s bcState = 10) : execLoadState false s = .next (awaitImage s 0x090A) := by
  rw [execLoadState, if_pos h]; rfl

theorem execLoadState_loads {s : State} (h : getF s bcState = 10) : execLoadState true s = .next (enterGreen s) := by
  rw [execLoadState, if_pos h]; rfl

/-- R392, R399: at green the stage is told and the boot store powers down. -/
theorem enterGreen_stage (s : State) : (enterGreen s).bound.stage = 2 ∧ (enterGreen s).mem.bootStore = [] := by
  rw [enterGreen]
  exact ⟨rfl, rfl⟩

/-! ### Limits and hold (R390, R393) -/

theorem execStartStateLimit_links {s : State} (h : getF s bcState = 8) : execStartStateLimit s = .next (enterSync s) := by
  rw [execStartStateLimit, limitPassed_links s h]

theorem execStartStateLimit_load {s : State} (h : getF s bcState = 10) : execStartStateLimit s = .next (awaitImage s 0x090A) := by
  rw [execStartStateLimit, limitPassed_load s h]

theorem execStartStateLimit_green {s : State} (h : 11 ≤ getF s bcState) : execStartStateLimit s = .next s := by
  rw [execStartStateLimit, limitPassed_green s h]

theorem execStartHeld_not {s : State} (h : s.bound.pwr = 0 ∨ getF s bcState = 0 ∨ 10 < getF s bcState) : execStartHeld s = .next s := by
  rw [execStartHeld]
  exact congrArg _ (if_neg fun ⟨hp, h1, h10⟩ => by omega)

/-- R393: start is held in state 12 and knows the state in which it goes on. -/
theorem execStartHeld_holds {s : State} (hp : s.bound.pwr ≠ 0) (h1 : 1 ≤ getF s bcState) (h10 : getF s bcState ≤ 10) :
    ∃ t, execStartHeld s = .next t ∧ getF t bcState = 12 ∧ t.start.resume = getF s bcState ∧ t.bound = s.bound ∧ t.mem = s.mem := by
  rw [execStartHeld]
  dsimp only
  rw [if_pos ⟨hp, h1, h10⟩]
  exact ⟨_, rfl, getF_setF_self _ _ _ _ (by decide), rfl, rfl, rfl⟩

/-- Settles O44, from one lemma for each command and the laws of the limits. -/
theorem linkStartCommands : Obligations.LinkStartCommands := by
  intro s
  refine ⟨fun q f d c k hq => ⟨fun h => linkTraining_other hq f d c k h, fun h => ⟨portOf_measurePort s q f d c k, linkTraining_trains hq f d c k h⟩⟩,
    fun h8 h11 hw ht => execLinkRetry_again h8 h11 hw ht, fun h => execLinkRetry_early h, (execSyncWaitEvent_cases s).1,
    (execSyncWaitEvent_cases s).2, fun h b => execLoadState_other b h, fun h => ⟨?_, fun _ => ?_⟩,
    fun h => execStartStateLimit_links h, fun h => ?_, fun h => execStartStateLimit_green h,
    fun h => execStartHeld_not h, fun hp h1 h10 => execStartHeld_holds hp h1 h10⟩
  · obtain ⟨hstate, hcode⟩ := awaitImage_load s
    exact ⟨_, execLoadState_fails h, hstate, hcode, awaitImage_stage s 0x090A⟩
  · obtain ⟨hstage, hstore⟩ := enterGreen_stage s
    exact ⟨_, execLoadState_loads h, bcState_enterGreen s, hstage, hstore, capBusy_enterGreen s⟩
  · obtain ⟨hstate, hcode⟩ := awaitImage_load s
    exact ⟨_, execStartStateLimit_load h, hstate, hcode⟩

end Sys2Proof.Proofs

/-! The link engine: its ownership tables, its slots and what its ports receive (R29, R169, R205, R208, R210, R213, R214, R224, R230). -/

namespace Sys2Proof.Proofs

open Sys2Proof Sys2Proof.Machine

/-! ### The ownership tables (R205, R210, R230) -/

/-- R205: the four offsets that a write of the NoC table names, with the owners that it gives them. -/
def nocEntries (w : Nat) (v : W32) : List (Nat × Nat) := (List.range 4).map (fun b => (4 * w + b, bits v.toNat (8 * b) 8))

/-- R205: the table once a write has taken effect. -/
def nocWritten (s : State) (w : Nat) (v : W32) : SMap Nat :=
  (nocEntries w v).foldl (fun m (e : Nat × Nat) => mput m e.1 e.2) s.links.nocNext

theorem execNocOwnershipWrite_eq {s : State} {w : Nat} (hw : w < 128) (h : s.bound.hostAnswers = true) (v : W32) :
    execNocOwnershipWrite w v s = .next (if (nocEntries w v).all (fun e => ownerOk e.2) && decide (nocOwned (nocWritten s w v) s ≤ 384) then
      ownersChange { s with links.nocNext := nocWritten s w v } ((nocEntries w v).flatMap (fun e => [e.2, nocOwner s e.1])) else s) := by
  rw [execNocOwnershipWrite, if_neg (Nat.not_le.2 hw)]
  exact hostWrite_answers h _

/-- R205: a write that would leave more than 384 offsets owned is ignored. -/
theorem execNocOwnershipWrite_over {s : State} {w : Nat} (hw : w < 128) (h : s.bound.hostAnswers = true) (v : W32)
    (hn : 384 < nocOwned (nocWritten s w v) s) : execNocOwnershipWrite w v s = .next s := by
  rw [execNocOwnershipWrite_eq hw h, decide_eq_false (Nat.not_le.2 hn), Bool.and_false]; rfl

theorem execNocOwnershipWrite_taken {s : State} {w : Nat} (hw : w < 128) (h : s.bound.hostAnswers = true) (v : W32)
    (hn : nocOwned (nocWritten s w v) s ≤ 384) (ho : (nocEntries w v).all (fun e => ownerOk e.2) = true) : execNocOwnershipWrite w v s =
      .next (ownersChange { s with links.nocNext := nocWritten s w v } ((nocEntries w v).flatMap (fun e => [e.2, nocOwner s e.1]))) := by
  rw [execNocOwnershipWrite_eq hw h, ho, decide_eq_true hn]; rfl

theorem execSlotOwnershipWrite_taken {s : State} {q w : Nat} (hq : q < 60) (hw : w < 140) (h : s.bound.hostAnswers = true)
    (hp : portPresent s q = true) (v : W32) :
    let es := ((List.range 4).map (fun b => (4 * w + b, bits v.toNat (8 * b) 8))).filter (fun e => e.1 % 8 != 0 && ownerOk e.2)
    execSlotOwnershipWrite q w v s = .next (ownersChange { s with links.slotNext := es.foldl (fun m (e : Nat × Nat) => mput m (560 * q + e.1) e.2) s.links.slotNext }
      (es.flatMap (fun e => [e.2, slotOwner s q e.1]))) := by
  rw [execSlotOwnershipWrite, if_neg (by omega), if_neg (by rw [hp]; decide)]
  exact hostWrite_answers h _

/-! ### Sends and landings (R169, R208) -/

/-- R208: TIMED_SEND of a stream looks at that stream after what stands before it in the tick. -/
theorem execTimedSend_stream {s : State} {p n : Nat} {r : StepRun} {t : StreamRun} (hp : p < 64) (hn : n < 65536)
    (hr : runOf (fireBefore 7 s) p = some r) (ht : streamOf r n = some t) (ecc : SramEcc) : execTimedSend p n ecc s =
      .next (if (t.kind ≤ 3 ∨ t.kind = 6) ∧ sendDue (fireBefore 7 s) r t = true then sendDelivery (fireBefore 7 s) p r t ecc else fireBefore 7 s) := by
  rw [execTimedSend, if_neg (Nat.not_le.2 hp), sendsDue, hr]
  simp only [if_neg (Nat.not_le.2 hn), ht]

/-- R208, R211: a good delivery to a port is read at its source and put on the port as flits. -/
theorem sendDelivery_port (s : State) (p : Nat) (r : StepRun) {t : StreamRun} (hk : t.kind = 3) : sendDelivery s p r t .good =
    stepProgress (updStream (sendFlits s p r t (withIndigo s p r t (coreRdN (coreOf s ((coreAt s p t.srcCore).getD 0))
      (winOf s ((coreAt s p t.srcCore).getD 0)) (t.sends.headD (0, 0, 0, 0)).1 (t.sends.headD (0, 0, 0, 0)).2.1 t.bytes))) p t.number
      (fun t => t.pop)) p := by
  simp [sendDelivery, hk]

theorem execDeliveryLanded_lands {s : State} {p n : Nat} {r : StepRun} {t : StreamRun} (hp : p < 64) (hr : runOf s p = some r)
    (ht : streamOf r n = some t) : execDeliveryLanded p n s = .next (stepProgress (landDelivery s p r t) p) := by
  rw [execDeliveryLanded, if_neg (Nat.not_le.2 hp), hr]
  simp only [ht]

/-! ### Timed flits (R213) -/

/-- R192, R213: on a port in use a flit stands as its FEC and CRC say. -/
theorem ownLoss_inUse {x : Port} (ho : x.out = false) (hb : x.overBudget = false) (good : Bool) : ownLoss x good = if good then 0 else 1 := by
  rw [ownLoss, ho, hb]; rfl

/-- R213: a timed flit is recorded at its slot, and forwarded or received where a reservation says so. -/
theorem timedFlitIn_cases (s : State) (q tick lost own : Nat) (bs : List Byte) :
    let u := updPort s q (fun y => { y with timedRx := y.timedRx ++ [(slotAt tick, lost)], rxTick := some tick })
    (resvFor u q tick = none → timedFlitIn s q tick lost own bs = u) ∧
    (∀ p r y, resvFor u q tick = some (p, r, y) → timedFlitIn s q tick lost own bs =
      if y.kind = 2 then forwardFlit u y tick (slotAt tick) lost own bs else stepProgress (receiveFlit u p r y lost own bs) p) := by
  rw [timedFlitIn]
  refine ⟨fun h => ?_, fun p r y h => ?_⟩ <;> simp only [h]

section

variable {s : State} {q : Nat} (hq : q < 60) (ho : (portOf s q).out = false) (hb : (portOf s q).overBudget = false)
  (fec : RxMark) {bs : List Byte}

include hq ho hb

theorem execTimedFlit_good (hg : flitGood fec bs = true) (hk : bits (fieldAt bs 0 4) 0 2 = 0) :
    let c := countFec s q fec (flitGood fec bs)
    execTimedFlit q fec bs s = .next (timedFlitIn c q (slotTickOf c (bits (fieldAt bs 0 4) 15 6) (bits (fieldAt bs 0 4) 5 10))
      (bits (fieldAt bs 0 4) 2 2) 0 bs) := by
  rw [execTimedFlit, if_neg (Nat.not_le.2 hq)]
  simp only [ownLoss_inUse ho hb, ho, hg, hk, if_true, Bool.false_eq_true, if_false]

/-- R213: a flit whose header cannot be read counts as lost in the next slot reserved, if there is one. -/
theorem execTimedFlit_bad (hg : flitGood fec bs = false) :
    let c := countFec s q fec (flitGood fec bs)
    (nextSlot c q = none → execTimedFlit q fec bs s = .next c) ∧
    (∀ tick, nextSlot c q = some tick → execTimedFlit q fec bs s = .next (timedFlitIn c q tick 1 1 bs)) := by
  rw [execTimedFlit, if_neg (Nat.not_le.2 hq)]
  simp only [ownLoss_inUse ho hb, ho, hg, Bool.false_eq_true, if_false, Nat.one_ne_zero]
  exact ⟨fun h => by rw [h], fun tick h => by rw [h]⟩

end

/-! ### Best-effort flits (R214) -/

theorem execBestEffortFlit_down {s : State} {q : Nat} (hq : q < 60) (hu : (portOf s q).up = false) (fec : RxMark) (bs : List Byte) :
    execBestEffortFlit q fec bs s = .next s := by
  rw [execBestEffortFlit, if_neg (Nat.not_le.2 hq), if_pos hu]

theorem execBestEffortFlit_good {s : State} {q : Nat} (hq : q < 60) (hu : (portOf s q).up = true) {fec : RxMark} {bs : List Byte}
    (hg : flitGood fec bs = true) (hk : bits (fieldAt bs 0 4) 0 2 = 1) :
    execBestEffortFlit q fec bs s = .next (beFlitIn (countFec s q fec true) q bs) := by
  rw [execBestEffortFlit, if_neg (Nat.not_le.2 hq), if_neg (by rw [hu]; decide)]
  simp only [hg, hk, if_true, Bool.true_eq_false, if_false]

theorem execBestEffortFlit_bad {s : State} {q : Nat} (hq : q < 60) (hu : (portOf s q).up = true) {fec : RxMark} {bs : List Byte}
    (hg : flitGood fec bs = false) :
    execBestEffortFlit q fec bs s = .next (updPort (countFec s q fec false) q (fun x => { x with nak := true })) := by
  rw [execBestEffortFlit, if_neg (Nat.not_le.2 hq), if_neg (by rw [hu]; decide)]
  simp only [hg, if_true]

/-- R214: a NAK to be sent after counted words is seen at its port alone. -/
theorem countFec_nak (s : State) (q : Nat) (fec : RxMark) (g : Bool) : let t := updPort (countFec s q fec g) q (fun x => { x with nak := true })
    (portOf t q).nak = true ∧ (∀ k, k ≠ q → portOf t k = portOf s k) ∧ t.cores = s.cores ∧ t.mem = s.mem := by
  have hcores := congrArg State.cores (countFec_frame s q fec g)
  have hmem := congrArg State.mem (countFec_frame s q fec g)
  refine ⟨by rw [portOf_updPort_self], fun k hk => (portOf_updPort_ne _ _ hk).trans (portOf_countFec ..), ?_, ?_⟩
  · rw [updPort_cores]; exact hcores
  · rw [updPort_mem]; exact hmem

/-! ### Retries (R214) -/

theorem execBeRetryTimeout_empty {s : State} {q : Nat} (hq : q < 60) (h : (portOf s q).retry = []) : execBeRetryTimeout q s = .next s := by
  rw [execBeRetryTimeout, if_neg (Nat.not_le.2 hq), h]

section

variable {s : State} {q : Nat} {e : BeFlit} {l : List BeFlit} (hl : (portOf s q).retry = e :: l)

include hl

theorem execBeRetryTimeout_early (hq : q < 60) (h : ∀ t, e.sentAt = some t → s.time.tick < t + 2048) : execBeRetryTimeout q s = .next s := by
  rw [execBeRetryTimeout, if_neg (Nat.not_le.2 hq), hl]
  dsimp only
  cases ht : e.sentAt with
  | none => rfl
  | some t => exact if_neg (Nat.not_le.2 (h t ht))

theorem execBeRetryTimeout_due (hq : q < 60) {t : Nat} (ht : e.sentAt = some t) (h : t + 2048 ≤ s.time.tick) :
    execBeRetryTimeout q s = .next (beResend s q 1) := by
  rw [execBeRetryTimeout, if_neg (Nat.not_le.2 hq), hl]
  simp only [ht]
  exact if_pos h

/-- R214: the oldest flit waits to be sent once more. -/
theorem beResend_oldest {t : Nat} (ht : e.sentAt = some t) (h : ∀ x ∈ e :: l, x.sentAt ≠ none → x.resends < 16) :
    (portOf (beResend s q 1) q).retry = { e with sentAt := none, resends := e.resends + 1 } :: l ∧
    (∀ k, k ≠ q → portOf (beResend s q 1) k = portOf s k) ∧ (beResend s q 1).links.flitsOut = s.links.flitsOut ∧
    (beResend s q 1).cores = s.cores ∧ (beResend s q 1).mem = s.mem := by
  have hany : (e :: l).any (fun x => x.sentAt.isSome && decide (16 ≤ x.resends)) = false := by
    rw [List.any_eq_false]
    rintro x hx hb
    rw [Bool.and_eq_true, decide_eq_true_eq] at hb
    exact absurd (h x hx (Option.isSome_iff_ne_none.1 hb.1)) (Nat.not_lt.2 hb.2)
  rw [beResend]
  simp only [hl, hany, Bool.false_eq_true, if_false, portOf_updPort_self, List.take_succ_cons, List.take_zero, List.map_cons, List.map_nil, ht,
    Option.isSome_some, if_true, List.drop_succ_cons, List.drop_zero, List.cons_append, List.nil_append]
  exact ⟨trivial, fun k hk => portOf_updPort_ne _ _ hk, rfl, rfl, rfl⟩

/-- R214: a port whose oldest flit has been resent 16 times is marked out. -/
theorem beResend_out {t : Nat} (ht : e.sentAt = some t) (h : 16 ≤ e.resends) (n : Nat) : beResend s q n = markPortOut s q := by
  rw [beResend, hl]
  exact if_pos (by simp [ht, h])

end

/-! ### Packets and ports that fail (R29, R214, R224) -/

theorem execBePacketTimeout_early {s : State} {i : Nat} {p : BePacket} (hp : s.links.beOut[i]? = some p) (h : s.time.tick < p.born + 1000000) :
    execBePacketTimeout i s = .next s := by
  rw [execBePacketTimeout, hp]
  exact if_pos h

/-- R214: a packet of this block that stays too long is dropped, counted and told to the context that sent it. -/
theorem execBePacketTimeout_drops {s : State} {i : Nat} {p : BePacket} (hp : s.links.beOut[i]? = some p) (h : p.born + 1000000 ≤ s.time.tick)
    (hs : p.src = s.start.record.coord) : execBePacketTimeout i s =
      .next (eventCtx (addF { s with links.beOut := s.links.beOut.eraseIdx i } lkBeDrop) p.ctx
        { type := 0x000C, code := 0x0606, payload := leBytes 4 (packCoord p.dst) }) := by
  rw [execBePacketTimeout, hp]
  refine (if_neg (Nat.not_lt.2 h)).trans (congrArg _ (if_pos ?_))
  rw [addF_start]
  exact hs

theorem execLinkPcsDown_cases {s : State} {q : Nat} (hq : q < 60) : ((portOf s q).up = true → execLinkPcsDown q s = .next (markPortOut s q)) ∧
    ((portOf s q).up = false → execLinkPcsDown q s = .next s) := by
  rw [execLinkPcsDown, if_neg (Nat.not_le.2 hq)]
  exact ⟨fun h => by rw [if_pos h], fun h => by rw [h]; rfl⟩

/-- Settles O39, from one lemma for each case of each command. -/
theorem linkCommands : Obligations.LinkCommands := by
  intro s q hq
  refine ⟨fun w v hw h => ⟨fun hn => execNocOwnershipWrite_over hw h v hn, fun hn ho => execNocOwnershipWrite_taken hw h v hn ho⟩,
    fun w v hw h hp => execSlotOwnershipWrite_taken hq hw h hp v,
    fun p n r t ecc hp hn hr ht => ⟨fun hd => ?_, fun hd hk => ?_, fun hd hk => ?_⟩,
    fun p n r t hp hr ht => execDeliveryLanded_lands hp hr ht,
    fun fec bs ho hb => ⟨fun hg hk => ?_, fun hg => (execTimedFlit_bad hq ho hb fec hg).1, fun tick hg hn => ?_⟩,
    fun fec bs => ⟨fun hu => execBestEffortFlit_down hq hu fec bs, fun hu hg hk => execBestEffortFlit_good hq hu hg hk, fun hu hg => ?_⟩,
    fun h => execBeRetryTimeout_empty hq h,
    fun e l hl => ⟨fun h => execBeRetryTimeout_early hl hq h, fun t ht h => ⟨fun h16 => ?_, fun h16 => ?_⟩⟩,
    fun i p hp => ⟨fun h => execBePacketTimeout_early hp h, fun h hs => execBePacketTimeout_drops hp h hs⟩, execLinkPcsDown_cases hq⟩
  · refine (execTimedSend_stream hp hn hr ht ecc).trans (congrArg _ (if_neg fun ⟨_, h⟩ => ?_))
    rw [hd] at h; cases h
  · refine (execTimedSend_stream hp hn hr ht .good).trans (congrArg _ ((if_pos ⟨.inl (by omega), hd⟩).trans ?_))
    exact sendDelivery_port _ p r hk
  · exact (execTimedSend_stream hp hn hr ht ecc).trans (congrArg _ (if_pos ⟨hk, hd⟩))
  · exact ⟨_, execTimedFlit_good hq ho hb fec hg hk, timedFlitIn_cases ..⟩
  · exact ⟨_, (execTimedFlit_bad hq ho hb fec hg).2 tick hn, timedFlitIn_cases ..⟩
  · exact ⟨_, execBestEffortFlit_bad hq hu hg, countFec_nak s q fec false⟩
  · obtain ⟨hretry, hports, hflits, hcores, hmem⟩ := beResend_oldest hl ht h16
    exact ⟨_, execBeRetryTimeout_due hl hq ht h, hretry, hports, hflits, hcores, hmem⟩
  · exact (execBeRetryTimeout_due hl hq ht h).trans (congrArg _ (beResend_out hl ht h16 1))

end Sys2Proof.Proofs

/-! Where an ID's row lies: direct and hashed mode, owners, local rows and the default row (R57 to R59, R61). -/

namespace Sys2Proof.Proofs

open Sys2Proof Sys2Proof.Machine

/-! ### Rows of IDs (R57, R58) -/

theorem rowOfId_direct {d : List Byte} (h : tdHashed d = false) (id : Nat) : rowOfId d id = if id < tdRows d then some id else none := by
  rw [rowOfId, h]; rfl

theorem rowOfId_hashed {d : List Byte} (h : tdHashed d = true) (id : Nat) : rowOfId d id = some (hashRow id (tdSeed d) (tdRows d)) := by
  rw [rowOfId, h]; rfl

theorem hashRow_eq (id seed n : Nat) :
    hashRow id seed n = ((id ^^^ (id >>> 29)) * (seed ||| 1)) % 2 ^ 64 * n / 2 ^ 64 := by
  rw [hashRow, Nat.shiftRight_eq_div_pow]

/-- R58: the hash lies below 2^64, so its product with the rows has its high half below the rows. -/
theorem hashRow_lt (id seed : Nat) {n : Nat} (h : 0 < n) : hashRow id seed n < n :=
  Nat.div_lt_of_lt_mul (Nat.mul_lt_mul_of_pos_right (Nat.mod_lt _ (Nat.two_pow_pos 64)) h)

theorem seed_odd (seed : Nat) : (seed ||| 1) % 2 = 1 := by
  rw [Nat.or_mod_two_eq_one]; exact .inr rfl

section

variable {s : State} {r : StepRun} {f : FeatureRun} {l : Looked} {id : Nat} {t : Table} (ht : tableFor s r.ctx f.tableId = some t)

include ht

theorem resolveId_row {row : Nat} (h : rowOfId t.desc id = some row) (ecc : SramEcc) : resolveId s r f l id ecc =
    resolveRow (telemAdd s 3 1) r f t { l with epoch := mget r.epochs (tdGroup t.desc), row := row } ecc := by
  rw [resolveId, ht]
  simp only [h]

theorem resolveId_outOfRange (h : rowOfId t.desc id = none) (ecc : SramEcc) : resolveId s r f l id ecc =
    if tdSubst t.desc = true then
      addF (addDefault (telemAdd s 3 1) l.part l.fi l.bag l.pos l.weight t (mget r.epochs (tdGroup t.desc))) eeOob
    else stepFail (telemAdd s 3 1) l.part 0x0B03 := by
  rw [resolveId, ht]
  simp only [h]

/-- R57: an ID out of range contributes the default row where the table substitutes. -/
theorem resolveId_substitutes {r' : StepRun} {f' : FeatureRun} (hr : runOf s l.part = some r') (hf : r'.features[l.fi]? = some f')
    (h : rowOfId t.desc id = none) (hs : tdSubst t.desc = true) (ecc : SramEcc) : ∃ u q g, resolveId s r f l id ecc = addF u eeOob ∧
      runOf u l.part = some q ∧ q.features[l.fi]? = some g ∧ g.substBit = true ∧ mget g.contrib l.bag = mget f'.contrib l.bag ++
      [{ pos := l.pos, values := decodeRow s t (defaultRow s t (mget r.epochs (tdGroup t.desc))), weight := l.weight }] := by
  obtain ⟨q, g, hq, hg, hb, hc⟩ := addDefault_feature (telemAdd s 3 1) l.part l.fi l.bag l.pos l.weight t
    (mget r.epochs (tdGroup t.desc)) r' f' hr hf
  exact ⟨_, q, g, (resolveId_outOfRange ht h ecc).trans (if_pos hs), hq, hg, hb, hc⟩

end

/-- Settles O36, from the two answers of `rowOfId` in direct mode. -/
theorem idsInDirectMode : Obligations.IdsInDirectMode := by
  intro s r r' f f' l id ecc t ht hr hf hd
  have hrow := rowOfId_direct hd id
  refine ⟨fun h => ?_, fun h hs => ?_, fun h hs => ?_⟩
  · have hin := hrow.trans (if_pos h)
    exact ⟨hin, resolveId_row ht hin ecc⟩
  · refine (resolveId_outOfRange ht (hrow.trans (if_neg (Nat.not_lt.2 h))) ecc).trans (if_neg ?_)
    rw [hs]; decide
  · exact resolveId_substitutes ht hr hf (hrow.trans (if_neg (Nat.not_lt.2 h))) hs ecc

/-- Settles O37: the hash of an ID lies below 2^64, whatever the ID. -/
theorem idsInHashedMode : Obligations.IdsInHashedMode := by
  intro s r f l id ecc t ht hh hn
  have hrow := rowOfId_hashed hh id
  have hlt := hashRow_lt id (tdSeed t.desc) hn
  have hres := resolveId_row (l := l) ht hrow ecc
  rw [hashRow_eq] at hrow hlt hres
  exact ⟨seed_odd _, hrow, hlt, hres⟩

/-! ### Owners and local rows (R59) -/

theorem shardCount_pos (s : State) (t : Table) : 0 < shardCount s t := Nat.le_max_left ..

theorem shardOf_unsharded (s : State) {t : Table} (h : tdShard t.desc = 0xFFFF) : shardOf s t = [] := if_pos h

theorem shardOf_sharded (s : State) {t : Table} (h : tdShard t.desc ≠ 0xFFFF) :
    shardOf s t = mget (partOf s t.part).shardMaps (tdShard t.desc) := if_neg h

theorem ownerOf_local (s : State) (t : Table) (r : Nat) : (ownerOf s t r).2 = r / shardCount s t := rfl

theorem ownerOf_unsharded (s : State) {t : Table} (h : tdShard t.desc = 0xFFFF) (r : Nat) :
    shardCount s t = 1 ∧ ownerOf s t r = (none, r) := by
  have hc : shardCount s t = 1 := by rw [shardCount, shardOf_unsharded s h]; rfl
  refine ⟨hc, ?_⟩
  rw [ownerOf, hc, shardOf_unsharded s h, Nat.div_one]; rfl

/-- R59: the number of this block in the placement group of a table's partition. -/
def ownIndex (s : State) (t : Table) : Nat := match (partOf s t.part).group with | some g => g.index | none => 0

theorem ownerOf_eq (s : State) (t : Table) (r : Nat) : ownerOf s t r =
    (if (shardOf s t).isEmpty || (shardOf s t).getD (r % shardCount s t) 0 == ownIndex s t then none
      else some ((shardOf s t).getD (r % shardCount s t) 0), r / shardCount s t) := rfl

/-- R59: the entries of a shard map name the owner. -/
theorem ownerOf_sharded {s : State} {t : Table} {r j : Nat} (h : tdShard t.desc ≠ 0xFFFF)
    (hj : (mget (partOf s t.part).shardMaps (tdShard t.desc))[r % (mget (partOf s t.part).shardMaps (tdShard t.desc)).length]? = some j) :
    let m := mget (partOf s t.part).shardMaps (tdShard t.desc)
    shardCount s t = m.length ∧ ownerOf s t r = (if j = ownIndex s t then none else some j, r / m.length) := by
  rw [← shardOf_sharded s h] at hj ⊢
  obtain ⟨hlt, -⟩ := List.getElem?_eq_some_iff.1 hj
  have hpos : 0 < (shardOf s t).length := Nat.zero_lt_of_lt hlt
  have hc : shardCount s t = (shardOf s t).length := Nat.max_eq_right hpos
  have he : (shardOf s t).isEmpty = false := List.isEmpty_eq_false_iff.2 (List.length_pos_iff.1 hpos)
  refine ⟨hc, ?_⟩
  rw [ownerOf_eq, hc, he, List.getD_eq_getElem?_getD, hj]
  simp only [Option.getD_some, Bool.false_or, beq_iff_eq]

/-- R59: rows of one number modulo the entries have one owner. -/
theorem ownerOf_congr {s : State} {t : Table} {r k : Nat} (h : k % shardCount s t = r % shardCount s t) :
    (ownerOf s t k).1 = (ownerOf s t r).1 := by
  rw [ownerOf, ownerOf, h]

theorem mainRowAt_eq (s : State) (t : Table) (loc e : Nat) :
    mainRowAt s t loc e = (if tdDelta t.desc = true then 0 else e % 2 * mainBytes s t) + loc * 2 ^ tdLog t.desc := Nat.add_comm ..

theorem rowStored_main (s : State) (t : Table) (loc e : Nat) :
    rowStored s t loc e false = tabRead s t (mainRowAt s t loc e) (2 ^ tdLog t.desc) := by
  rw [rowStored, rowAt, Bool.and_false]; rfl

/-! ### The default row (R61) -/

theorem nLocal_eq (s : State) (t : Table) : nLocal s t = (tdRows t.desc + shardCount s t - 1) / shardCount s t := rfl

theorem ownerOf_lt_nLocal {s : State} {t : Table} {r : Nat} (h : r < tdRows t.desc) : (ownerOf s t r).2 < nLocal s t := by
  have hp := shardCount_pos s t
  calc r / shardCount s t < (r + shardCount s t) / shardCount s t := by rw [Nat.add_div_right _ hp]; exact Nat.lt_succ_self _
    _ ≤ nLocal s t := Nat.div_le_div_right (by omega)

theorem last_row_below_nLocal (s : State) (t : Table) (h : 0 < tdRows t.desc) : (ownerOf s t (tdRows t.desc - 1)).2 + 1 = nLocal s t := by
  rw [ownerOf_local, nLocal_eq, ← Nat.add_div_right _ (shardCount_pos s t)]
  congr 1
  omega

/-- Settles O38, from the laws of `ownerOf`, of the main rows and of the local row count. -/
theorem rowsHaveOwners : Obligations.RowsHaveOwners := by
  refine ⟨fun s t r e => ⟨fun h => ownerOf_unsharded s h r, fun j h hj => ?_, fun k => ownerOf_congr, ?_, ?_⟩,
    fun s t e => ⟨nLocal_eq s t, rfl, fun r => ownerOf_lt_nLocal, fun h => ⟨_, Nat.sub_lt h Nat.one_pos, last_row_below_nLocal s t h⟩⟩⟩
  · obtain ⟨hc, ho⟩ := ownerOf_sharded h hj
    exact ⟨hc, fun he => ho.trans (congrArg (·, _) (if_pos he)), fun he => ho.trans (congrArg (·, _) (if_neg he))⟩
  · exact mainRowAt_eq ..
  · exact (rowStored_main ..).trans (by rw [mainRowAt_eq]; rfl)

end Sys2Proof.Proofs

/-! Best-effort packets that reach this block (R74, R82, R83, R93, R214). -/

namespace Sys2Proof.Proofs

open Sys2Proof Sys2Proof.Machine

section

variable {p : BeHeader} (s : State) (k : Nat) (d : List Byte)

/-- R214: a packet of no flit or of more than 64 is dropped and counted. -/
theorem bePacketIn_dropped (h : p.flits = 0 ∨ 64 < p.flits) : bePacketIn s (packetOf p k d) = addF s lkBeDrop := if_pos h

theorem bePacketIn_arrives (h1 : 1 ≤ p.flits) (h64 : p.flits ≤ 64) (hd : p.dst = s.start.record.coord) :
    bePacketIn s (packetOf p k d) = bePacketArrive s (packetOf p k d) :=
  (if_neg (show ¬ (p.flits = 0 ∨ 64 < p.flits) by omega)).trans (if_pos hd)

theorem bePacketIn_onward (h1 : 1 ≤ p.flits) (h64 : p.flits ≤ 64) (hd : p.dst ≠ s.start.record.coord) :
    bePacketIn s (packetOf p k d) = beRoute s { packetOf p k d with born := s.time.tick } :=
  (if_neg (show ¬ (p.flits = 0 ∨ 64 < p.flits) by omega)).trans (if_neg hd)

end

/-- What a law of the packets of every kind says of the six commands that bring one. -/
theorem packetCommands_of {s : State} {p : BeHeader} {d : List Byte} {f : Nat → State} (h : ∀ k, bePacketIn s (packetOf p k d) = f k) :
    exec (.updateStreamPacket p d) s = .next (f 0) ∧ exec (.greyLaneRecord p d) s = .next (f 1) ∧
    exec (.greyLaneReturn p d) s = .next (f 2) ∧ exec (.promotionFetch p d) s = .next (f 3) ∧
    exec (.promotionData p d) s = .next (f 4) ∧ exec (.firmwareManagement p d) s = .next (f 5) :=
  ⟨congrArg _ (h 0), congrArg _ (h 1), congrArg _ (h 2), congrArg _ (h 3), congrArg _ (h 4), congrArg _ (h 5)⟩

/-- R214: a packet of kind 5 that is next in its flow reaches the firmware's inbox. -/
theorem execFirmwareManagement_inbox {s : State} {p : BeHeader} {d : List Byte} (h1 : 1 ≤ p.flits) (h64 : p.flits ≤ 64)
    (hd : p.dst = s.start.record.coord) (hs : p.seq = mget s.links.flowRx (flowKey p.src 5 p.flow)) (hh : s.links.flowHeld = []) :
    exec (.firmwareManagement p d) s = .next
      (beDeliver { s with links.flowRx := mset s.links.flowRx (flowKey p.src 5 p.flow) ((p.seq + 1) % 2 ^ 32) } (packetOf p 5 d)) :=
  congrArg _ ((bePacketIn_arrives s 5 d h1 h64 hd).trans (bePacketArrive_next s (packetOf p 5 d) (Nat.le_refl 5) hs hh))

/-- Settles O40, from the three laws of `bePacketIn` and the two of `bePacketArrive`. -/
theorem packetCommands : Obligations.PacketCommands := fun s p d =>
  ⟨fun h => packetCommands_of (f := fun _ => addF s lkBeDrop) (fun k => bePacketIn_dropped s k d h),
   fun h1 h64 hd => packetCommands_of (fun k => bePacketIn_arrives s k d h1 h64 hd),
   fun k hk => ⟨bePacketArrive_copy s (packetOf p k d) hk, bePacketArrive_next s (packetOf p k d) hk⟩,
   fun h1 h64 hd hs hh => ⟨_, execFirmwareManagement_inbox h1 h64 hd hs hh, rfl, rfl, rfl, rfl, rfl⟩,
   fun h1 h64 hd => packetCommands_of (fun k => bePacketIn_onward s k d h1 h64 hd)⟩

end Sys2Proof.Proofs

/-! Lookups of a running step: IDs, ready features, promotions, the sketch, quotas and served records (R62, R73 to R75, R81, R84, R85, R88). -/

namespace Sys2Proof.Proofs

open Sys2Proof Sys2Proof.Machine

/-! ### IDs and features of a running step (R62, R85) -/

section

variable {s : State} {p i : Nat} {r : StepRun} {f : FeatureRun} (hp : p < 64) (hr : runOf s p = some r) (hf : r.features[i]? = some f)

include hp hr hf

theorem execLookupId_resolves (hy : f.ready = false) {bag pos : Nat} {e : SramEcc} (hb : bag < f.batch) (hw : lookupWaits s p r i f bag pos e = false) :
    execLookupId p i bag pos e s = .next (greyFaultsDue (lookupId s p r i f bag pos e)) := by
  rw [execLookupId, res_of_part hp, hr]
  simp only [hf]
  refine if_neg ?_
  rw [hy, hw, decide_eq_false (Nat.not_le.2 hb)]; decide

theorem execLookupId_waits {bag pos : Nat} {e : SramEcc} (hw : lookupWaits s p r i f bag pos e = true) :
    execLookupId p i bag pos e s = .next s := by
  rw [execLookupId, res_of_part hp, hr]
  simp only [hf]
  refine if_pos ?_
  rw [hw, Bool.or_true]

theorem execFeatureReady_early (h : s.time.tick < f.readyAt) : execFeatureReady p i s = .next s := by
  rw [execFeatureReady, res_of_part hp, hr]
  simp only [hf]
  refine if_pos ?_
  rw [now, decide_eq_true h, Bool.or_true]

/-- R85: what FEATURE_READY does at the ready tick and after it. -/
theorem execFeatureReady_due (hy : f.ready = false) (h : f.readyAt ≤ s.time.tick) {c : Code} {all : Bool} (hc : featureResolved s p r f = (c, all)) :
    (c ≠ 0 → execFeatureReady p i s = .next (laneFault s p r.ctx f.offsetsVa.toNat false c)) ∧
    (∀ t, c = 0 → all = true → tableFor s r.ctx f.tableId = some t → execFeatureReady p i s = .next (readyFeature s p r i f t)) := by
  have hd : ¬ (f.ready || decide (now s < f.readyAt)) = true := by
    rw [hy, now, decide_eq_false (Nat.not_lt.2 h)]; decide
  rw [execFeatureReady, res_of_part hp, hr]
  simp only [hf, hc, if_neg hd]
  exact ⟨fun h0 => if_pos h0, fun t h0 ha ht => by rw [if_neg (not_not.2 h0), if_pos ha, ht]⟩

end

/-! ### Promotions, the sketch and the quotas (R73 to R75, R88) -/

theorem execPromotionCopyDone_local {s : State} {tid row loc : Nat} {q : Promotion} {t : Table}
    (hq : s.emb.promos.find? (fun q => q.table == tid && q.row == row && promoTurn s q) = some q) (ht : tableOf s tid = some t)
    (ho : ownerOf s t row = (none, loc)) :
    execPromotionCopyDone tid row s = .next (installRow s q (rowStored s t loc q.epoch true)) := by
  rw [execPromotionCopyDone, hq]
  simp only [ht, ho]

/-- R73: the counters of the sketch halved; one that falls to 0 is no longer listed. -/
def halvedSketch (m : SMap Nat) : SMap Nat := (m.map (fun e => (e.1, e.2 / 2))).filter (fun e => e.2 != 0)

theorem mget_halvedSketch {m : SMap Nat} (h : rising m = true) (k : Nat) : mget (halvedSketch m) k = mget m k / 2 := mfind_halved m h k

theorem execSketchHalving_due {s : State} (h : s.time.tick % 2 ^ max 16 (getF s eeDecayLog2) = 0) :
    execSketchHalving s = .next { s with emb.sketch := halvedSketch s.emb.sketch } := if_pos h

theorem execSketchHalving_not {s : State} (h : s.time.tick % 2 ^ max 16 (getF s eeDecayLog2) ≠ 0) : execSketchHalving s = .next s := if_neg h

theorem getF_setF_sketchClear (s : State) (b : Nat) (hb : b < 2) : getF (setF s eeSketchClear b) eeSketchClear = b :=
  (getF_setF_self s eeSketchClear b 0 (by decide)).trans (Nat.mod_eq_of_lt hb)

theorem sketchTick_clears {s : State} (h : getF s eeSketchClear = 1) :
    (sketchTick s).emb.sketch = [] ∧ getF (sketchTick s) eeSketchClear = 0 := by
  rw [sketchTick, if_pos h]
  exact ⟨by rw [setF_emb], getF_setF_sketchClear _ 0 (by decide)⟩

/-- R88: the units that the other partitions hold. -/
def otherQuotas (s : State) (p : Nat) : Nat := (List.range 64).foldl (fun n k => if k = p then n else n + getF s eeQuotaUnits k) 0

theorem bits_zero_twelve (x : Nat) : bits x 0 12 = x % 4096 := by rw [bits, Nat.pow_zero, Nat.div_one]; rfl

section

variable {s : State} {p : Nat} (hp : p < 64) {v : W32}

include hp

theorem execCrimsonQuotaWrite_ignored (h : hasCrimson s = false ∨ crimsonUnits s < otherQuotas s p + v.toNat % 4096) :
    execCrimsonQuotaWrite p v s = .next s := by
  rw [execCrimsonQuotaWrite, res_of_part hp, bits_zero_twelve]
  refine if_neg ?_
  rw [Bool.and_eq_true, decide_eq_true_eq]
  rintro ⟨hc, hu⟩
  obtain h | h := h
  · rw [h] at hc; cases hc
  · exact absurd hu (Nat.not_le.2 h)

theorem execCrimsonQuotaWrite_taken (hc : hasCrimson s = true) (hu : otherQuotas s p + v.toNat % 4096 ≤ crimsonUnits s)
    (hq : crimsonUsed (setF s eeQuotaUnits (v.toNat % 4096) p) p ≤ crimsonQuota (setF s eeQuotaUnits (v.toNat % 4096) p) p) :
    execCrimsonQuotaWrite p v s = .next (setF s eeQuotaUnits (v.toNat % 4096) p) := by
  rw [execCrimsonQuotaWrite, res_of_part hp, bits_zero_twelve]
  refine (if_pos ?_).trans (if_pos hq)
  rw [hc, Bool.true_and]
  exact decide_eq_true hu

end

theorem getF_setF_quota (s : State) (q p : Nat) : getF (setF s eeQuotaUnits (q % 4096) p) eeQuotaUnits p = q % 4096 :=
  (getF_setF_self s eeQuotaUnits _ p (by decide)).trans (Nat.mod_mod ..)

/-! ### Records served to another block, and carry areas (R81, R84) -/

/-- R81, R105, R106: records are served at an epoch that this block supplies, and refused at another. -/
theorem serveTo_eq {s : State} {p : Nat} {r : StepRun} {t : Table} {q i e : Nat} {l : List (W64 × W64)} {f : FeatureRun}
    (hf : imgFeature (runEntry s p r).1 (varEntry (runEntry s p r).1 q r.variant) 0 i = f) (ht : tableFor s r.ctx f.tableId = some t) :
    serveTo s p r q i e l = if epochServedRemote (groupOf s (tdGroup t.desc)) e = true then
        pushReturn (countServed s t f.tableId e l) p q (serveRecords s t f.tableId f.poolOp f.outFormat i e l)
      else pushReturn (addF s eeEpochUnavail l.length) p q (leBytes 8 (refusedTag i)) := by
  rw [serveTo]
  simp only [hf, ht]

theorem runEntry_updRun (s : State) (p : Nat) (g : StepRun → StepRun) (r : StepRun) : runEntry (updRun s p g) p r = runEntry s p r := rfl

/-- R81: the records of a feature that a block has sent are taken out and served. -/
theorem execExchangeServe_serves {s : State} {p q i e : Nat} {r : StepRun} (hp : p < 64) (hr : runOf s p = some r) (hg : r.group = true)
    (hi : i < (varEntry (runEntry s p r).1 q r.variant).features) (hq : q < imgBlocks (runEntry s p r).1)
    (hl : (mget r.inRecords q).filter (fun x => recordFeature x == i) ≠ []) : execExchangeServe p q i e s =
      .next (serveTo (updRun s p (fun y => { y with inRecords := mset y.inRecords q ((mget r.inRecords q).filter (fun x => recordFeature x != i)) }))
        p r q i e ((mget r.inRecords q).filter (fun x => recordFeature x == i))) := by
  rw [execExchangeServe, res_of_part hp, hr]
  refine if_neg ?_
  rw [hg]
  rintro (h | h | h | h)
  · cases h
  · exact absurd hq (Nat.not_lt.2 h)
  · exact absurd hi (Nat.not_lt.2 h)
  · exact hl h

theorem execCarryAreaFinal_due {s : State} {p : Nat} {a : CarryArea} (hp : p < 64) (h : carryDue s p = some a) :
    execCarryAreaFinal p s = .next (greyFaultsDue (carryFinal s a)) := by
  rw [execCarryAreaFinal, res_of_part hp, h]

/-- Settles O35, from one lemma for each case of each command. -/
theorem lookupCommands : Obligations.LookupCommands := by
  intro s p hp
  refine ⟨fun r i f hr hf hy => ⟨fun bag pos e hb => ⟨execLookupId_resolves hp hr hf hy hb, execLookupId_waits hp hr hf⟩,
      execFeatureReady_early hp hr hf, fun t h hc ht => (execFeatureReady_due hp hr hf hy h hc).2 t rfl rfl ht,
      fun c b h hc h0 => (execFeatureReady_due hp hr hf hy h hc).1 h0⟩,
    fun tid row q t loc hq ht ho => execPromotionCopyDone_local hq ht ho, fun h hs => ?_, execSketchHalving_not,
    ⟨rfl, getF_setF_sketchClear s 1 (by decide)⟩, sketchTick_clears,
    fun v => ⟨execCrimsonQuotaWrite_ignored hp, fun hc hu hq => ⟨execCrimsonQuotaWrite_taken hp hc hu hq, getF_setF_quota s _ p⟩⟩,
    fun r q i e t hr hg hi hq hl ht => ?_, fun a ha => execCarryAreaFinal_due hp ha⟩
  · exact ⟨_, execSketchHalving_due h, mget_halvedSketch hs, rfl⟩
  · exact (execExchangeServe_serves hp hr hg hi hq hl).trans (congrArg _ (serveTo_eq (by rw [runEntry_updRun]) ht))

end Sys2Proof.Proofs

/-! Commands that read time, telemetry, codebooks, capabilities and buffers (R65, R263, R264, R273, R286, R421). -/

namespace Sys2Proof.Proofs

open Sys2Proof Sys2Proof.Machine

theorem dispatched_not_done {s : State} {j op : Nat} {x : Job} (h : dispatchedAs s j op x) : jobOf (begun s) j = some x ∧ x.status ≠ .done := by
  obtain ⟨hj, -, -, hs⟩ := h
  exact ⟨hj, by rw [hs]; decide⟩

theorem begun_finished {s : State} {j op : Nat} {x : Job} (h : dispatchedAs s j op x) (c : Code) : doneWith (finishJob (begun s) j c) j c :=
  doneWith_finish _ j x c (dispatched_not_done h).1 (dispatched_not_done h).2

theorem execNop_finishes {s : State} {j : Nat} {x : Job} (h : dispatchedAs s j 0 x) : execNop j s = .next (finishJob (begun s) j 0) := by
  rw [execNop, runJob_at _ h]

/-! ### Results in the device's memory (R273, R421) -/

theorem execReadTick_writes {s : State} {j t : Nat} {x : Job} (h : dispatchedAs s j 0x40 x) (ht : x.start = some t) :
    execReadTick j s = .next (writeResult (begun s) j x.ctx (d8 x.desc 0x38) (leBytes 8 t)) := by
  rw [execReadTick, runJob_at _ h, ht]; rfl

theorem execReadSnapshot_writes {s : State} {j va : Nat} {x : Job} (h : dispatchedAs s j 0x41 x)
    (hr : objRange (begun s) (d8 x.desc 0x20) (dOff x.desc 0x28) ((snapshotBytes s).take (dLen x.desc)).length = (0, va)) :
    execReadSnapshot j s = .next (writeResult (begun s) j x.ctx va ((snapshotBytes s).take (dLen x.desc))) := by
  have hb : snapshotBytes (begun s) = snapshotBytes s := rfl
  rw [execReadSnapshot, runJob_at _ h]
  simp only [hb, hr]
  exact congrArg _ (if_neg (by decide))

/-! ### Capabilities (R263, R264) -/

/-- R264: a query of a table that is being rewritten waits behind those that wait already. -/
theorem execQueryCapabilities_busy {s : State} {j : Nat} {x : Job} (h : dispatchedAs s j 0x14 x) (hb : s.front.capBusy = true) :
    execQueryCapabilities j s = .next (awaitJob { s with front.executing := none, front.capJobs := s.front.capJobs ++ [j] } j) := by
  rw [execQueryCapabilities, runJob_at _ h]
  exact congrArg _ (if_pos hb)

/-- R263: the administrator's query copies the table into the host's memory. -/
theorem execQueryCapabilities_admin {s : State} {j : Nat} {x : Job} (h : dispatchedAs s j 0x14 x) (hb : s.front.capBusy = false)
    (ha : x.admin = true) : execQueryCapabilities j s = .next (finishJob
      { s with front.executing := none,
               mem.host := wrBytes s.mem.host (d8 x.desc 0x20 + dOff x.desc 0x28) ((capTable s).take (dLen x.desc)) } j 0) := by
  have hc : capTable (begun s) = capTable s := rfl
  rw [execQueryCapabilities, runJob_at _ h]
  refine congrArg _ ((if_neg (show ¬ (begun s).front.capBusy = true from ?_)).trans ?_)
  · rw [begun, hb]; decide
  · rw [serveCap, (dispatched_not_done h).1, hc]
    exact if_pos ha

/-! ### Codebooks (R65) -/

/-- R65: a load names units that do not exist, that its bytes overrun, or that a table uses (log 41). -/
def codebookConflict (s : State) (slot units n : Nat) : Prop := 64 < slot + units ∨ units * 65536 < n ∨ codebookUsed s slot units = true

theorem not_codebookConflict {s : State} {slot units n : Nat} (h64 : slot + units ≤ 64) (hn : n ≤ units * 65536)
    (hu : codebookUsed s slot units = false) : ¬ codebookConflict s slot units n := by
  rintro (h | h | h)
  · exact absurd h64 (Nat.not_le.2 h)
  · exact absurd hn (Nat.not_le.2 h)
  · rw [hu] at h; cases h

section

variable {s : State} {j va : Nat} {x : Job} (h : dispatchedAs s j 0x32 x)
  (hr : objRange (begun s) (d8 x.desc 0x20) (dOff x.desc 0x28) (dLen x.desc) = (0, va))

include h hr

theorem execLoadCodebook_conflict (hc : codebookConflict s (bits (d8 x.desc 0x30) 0 6) (bits (d8 x.desc 0x30) 8 8) (dLen x.desc)) :
    execLoadCodebook j s = .next (finishJob (begun s) j 0x0B04) := by
  rw [execLoadCodebook, runJob_at _ h]
  simp only [hr]
  exact congrArg _ ((if_neg (by decide)).trans (if_pos hc))

theorem execLoadCodebook_loads (hc : ¬ codebookConflict s (bits (d8 x.desc 0x30) 0 6) (bits (d8 x.desc 0x30) 8 8) (dLen x.desc))
    {bs : List Byte} (hv : vaRead (begun s) x.ctx va (dLen x.desc) = (0, bs)) :
    ∃ t, execLoadCodebook j s = .next t ∧ t.mem.codebook =
      wrBytes (touchRead (begun s) engFront x.ctx va (dLen x.desc)).mem.codebook (bits (d8 x.desc 0x30) 0 6 * 65536) bs := by
  rw [execLoadCodebook, runJob_at _ h]
  simp only [hr, hv]
  refine ⟨_, congrArg _ ((if_neg (by decide)).trans ((if_neg hc).trans (if_neg (by decide)))), ?_⟩
  rw [finishJob_mem]

end

/-! ### Exec-buffers (R286) -/

/-- R286: a buffer whose operations can all be read and may all stand in a buffer takes the head of its queue. -/
theorem execExecBuffer_begins {s : State} {j va : Nat} {x : Job} (h : dispatchedAs s j 3 x)
    (hr : objRange (begun s) (d8 x.desc 0x20) (dOff x.desc 0x28) (64 * dLen x.desc) = (0, va))
    (ho : (List.range (dLen x.desc)).all (fun k => (vaRead (begun s) x.ctx (va + 64 * k) 64).1 == 0 &&
      bufferItemOk (begun s) (vaRead (begun s) x.ctx (va + 64 * k) 64).2) = true) :
    execExecBuffer j s = .next (updSubq (awaitJob (touchRead (begun s) engFront x.ctx va (64 * dLen x.desc)) j) x.ctx x.queue
      (fun q => { q with buffer := some j })) := by
  have hbad : ¬ ((0 : Code) ≠ 0 ∨ (List.range (dLen x.desc)).any (fun k => (vaRead (begun s) x.ctx (va + 64 * k) 64).1 == 0 &&
      !bufferItemOk (begun s) (vaRead (begun s) x.ctx (va + 64 * k) 64).2) = true) := by
    rintro (h0 | hb)
    · exact h0 rfl
    · obtain ⟨k, hk, hx⟩ := List.any_eq_true.1 hb
      have hy := List.all_eq_true.1 ho k hk
      rw [Bool.and_eq_true] at hx hy
      rw [hy.2] at hx
      exact absurd hx.2 (by decide)
  rw [execExecBuffer, runJob_at _ h]
  simp only [hr]
  exact congrArg _ (if_neg hbad)

/-- Settles O27, from one lemma for each case of each command. -/
theorem plainCommands : Obligations.PlainCommands := by
  intro s j x
  refine ⟨fun h => ⟨execNop_finishes h, begun_finished h 0⟩, fun t h ht => execReadTick_writes h ht, fun h va hr => execReadSnapshot_writes h hr,
    fun h => ⟨fun hb => ?_, fun hb ha => ?_⟩,
    fun h va bs hr => ⟨execLoadCodebook_conflict h hr, fun h64 hn hu hv => execLoadCodebook_loads h hr (not_codebookConflict h64 hn hu) hv⟩,
    fun h _ va hr ho => execExecBuffer_begins h hr ho⟩
  · obtain ⟨hj, hs⟩ := dispatched_not_done h
    exact ⟨_, execQueryCapabilities_busy h hb, rfl, jobOf_awaitJob_self _ j x hj hs, by rw [awaitJob_mem]⟩
  · obtain ⟨hj, hs⟩ := dispatched_not_done h
    exact ⟨_, execQueryCapabilities_admin h hb ha, doneWith_finish _ j x 0 hj hs, by rw [finishJob_mem]⟩

end Sys2Proof.Proofs

/-! Binds, unbinds, catch-ups, merge passes and flips of tables (R55, R56, R97, R102 to R105, R351). -/

namespace Sys2Proof.Proofs

open Sys2Proof Sys2Proof.Machine

/-! ### Binding and unbinding (R55, R56, R351) -/

/-- R55: the table of a bind, from its descriptor as the block writes it. -/
def bindingTable (u : State) (j n : Nat) (d : List Byte) : Table :=
  { desc := d, ctx := n, part := (ctxOf u n).partition, obj := hIndex (tdHandle d), bindJob := some j }

theorem bindTable_refused {u : State} {j n tid : Nat} {d : List Byte} (h : bindCode u n tid (bindingTable u j n d) ≠ 0) :
    bindTable u j n tid d = finishJob u j (bindCode u n tid (bindingTable u j n d)) := if_pos h

/-- R55: a bind reads the descriptor that the command names. -/
theorem execBindTable_reads {s : State} {j va : Nat} {x : Job} {bs : List Byte} (h : dispatchedAs s j 0x30 x)
    (hr : objRange (begun s) (d8 x.desc 0x20) (dOff x.desc 0x28) 64 = (0, va)) (hv : vaRead (begun s) x.ctx va 64 = (0, bs)) :
    execBindTable j s = .next (bindTable (touchRead (begun s) engFront x.ctx va 64) j x.ctx (fieldAt bs 0 2) (ownDesc bs x.ctx)) := by
  rw [execBindTable, runJob_at _ h]
  simp only [hr, hv]
  exact congrArg _ ((if_neg (by decide)).trans (if_neg (by decide)))

theorem placeBind_binds (u : State) (j tid i : Nat) (t : Table) (l : List PmapEntry) :
    (placeBind u j tid i t l).emb.binds = u.emb.binds ++ [(tid, { t with pages := bindIds i l })] := by
  rw [placeBind, awaitJob_emb, bindObj, updObj_emb]

/-- R245: a bind takes a binding of its object. -/
theorem placeBind_obj (u : State) (j tid i : Nat) (t : Table) (l : List PmapEntry) :
    objOf (placeBind u j tid i t l) t.obj = { objOf u t.obj with bindings := (objOf u t.obj).bindings + 1 } := by
  rw [placeBind, objOf_awaitJob, bindObj, objOf_updObj_self]; rfl

theorem execUnbindTable_cases {s : State} {j : Nat} {x : Job} (h : dispatchedAs s j 0x31 x) :
    let tid := bits (d8 x.desc 0x20) 0 16
    (tableFor s x.ctx tid = none → execUnbindTable j s = .next (finishJob (begun s) j 0x0B02)) ∧
    (∀ t, tableFor s x.ctx tid = some t → execUnbindTable j s =
      .next (boundary (awaitJob (putTable (begun s) tid { t with unbinding := true, unbindJobs := t.unbindJobs ++ [j] }) j) t.part)) := by
  have hb : ∀ n tid, tableFor (begun s) n tid = tableFor s n tid := fun _ _ => rfl
  rw [execUnbindTable, runJob_at _ h]
  simp only [hb]
  exact ⟨fun ht => by rw [ht], fun t ht => by rw [ht]⟩

/-! ### Twin catch-up (R97) -/

theorem execTwinCatchupDone_none {s : State} {tid : Nat} {t : Table} (ht : tableOf s tid = some t) (h : tid ∉ s.upd.catchup) :
    execTwinCatchupDone tid s = .next s := by
  rw [execTwinCatchupDone, ht]
  exact if_neg h

/-- R97: the rows are copied, and the table no longer counts among those that catch up. -/
def caughtUp (s : State) (tid : Nat) (t : Table) : State :=
  let c := catchUp s tid t (catchEpoch (groupOf s (tdGroup t.desc)))
  { c with upd.catchup := c.upd.catchup.filter (· != tid), upd.unread := c.upd.unread.filter (fun x => !(x.1 == tid && !x.2.2)) }

theorem execTwinCatchupDone_ends {s : State} {tid : Nat} {t x : Table} (ht : tableOf s tid = some t) (h : tid ∈ s.upd.catchup)
    (hx : tableOf (caughtUp s tid t) tid = some x) :
    execTwinCatchupDone tid s = .next (drainHeld (putTable (caughtUp s tid t) tid { x with busy := false })) := by
  rw [execTwinCatchupDone, ht]
  refine (if_pos h).trans ?_
  rw [caughtUp] at hx ⊢
  simp only [hx]

/-! ### The delta merge pass (R102) -/

/-- R102: the oldest epoch that a group supplies. -/
def oldestEpoch (x : EpochGroup) : Nat := if x.retained then x.active - 1 else x.active

/-- R102: the versions of a table that the pass merges. -/
def mergedTable (s : State) (tid : Nat) (t : Table) : State :=
  each (deltaPlaces t) (fun p u => mergeEntry u tid t (oldestEpoch (groupOf s (tdGroup t.desc))) p) s

/-- R102: the pass is over for the rows of the tables that could not be read. -/
def unreadDropped (s : State) (tids : List Nat) : State :=
  { s with upd.unread := s.upd.unread.filter (fun x => !(x.2.2 && tids.contains x.1)) }

/-- R102: the shadow filter of a table group, built again after its tables were merged. -/
def filterRebuilt (s : State) (tg : Nat) (tids : List Nat) : State :=
  { unreadDropped s tids with
    upd.filterShadow := (rebuiltFilter (unreadDropped s tids) tg).foldl (fun m b => mset m b true)
      (s.upd.filterShadow.filter (fun e => e.1 / 4194304 != tg)) }

/-- R102: the partitions of the tables await the new filter. -/
def filterAwaited (s : State) (tg : Nat) (tids : List Nat) : State :=
  each (tids.filterMap (fun t => (tableOf s t).map (·.part))).eraseDups (fun p s => updPart s p (fun x =>
    { x with filterSwap := if tg ∈ x.filterSwap then x.filterSwap else x.filterSwap ++ [tg] })) s

theorem filterAwaited_frame (s : State) (tg : Nat) (tids : List Nat) : (filterAwaited s tg tids).mem = s.mem ∧
    (filterAwaited s tg tids).emb = s.emb ∧ (filterAwaited s tg tids).regs = s.regs := each_updPart_frame ..

theorem rebuiltFilter_nil {s : State} {tg : Nat} (h : deltaTables s tg = []) : rebuiltFilter s tg = [] := by
  rw [rebuiltFilter, h]; rfl

/-- R102: the filter of a group without delta tables holds no bit of it. -/
theorem filterRebuilt_nil {s : State} {tg : Nat} (h : deltaTables s tg = []) (tids : List Nat) :
    (filterRebuilt s tg tids).upd.filterShadow = s.upd.filterShadow.filter (fun e => e.1 / 4194304 != tg) := by
  have hu : deltaTables (unreadDropped s tids) tg = [] := h
  rw [filterRebuilt, rebuiltFilter_nil hu, List.foldl_nil]

theorem execDeltaMergePassEnd_none {s : State} {tg : Nat} (hg : tg < 8) (h : deltaTables s tg = []) :
    execDeltaMergePassEnd tg s = .next (filterAwaited (filterRebuilt s tg []) tg []) := by
  rw [execDeltaMergePassEnd, if_neg (Nat.not_le.2 hg), h]; rfl

theorem execDeltaMergePassEnd_one {s : State} {tg tid : Nat} {t : Table} (hg : tg < 8) (h : deltaTables s tg = [tid])
    (ht : tableOf s tid = some t) :
    execDeltaMergePassEnd tg s = .next (filterAwaited (filterRebuilt (mergedTable s tid t) tg [tid]) tg [tid]) := by
  rw [execDeltaMergePassEnd, if_neg (Nat.not_le.2 hg), h]
  simp only [each, List.foldl_cons, List.foldl_nil, ht]
  rfl

/-! ### Flips (R103 to R105) -/

theorem execTealFlip_eq (g : Nat) (s : State) : execTealFlip g s = .next (tealFlip (resetsDue (latchDue s)) g) := rfl

/-- R104: an armed group switches at its tick. -/
theorem tealFlip_armed {u : State} {g tf d : Nat} (h : (groupOf u g).armed = some (tf, d)) :
    tealFlip u g = if tf ≤ u.time.tick then switchGroup u g else u := by
  rw [tealFlip, h]; rfl

/-- R105: an announced group that is not armed misses its tick. -/
theorem tealFlip_announced {u : State} {g e tf d : Nat} (h : (groupOf u g).armed = none) (ha : (groupOf u g).announced = some (e, tf, d)) :
    tealFlip u g = if tf ≤ u.time.tick ∧ (groupOf u g).missed = false then missFlip u g e 0x0A05 else u := by
  rw [tealFlip]
  simp only [h, ha]
  rfl

/-- Settles O33, from one lemma for each case of each command. -/
theorem tableCommands : Obligations.TableCommands := by
  intro s
  refine ⟨fun j x va bs h hr hv => ⟨fun hc => ?_, fun l i hc hw hp => ⟨?_, placeBind_binds .., placeBind_obj ..⟩⟩,
    fun j x h => execUnbindTable_cases h,
    fun tid t ht => ⟨execTwinCatchupDone_none ht, fun h x hx => execTwinCatchupDone_ends ht h hx⟩,
    fun g hg h => ?_, fun g tid t hg h ht => ?_,
    fun g tf d h => ⟨fun hl => ?_, fun hl => ?_⟩, fun g e tf d h ha => ⟨fun hl => ?_, fun hl hm => ?_⟩⟩
  · exact (execBindTable_reads h hr hv).trans (congrArg _ (bindTable_refused hc))
  · exact (execBindTable_reads h hr hv).trans (congrArg _ (bindTable_ok _ j _ _ _ l i hc hw hp))
  · exact ⟨_, execDeltaMergePassEnd_none hg h, rfl, rfl, rfl, filterRebuilt_nil h [], rfl⟩
  · exact ⟨_, execDeltaMergePassEnd_one hg h ht, filterAwaited_frame ..⟩
  · exact (execTealFlip_eq g s).trans (congrArg _ ((tealFlip_armed h).trans (if_neg (Nat.not_le.2 hl))))
  · exact (execTealFlip_eq g s).trans (congrArg _ ((tealFlip_armed h).trans (if_pos hl)))
  · refine (execTealFlip_eq g s).trans (congrArg _ ((tealFlip_announced h ha).trans (if_neg ?_)))
    rintro ⟨ht, hm⟩
    obtain hl | hl := hl
    · exact absurd ht (Nat.not_le.2 hl)
    · rw [hl] at hm; cases hm
  · exact (execTealFlip_eq g s).trans (congrArg _ ((tealFlip_announced h ha).trans (if_pos ⟨hl, hm⟩)))

end Sys2Proof.Proofs

/-! Transfers that stand alone (R93, R273). -/

namespace Sys2Proof.Proofs

open Sys2Proof Sys2Proof.Machine

/-! ### The engine's turn (R273, R281) -/

/-- R273: the only transfer waits on copy engine 0. -/
def waitsOnZero (s : State) (j : Nat) (x : Job) : State :=
  { begun s with front.jobs := [(j, { x with status := .waiting, copyEngine := some 0 })] }

/-- R281: the engine has begun to serve it. -/
def servedOnZero (s : State) (j : Nat) (x : Job) : State :=
  { begun s with
    front.jobs := [(j, { x with status := .waiting, copyEngine := some 0, servedAt := some (x.servedAt.getD s.time.tick) })] }

theorem takeTransfer_waitsOnZero (s : State) (j : Nat) (x : Job) : takeTransfer (waitsOnZero s j x) j = servedOnZero s j x := by
  rw [takeTransfer, updJob, waitsOnZero, mupd_single]; rfl

/-- R273: a transfer that stands alone has its whole effect at once where all its pages translate. -/
theorem startCopy_alone {s : State} {j : Nat} {x : Job} {l : List Span} (hj : s.front.jobs = [(j, x)]) (ha : attached s j = false)
    (hs : x.status = .dispatched) (hl : copySpans s x = (0, l)) (hp : ∀ p ∈ l, Span.bad (servedOnZero s j x) (engCopy 0) x.ctx p = none) :
    startCopy (begun s) j = copyEffect (servedOnZero s j x) j 0 x l := by
  have hw : startCopy (begun s) j = attemptCopy (waitsOnZero s j x) j 0 { x with status := .waiting, copyEngine := some 0 } :=
    startCopy_one (begun s) j x hj hs ha
  have hd : copySpans (waitsOnZero s j x) { x with status := .waiting, copyEngine := some 0 } = (0, l) := hl
  rw [hw, attemptCopy_go _ j 0 _ l hd, takeTransfer_waitsOnZero]
  · rfl
  · rw [takeTransfer_waitsOnZero, List.findSome?_eq_none_iff]
    exact fun p h => by rw [hp p h]; rfl

/-! ### The three transfers (R93, R273) -/

theorem copySpans_copy {s : State} {x : Job} {src dst : Nat} (ho : dOpcode x.desc = 1)
    (hs : objRange s (d8 x.desc 0x20) (dOff x.desc 0x30) (dLen x.desc) = (0, src))
    (hd : objRange s (d8 x.desc 0x28) (dOff x.desc 0x38) (dLen x.desc) = (0, dst)) :
    copySpans s x = (0, [⟨src, dLen x.desc, false⟩, ⟨dst, dLen x.desc, true⟩]) := by
  rw [copySpans, ho]
  simp only [hs, hd]
  rfl

theorem copySpans_fill {s : State} {x : Job} {dst : Nat} (ho : dOpcode x.desc = 2)
    (hd : objRange s (d8 x.desc 0x20) (dOff x.desc 0x28) (dLen x.desc) = (0, dst)) :
    copySpans s x = (0, [⟨dst, dLen x.desc, true⟩]) := by
  rw [copySpans, ho]
  simp only [hd]
  rfl

theorem copySpans_update (s : State) {x : Job} (ho : dOpcode x.desc = 0x33) :
    copySpans s x = (0, [⟨d8 x.desc 0x20, dLen x.desc, false⟩]) := by
  rw [copySpans, ho]; rfl

section

variable {s : State} {j : Nat} {x : Job} (hj : s.front.jobs = [(j, x)]) (ha : attached s j = false)

include hj ha

theorem execCopy_alone {src dst : Nat} (h : dispatchedAs s j 1 x)
    (hs : objRange s (d8 x.desc 0x20) (dOff x.desc 0x30) (dLen x.desc) = (0, src))
    (hd : objRange s (d8 x.desc 0x28) (dOff x.desc 0x38) (dLen x.desc) = (0, dst))
    (hbs : Span.bad (servedOnZero s j x) (engCopy 0) x.ctx ⟨src, dLen x.desc, false⟩ = none)
    (hbd : Span.bad (servedOnZero s j x) (engCopy 0) x.ctx ⟨dst, dLen x.desc, true⟩ = none) :
    execCopy j s = .next (finishJob (vaWriteE (touchRead (servedOnZero s j x) (engCopy 0) x.ctx src (dLen x.desc)) (engCopy 0) x.ctx dst
      (vaReadE (servedOnZero s j x) (engCopy 0) x.ctx src (dLen x.desc)).2).2 j 0) := by
  have hb : ∀ p ∈ [⟨src, dLen x.desc, false⟩, ⟨dst, dLen x.desc, true⟩], Span.bad (servedOnZero s j x) (engCopy 0) x.ctx p = none :=
    List.forall_mem_cons.2 ⟨hbs, List.forall_mem_singleton.2 hbd⟩
  rw [execCopy, runJob_at _ h]
  obtain ⟨-, -, ho, hst⟩ := h
  rw [startCopy_alone hj ha hst (copySpans_copy ho hs hd) hb, copyEffect, ho]
  rfl

theorem execFill_alone {dst : Nat} (h : dispatchedAs s j 2 x)
    (hd : objRange s (d8 x.desc 0x20) (dOff x.desc 0x28) (dLen x.desc) = (0, dst))
    (hb : Span.bad (servedOnZero s j x) (engCopy 0) x.ctx ⟨dst, dLen x.desc, true⟩ = none) :
    execFill j s = .next (finishJob (vaWriteE (servedOnZero s j x) (engCopy 0) x.ctx dst
      ((List.range (dLen x.desc / 8)).flatMap (fun _ => leBytes 8 (d8 x.desc 0x30)))).2 j 0) := by
  rw [execFill, runJob_at _ h]
  obtain ⟨-, -, ho, hst⟩ := h
  rw [startCopy_alone hj ha hst (copySpans_fill ho hd) (List.forall_mem_singleton.2 hb), copyEffect, ho]
  rfl

theorem execUpdate_alone (h : dispatchedAs s j 0x33 x)
    (hb : Span.bad (servedOnZero s j x) (engCopy 0) x.ctx ⟨d8 x.desc 0x20, dLen x.desc, false⟩ = none) :
    execUpdate j s = .next (ingest (updJob (touchRead (servedOnZero s j x) (engCopy 0) x.ctx (d8 x.desc 0x20) (dLen x.desc)) j
        (fun y => { y with copyEngine := none }))
      ((splitRecords (dLen x.desc / 32) (vaReadE (servedOnZero s j x) (engCopy 0) x.ctx (d8 x.desc 0x20) (dLen x.desc)).2).map
        (fun r => { bytes := r, ctx := x.ctx, job := some j }))) := by
  rw [execUpdate, runJob_at _ h]
  obtain ⟨-, -, ho, hst⟩ := h
  rw [startCopy_alone hj ha hst (copySpans_update s ho) (List.forall_mem_singleton.2 hb), copyEffect, ho]
  rfl

end

/-- Settles O26, from one lemma for each of the three transfers. -/
theorem transferCommands : Obligations.TransferCommands := fun _ _ _ hj ha =>
  ⟨fun h _ _ hs hd hbs hbd => execCopy_alone hj ha h hs hd hbs hbd, fun h _ hd hb => execFill_alone hj ha h hd hb,
    fun h hb => execUpdate_alone hj ha h hb⟩

end Sys2Proof.Proofs

/-! The commands of update streams, seals and flips (R89 to R103). -/

namespace Sys2Proof.Proofs

open Sys2Proof Sys2Proof.Machine

/-! ### Groups and the jobs that wait on them (R90) -/

@[simp] theorem groupOf_updGroup_self (s : State) (g : Nat) (f : EpochGroup → EpochGroup) : groupOf (updGroup s g f) g = f (groupOf s g) := by
  rw [groupOf, updGroup_groups, mget_mset_self]

@[simp] theorem jobOf_updGroup (s : State) (g : Nat) (f : EpochGroup → EpochGroup) (j : Nat) : jobOf (updGroup s g f) j = jobOf s j := by
  rw [jobOf, updGroup_front, jobOf]

@[simp] theorem updGroup_time (s : State) (g : Nat) (f : EpochGroup → EpochGroup) : (updGroup s g f).time = s.time := by
  obtain ⟨e, m, h⟩ := putGroup_shape s g (f (groupOf s g))
  rw [updGroup, h]

@[simp] theorem groupOf_finishJob (s : State) (j : Nat) (c : Code) (g : Nat) : groupOf (finishJob s j c) g = groupOf s g := by
  rw [groupOf, finishJob_upd, groupOf]

@[simp] theorem groupOf_awaitJob (s : State) (j g : Nat) : groupOf (awaitJob s j) g = groupOf s g := by
  rw [groupOf, awaitJob_upd, groupOf]

theorem ownGroup_begun (s : State) (n g : Nat) : ownGroup (begun s) n g = ownGroup s n g := rfl

theorem groupOf_begun (s : State) (g : Nat) : groupOf (begun s) g = groupOf s g := rfl

/-! ### Update streams (R93) -/

/-- R93: the effect of a command that binds or unbinds a stream. -/
def putStreams (s : State) (m : SMap UpdStream) : State := { begun s with upd.streams := m }

section

variable {s : State} {j : Nat} {x : Job} (h : dispatchedAs s j 0x34 x)

include h

theorem execBindStream_refused (hr : (mget s.upd.streams (bits (d8 x.desc 0x20) 0 8)).bound = true ∨
    ownGroup s x.ctx (bits (d8 x.desc 0x20) 8 8) = false) : execBindStream j s = .next (finishJob (begun s) j 0x0101) := by
  rw [execBindStream, runJob_at _ h]
  refine congrArg _ (if_pos ?_)
  rw [ownGroup_begun, Bool.or_eq_true, Bool.not_eq_true']
  exact hr

theorem execBindStream_binds (hb : (mget s.upd.streams (bits (d8 x.desc 0x20) 0 8)).bound = false)
    (ho : ownGroup s x.ctx (bits (d8 x.desc 0x20) 8 8) = true) :
    execBindStream j s = .next (finishJob (putStreams s (mset s.upd.streams (bits (d8 x.desc 0x20) 0 8)
      { ctx := x.ctx, group := bits (d8 x.desc 0x20) 8 8, bound := true })) j 0) := by
  rw [execBindStream, runJob_at _ h]
  refine congrArg _ (if_neg ?_)
  change ¬ ((mget s.upd.streams _).bound || !ownGroup s x.ctx _) = true
  rw [hb, ho]
  decide

end

section

variable {s : State} {j : Nat} {x : Job} (h : dispatchedAs s j 0x35 x)

include h

theorem execUnbindStream_unbinds (hb : (mget s.upd.streams (bits (d8 x.desc 0x20) 0 8)).bound = true)
    (hc : (mget s.upd.streams (bits (d8 x.desc 0x20) 0 8)).ctx = x.ctx) :
    execUnbindStream j s = .next (finishJob (putStreams s (mdel s.upd.streams (bits (d8 x.desc 0x20) 0 8))) j 0) := by
  rw [execUnbindStream, runJob_at _ h]
  refine congrArg _ (if_pos ?_)
  rw [Bool.and_eq_true, beq_iff_eq]
  exact ⟨hb, hc⟩

theorem execUnbindStream_refused (hr : (mget s.upd.streams (bits (d8 x.desc 0x20) 0 8)).bound = false ∨
    (mget s.upd.streams (bits (d8 x.desc 0x20) 0 8)).ctx ≠ x.ctx) : execUnbindStream j s = .next (finishJob (begun s) j 0x0101) := by
  rw [execUnbindStream, runJob_at _ h]
  refine congrArg _ (if_neg ?_)
  rw [Bool.and_eq_true, beq_iff_eq, not_and_or, Bool.not_eq_true]
  exact hr

end

theorem mget_mdel_self {α : Type} [Inhabited α] (m : SMap α) (k : Nat) : mget (mdel m k) k = default := by
  rw [mget, mgetD, mfind_mdel_self]; rfl

theorem mget_mdel_ne {α : Type} [Inhabited α] (m : SMap α) {k i : Nat} (h : i ≠ k) : mget (mdel m k) i = mget m i := by
  rw [mget, mgetD, mfind_mdel_ne _ h]; rfl

/-! ### Seals (R95) -/

section

variable {s : State} {j : Nat} {x : Job} (h : dispatchedAs s j 0x36 x)

include h

theorem execSeal_waits (ho : ownGroup s x.ctx (bits (d8 x.desc 0x20) 0 8) = true)
    (he : d4 x.desc 0x24 = (groupOf s (bits (d8 x.desc 0x20) 0 8)).active + 1) :
    execSeal j s = .next (awaitJob (updGroup (begun s) (bits (d8 x.desc 0x20) 0 8) (fun y => { y with sealJobs := y.sealJobs ++ [j] })) j) := by
  rw [execSeal, runJob_at _ h]
  refine congrArg _ (if_pos ?_)
  rw [Bool.and_eq_true, beq_iff_eq]
  exact ⟨ho, he⟩

theorem execSeal_refused (hr : ownGroup s x.ctx (bits (d8 x.desc 0x20) 0 8) = false ∨
    d4 x.desc 0x24 ≠ (groupOf s (bits (d8 x.desc 0x20) 0 8)).active + 1) : execSeal j s = .next (finishJob (begun s) j 0x0A06) := by
  rw [execSeal, runJob_at _ h]
  refine congrArg _ (if_neg ?_)
  rw [Bool.and_eq_true, beq_iff_eq, not_and_or, Bool.not_eq_true]
  exact hr

end

/-- R95: the staging epoch is sealed, and no seal waits. -/
def sealedGroup (s : State) (g : Nat) : State := updGroup s g (fun y => { y with staging := .sealed, sealJobs := [] })

/-- R95: the only seal of a group is complete once it is ready. -/
theorem execSealComplete_one {s : State} {g j : Nat} (hj : (groupOf s g).sealJobs = [j]) (hr : sealReady s g j = true) :
    execSealComplete g s = .next (finishJob (armFlip (sealedGroup s g) g) j 0) := by
  have hs : updGroup s g (fun y => { y with staging := .sealed, sealJobs := y.sealJobs.filter (fun i => i ∉ [j]) }) = sealedGroup s g := by
    rw [sealedGroup, updGroup, updGroup, hj, List.filter_cons_of_neg (by simp), List.filter_nil]
  have hf : (groupOf s g).sealJobs.filter (sealReady s g) = [j] := by
    rw [hj, List.filter_cons_of_pos hr, List.filter_nil]
  rw [execSealComplete]
  simp only [hf]
  rw [hs]
  rfl

theorem armFlip_jobs (s : State) (g j : Nat) : jobOf (armFlip s g) j = jobOf s j := by
  rw [armFlip]
  split
  · split
    · exact jobOf_updGroup ..
    · rfl
  · rfl

theorem armFlip_unannounced {s : State} {g : Nat} (h : (groupOf s g).announced = none) : armFlip s g = s := by
  rw [armFlip, h]

/-- R104: a group that is sealed before its announced tick is armed. -/
theorem armFlip_arms {s : State} {g e tf d : Nat} (h : (groupOf s g).announced = some (e, tf, d)) (ha : (groupOf s g).armed = none)
    (hs : (groupOf s g).staging = .sealed) (ht : s.time.tick < tf) :
    armFlip s g = updGroup s g (fun y => { y with armed := some (tf, d) }) := by
  have hn : now s < tf := ht
  rw [armFlip, h, ha, hs]
  exact if_pos (by rw [decide_eq_true hn]; rfl)

theorem sealedGroup_jobs (s : State) (g j : Nat) : jobOf (sealedGroup s g) j = jobOf s j := jobOf_updGroup ..

theorem groupOf_sealedGroup (s : State) (g : Nat) :
    groupOf (sealedGroup s g) g = { groupOf s g with staging := .sealed, sealJobs := [] } := groupOf_updGroup_self ..

theorem groupOf_armFlip_sealed {s : State} {g e tf d : Nat} (h : (groupOf s g).announced = some (e, tf, d))
    (ha : (groupOf s g).armed = none) (ht : s.time.tick < tf) :
    groupOf (armFlip (sealedGroup s g) g) g = { groupOf s g with staging := .sealed, sealJobs := [], armed := some (tf, d) } := by
  have hg := groupOf_sealedGroup s g
  rw [armFlip_arms (e := e) (by rw [hg]; exact h) (by rw [hg]; exact ha) (by rw [hg]) (by rw [sealedGroup, updGroup_time]; exact ht),
    groupOf_updGroup_self, hg]

/-! ### Flips (R103) -/

/-- R103: the release delay of a flip, its default where the operand is 0. -/
def flipDelay (d : Desc) : Nat := if d8 d 0x30 = 0 then 1048576 else d8 d 0x30

/-- R103: what the coordinator refuses of a flip that is not too early: the group, its state, the epoch or the delay. -/
def flipRefused (s : State) (x : Job) : Prop :=
  let y := groupOf s (bits (d8 x.desc 0x20) 0 8)
  ownGroup s x.ctx (bits (d8 x.desc 0x20) 0 8) = false ∨ y.armed ≠ none ∨ d4 x.desc 0x24 ≠ y.active + 1 ∨ 2 ^ 32 ≤ y.active + 1 ∨
    flipDelay x.desc < 2 * domainB s

theorem flipRefused_iff (s : State) (x : Job) : flipRefused s x ↔
    (let y := groupOf s (bits (d8 x.desc 0x20) 0 8)
     !ownGroup s x.ctx (bits (d8 x.desc 0x20) 0 8) || y.armed.isSome || d4 x.desc 0x24 != y.active + 1 || decide (2 ^ 32 ≤ y.active + 1) ||
       decide (flipDelay x.desc < 2 * domainB s)) = true := by
  simp only [flipRefused, Bool.or_eq_true, Bool.not_eq_true', bne_iff_ne, decide_eq_true_eq, Option.isSome_iff_ne_none, or_assoc]

section

variable {s : State} {j tk : Nat} {x : Job} (h : dispatchedAs s j 0x37 x) (hk : x.start = some tk)

include h hk

theorem execFlip_early (ht : d8 x.desc 0x28 < tk + domainB s) : execFlip j s = .next (finishJob (begun s) j 0x0A01) := by
  rw [execFlip, runJob_at _ h]
  refine congrArg _ (if_pos ?_)
  rw [hk]
  exact ht

theorem execFlip_refused (ht : tk + domainB s ≤ d8 x.desc 0x28) (hr : flipRefused s x) :
    execFlip j s = .next (finishJob (begun s) j 0x0A06) := by
  rw [execFlip, runJob_at _ h]
  refine congrArg _ ((if_neg ?_).trans (if_pos ((flipRefused_iff s x).1 hr)))
  rw [hk]
  exact Nat.not_lt.2 ht

theorem execFlip_announces (ht : tk + domainB s ≤ d8 x.desc 0x28) (hr : ¬ flipRefused s x) :
    let g := bits (d8 x.desc 0x20) 0 8
    let epoch := d4 x.desc 0x24
    execFlip j s = .next (announceFlip (awaitJob (updGroup
      (ctlSend (begun s) 2 0xFFFF (g + epoch * 2 ^ 32) (d8 x.desc 0x28) (flipDelay x.desc % 2 ^ 32)) g
      (fun y => { y with flipJobs := y.flipJobs ++ [j] })) j) g epoch (d8 x.desc 0x28) (flipDelay x.desc)) := by
  rw [execFlip, runJob_at _ h]
  refine congrArg _ ((if_neg ?_).trans (if_neg (mt (flipRefused_iff s x).2 hr)))
  rw [hk]
  exact Nat.not_lt.2 ht

end

/-- R103: nothing is refused of a flip for the next epoch of its own group that is not armed, with a delay of at least 2B. -/
theorem not_flipRefused {s : State} {x : Job} (ho : ownGroup s x.ctx (bits (d8 x.desc 0x20) 0 8) = true)
    (ha : (groupOf s (bits (d8 x.desc 0x20) 0 8)).armed = none)
    (he : d4 x.desc 0x24 = (groupOf s (bits (d8 x.desc 0x20) 0 8)).active + 1)
    (hl : (groupOf s (bits (d8 x.desc 0x20) 0 8)).active + 1 < 2 ^ 32) (hd : 2 * domainB s ≤ flipDelay x.desc) : ¬ flipRefused s x := by
  rintro (h | h | h | h | h)
  · exact Bool.false_ne_true (h.symm.trans ho)
  · exact h ha
  · exact h he
  · exact absurd hl (Nat.not_lt.2 h)
  · exact absurd hd (Nat.not_le.2 h)

/-- Settles O29, from one lemma for each case of each command. -/
theorem updateCommands : Obligations.UpdateCommands := by
  intro s j x
  refine ⟨fun h => ⟨execBindStream_refused h, fun hb ho => ⟨_, execBindStream_binds h hb ho, ?_, ?_, fun k hk => ?_⟩⟩,
    fun h => ⟨fun hb hc => ⟨_, execUnbindStream_unbinds h hb hc, ?_, ?_, fun k hk => ?_⟩, execUnbindStream_refused h⟩,
    fun h => ⟨fun ho he => ⟨_, execSeal_waits h ho he, ?_, ?_⟩, execSeal_refused h⟩,
    fun g hj hr hx hw => ⟨_, execSealComplete_one hj hr, ?_, fun ha => ?_, fun e tf d ha hn ht => ?_⟩,
    fun tk h hk => ⟨execFlip_early h hk, fun ht hr => execFlip_refused h hk ht (hr.imp_right (.imp_right .inl)),
      fun ht ho ha he hl hd => execFlip_announces h hk ht (not_flipRefused ho ha he hl hd)⟩⟩
  · exact doneWith_finish _ j x 0 (dispatched_not_done h).1 (dispatched_not_done h).2
  · rw [finishJob_upd]; exact mget_mset_self ..
  · rw [finishJob_upd]; exact mget_mset_ne _ _ hk
  · exact doneWith_finish _ j x 0 (dispatched_not_done h).1 (dispatched_not_done h).2
  · rw [finishJob_upd]; exact mget_mdel_self ..
  · rw [finishJob_upd]; exact mget_mdel_ne _ hk
  · rw [groupOf_awaitJob, groupOf_updGroup_self, groupOf_begun]
  · exact jobOf_awaitJob_self _ j x (by rw [jobOf_updGroup]; exact (dispatched_not_done h).1) (dispatched_not_done h).2
  · exact doneWith_finish _ j x 0 (by rw [armFlip_jobs, sealedGroup_jobs, hx]) (by rw [hw]; decide)
  · rw [groupOf_finishJob, armFlip_unannounced (by rw [groupOf_sealedGroup]; exact ha), groupOf_sealedGroup]
  · rw [groupOf_finishJob, groupOf_armFlip_sealed ha hn ht]

end Sys2Proof.Proofs

/-! The matrix arrays: tiles at issue and at completion, selections (R114 to R164); the canonical form of the memories. -/

namespace Sys2Proof.Proofs

open Sys2Proof Sys2Proof.Machine

/-! ### The canonical form of every memory (R112, R304, R334, R373, R387) -/

theorem memOk_dequeued {s : State} (h : memOk s) (rest : List Instr) : memOk { s with pending := rest } := h

/-- Settles O59: an edge and a command keep the canonical form. -/
theorem memoriesStayCanonical : Obligations.MemoriesStayCanonical := by
  intro s t h hs
  cases hp : s.pending with
  | nil =>
    rw [step, hp] at hs
    exact nextMemOk_elim (.next (memOk_blockEdge s h)) hs
  | cons c rest =>
    rw [step_cons hp] at hs
    exact nextMemOk_elim (memOk_exec c _ (memOk_dequeued h rest)) hs

/-! ### Issue of a tile (R115, R117, R161) -/

/-- Loading a tile's weights leaves a part of the core alone that is no weight plane. -/
theorem loadWeights_keeps {α : Type} (p : Core → α)
    (hp : ∀ (k : Core) (a b c d : List Host.Cell), p { k with planeA := a, shadowA := b, planeB := c, shadowB := d } = p k)
    (k : Core) (w : Win) (f : TileFields) : p (loadWeights k w f) = p k :=
  (hp (loadWeights k w f) k.planeA k.shadowA k.planeB k.shadowB).symm.trans (congrArg p (loadWeights_frame k w f))

theorem tileQueueFull_nil {k : Core} (h : k.tiles = []) (f : TileFields) : tileQueueFull k f = false := by
  rw [tileQueueFull, h, List.any_eq_false]
  simp

theorem exec_tileCmd_at {mode : TileMode} {c : Nat} {dw : Bool} {f : TileFields} {s : State}
    (h : atCommand s c (tileCmd mode c dw f .good)) : exec (tileCmd mode c dw f .good) s = .next (tileIssue mode f c s) := by
  rw [exec_tileCmd, tileExec, issue_at _ _ _ _ _ _ h]
  rfl

/-- R125, R162: the geometry with which a tile issues. -/
def issueGeo (k : Core) (mode : TileMode) (f : TileFields) : Option ConvGeo :=
  if mode = .convolution then convGeo (gReg k f.xg) else none

/-- R122: core `k` with its weights loaded and the tile among those issued. -/
def withTile (k : Core) (w : Win) (mode : TileMode) (f : TileFields) : Core :=
  let k' := loadWeights k w f
  { k' with tiles := k'.tiles ++ [tileRecord k' w mode f (issueGeo k mode f)] }

theorem coreKeep_withTile (k : Core) (w : Win) (mode : TileMode) (f : TileFields) : coreKeep k (withTile k w mode f) :=
  ⟨loadWeights_keeps Core.part (fun _ _ _ _ _ => rfl) .., loadWeights_keeps Core.prog (fun _ _ _ _ _ => rfl) ..,
    loadWeights_keeps Core.pc (fun _ _ _ _ _ => rfl) .., loadWeights_keeps Core.task (fun _ _ _ _ _ => rfl) ..⟩

/-- R122: a tile on a core with none in flight is the only one. -/
theorem withTile_of_idle {k : Core} (h : k.tiles = []) (w : Win) (mode : TileMode) (f : TileFields) : withTile k w mode f =
    { loadWeights k w f with tiles := [tileRecord (loadWeights k w f) w mode f (issueGeo k mode f)] } := by
  rw [withTile, loadWeights_keeps Core.tiles (fun _ _ _ _ _ => rfl), h, List.nil_append]

/-- R4: the block has the hardware of a mode. -/
theorem mode_present {s : State} {mode : TileMode} (h : variantOf s = .jujorS → isDistance mode = false) :
    ¬ (variantOf s = .jujorS ∧ isDistance mode = true) := fun ⟨hv, hm⟩ => Bool.false_ne_true ((h hv).symm.trans hm)

/-- R145: counting gated cube-ticks, where there are any, changes the register file alone. -/
theorem countGatedTicks_shape (s : State) (n : Nat) : ∃ r, (if n = 0 then s else addF64 s mfGatedLo n) = { s with regs := r } := by
  split <;> exact ⟨_, rfl⟩

/-- R154, R161: a tile whose fields are not legal in its mode is a program fault. -/
theorem tileIssue_illegal {mode : TileMode} {f : TileFields} {c : Nat} {s : State}
    (hd : variantOf s = .jujorS → isDistance mode = false) (hl : tileLegal mode f = false) :
    tileIssue mode f c s = programFault s c := by
  rw [tileIssue]
  exact (if_neg (mode_present hd)).trans (if_pos (.inl hl))

/-- R115, R145: a legal tile whose queue has room is issued; only the gated cube-ticks are counted beside it. -/
theorem tileIssue_legal {mode : TileMode} {f : TileFields} {c : Nat} {s : State}
    (hd : variantOf s = .jujorS → isDistance mode = false) (hl : tileLegal mode f = true)
    (hg : mode = .convolution → convGeo (gReg (coreOf s c) f.xg) ≠ none) (hs : f.dest = 4 ∨ f.dest = 5 → (coreOf s c).sel ≠ none)
    (hq : tileQueueFull (coreOf s c) f = false) :
    ∃ r, tileIssue mode f c s = advance { putCore s c (withTile (coreOf s c) (winOf s c) mode f) with regs := r } c := by
  have hok : ¬ (tileLegal mode f = false ∨ (mode = .convolution ∧ issueGeo (coreOf s c) mode f = none) ∨
      ((f.dest = 4 ∨ f.dest = 5) ∧ (coreOf s c).sel = none)) := by
    rintro (h | ⟨hm, h⟩ | ⟨hf, h⟩)
    · exact Bool.false_ne_true (h.symm.trans hl)
    · rw [issueGeo, if_pos hm] at h
      exact hg hm h
    · exact hs hf h
  have hroom : ¬ tileQueueFull (coreOf s c) f = true := by rw [hq]; exact Bool.false_ne_true
  obtain ⟨r, hr⟩ := countGatedTicks_shape (putCore s c (withTile (coreOf s c) (winOf s c) mode f))
    (if getF s mfZeroGateEn = 1 then tileGated (loadWeights (coreOf s c) (winOf s c) f) (winOf s c) mode f else 0)
  refine ⟨r, ?_⟩
  rw [tileIssue]
  exact (if_neg (mode_present hd)).trans ((if_neg hok).trans ((if_neg hroom).trans (congrArg (advance · c) hr)))

/-- R151: a core that keeps its place goes on after an issue, whatever the issue did to the register file. -/
theorem advance_issued {s : State} {c : Nat} {k : Core} (hk : coreKeep (coreOf s c) k) (r : SMap W32) (hl : legalAt s c (nextPc s c)) :
    advance { putCore s c k with regs := r } c = goneOn { putCore s c k with regs := r } c k (nextPc s c) := by
  obtain ⟨hpart, hprog, hpc, -⟩ := hk
  have hc : coreOf { putCore s c k with regs := r } c = k := coreOf_putCore_self s c k
  have hn : nextPc { putCore s c k with regs := r } c = nextPc s c := by rw [nextPc, hc, hpc, nextPc]
  have hl' : legalAt { putCore s c k with regs := r } c (nextPc s c) :=
    (legalAt_congr rfl rfl rfl).2 ((legalAt_putCore s c _ k hpart hprog).2 hl)
  rw [advance_goneOn _ _ (by rw [hn]; exact hl'), hc, hn]

/-- Settles O6, from the two outcomes of `tileIssue`. -/
theorem tileIssues : Obligations.TileIssues := by
  refine ⟨fun s c dw mode f h hl ht hg hd hs => ?_, fun s c dw mode f h hd ht => ?_⟩
  · have he := exec_tileCmd_at h
    obtain ⟨-, -, -, htiles, -⟩ := h
    obtain ⟨r, hr⟩ := tileIssue_legal hd ht hg hs (tileQueueFull_nil htiles f)
    rw [hr, advance_issued (coreKeep_withTile ..) r hl, withTile_of_idle htiles] at he
    exact ⟨_, _, he, rfl, rfl, goneOn_core .., loadWeights_frame ..,
      fun d hne => (goneOn_ne _ _ _ _ _ hne).trans (coreOf_putCore_ne _ _ hne), rfl⟩
  · rw [exec_tileCmd_at h, tileIssue_illegal hd ht, programFault, partOfCore]

/-! ### Completion of a tile (R115, R123, R131) -/

/-- R115, R134: completing a tile puts its drained core back and counts; the counters are registers and telemetry. -/
theorem completeTile_shape {s : State} {c : Nat} {t : Tile} {rest : List Tile} (h : (coreOf s c).tiles = t :: rest) :
    ∃ r y, completeTile s c =
      { putCore s c (drainTile (winOf s c) t { coreOf s c with tiles := rest }).core with regs := r, health := y } := by
  rw [completeTile, h]
  dsimp only
  split <;> split <;> exact ⟨_, _, rfl⟩

theorem clampInt_eq (lo hi v : Int) (h : lo ≤ hi) : clampInt lo hi v = max lo (min hi v) := by
  rw [clampInt]
  split
  · omega
  · split <;> omega

/-- R130, R131: an integer sum saturates to 32 bits. -/
theorem accumulate_int {t : Tile} (hi : t.intResult = true) (hx : t.mode ≠ .maxPlus) (hn : t.mode ≠ .minPlus) (old new : BitVec 32) :
    (accumulate t old new).1 = BitVec.ofInt 32 (max (-(2 ^ 31)) (min (2 ^ 31 - 1) (old.toInt + new.toInt))) := by
  rw [accumulate, if_pos hi]
  split
  next h => exact absurd h hx
  next h => exact absurd h hn
  next => exact congrArg (BitVec.ofInt 32) (clampInt_eq _ _ _ (by decide))

theorem tileAdds_iff (t : Tile) : tileAdds t = true ↔ t.fields.dest = 1 ∨ t.fields.dest = 2 ∨ t.fields.dest = 5 := by
  rw [tileAdds, decide_eq_true_eq]

theorem drainValue_raw {t : Tile} (h : ¬ tileAdds t = true) (w : Win) (x m n : Nat) (k : Core) :
    drainValue w t x m n k = (mget t.raw (256 * m + 128 * x + n), false) := if_neg h

theorem drainValue_sum {t : Tile} (h : tileAdds t = true) (w : Win) (x m n : Nat) (k : Core) : drainValue w t x m n k =
    accumulate t (BitVec.ofNat 32 (rdLE k.acc (drainAddr w t x m n) 4)) (mget t.raw (256 * m + 128 * x + n)) := if_pos h

section

variable {w : Win} {t : Tile} {x m n : Nat} {d : Drain}

theorem drainOne_acc_written (h : (tileAdds t || t.fields.dest == 0) = true) :
    (drainOne w t x m n d).core.acc = wrLE d.core.acc (drainAddr w t x m n) 4 (drainValue w t x m n d.core).1.toNat := by
  rw [drainOne_acc, drainAcc, if_pos h]

theorem drainOne_acc_kept (h : ¬ (tileAdds t || t.fields.dest == 0) = true) : (drainOne w t x m n d).core.acc = d.core.acc := by
  rw [drainOne_acc, drainAcc, if_neg h]

theorem drainOne_acc_outside {a : Nat} (h : a < drainAddr w t x m n ∨ drainAddr w t x m n + 4 ≤ a) :
    rd8 (drainOne w t x m n d).core.acc a = rd8 d.core.acc a := by
  by_cases hw : (tileAdds t || t.fields.dest == 0) = true
  · rw [drainOne_acc_written hw, rd8_wrLE_outside _ _ _ _ _ h]
  · rw [drainOne_acc_kept hw]

theorem drainOne_acc_raw (h : t.fields.dest = 0) :
    rdLE (drainOne w t x m n d).core.acc (drainAddr w t x m n) 4 = (mget t.raw (256 * m + 128 * x + n)).toNat := by
  have ha : ¬ tileAdds t = true := by rw [tileAdds_iff]; omega
  rw [drainOne_acc_written (by rw [h]; exact Bool.or_true _), rdLE_wrLE32, drainValue_raw ha]

theorem drainOne_acc_sum (h : tileAdds t = true) :
    rdLE (drainOne w t x m n d).core.acc (drainAddr w t x m n) 4 =
      (accumulate t (BitVec.ofNat 32 (rdLE d.core.acc (drainAddr w t x m n) 4)) (mget t.raw (256 * m + 128 * x + n))).1.toNat := by
  rw [drainOne_acc_written (by rw [h]; rfl), rdLE_wrLE32, drainValue_sum h]

end

/-- Settles O7, from the frame of a tile's drain and what the drain of an output leaves in the accumulator. -/
theorem tileCompletes : Obligations.TileCompletes := by
  refine ⟨fun s c t rest hc ht => ?_, fun w t x m n d hi hx hn =>
    ⟨drainOne_acc_raw, fun hd => ?_, fun hd => ?_, fun _ => drainOne_acc_outside⟩⟩
  · obtain ⟨r, y, hs⟩ := completeTile_shape ht
    obtain ⟨htiles, hpc, hg, hprog, hweight⟩ := drainTile_frame (winOf s c) t { coreOf s c with tiles := rest }
    have hk := coreOf_putCore_self s c (drainTile (winOf s c) t { coreOf s c with tiles := rest }).core
    refine ⟨_, (if_neg (Nat.not_le.2 hc)).trans (congrArg _ hs), (congrArg Core.tiles hk).trans htiles, (congrArg Core.pc hk).trans hpc,
      (congrArg Core.g hk).trans hg, (congrArg Core.prog hk).trans hprog, (congrArg Core.weight hk).trans hweight,
      fun e he => coreOf_putCore_ne _ _ he, rfl, rfl, rfl⟩
  · rw [← accumulate_int hi hx hn]
    exact drainOne_acc_sum ((tileAdds_iff t).2 hd)
  · refine drainOne_acc_kept ?_
    rw [Bool.or_eq_true, tileAdds_iff, beq_iff_eq]
    omega

/-! ### Selections (R139 to R143, R164) -/

theorem offerList_length_le (sel : Selection) (l : List (BitVec 32 × BitVec 32)) (x : BitVec 32 × BitVec 32) :
    (offerList sel l x).length ≤ sel.k := List.length_take_le ..

theorem mget_mput_self {α : Type} [Inhabited α] (m : SMap α) (k : Nat) (v : α) : mget (mput m k v) k = v := by
  rw [mget, mgetD, mfind_mput_self]; rfl

theorem mget_mput_ne {α : Type} [Inhabited α] (m : SMap α) {k i : Nat} (v : α) (h : i ≠ k) : mget (mput m k v) i = mget m i := by
  rw [mget, mgetD, mfind_mput_ne m v h]; rfl

/-- R140: no list exceeds k after an offer. -/
theorem offer_lists_length_le {sel : Selection} (l : Nat) (x : BitVec 32 × BitVec 32) (h : ∀ i, (mget sel.lists i).length ≤ sel.k)
    (i : Nat) : (mget (offer sel l x).lists i).length ≤ sel.k := by
  rw [offer]
  split
  · exact h i
  · by_cases e : i = l
    · subst e
      rw [mget_mput_self]
      exact offerList_length_le ..
    · rw [mget_mput_ne _ _ e]
      exact h i

theorem coreKeep_emitPairsTo (k : Core) (w : Win) (sel : Selection) (base : Nat) : coreKeep k (emitPairsTo k w sel base) :=
  iter_inv (coreKeep k) _ _ _ (.refl k) fun _ _ h => h.trans (coreKeep_coreWrN ..)

/-- R139, R164: the selection that select-begin opens, its lists empty. -/
def newSelection (k : Core) (f : SelectFields) : Selection :=
  { largest := f.largest, int32 := f.int32, k := f.k, rows := f.rows, rowBase := f.rowBase, idOffset := gReg k f.a, padId := gReg k f.b }

/-- A core that keeps its place, with or without the pairs of its selection emitted. -/
theorem coreKeep_emitted (k : Core) (w : Win) (sel : Selection) (base : Nat) (pairs : Bool) :
    coreKeep k (if pairs then emitPairsTo k w sel base else k) := by
  split
  · exact coreKeep_emitPairsTo ..
  · exact .refl k

section

variable {s : State} {c : Nat} {dw : Bool}

/-- R151: an instruction that keeps a core's place changes the core and goes on. -/
theorem updCoreNext_keep {f : Core → Core} {i : Instr} (h : atCommand s c i) (hl : legalAt s c (nextPc s c))
    (hk : coreKeep (coreOf s c) (f (coreOf s c))) : updCoreNext s c f = goneOn s c (f (coreOf s c)) (nextPc s c) := by
  obtain ⟨-, htask, -, -, -⟩ := h
  obtain ⟨hpart, hprog, hpc, ht⟩ := hk
  exact updCoreNext_goneOn s c f hpart hprog hpc (by rw [ht, htask]) hl

variable (hl : legalAt s c (nextPc s c))

include hl

theorem exec_selectBegin {f : SelectFields} (h : atCommand s c (.selectBegin c dw f)) (hn : (coreOf s c).sel = none)
    (hk : f.rows * f.k ≤ 65536) :
    exec (.selectBegin c dw f) s = .next (goneOn s c { coreOf s c with sel := some (newSelection (coreOf s c) f) } (nextPc s c)) := by
  rw [exec, execSelectBegin, issue_at _ _ _ _ _ _ h]
  refine congrArg _ ((if_neg ?_).trans (updCoreNext_keep h hl ⟨rfl, rfl, rfl, rfl⟩))
  rw [hn, Bool.or_eq_true, decide_eq_true_eq]
  exact not_or.2 ⟨Bool.false_ne_true, Nat.not_lt.2 hk⟩

theorem exec_selectEnd {pairs : Bool} {outAddr stream : Nat} {sel : Selection}
    (h : atCommand s c (.selectEnd c dw pairs false outAddr stream .good)) (hs : (coreOf s c).sel = some sel) :
    exec (.selectEnd c dw pairs false outAddr stream .good) s =
      .next (goneOn s c { (if pairs then emitPairsTo (coreOf s c) (winOf s c) sel (64 * outAddr) else coreOf s c) with sel := none }
        (nextPc s c)) := by
  have ht : ¬ (coreOf s c).tiles.any (fun t => t.fields.dest == 4 || t.fields.dest == 5) = true := by
    obtain ⟨-, -, -, htiles, -⟩ := h
    rw [htiles]
    exact Bool.false_ne_true
  rw [exec, execSelectEnd, issue_at _ _ _ _ _ _ h]
  refine congrArg _ ((if_neg ht).trans ?_)
  rw [coreEcc, selectClose, hs]
  exact updCoreNext_keep (f := fun k => { (if pairs then emitPairsTo k (winOf s c) sel (64 * outAddr) else k) with sel := none }) h hl
    (coreKeep_emitted ..)

theorem exec_merge {srcAddr n : Nat} {sel : Selection} (h : atCommand s c (.merge c dw srcAddr n .good))
    (hs : (coreOf s c).sel = some sel) :
    exec (.merge c dw srcAddr n .good) s =
      .next (goneOn s c { coreOf s c with sel := some (mergePairs (coreOf s c) (winOf s c) sel (64 * srcAddr) (n + 1)) }
        (nextPc s c)) := by
  rw [exec, execMerge, issue_at _ _ _ _ _ _ h]
  refine congrArg _ ?_
  rw [coreEcc]
  dsimp only
  rw [hs]
  exact updCoreNext_keep h hl ⟨rfl, rfl, rfl, rfl⟩

end

/-- Settles O8, from one lemma for each of the three commands and the length of the lists after an offer. -/
theorem selectionLife : Obligations.SelectionLife :=
  ⟨fun _ _ _ _ _ _ _ _ _ hl => ⟨fun h hn hk => exec_selectBegin hl h hn hk, fun h _ hs => exec_selectEnd hl h hs,
    fun h _ hs => exec_merge hl h hs⟩, fun _ l x h => offer_lists_length_le l x h⟩

end Sys2Proof.Proofs

/-! The words of the core instructions, read back (R159 to R173). -/

namespace Sys2Proof.Proofs

open Sys2Proof Sys2Proof.Machine

/-! ### Words of one layout with many operations (R160, R161, R165) -/

/-- R165: the fields of a vector instruction's word, none of them reserved. -/
structure VectorWord (w op : Nat) (dw : Bool) (f : VecFields) : Prop where
  legal : ¬ (w / 2 ^ 94 ≠ 0 ∨ vecLegal op f = false)
  op : bits w 4 8 = op
  dw : bit w 12 = dw
  fields : vecFieldsOf w = f

/-- R165: what a vector instruction's word decodes to is read off its fields. -/
theorem decodeCore_encVec {c op : Nat} {dw : Bool} {f : VecFields} {r : Option Instr} (ho : op < 256) (hf : f.wf = true)
    (hl : vecLegal op f = true) (hr : ∀ w, VectorWord w op dw f → decodeVector c w = r) : decodeCore c (encVec op dw f) = r := by
  obtain ⟨hd, hop, hdw, htop⟩ := decode_encVec c op dw f ho
  rw [hd]
  exact hr _ ⟨by rw [htop, hl]; decide, hop, hdw, vecFieldsOf_encVec op dw f hf⟩

/-- R161: the fields of a tile instruction's word, none of them reserved. -/
structure TileWord (w op : Nat) (dw : Bool) (f : TileFields) : Prop where
  legal : ¬ (f.arrays = 0 ∨ 5 < f.dest ∨ 0xD < f.fmtA ∨ 0xD < f.fmtW)
  op : bits w 4 8 = op
  dw : bit w 12 = dw
  fields : tileFieldsOf w = f

/-- R161: what a tile instruction's word decodes to is read off its fields. -/
theorem decodeCore_encTile {c op : Nat} {dw : Bool} {f : TileFields} {r : Option Instr} (ho : op < 256) (hf : f.wf = true)
    (hr : ∀ w, TileWord w op dw f → decodeTile c w = r) : decodeCore c (encTile op dw f) = r := by
  obtain ⟨hd, hop, hdw⟩ := decode_encTile c op dw f ho
  rw [hd]
  exact hr _ ⟨tile_legal f hf, hop, hdw, tileFieldsOf_encTile op dw f hf⟩

/-- R160: the fields of a control instruction's word, none of its reserved bits set. -/
structure ControlWord (w op : Nat) (dw : Bool) (d a b cond target imm : Nat) : Prop where
  legal : ¬ (bits w 28 4 ≠ 0 ∨ bits w 46 18 ≠ 0)
  op : bits w 4 8 = op
  dw : bit w 12 = dw
  d : bits w 13 4 = d
  a : bits w 17 4 = a
  b : bits w 21 4 = b
  cond : bits w 25 3 = cond
  target : bits w 32 14 = target
  imm : BitVec.ofNat 64 (bits w 64 64) = BitVec.ofNat 64 imm

/-- R160: what a control instruction's word decodes to is read off its fields. -/
theorem decodeCore_encControl {c op d a b cond target imm : Nat} {dw : Bool} {r : Option Instr} (ho : op < 256)
    (hf : d < 16 ∧ a < 16 ∧ b < 16 ∧ cond < 8 ∧ target < 16384)
    (hr : ∀ w, ControlWord w op dw d a b cond target imm → decodeControl c w = r) :
    decodeCore c (encControl op dw d a b cond target imm) = r := by
  obtain ⟨hd, ha, hb, hc, ht⟩ := hf
  have hclass : bits (encControl op dw d a b cond target imm) 0 4 = 0 := bits_pack_here _ _ _ _ rfl
  have himm : BitVec.ofNat 64 (imm % 18446744073709551616) = BitVec.ofNat 64 imm := BitVec.eq_of_toNat_eq (by simp)
  rw [decodeCore, hclass]
  refine hr _ ?_
  constructor <;>
    simp [encControl, bits_pack_here, bits_pack_skip, bit_pack_here, bit_pack_skip, b2n_bit, Nat.mod_eq_of_lt, *]

/-! ### Words with a layout of their own (R164, R168 to R173) -/

/-- A packed word lies below every bound that its fields' widths do not reach. -/
theorem pack_lt_of {l : List (Nat × Nat)} {n : Nat} (h : 2 ^ (l.map (·.1)).sum ≤ n) : pack l < n := Nat.lt_of_lt_of_le (pack_lt l) h

section

variable (c : Nat) (dw : Bool)

theorem decodeCore_selectBegin {f : SelectFields} (h : f.wf = true) : decodeCore c (encSelect dw f) = some (.selectBegin c dw f) := by
  obtain ⟨hk, hk', hr, hr', hb, ha, hp⟩ := of_decide_eq_true h
  have hkm : f.k % 512 = f.k := Nat.mod_eq_of_lt (by omega)
  have hrm : f.rows % 131072 = f.rows := Nat.mod_eq_of_lt (by omega)
  have hbm : f.rowBase % 16384 = f.rowBase := Nat.mod_eq_of_lt hb
  have hk0 : f.k ≠ 0 := by omega
  have hr0 : f.rows ≠ 0 := by omega
  simp [encSelect, decodeCore, decodeSelect, bits_pack_here, bits_pack_skip, bit_pack_here, bit_pack_skip, b2n_bit, pack_lt_of,
    Nat.mod_eq_of_lt, *]

theorem decodeCore_selectEnd {outAddr stream : Nat} (pairs ids : Bool) (ho : outAddr < 32768) (hs : stream < 65536) :
    decodeCore c (pack [(4, 2), (8, 0x01), (1, b2n dw), (1, b2n pairs), (1, b2n ids), (15, outAddr), (16, stream)]) =
      some (.selectEnd c dw pairs ids outAddr stream .good) := by
  simp [decodeCore, decodeSelect, bits_pack_here, bits_pack_skip, bit_pack_here, bit_pack_skip, b2n_bit, pack_lt_of, Nat.mod_eq_of_lt, *]

theorem decodeCore_merge {srcAddr n : Nat} (ha : srcAddr < 32768) (hn : n < 65536) :
    decodeCore c (pack [(4, 2), (8, 0x02), (1, b2n dw), (15, srcAddr), (16, n)]) = some (.merge c dw srcAddr n .good) := by
  simp [decodeCore, decodeSelect, bits_pack_here, bits_pack_skip, bit_pack_skip, bit_pack_here, b2n_bit, pack_lt_of, Nat.mod_eq_of_lt, *]

theorem decodeCore_localMove {f : MoveFields} (h : f.wf = true) :
    decodeCore c (pack [(4, 4), (8, 0), (1, b2n dw), (3, f.srcSpace), (3, f.dstSpace), (22, f.srcAddr), (22, f.dstAddr), (22, f.length),
      (4, f.ab)]) = some (.localMove c dw f .good) := by
  obtain ⟨h, h'⟩ := Bool.and_eq_true_iff.1 h
  obtain ⟨hs, hs3, hd, hsa, hsm⟩ := of_decide_eq_true h
  obtain ⟨hda, hdm, hl, hl', hab⟩ := of_decide_eq_true h'
  have hss : f.srcSpace % 8 = f.srcSpace := Nat.mod_eq_of_lt (by omega)
  have hds : f.dstSpace % 8 = f.dstSpace := Nat.mod_eq_of_lt (by omega)
  have hlm : f.length % 4194304 = f.length := Nat.mod_eq_of_lt (by omega)
  have hsam : f.srcAddr % 4194304 = f.srcAddr := Nat.mod_eq_of_lt hsa
  have hdam : f.dstAddr % 4194304 = f.dstAddr := Nat.mod_eq_of_lt hda
  have hl0 : f.length ≠ 0 := by omega
  simp [decodeCore, decodeMove, bits_pack_here, bits_pack_skip, bit_pack_here, bit_pack_skip, b2n_bit, pack_lt_of, Nat.mod_eq_of_lt, *]

theorem decodeCore_tsend {stream space srcAddr ab : Nat} (hs : stream < 65536) (hp : space < 2) (ha : srcAddr < 4194304)
    (hm : srcAddr % 32 = 0) (hb : ab < 16) :
    decodeCore c (pack [(4, 5), (8, 0x00), (1, b2n dw), (16, stream), (2, space), (22, srcAddr), (4, ab)]) =
      some (.tsend c dw stream space srcAddr ab) := by
  have hpm : space % 4 = space := Nat.mod_eq_of_lt (by omega)
  have hp' : space ≤ 1 := by omega
  simp [decodeCore, decodeTimed, bits_pack_here, bits_pack_skip, bit_pack_here, bit_pack_skip, b2n_bit, pack_lt_of, Nat.mod_eq_of_lt, *]

theorem decodeCore_rarm {stream : Nat} (h : stream < 65536) :
    decodeCore c (pack [(4, 5), (8, 0x01), (1, b2n dw), (16, stream)]) = some (.rarm c dw stream) := by
  simp [decodeCore, decodeTimed, bits_pack_here, bits_pack_skip, bit_pack_here, bit_pack_skip, b2n_bit, pack_lt_of, Nat.mod_eq_of_lt, *]

theorem decodeCore_rwait {stream : Nat} (h : stream < 65536) :
    decodeCore c (pack [(4, 5), (8, 0x02), (1, b2n dw), (16, stream)]) = some (.rwait c dw stream) := by
  simp [decodeCore, decodeTimed, bits_pack_here, bits_pack_skip, bit_pack_here, bit_pack_skip, b2n_bit, pack_lt_of, Nat.mod_eq_of_lt, *]

theorem decodeCore_alloc {d order : Nat} (must : Bool) (hd : d < 16) (ho : 12 ≤ order) (ho' : order ≤ 24) :
    decodeCore c (pack [(4, 6), (8, 0x00), (1, b2n dw), (4, d), (5, order), (1, b2n must)]) = some (.alloc c dw d order must) := by
  have hm : order % 32 = order := Nat.mod_eq_of_lt (by omega)
  simp [decodeCore, decodeRest, bits_pack_here, bits_pack_skip, bit_pack_here, bit_pack_skip, b2n_bit, pack_lt_of, Nat.mod_eq_of_lt, *]

theorem decodeCore_free {a : Nat} (h : a < 16) :
    decodeCore c (pack [(4, 6), (8, 0x01), (1, b2n dw), (4, 0), (4, a)]) = some (.free c dw a) := by
  simp [decodeCore, decodeRest, bits_pack_here, bits_pack_skip, bit_pack_here, bit_pack_skip, b2n_bit, pack_lt_of, Nat.mod_eq_of_lt, *]

theorem decodeCore_fsig {fence a : Nat} (hf : fence < 1048576) (ha : a < 16) :
    decodeCore c (pack [(4, 7), (8, 0x00), (1, b2n dw), (20, fence), (4, a)]) = some (.fsig c dw fence a) := by
  simp [decodeCore, decodeRest, bits_pack_here, bits_pack_skip, bit_pack_here, bit_pack_skip, b2n_bit, pack_lt_of, Nat.mod_eq_of_lt, *]

theorem decodeCore_fwait {fence a : Nat} (ignore : Bool) (hf : fence < 1048576) (ha : a < 16) :
    decodeCore c (pack [(4, 7), (8, 0x01), (1, b2n dw), (20, fence), (4, a), (1, b2n ignore)]) = some (.fwait c dw fence a ignore) := by
  simp [decodeCore, decodeRest, bits_pack_here, bits_pack_skip, bit_pack_here, bit_pack_skip, b2n_bit, pack_lt_of, Nat.mod_eq_of_lt, *]

theorem decodeCore_yield : decodeCore c (pack [(4, 8), (8, 0x00), (1, b2n dw)]) = some (.yield c dw) := by
  simp [decodeCore, decodeRest, bits_pack_here, bits_pack_skip, bit_pack_here, bit_pack_skip, b2n_bit, pack_lt_of]

theorem decodeCore_lateFeatureTest {feature maskAddr ab : Nat} (mask : Bool) (hf : feature < 1024) (hm : maskAddr < 32768) (ha : ab < 16) :
    decodeCore c (pack [(4, 9), (8, 0x00), (1, b2n dw), (10, feature), (1, b2n mask), (15, maskAddr), (4, ab)]) =
      some (.lateFeatureTest c dw feature mask maskAddr ab) := by
  simp [decodeCore, decodeRest, bits_pack_here, bits_pack_skip, bit_pack_here, bit_pack_skip, b2n_bit, pack_lt_of, Nat.mod_eq_of_lt, *]

end

/-! ### The round trip -/

/-- R159: a well-formed core instruction reads back from its word. -/
def ReadsBack (i : Instr) : Prop :=
  ∀ w, i.wf = true → goodReads i = true → encodeCore i = some w → ∃ c, c < 64 ∧ decodeCore c w = some i

theorem readsBack_of_none {i : Instr} (h : encodeCore i = none) : ReadsBack i :=
  fun _ _ _ he => absurd (he.symm.trans h) (Option.some_ne_none _)

theorem readsBack_of_word {i : Instr} {c w : Nat} (he : encodeCore i = some w) (hc : i.unitsExist = true → c < 64)
    (h : i.encodable = true → goodReads i = true → decodeCore c w = some i) : ReadsBack i := by
  intro v hwf hg hv
  obtain ⟨hu, hn⟩ := Bool.and_eq_true_iff.1 hwf
  obtain rfl : w = v := Option.some.inj (he.symm.trans hv)
  exact ⟨c, hc hu, h hn hg⟩

/-- R159 to R173: the round trip, by the layout of the instruction's word. -/
theorem readsBack (i : Instr) : ReadsBack i := by
  cases i
  case controlNop c dw | sync c dw | halt c dw =>
    exact readsBack_of_word rfl of_decide_eq_true fun _ _ => decodeCore_encControl (by decide) (by decide)
      fun w h => by rw [decodeControl, if_neg h.legal, h.op, h.dw]; rfl
  case twait c dw imm =>
    exact readsBack_of_word rfl of_decide_eq_true fun _ _ => decodeCore_encControl (by decide) (by decide)
      fun w h => by simp only [decodeControl, if_neg h.legal, h.op, h.dw, h.imm, BitVec.ofNat_toNat, BitVec.setWidth_eq]
  case li c dw d imm | addi c dw d a imm =>
    exact readsBack_of_word rfl of_decide_eq_true fun hn _ => decodeCore_encControl (by decide) (by have := of_decide_eq_true hn; omega)
      fun w h => by simp only [decodeControl, if_neg h.legal, h.op, h.dw, h.d, h.a, h.imm, BitVec.ofNat_toNat, BitVec.setWidth_eq]
  case add c dw d a b | sub c dw d a b | cmp c dw a b | br c dw cond target | loop c dw a target | rdtick c dw d =>
    exact readsBack_of_word rfl of_decide_eq_true fun hn _ => decodeCore_encControl (by decide) (by have := of_decide_eq_true hn; omega)
      fun w h => by rw [decodeControl, if_neg h.legal, h.op, h.dw, h.d, h.a, h.b, h.cond, h.target]; rfl
  case tileMatrix c dw f ecc | tileL1 c dw f ecc | tileL2 c dw f ecc | tileDot c dw f ecc | tileHamming c dw f ecc |
      tileMaxPlus c dw f ecc | tileMinPlus c dw f ecc | tileConvolution c dw f ecc | tileEq c dw f ecc | tileNe c dw f ecc |
      tileLt c dw f ecc | tileLe c dw f ecc | tileGt c dw f ecc | tileGe c dw f ecc =>
    exact readsBack_of_word rfl of_decide_eq_true fun hn hg => by
      obtain rfl := eq_of_beq hg
      exact decodeCore_encTile (by decide) hn fun w h => by rw [decodeTile, h.fields, if_neg h.legal, h.op, h.dw]; rfl
  case selectBegin c dw f => exact readsBack_of_word rfl of_decide_eq_true fun hn _ => decodeCore_selectBegin c dw hn
  case selectEnd c dw pairs ids outAddr stream ecc =>
    exact readsBack_of_word rfl of_decide_eq_true fun hn hg => by
      obtain rfl := eq_of_beq hg
      obtain ⟨ho, hs⟩ := of_decide_eq_true hn
      exact decodeCore_selectEnd c dw pairs ids ho hs
  case merge c dw srcAddr n ecc =>
    exact readsBack_of_word rfl of_decide_eq_true fun hn hg => by
      obtain rfl := eq_of_beq hg
      obtain ⟨ha, hn⟩ := of_decide_eq_true hn
      exact decodeCore_merge c dw ha hn
  case vimm c dw f | vidx c dw f | fadd c dw f | fsub c dw f | fmul c dw f | ffma c dw f | fmax c dw f | fmin c dw f | fabs c dw f |
      fneg c dw f | frelu c dw f | fsel c dw f | flt c dw f | feq c dw f | fmuls c dw f | fadds c dw f | fexp2 c dw f | flog2 c dw f |
      frecip c dw f | frsqrt c dw f | fexp c dw f | fsigmoid c dw f | ftanh c dw f | fsum c dw f | fmaxr c dw f | fminr c dw f |
      iadd c dw f | isub c dw f | imul c dw f | imax c dw f | imin c dw f | ishl c dw f | ishr c dw f | cvtif c dw f | cvtfi c dw f =>
    exact readsBack_of_word rfl of_decide_eq_true fun hn _ => decodeCore_encVec (by decide) hn rfl
      fun w h => by rw [decodeVector, h.op, h.fields, if_neg h.legal, h.dw]; rfl
  case vst c dw f | mxst c dw f =>
    exact readsBack_of_word rfl of_decide_eq_true fun hn _ => by
      obtain ⟨hf, hl⟩ := Bool.and_eq_true_iff.1 hn
      exact decodeCore_encVec (by decide) hf hl fun w h => by rw [decodeVector, h.op, h.fields, if_neg h.legal, h.dw]; rfl
  case vld c dw f ecc =>
    exact readsBack_of_word rfl of_decide_eq_true fun hn hg => by
      obtain rfl := eq_of_beq hg
      obtain ⟨hf, hl⟩ := Bool.and_eq_true_iff.1 hn
      exact decodeCore_encVec (by decide) hf hl fun w h => by rw [decodeVector, h.op, h.fields, if_neg h.legal, h.dw]; rfl
  case localMove c dw f ecc =>
    exact readsBack_of_word rfl of_decide_eq_true fun hn hg => by
      obtain rfl := eq_of_beq hg
      exact decodeCore_localMove c dw hn
  case tsend c dw stream space srcAddr ab =>
    exact readsBack_of_word rfl of_decide_eq_true fun hn _ => by
      obtain ⟨hs, hp, ha, hm, hb⟩ := of_decide_eq_true hn
      exact decodeCore_tsend c dw hs hp ha hm hb
  case rarm c dw stream => exact readsBack_of_word rfl of_decide_eq_true fun hn _ => decodeCore_rarm c dw (of_decide_eq_true hn)
  case rwait c dw stream => exact readsBack_of_word rfl of_decide_eq_true fun hn _ => decodeCore_rwait c dw (of_decide_eq_true hn)
  case alloc c dw d order must =>
    exact readsBack_of_word rfl of_decide_eq_true fun hn _ => by
      obtain ⟨hd, ho, ho'⟩ := of_decide_eq_true hn
      exact decodeCore_alloc c dw must hd ho ho'
  case free c dw a => exact readsBack_of_word rfl of_decide_eq_true fun hn _ => decodeCore_free c dw (of_decide_eq_true hn)
  case fsig c dw fence a =>
    exact readsBack_of_word rfl of_decide_eq_true fun hn _ => by
      obtain ⟨hf, ha⟩ := of_decide_eq_true hn
      exact decodeCore_fsig c dw hf ha
  case fwait c dw fence a ignore =>
    exact readsBack_of_word rfl of_decide_eq_true fun hn _ => by
      obtain ⟨hf, ha⟩ := of_decide_eq_true hn
      exact decodeCore_fwait c dw ignore hf ha
  case yield c dw => exact readsBack_of_word rfl of_decide_eq_true fun _ _ => decodeCore_yield c dw
  case lateFeatureTest c dw feature mask maskAddr ab =>
    exact readsBack_of_word rfl of_decide_eq_true fun hn _ => by
      obtain ⟨hf, hm, ha⟩ := of_decide_eq_true hn
      exact decodeCore_lateFeatureTest c dw mask hf hm ha
  all_goals exact readsBack_of_none rfl

/-- Settles O57: every instruction reads back, class by class. -/
theorem encodeDecode : Obligations.EncodeDecode := readsBack

/-! ### Words of the tables (R159 to R165, R168 to R171, R173) -/

/-- Settles O56: each word is decoded. -/
theorem decodeWords : Obligations.DecodeWords := by
  unfold Obligations.DecodeWords
  decide

end Sys2Proof.Proofs

/-! Control instructions (R149, R151, R153, R160). -/

namespace Sys2Proof.Proofs

open Sys2Proof Sys2Proof.Machine

/-! ### Instructions that change a core's registers and go on -/

theorem coreKeep_setG (k : Core) (d : Nat) (v : BitVec 64) : coreKeep k (setG k d v) :=
  ⟨setG_part .., setG_prog .., setG_pc .., setG_task ..⟩

theorem gReg_zero (k : Core) : gReg k 0 = 0 := if_pos rfl

theorem setG_zero (k : Core) (v : BitVec 64) : setG k 0 v = k := if_pos rfl

section

variable {s : State} {c : Nat} {i : Instr} {dw : Bool} {reads : List Nat}

/-- R151: an issued instruction that keeps its core's place changes that core and goes on. -/
theorem issue_updCoreNext {f : State → Core → Core} (h : atCommand s c i) (hl : legalAt s c (nextPc s c))
    (hk : coreKeep (coreOf s c) (f s (coreOf s c))) :
    issue i c dw reads s (fun s => updCoreNext s c (f s)) = .next (goneOn s c (f s (coreOf s c)) (nextPc s c)) := by
  rw [issue_at _ _ _ _ _ _ h]
  exact congrArg _ (updCoreNext_keep h hl hk)

/-- R151, R160: an issued instruction that writes a g register writes it and goes on. -/
theorem issue_setG {v : State → Core → BitVec 64} {d : Nat} (h : atCommand s c i) (hl : legalAt s c (nextPc s c)) :
    issue i c dw reads s (fun s => updCoreNext s c (fun k => setG k d (v s k))) =
      .next (goneOn s c (setG (coreOf s c) d (v s (coreOf s c))) (nextPc s c)) :=
  issue_updCoreNext (f := fun s k => setG k d (v s k)) h hl (coreKeep_setG ..)

theorem issue_advance (h : atCommand s c i) (hl : legalAt s c (nextPc s c)) :
    issue i c dw reads s (fun s => advance s c) = .next (goneOn s c (coreOf s c) (nextPc s c)) := by
  rw [issue_at _ _ _ _ _ _ h, advance_goneOn _ _ hl]

end

/-- R160: the elapsed tick of the step that a core runs. -/
theorem elapsed_of_run {s : State} {c : Nat} {r : StepRun} (h : runOf s (coreOf s c).part = some r) :
    elapsed s c = s.time.tick - r.base := by
  rw [elapsed, partOfCore, h]
  rfl

/-- Settles O3, from the laws of the g registers and of an issue that writes one. -/
theorem controlWritesRegister : Obligations.ControlWritesRegister := by
  refine ⟨fun k d r v => ⟨gReg_zero k, setG_zero k v, gReg_setG_self k d v, gReg_setG_ne k d r v⟩, fun s c dw d a b imm hl => ?_⟩
  refine ⟨fun h => ?_, fun h => ?_, fun h => ?_, fun h => ?_, fun h r hr => ?_⟩
  · rw [exec, execLi]
    exact issue_setG h hl
  · rw [exec, execAddi]
    exact issue_setG h hl
  · rw [exec, execAdd]
    exact issue_setG h hl
  · rw [exec, execSub]
    exact issue_setG h hl
  · rw [exec, execRdtick, ← elapsed_of_run hr]
    exact issue_setG h hl

/-! ### Branches -/

section

variable {s : State} {c : Nat} {dw : Bool} {target : Nat}

theorem goTo_target (ht : target < 16384) (hl : legalAt s c target) : goTo s c target = goneOn s c (coreOf s c) target := by
  rw [goTo_self _ _ _ hl, Nat.mod_eq_of_lt ht]

variable (ht : target < 16384) (hn : legalAt s c (nextPc s c)) (hl : legalAt s c target)

include ht hn hl

theorem exec_br {cond : Nat} (h : atCommand s c (.br c dw cond target)) :
    exec (.br c dw cond target) s = .next (goneOn s c (coreOf s c) (if condHolds (coreOf s c) cond then target else nextPc s c)) := by
  rw [exec, execBr, issue_at _ _ _ _ _ _ h]
  split
  · rw [goTo_target ht hl]
  · rw [advance_goneOn _ _ hn]

/-- R160: loop on a register other than g0. -/
theorem exec_loop {a : Nat} (h : atCommand s c (.loop c dw a target)) (ha : a ≠ 0) :
    exec (.loop c dw a target) s = .next (goneOn s c (setG (coreOf s c) a (gReg (coreOf s c) a - 1))
      (if gReg (coreOf s c) a - 1 ≠ 0 then target else nextPc s c)) := by
  obtain ⟨hpart, hprog, hpc, htask⟩ := coreKeep_setG (coreOf s c) a (gReg (coreOf s c) a - 1)
  have hrun : (setG (coreOf s c) a (gReg (coreOf s c) a - 1)).task.isSome = true := by
    obtain ⟨-, hrun, -, -, -⟩ := h
    rw [htask, hrun]
  rw [exec, execLoop, issue_at _ _ _ _ _ _ h]
  dsimp only
  rw [gReg_setG_self _ _ _ ha]
  split
  · rw [goTo_goneOn s c target _ hpart hprog hrun hl, Nat.mod_eq_of_lt ht]
  · exact congrArg _ (updCoreNext_keep (f := fun k => setG k a (gReg k a - 1)) h hn ⟨hpart, hprog, hpc, htask⟩)

end

/-- Settles O4, from one lemma for each instruction and the table of conditions. -/
theorem controlFlow : Obligations.ControlFlow := by
  refine ⟨fun s c dw a b cond target ht hn hl => ⟨fun h => ?_, fun h => ?_, exec_br ht hn hl, exec_loop ht hn hl⟩,
    fun k => ⟨rfl, rfl, rfl, rfl, rfl, rfl, rfl, rfl⟩⟩
  · rw [exec, execControlNop]
    exact issue_advance h hn
  · rw [exec, execCmp]
    exact issue_updCoreNext (f := fun _ k => cmpFlags k (gReg k a) (gReg k b)) h hn ⟨rfl, rfl, rfl, rfl⟩

/-! ### sync, twait and halt -/

/-- R153: with no tile in flight, a core is idle when no allocation and no timed send is outstanding. -/
theorem coreIdle_iff {s : State} {c : Nat} {i : Instr} (h : atCommand s c i) :
    coreIdle s c = true ↔ (coreOf s c).allocs = 0 ∧ coreSends s c = 0 := by
  obtain ⟨-, -, -, htiles, -⟩ := h
  simp [coreIdle, htiles]

section

variable {s : State} {c : Nat} {dw : Bool}

theorem exec_sync_idle (h : atCommand s c (.sync c dw)) (hl : legalAt s c (nextPc s c)) (ha : (coreOf s c).allocs = 0)
    (hs : coreSends s c = 0) : exec (.sync c dw) s = .next (goneOn s c (coreOf s c) (nextPc s c)) := by
  rw [exec, execSync, issue_at _ _ _ _ _ _ h, if_pos ((coreIdle_iff h).2 ⟨ha, hs⟩), advance_goneOn _ _ hl]

theorem exec_sync_held (h : atCommand s c (.sync c dw)) (hb : (coreOf s c).allocs ≠ 0 ∨ coreSends s c ≠ 0) :
    exec (.sync c dw) s = .next s := by
  rw [exec, execSync, issue_at _ _ _ _ _ _ h, if_neg]
  rw [coreIdle_iff h]
  omega

theorem low_natCast (w n : Nat) : low w (n : Int) = n % 2 ^ w := by
  rw [low]
  exact_mod_cast Int.toNat_natCast (n % 2 ^ w)

variable {r : StepRun} {imm : W64} (hr : runOf s (coreOf s c).part = some r) (h : atCommand s c (.twait c dw imm))

include hr h

theorem exec_twait_reached (hl : legalAt s c (nextPc s c)) (ht : imm.toNat % 2 ^ 32 ≤ s.time.tick - r.base) :
    exec (.twait c dw imm) s = .next (goneOn s c (coreOf s c) (nextPc s c)) := by
  rw [exec, execTwait, issue_at _ _ _ _ _ _ h, elapsed_of_run hr, low_natCast, if_pos ht, advance_goneOn _ _ hl]

theorem exec_twait_held (ht : s.time.tick - r.base < imm.toNat % 2 ^ 32) : exec (.twait c dw imm) s = .next s := by
  rw [exec, execTwait, issue_at _ _ _ _ _ _ h, elapsed_of_run hr, low_natCast, if_neg (Nat.not_le.2 ht)]

end

/-- R149: the step's tasks once task `i` has halted. -/
def taskHalted (i : Nat) (l : List Task) : List Task :=
  l.map (fun x => if x.index = i then { x with state := .halted, saved := [] } else x)

/-- R149: a step's run once task `i` has halted and its ticks are charged. -/
def runHalted (n i : Nat) (r : StepRun) : StepRun := { r with engine := r.engine + n, tasks := taskHalted i r.tasks }

/-- R149: where no task waits, none waits after a task has halted. -/
theorem taskHalted_none_waiting {i : Nat} {l : List Task} (h : ∀ x ∈ l, x.state ≠ .waiting) :
    (taskHalted i l).find? (fun t => t.state == .waiting) = none := by
  rw [List.find?_eq_none, taskHalted]
  intro y hy
  obtain ⟨x, hx, rfl⟩ := List.mem_map.1 hy
  split
  · exact Bool.false_ne_true
  · rw [beq_iff_eq]
    exact h x hx

/-- R149: another task still runs. -/
theorem taskHalted_not_all {i : Nat} {l : List Task} {u : Task} (hu : u ∈ l) (hi : u.index ≠ i) (hs : u.state = .running) :
    (taskHalted i l).all (fun t => t.state == .halted) = false := by
  rw [List.all_eq_false]
  exact ⟨u, List.mem_map.2 ⟨u, hu, if_neg hi⟩, by rw [hs]; decide⟩

/-- R149: a task that leaves its core as halted, no task waiting and another running, leaves the step going on. -/
theorem haltTask_eq {s : State} {p c n i : Nat} {r : StepRun} {u : Task}
    (hr : runOf (leaveCore s p c .halted []) p = some (runHalted n i r)) (hu : u ∈ r.tasks) (hi : u.index ≠ i) (hs : u.state = .running)
    (hw : ∀ x ∈ r.tasks, x.state ≠ .waiting) : haltTask s p c = leaveCore s p c .halted [] := by
  rw [haltTask, placeTasks_none _ _ _ hr (taskHalted_none_waiting hw), stepProgress_not _ _ _ hr (taskHalted_not_all hu hi hs)]

theorem exec_halt {s : State} {c : Nat} {dw : Bool} (h : atCommand s c (.halt c dw)) (hsel : (coreOf s c).sel = none)
    (ha : (coreOf s c).allocs = 0) (hs : coreSends s c = 0) : exec (.halt c dw) s = .next (haltTask s (coreOf s c).part c) := by
  rw [exec, execHalt, issue_at _ _ _ _ _ _ h, hsel, if_pos ((coreIdle_iff h).2 ⟨ha, hs⟩)]
  rfl

/-- Settles O5, from one lemma for each outcome of sync and twait and the shape of a halt. -/
theorem syncTwaitHalt : Obligations.SyncTwaitHalt := by
  refine ⟨fun s c dw imm hl => ⟨fun h => ⟨exec_sync_idle h hl, exec_sync_held h⟩,
    fun h r hr => ⟨exec_twait_reached hr h hl, exec_twait_held hr h⟩⟩, ?_⟩
  intro s c dw r i t u h hsel ha hs htask hr ht hti hu hui hrun hw
  have hfound : (r.tasks.find? (fun t => t.index == i)).isSome = true := List.find?_isSome.2 ⟨t, ht, beq_iff_eq.2 hti⟩
  obtain ⟨t', ht'⟩ := Option.isSome_iff_exists.1 hfound
  have hleft := leaveCore_run s _ c .halted [] r i t' hr htask ht'
  obtain ⟨hc, hd⟩ := leaveCore_core s (coreOf s c).part c .halted [] r i t' hr htask ht'
  refine ⟨_, exec_halt h hsel ha hs, ?_⟩
  rw [haltTask_eq hleft hu hui hrun hw]
  exact ⟨by rw [hc], ⟨_, hleft, rfl⟩, hd⟩

end Sys2Proof.Proofs

/-! The vector unit (R165 to R167, R424). -/

namespace Sys2Proof.Proofs

open Sys2Proof Sys2Proof.Machine

/-! ### Operations between vector registers (R166, R167) -/

section

variable {s : State} {c : Nat} {dw : Bool} {f : VecFields} {i : Instr}

/-- R166: an elementwise instruction writes its lane operation's results to vd. -/
theorem vecLanes_wrote (op : Nat) (hl : legalAt s c (nextPc s c)) (h : atCommand s c i) :
    ∃ s', vecExec i c dw s (vecLanes op f) = .next s' ∧ wroteLanes s c f.vd
      (fun l => laneOp op f.imm32 (vLane (coreOf s c) f.va l) (vLane (coreOf s c) f.vb l) (vLane (coreOf s c) f.vc l) l) s' :=
  vecExec_done _ _ _ _ _ _ _ h hl rfl

/-- R167: a reduction writes its result to every lane of vd. -/
theorem vecReduce_wrote (g : BitVec 32 → BitVec 32 → BitVec 32) (hl : legalAt s c (nextPc s c)) (h : atCommand s c i) :
    ∃ s', vecExec i c dw s (vecReduce g f) = .next s' ∧
      wroteLanes s c f.vd (fun _ => reduceLanes g ((List.range 128).map (fun l => vLane (coreOf s c) f.va l))) s' :=
  vecExec_done _ _ _ _ _ _ _ h hl rfl

end

/-- Settles O9, from the lane operation of each instruction. -/
theorem vectorFloatLanes : Obligations.VectorFloatLanes := fun _ _ _ _ hl =>
  ⟨vecLanes_wrote 0x10 hl, vecLanes_wrote 0x11 hl, vecLanes_wrote 0x12 hl, vecLanes_wrote 0x13 hl, vecLanes_wrote 0x14 hl,
    vecLanes_wrote 0x15 hl, vecLanes_wrote 0x16 hl, vecLanes_wrote 0x17 hl, vecLanes_wrote 0x18 hl, vecLanes_wrote 0x1A hl,
    vecLanes_wrote 0x1B hl, vecLanes_wrote 0x1C hl, vecLanes_wrote 0x1D hl, vecLanes_wrote 0x48 hl, vecLanes_wrote 0x49 hl⟩

/-- Settles O10, from the lane operation of each instruction. -/
theorem vectorIntegerLanes : Obligations.VectorIntegerLanes := fun _ _ _ _ hl =>
  ⟨vecLanes_wrote 0x02 hl, vecLanes_wrote 0x03 hl, vecLanes_wrote 0x19 hl, vecLanes_wrote 0x40 hl, vecLanes_wrote 0x41 hl,
    vecLanes_wrote 0x42 hl, vecLanes_wrote 0x43 hl, vecLanes_wrote 0x44 hl, vecLanes_wrote 0x45 hl, vecLanes_wrote 0x46 hl⟩

/-- Settles O11, from the lane operation of each special function and the combination of each reduction. -/
theorem vectorSpecialAndReduced : Obligations.VectorSpecialAndReduced := fun _ _ _ _ hl =>
  ⟨vecLanes_wrote 0x20 hl, vecLanes_wrote 0x21 hl, vecLanes_wrote 0x22 hl, vecLanes_wrote 0x23 hl, vecLanes_wrote 0x24 hl,
    vecLanes_wrote 0x25 hl, vecLanes_wrote 0x26 hl, vecReduce_wrote addF32 hl, vecReduce_wrote maxF32 hl, vecReduce_wrote minF32 hl⟩

/-! ### Loads and stores (R166, R167, R424) -/

/-- R151: going on after a change of a core takes the changed core alone. -/
theorem updCoreNext_congr {s : State} {c : Nat} {F G : Core → Core} (h : F (coreOf s c) = G (coreOf s c)) :
    updCoreNext s c F = updCoreNext s c G := by
  rw [updCoreNext, updCoreNext, h]

theorem exec_vld {s : State} {c : Nat} {dw : Bool} {f : VecFields} (h : atCommand s c (.vld c dw f .good)) (hl : legalAt s c (nextPc s c)) :
    ∃ s', exec (.vld c dw f .good) s = .next s' ∧ wroteLanes s c f.vd (fun l => loadLane (coreOf s c) (winOf s c) f l) s' := by
  rw [exec, execVld, issue_at _ _ _ _ _ _ h, coreEcc]
  obtain ⟨-, htask, -, -, -⟩ := h
  refine ⟨_, rfl, ?_⟩
  rw [updCoreNext_congr (G := fun k => setLanes k f.vd (fun l => loadLane (coreOf s c) (winOf s c) f l)) (by rw [vecLoad])]
  exact wroteLanes_updCoreNext s c f.vd _ hl htask

/-- R424: a byte of the activation buffer in the place of one of the 128 lanes. -/
def lanePlace (k : Core) (w : Win) (f : VecFields) (a : Nat) : Prop :=
  ∃ l j, l < 128 ∧ j < 4 ∧ a = winAct w (vecLaneAddr k f l + j)

/-- R167: a byte in the place of a lane or of the scale of a block of 32 lanes. -/
def mxPlace (k : Core) (w : Win) (f : VecFields) (a : Nat) : Prop :=
  lanePlace k w f a ∨ ∃ b, b < 4 ∧ a = winAct w (vecScaleAddr k f (32 * b))

theorem onlyAct_refl (k : Core) (p : Nat → Prop) : onlyAct k k p := ⟨rfl, fun _ _ => rfl⟩

theorem onlyAct_acc {k k' : Core} {p : Nat → Prop} (h : onlyAct k k' p) : k'.acc = k.acc := by
  rw [← h.1]

section

variable (k : Core) (w : Win) (f : VecFields)

/-- R424: vst outside the accumulator changes the bytes of its lanes. -/
theorem onlyAct_vecStoreRow (h : f.acc = false) : onlyAct k (vecStoreRow w f k) (lanePlace k w f) := by
  rw [vecStoreRow, h]
  exact iter_inv_lt (fun k' => onlyAct k k' (lanePlace k w f)) _ _ _ (onlyAct_refl ..)
    fun l k' hl hk => onlyAct_putLane hk w f k l _ fun j hj => ⟨l, j, hl, hj, rfl⟩

theorem vecStoreRow_acc_kept (h : f.acc = false) : (vecStoreRow w f k).acc = k.acc := onlyAct_acc (onlyAct_vecStoreRow k w f h)

/-- R165: vst to the accumulator writes its 128 words there. -/
theorem vecStoreRow_acc (h : f.acc = true) : vecStoreRow w f k =
    { k with acc := (List.range 128).foldl (fun m l => wrLE m (vecAccAddr k w f + 4 * l) 4 (vLane k f.va l).toNat) k.acc } := by
  rw [vecStoreRow, if_pos h]

theorem vecStoreRow_acc_outside (h : f.acc = true) {a : Nat} (ha : a < vecAccAddr k w f ∨ vecAccAddr k w f + 512 ≤ a) :
    rd8 (vecStoreRow w f k).acc a = rd8 k.acc a := by
  rw [vecStoreRow_acc k w f h]
  refine foldl_acc (fun l => (vLane k f.va l).toNat) _ _ _ _ fun i hi => ?_
  have := List.mem_range.1 hi
  omega

theorem vecStoreRow_acc_lane (h : f.acc = true) {l : Nat} (hl : l < 128) :
    rdLE (vecStoreRow w f k).acc (vecAccAddr k w f + 4 * l) 4 = (vLane k f.va l).toNat := by
  rw [vecStoreRow_acc k w f h]
  exact range_foldl_acc (fun l => vLane k f.va l) _ _ _ _ hl

theorem coreKeep_vecStoreRow : coreKeep k (vecStoreRow w f k) := by
  cases h : f.acc with
  | false => exact onlyAct_keep (onlyAct_vecStoreRow k w f h)
  | true =>
    rw [vecStoreRow_acc k w f h]
    exact ⟨rfl, rfl, rfl, rfl⟩

/-- R166: vst changes the activation buffer and the accumulator alone. -/
theorem vecStoreRow_frame : { vecStoreRow w f k with act := k.act, acc := k.acc } = k := by
  cases h : f.acc with
  | false => exact congrArg (fun x : Core => { x with acc := k.acc }) (onlyAct_vecStoreRow k w f h).1
  | true => rw [vecStoreRow_acc k w f h]

/-- R167: mxst changes the bytes of its lanes and scales. -/
theorem onlyAct_vecMxStore : onlyAct k (vecMxStore w f k) (mxPlace k w f) := by
  refine iter_inv_lt (fun k' => onlyAct k k' (mxPlace k w f)) _ _ _ (onlyAct_refl ..) fun b k' hb hk => ?_
  refine onlyAct_wr ?_ _ _ _ (.inr ⟨b, hb, rfl⟩)
  exact iter_inv_lt (fun k' => onlyAct k k' (mxPlace k w f)) _ _ _ hk
    fun l k'' hl hk => onlyAct_putLane hk w f k _ _ fun j hj => .inl ⟨32 * b + l, j, by omega, hj, rfl⟩

end

section

variable {s : State} {c : Nat} {dw : Bool} {f : VecFields}

theorem exec_vst (h : atCommand s c (.vst c dw f)) (hl : legalAt s c (nextPc s c)) :
    exec (.vst c dw f) s = .next (goneOn s c (vecStoreRow (winOf s c) f (coreOf s c)) (nextPc s c)) := by
  rw [exec, execVst]
  exact issue_updCoreNext (f := fun s => vecStoreRow (winOf s c) f) h hl (coreKeep_vecStoreRow ..)

theorem exec_mxst (h : atCommand s c (.mxst c dw f)) (hl : legalAt s c (nextPc s c)) :
    exec (.mxst c dw f) s = .next (goneOn s c (vecMxStore (winOf s c) f (coreOf s c)) (nextPc s c)) := by
  rw [exec, execMxst]
  exact issue_updCoreNext (f := fun s => vecMxStore (winOf s c) f) h hl (onlyAct_keep (onlyAct_vecMxStore ..))

end

/-- Settles O12, from what each of the three instructions leaves in the core. -/
theorem vectorLoadAndStore : Obligations.VectorLoadAndStore := by
  refine ⟨fun s c dw f hl h => exec_vld h hl, fun s c dw f hl => ⟨fun h => ?_, fun h => ?_⟩⟩
  · refine ⟨_, exec_vst h hl, ?_⟩
    rw [goneOn_core]
    refine ⟨rfl, ?_, rfl, fun d hd => goneOn_ne _ _ _ _ _ hd, fun ha => ⟨?_, ?_, ?_⟩, fun ha => ⟨?_, ?_⟩⟩
    · exact congrArg (fun x : Core => { x with pc := (coreOf s c).pc, waitAt := (coreOf s c).waitAt })
        (vecStoreRow_frame (coreOf s c) (winOf s c) f)
    · rw [vecStoreRow_acc _ _ _ ha]
    · exact fun a => vecStoreRow_acc_outside _ _ _ ha
    · exact fun l => vecStoreRow_acc_lane _ _ _ ha
    · exact vecStoreRow_acc_kept _ _ _ ha
    · exact (onlyAct_vecStoreRow _ _ _ ha).2
  · obtain ⟨hframe, hact⟩ := onlyAct_vecMxStore (coreOf s c) (winOf s c) f
    refine ⟨_, exec_mxst h hl, ?_⟩
    rw [goneOn_core]
    refine ⟨rfl, ?_, rfl, fun d hd => goneOn_ne _ _ _ _ _ hd, fun a hlane hscale => hact a ?_⟩
    · exact congrArg (fun x : Core => { x with pc := (coreOf s c).pc, waitAt := (coreOf s c).waitAt }) hframe
    · rintro (hp | ⟨b, hb, rfl⟩)
      · exact hlane hp
      · exact hscale b hb rfl

end Sys2Proof.Proofs

/-! Timed instructions (R152, R169). -/

namespace Sys2Proof.Proofs

open Sys2Proof Sys2Proof.Machine

/-- R169: core `c` has gone on and stream `n` of its step has changed by `g`; nothing else has. -/
def streamActed (s : State) (c n : Nat) (r : StepRun) (g : StreamRun → StreamRun) (s' : State) : Prop :=
  coreOf s' c = { coreOf s c with pc := nextPc s c, waitAt := none } ∧ (∀ d, d ≠ c → coreOf s' d = coreOf s d) ∧
  runOf s' (coreOf s c).part = some { r with streams := r.streams.map (fun x => if x.number = n then g x else x) } ∧
  { s' with cores := s.cores, steps.running := s.steps.running } = s

section

variable {s : State} {c n : Nat} {dw : Bool} {r : StepRun} {t : StreamRun}

theorem advance_updStream (hl : legalAt s c (nextPc s c)) (p : Nat) (g : StreamRun → StreamRun) :
    advance (updStream s p n g) c = goneOn (updStream s p n g) c (coreOf s c) (nextPc s c) :=
  advance_goneOn _ _ ((legalAt_updStream ..).2 hl)

variable (hl : legalAt s c (nextPc s c)) (hr : runOf s (coreOf s c).part = some r)

include hl hr in
/-- R169: changing a stream of the core's step and going on changes nothing else. -/
theorem streamActed_advance (g : StreamRun → StreamRun) : streamActed s c n r g (advance (updStream s (coreOf s c).part n g) c) := by
  rw [advance_updStream hl]
  exact ⟨goneOn_core .., fun d hd => goneOn_ne _ _ _ _ _ hd, updStream_run _ _ _ _ _ hr, rfl⟩

variable (ht : streamOf r n = some t)

include hr ht in
theorem coreStream_eq : coreStream s c n = some t := by
  rw [coreStream, partOfCore, hr]
  exact ht

section

variable {space a ab : Nat} (h : atCommand s c (.tsend c dw n space a ab))

include hr ht h in
theorem exec_tsend : exec (.tsend c dw n space a ab) s = .next (if timedQueueFull s c then s
    else advance (updStream s (coreOf s c).part n (fun x => { x with
      sends := x.sends ++ [(space, a + bits (gReg (coreOf s c) ab).toNat 0 22, s.time.tick, (coreOf s c).task.getD 0)] })) c) := by
  rw [exec, execTsend, issue_at _ _ _ _ _ _ h, coreStream_eq hr ht]
  rfl

theorem timedQueueFull_iff : timedQueueFull s c = true ↔ 8 ≤ coreSends s c := decide_eq_true_iff

include hl hr ht h in
theorem exec_tsend_room (hq : coreSends s c < 8) : ∃ s', exec (.tsend c dw n space a ab) s = .next s' ∧
    streamActed s c n r (fun x => { x with
      sends := x.sends ++ [(space, a + bits (gReg (coreOf s c) ab).toNat 0 22, s.time.tick, (coreOf s c).task.getD 0)] }) s' := by
  rw [exec_tsend hr ht h, if_neg (by rw [timedQueueFull_iff]; omega)]
  exact ⟨_, rfl, streamActed_advance hl hr _⟩

include hr ht h in
theorem exec_tsend_full (hq : 8 ≤ coreSends s c) : exec (.tsend c dw n space a ab) s = .next s := by
  rw [exec_tsend hr ht h, if_pos (timedQueueFull_iff.2 hq)]

end

section

variable (h : atCommand s c (.rarm c dw n))

include hl hr ht h in
theorem exec_rarm_room (hq : t.armed < t.waited + t.ring) : ∃ s', exec (.rarm c dw n) s = .next s' ∧
    streamActed s c n r (fun x => { x with
      armed := x.armed + 1, arms := x.arms ++ [s.time.tick], armTasks := x.armTasks ++ [(coreOf s c).task.getD 0] }) s' := by
  rw [exec, execRarm, issue_at _ _ _ _ _ _ h, coreStream_eq hr ht]
  dsimp only
  rw [if_neg (Nat.not_le.2 hq)]
  exact ⟨_, rfl, streamActed_advance hl hr _⟩

include hr ht h in
theorem exec_rarm_full (hq : t.waited + t.ring ≤ t.armed) : exec (.rarm c dw n) s = .next s := by
  rw [exec, execRarm, issue_at _ _ _ _ _ _ h, coreStream_eq hr ht]
  dsimp only
  rw [if_pos hq]

end

section

variable (h : atCommand s c (.rwait c dw n))

include hl hr ht h in
theorem exec_rwait_landed (hq : mfind t.landed t.waited = some 0) : ∃ s', exec (.rwait c dw n) s = .next s' ∧
    streamActed s c n r (fun x => { x with
      landed := mdel x.landed x.waited, waited := x.waited + 1, armTasks := x.armTasks.drop 1 }) s' := by
  rw [exec, execRwait, issue_at _ _ _ _ _ _ h, coreStream_eq hr ht]
  dsimp only
  rw [hq]
  exact ⟨_, rfl, streamActed_advance hl hr _⟩

include hr ht h in
theorem exec_rwait_held (hq : mfind t.landed t.waited = none) : exec (.rwait c dw n) s = .next s := by
  rw [exec, execRwait, issue_at _ _ _ _ _ _ h, coreStream_eq hr ht]
  dsimp only
  rw [hq]

include hr ht h in
/-- R213, R411: a delivery that did not land whole ends the step. -/
theorem exec_rwait_lost {st : Nat} (hq : mfind t.landed t.waited = some (st + 1)) :
    exec (.rwait c dw n) s = .next (stepFail s (coreOf s c).part (deliveryCode (st + 1))) := by
  rw [exec, execRwait, issue_at _ _ _ _ _ _ h, coreStream_eq hr ht]
  dsimp only
  rw [hq]
  rfl

end

end

/-- Settles O14, from one lemma for each outcome of each instruction. -/
theorem timedInstructions : Obligations.TimedInstructions := fun _ _ _ _ _ _ _ _ _ hl hr ht =>
  ⟨fun h => ⟨exec_tsend_room hl hr ht h, exec_tsend_full hr ht h⟩, fun h => ⟨exec_rarm_room hl hr ht h, exec_rarm_full hr ht h⟩,
    fun h => ⟨exec_rwait_landed hl hr ht h, exec_rwait_held hr ht h, fun _ => exec_rwait_lost hr ht h⟩⟩

end Sys2Proof.Proofs

/-! Fences from a core, yield and the late-feature test (R171 to R173, R249, R283, R284). -/

namespace Sys2Proof.Proofs

open Sys2Proof Sys2Proof.Machine

/-! ### One update of a fence in a tick (R252, R283) -/

/-- R283: a signal that a fence takes raises its value. -/
theorem apply_signal {x : FenceVals} {i : Nat} {u : FenceUp} (hs : x.state = .pending ∨ x.state = .signalled) (hf : u.fails = false)
    (hv : u.value ≠ BitVec.allOnes 64) (hle : x.value.toNat ≤ u.value.toNat) :
    x.apply i u = { x with value := u.value, state := .signalled } := by
  rw [FenceVals.apply, hf]
  rcases hs with hs | hs <;> rw [hs] <;> exact (if_neg hv).trans (if_neg (Nat.not_lt.2 hle))

/-- R254: the first update of a tick applies to the fence as it stands. -/
theorem update_fresh {f : Fence} {t i : Nat} {u : FenceUp} (h : f.upAt ≠ some t) :
    (f.update t i u).value = (f.vals.apply i u).value ∧ (f.update t i u).state = (f.vals.apply i u).state := by
  have hsame : (f.upAt == some t) = false := beq_eq_false_iff_ne.2 h
  rw [Fence.update, hsame]
  exact ⟨rfl, rfl⟩

theorem fenceOf_putFence_self (s : State) (i : Nat) (f : Fence) : fenceOf (putFence s i f) i = f := mget_mset_self ..

theorem fenceOf_putFence_ne (s : State) {i j : Nat} (f : Fence) (h : j ≠ i) : fenceOf (putFence s i f) j = fenceOf s j :=
  mget_mset_ne _ _ h

/-- R283: the fence that a signal leaves. -/
theorem fenceSignal_eq {s : State} {i : Nat} {v : BitVec 64} {req : Nat}
    (hs : (fenceOf s i).state = .pending ∨ (fenceOf s i).state = .signalled)
    (hu : (fenceOf s i).upAt ≠ some s.time.tick) (hv : v ≠ BitVec.allOnes 64) (hle : (fenceOf s i).value.toNat ≤ v.toNat) :
    ∃ f, fenceSignal s i v req = putFence s i f ∧ f.value = v ∧ f.state = .signalled := by
  have htakes : ¬ ((fenceOf s i).state = .free ∨ ((fenceOf s i).state = .error ∧ (fenceOf s i).upAt ≠ some (now s))) := by
    rintro (hx | ⟨hx, -⟩) <;> rw [hx] at hs <;> exact absurd hs (by decide)
  obtain ⟨hval, hst⟩ := update_fresh (i := i) (u := { req := req, value := v }) hu
  rw [apply_signal (x := (fenceOf s i).vals) (u := { req := req, value := v }) hs rfl hv hle] at hval hst
  exact ⟨_, if_neg htakes, hval, hst⟩

/-! ### fsig -/

section

variable {s : State} {c fence a : Nat} {dw : Bool}

theorem exec_fsig (h : atCommand s c (.fsig c dw fence a)) (ha : (coreOf s c).allocs = 0) (hs : coreSends s c = 0) :
    exec (.fsig c dw fence a) s = .next (if maySignal s (ctxOfCore s c) fence then
      advance (fenceSignal s fence (gReg (coreOf s c) a) (reqCore c)) c else stepFail s (coreOf s c).part 0x0307) := by
  rw [exec, execFsig, issue_at _ _ _ _ _ _ h, if_pos ((coreIdle_iff h).2 ⟨ha, hs⟩)]
  rfl

theorem advance_putFence (hl : legalAt s c (nextPc s c)) (f : Fence) :
    advance (putFence s fence f) c = goneOn (putFence s fence f) c (coreOf s c) (nextPc s c) := by
  have hc : coreOf (putFence s fence f) c = coreOf s c := coreOf_congr (putFence_cores ..) c
  have hn : nextPc (putFence s fence f) c = nextPc s c := by rw [nextPc, hc, nextPc]
  rw [advance_goneOn _ _ (by rw [hn]; exact (putFence_legal ..).2 hl), hc, hn]

/-- R283: fsig of a fence of its context that takes the signal. -/
theorem exec_fsig_signals (h : atCommand s c (.fsig c dw fence a)) (hl : legalAt s c (nextPc s c)) (ha : (coreOf s c).allocs = 0)
    (hs : coreSends s c = 0) (hm : maySignal s (ctxOfCore s c) fence = true)
    (hst : (fenceOf s fence).state = .pending ∨ (fenceOf s fence).state = .signalled) (hu : (fenceOf s fence).upAt ≠ some s.time.tick)
    (hv : gReg (coreOf s c) a ≠ BitVec.allOnes 64) (hle : (fenceOf s fence).value.toNat ≤ (gReg (coreOf s c) a).toNat) :
    ∃ s', exec (.fsig c dw fence a) s = .next s' ∧ coreOf s' c = { coreOf s c with pc := nextPc s c, waitAt := none } ∧
      (fenceOf s' fence).value = gReg (coreOf s c) a ∧ (fenceOf s' fence).state = .signalled ∧
      ∀ i, i ≠ fence → fenceOf s' i = fenceOf s i := by
  obtain ⟨f, hf, hval, hsig⟩ := fenceSignal_eq (req := reqCore c) hst hu hv hle
  rw [exec_fsig h ha hs, if_pos hm, hf, advance_putFence hl]
  refine ⟨_, rfl, goneOn_core .., ?_, ?_, fun i hi => (fenceOf_goneOn ..).trans (fenceOf_putFence_ne _ _ hi)⟩
  · rw [fenceOf_goneOn, fenceOf_putFence_self, hval]
  · rw [fenceOf_goneOn, fenceOf_putFence_self, hsig]

theorem exec_fsig_foreign (h : atCommand s c (.fsig c dw fence a)) (ha : (coreOf s c).allocs = 0) (hs : coreSends s c = 0)
    (hm : maySignal s (ctxOfCore s c) fence = false) : exec (.fsig c dw fence a) s = .next (stepFail s (coreOf s c).part 0x0307) := by
  rw [exec_fsig h ha hs, hm]
  rfl

end

/-! ### fwait -/

section

variable {f : Fence} {t since v : Nat}

theorem waitResult_satisfied (hu : f.upAt ≠ some t) (hv : v ≤ f.value.toNat) (hs : f.state ≠ .error) :
    waitResult f t since v = .satisfied := by
  have herr : (f.state == .error) = false := beq_eq_false_iff_ne.2 hs
  simp [waitResult, hu, hv, herr]

theorem waitResult_unreached (hu : f.upAt ≠ some t) (hv : f.value.toNat < v) :
    waitResult f t since v = if f.state = .error then .failed else .held := by
  have hle : ¬ v ≤ f.value.toNat := Nat.not_le.2 hv
  simp [waitResult, hu, hle]

end

section

variable {s : State} {c fence a : Nat} {dw ig : Bool} (h : atCommand s c (.fwait c dw fence a ig))

include h

theorem exec_fwait_foreign (hm : maySignal s (ctxOfCore s c) fence = false) :
    exec (.fwait c dw fence a ig) s = .next (stepFail s (coreOf s c).part 0x0307) := by
  rw [exec, execFwait, issue_at _ _ _ _ _ _ h, if_pos hm]
  rfl

variable (hm : maySignal s (ctxOfCore s c) fence = true) (hu : (fenceOf s fence).upAt ≠ some s.time.tick)

include hm hu

theorem exec_fwait_reached (hl : legalAt s c (nextPc s c)) (hv : (gReg (coreOf s c) a).toNat ≤ (fenceOf s fence).value.toNat)
    (hs : (fenceOf s fence).state ≠ .error) :
    exec (.fwait c dw fence a ig) s = .next (goneOn s c (coreOf s c) (nextPc s c)) := by
  rw [exec, execFwait, issue_at _ _ _ _ _ _ h, hm]
  dsimp only
  rw [waitResult_satisfied (t := now s) hu hv hs]
  exact congrArg _ (advance_goneOn _ _ hl)

variable (hv : (fenceOf s fence).value.toNat < (gReg (coreOf s c) a).toNat)

include hv

theorem exec_fwait_held (hs : (fenceOf s fence).state ≠ .error) : exec (.fwait c dw fence a ig) s =
    .next (putCore s c { coreOf s c with waitAt := some ((coreOf s c).waitAt.getD s.time.tick) }) := by
  rw [exec, execFwait, issue_at _ _ _ _ _ _ h, hm]
  dsimp only
  rw [waitResult_unreached (t := now s) hu hv, if_neg hs]
  rfl

theorem exec_fwait_error (hl : legalAt s c (nextPc s c)) (hs : (fenceOf s fence).state = .error) :
    exec (.fwait c dw fence a ig) s = .next (if ig = true then goneOn s c { coreOf s c with fail := true } (nextPc s c)
      else stepFail s (coreOf s c).part (fenceOf s fence).error) := by
  rw [exec, execFwait, issue_at _ _ _ _ _ _ h, hm]
  dsimp only
  rw [waitResult_unreached (t := now s) hu hv, if_pos hs, updCoreNext_keep (f := failFlag) h hl ⟨rfl, rfl, rfl, rfl⟩]
  rfl

end

/-- Settles O16, from one lemma for each outcome of fsig and fwait. -/
theorem fenceInstructions : Obligations.FenceInstructions := fun _ _ _ _ _ hl =>
  ⟨fun h ha hs => ⟨exec_fsig_signals h hl ha hs, exec_fsig_foreign h ha hs⟩,
    fun _ h => ⟨exec_fwait_foreign h, fun hm hu => ⟨exec_fwait_reached h hm hu hl, exec_fwait_held h hm hu,
      fun hv => exec_fwait_error h hm hu hv hl⟩⟩⟩

/-! ### yield -/

/-- R172: a core whose vector and tile statistics registers became undefined as the free values of `seed`. -/
def lostCore (k : Core) (seed : Nat) : Core :=
  { k with v := [], vseed := seed, statLost := some seed,
           stats := k.stats.filter (fun e => decide (130 ≤ e.1 ∧ e.1 < 256) || decide (386 ≤ e.1)) }

theorem yieldLost_eq (s : State) (c : Nat) :
    yieldLost s c = { putCore s c (lostCore (coreOf s c) s.freeCount) with freeCount := s.freeCount + 1 } := rfl

theorem coreOf_yieldLost_self (s : State) (c : Nat) : coreOf (yieldLost s c) c = lostCore (coreOf s c) s.freeCount := coreOf_putCore_self ..

theorem coreOf_yieldLost_ne {s : State} {c d : Nat} (h : d ≠ c) : coreOf (yieldLost s c) d = coreOf s d := coreOf_putCore_ne _ _ h

theorem goneOn_yieldLost_frame (s : State) (c : Nat) (k : Core) (pc : Nat) :
    { goneOn (yieldLost s c) c k pc with cores := s.cores, freeCount := s.freeCount } = s := by
  rw [goneOn, putCore, yieldLost_eq, putCore]

theorem preemptWanted_yieldLost (s : State) (c p : Nat) : preemptWanted (yieldLost s c) p = preemptWanted s p := rfl

section

variable {s : State} {c : Nat} {dw : Bool} (hl : legalAt s c (nextPc s c))

include hl

theorem advance_yieldLost : advance (yieldLost s c) c = goneOn (yieldLost s c) c (lostCore (coreOf s c) s.freeCount) (nextPc s c) := by
  have hn : nextPc (yieldLost s c) c = nextPc s c := by rw [nextPc, coreOf_yieldLost_self, nextPc, lostCore]
  have hl' : legalAt (yieldLost s c) c (nextPc s c) :=
    (legalAt_congr rfl rfl rfl).2 ((legalAt_putCore s c _ (lostCore (coreOf s c) s.freeCount) rfl rfl).2 hl)
  rw [advance_goneOn _ _ (by rw [hn]; exact hl'), coreOf_yieldLost_self, hn]

variable (h : atCommand s c (.yield c dw)) (hsel : (coreOf s c).sel = none)

include h hsel

theorem exec_yield_ignored (hi : yieldIgnored s c = true) : exec (.yield c dw) s = .next (goneOn s c (coreOf s c) (nextPc s c)) := by
  rw [exec, execYield, issue_at _ _ _ _ _ _ h, hsel, if_pos hi, advance_goneOn _ _ hl]
  rfl

/-- R172: a yield with no pre-emption wanted. -/
theorem exec_yield_goes_on (hi : yieldIgnored s c = false) (ha : (coreOf s c).allocs = 0) (hs : coreSends s c = 0)
    (hp : preemptWanted s (coreOf s c).part = false) :
    exec (.yield c dw) s = .next (goneOn (yieldLost s c) c (lostCore (coreOf s c) s.freeCount) (nextPc s c)) := by
  have hidle : ¬ coreIdle s c = false := by rw [(coreIdle_iff h).2 ⟨ha, hs⟩]; decide
  have hpart : partOfCore (yieldLost s c) c = (coreOf s c).part := by rw [partOfCore, coreOf_yieldLost_self, lostCore]
  rw [exec, execYield, issue_at _ _ _ _ _ _ h, hsel, hi, if_neg hidle]
  dsimp only
  rw [hpart, preemptWanted_yieldLost, hp, advance_yieldLost hl]
  rfl

end

/-! ### The late-feature test -/

section

variable {s : State} {c feature a ab : Nat} {dw : Bool} {r : StepRun} {f : FeatureRun}
  (h : atCommand s c (.lateFeatureTest c dw feature false a ab)) (hr : runOf s (coreOf s c).part = some r)
  (hf : r.features[feature]? = some f)

include h hr hf

theorem exec_lateFeatureTest_ready (hl : legalAt s c (nextPc s c)) (hready : f.ready = true) :
    exec (.lateFeatureTest c dw feature false a ab) s =
      .next (goneOn s c { coreOf s c with late := f.lateBit, subst := f.substBit } (nextPc s c)) := by
  rw [exec, execLateFeatureTest, issue_at _ _ _ _ _ _ h, partOfCore, hr]
  dsimp only
  rw [hf]
  dsimp only
  simp only [hready, if_true, Bool.false_eq_true, if_false]
  rw [updCoreNext_keep (f := fun k => lateFlags k f.lateBit f.substBit) h hl ⟨rfl, rfl, rfl, rfl⟩, lateFlags]

theorem exec_lateFeatureTest_held (hready : f.ready = false) : exec (.lateFeatureTest c dw feature false a ab) s = .next s := by
  rw [exec, execLateFeatureTest, issue_at _ _ _ _ _ _ h, partOfCore, hr]
  dsimp only
  rw [hf]
  dsimp only
  rw [hready]
  rfl

end

/-- Settles O17, from one lemma for each outcome of yield and of the late-feature test. -/
theorem yieldAndLateFeatures : Obligations.YieldAndLateFeatures := by
  refine ⟨fun s c dw h hl hsel => ⟨exec_yield_ignored hl h hsel, fun hi ha hs hp => ?_⟩,
    fun s c dw feature a ab r f hl h hr hf => ⟨exec_lateFeatureTest_ready h hr hf hl, exec_lateFeatureTest_held h hr hf⟩⟩
  refine ⟨_, exec_yield_goes_on hl h hsel hi ha hs hp, ?_⟩
  rw [goneOn_core]
  exact ⟨rfl, rfl, rfl, rfl, rfl, rfl, fun _ _ => rfl, fun d hd => (goneOn_ne _ _ _ _ _ hd).trans (coreOf_yieldLost_ne hd),
    goneOn_yieldLost_frame ..⟩

end Sys2Proof.Proofs

/-! Control messages (R200 to R202, R211, R215, R216, R222, R224, R226). -/

namespace Sys2Proof.Proofs

open Sys2Proof Sys2Proof.Machine

/-! ### What counting a flit's words and symbols leaves alone -/

section

variable (s : State) (q : Nat) (fec : RxMark) (g : Bool)

/-- R230: counting symbols and words changes the counters alone. -/
theorem countFec_eq : countFec s q fec g = { s with regs := (countFec s q fec g).regs, health := (countFec s q fec g).health } := by
  rw [countFec]; split <;> split <;> rfl

@[simp] theorem countFec_start : (countFec s q fec g).start = s.start := by rw [countFec_eq]

@[simp] theorem countFec_time : (countFec s q fec g).time = s.time := by rw [countFec_eq]

@[simp] theorem countFec_links : (countFec s q fec g).links = s.links := by rw [countFec_eq]

@[simp] theorem countFec_steps : (countFec s q fec g).steps = s.steps := by rw [countFec_eq]

@[simp] theorem countFec_cores : (countFec s q fec g).cores = s.cores := by rw [countFec_eq]

theorem domainMember_congr {s t : State} (h : t.start = s.start) : domainMember t = domainMember s := by
  unfold domainMember memberBit variantOf
  rw [h]

theorem ctlSeen_congr {s t : State} (h : t.start = s.start) (ht : t.time = s.time) (m : CtlMsg) : ctlSeen t m = ctlSeen s m := by
  rw [ctlSeen, ctlRecent, now, h, ht]; rfl

@[simp] theorem domainMember_countFec : domainMember (countFec s q fec g) = domainMember s := domainMember_congr (countFec_start ..)

@[simp] theorem ctlSeen_countFec (m : CtlMsg) : ctlSeen (countFec s q fec g) m = ctlSeen s m :=
  ctlSeen_congr (countFec_start ..) (countFec_time ..) m

end

/-! ### Forwarding -/

section

variable (s : State) (q : Nat) (m : CtlMsg)

theorem ctlForward_eq : ctlForward s q m = { s with time := (ctlForward s q m).time } := by
  rw [ctlForward]; split <;> rfl

@[simp] theorem ctlForward_links : (ctlForward s q m).links = s.links := by rw [ctlForward_eq]

@[simp] theorem ctlForward_steps : (ctlForward s q m).steps = s.steps := by rw [ctlForward_eq]

@[simp] theorem ctlForward_cores : (ctlForward s q m).cores = s.cores := by rw [ctlForward_eq]

@[simp] theorem ctlForward_armed : (ctlForward s q m).time.armed = s.time.armed := by
  rw [ctlForward]; split <;> rfl

/-- R216: a message that is not for this block alone goes on with one hop more. -/
theorem ctlForward_forwarded (h : ctlDest m ≠ some s.start.record.coord) :
    (ctlForward s q m).time.forwarded = s.time.forwarded ++ [{ m with port := q, hops := m.hops + 1 }] := by
  rw [ctlForward]; split
  next hc => exact absurd hc h
  next => rfl

theorem ctlForward_kept (h : ctlDest m = some s.start.record.coord) : (ctlForward s q m).time.forwarded = s.time.forwarded := by
  rw [ctlForward]; split
  next => rfl
  next hc => exact absurd h hc

end

theorem holdAction_room {s : State} (a : ArmedAction) (h : s.time.armed.length < 64) :
    holdAction s a = { s with time.armed := s.time.armed ++ [a] } := if_pos h

/-! ### The commands that bring a message -/

/-- The type of message that `messageCmd k` takes. -/
def messageType (k : Nat) : Nat := if 2 ≤ k ∧ k ≤ 9 then k else 10

/-- What a block does that acts on a message of the type of `messageCmd k`. -/
def messageEffect (k : Nat) (m : CtlMsg) (s : State) : State :=
  match k with
  | 2 => announceFlip s (bits m.a 0 8) (bits m.a 32 32) m.b m.c
  | 3 => holdAction s { kind := .snapshot, tick := m.a, number := m.b, domainWide := true }
  | 4 => holdAction s { kind := .domainReset, tick := m.a, origin := m.origin, domainWide := true }
  | 5 => reportDone s m.origin m.a
  | 6 => each (groupParts s m.group) (fun p s => armIdle s m.a p m.b true) s
  | 7 => each (groupParts s m.group) (fun p s => hearSlip s p m.a m.b (bits m.c 0 16) (bits m.c 16 4)) s
  | 8 => each (groupParts s m.group) (fun p s => updRun s p (fun r => if r.group then { r with lossAt := r.lossAt ++ [(m.b, m.a)] } else r)) s
  | 9 => each (groupParts s m.group) (fun p s => match runOf s p with
    | some r => if r.group && r.number == m.a then stepEnd s p 0x0604 else s
    | none => s) s
  | _ => { s with links.fwMsgs := s.links.fwMsgs ++ [(m.origin, m.data)] }

theorem exec_messageCmd (k q : Nat) (fec : RxMark) (bs : List Byte) (s : State) :
    exec (messageCmd k q fec bs) s = ctlArrive q fec bs (messageType k) (messageEffect k) s :=
  match k with
  | 0 | 1 | 2 | 3 | 4 | 5 | 6 | 7 | 8 | 9 => rfl
  | n + 10 => by
    rw [messageType, if_neg (by omega)]
    rfl

theorem messageType_eq {k : Nat} (h : 2 ≤ k) (h' : k ≤ 10) : messageType k = k := by
  rw [messageType]; split <;> omega

/-- R215: the types end at 10. -/
theorem ctlRead_type {bs : List Byte} {m : CtlMsg} (h : ctlRead bs = some m) : m.type ≤ 10 := by
  rw [ctlRead, Option.ite_none_right_eq_some] at h
  obtain ⟨⟨-, h10, -⟩, he⟩ := h
  exact Option.some.inj he ▸ h10

/-- R216: only the types 5 and 10 are addressed. -/
theorem ctlDest_none {m : CtlMsg} (h5 : m.type ≠ 5) (h10 : m.type ≠ 10) : ctlDest m = none := by
  rw [ctlDest]; split
  next h => exact absurd h h5
  next h => exact absurd h h10
  next => rfl

theorem ctlDest_resetDone {m : CtlMsg} (h : m.type = 5) : ctlDest m = some (unpackCoord m.b) := by
  rw [ctlDest, h]; rfl

theorem ctlDest_management {m : CtlMsg} (h : m.type = 10) : ctlDest m = some (unpackCoord (bits m.a 0 16)) := by
  rw [ctlDest, h]; rfl

section

variable {s : State} {q k : Nat} {fec : RxMark} {bs : List Byte} {m : CtlMsg} (hq : q < 60) (hu : (portOf s q).up = true)

include hq hu

theorem exec_messageCmd_lost (h : flitGood fec bs = false ∨ bits (fieldAt bs 0 4) 0 2 ≠ 2) :
    exec (messageCmd k q fec bs) s = .next (countFec s q fec (flitGood fec bs)) := by
  rw [exec_messageCmd]
  exact ctlFlitIn_lost s q fec bs _ _ hq hu h

variable (hg : flitGood fec bs = true) (hc : bits (fieldAt bs 0 4) 0 2 = 2)

include hg hc

theorem exec_messageCmd_bad (h : ctlRead bs = none) : exec (messageCmd k q fec bs) s = .next (addF (countFec s q fec true) lkBeDrop) := by
  rw [exec_messageCmd]
  exact ctlFlitIn_bad s q fec bs _ _ hq hu hg hc h

variable (hm : ctlRead bs = some m)

include hm

/-- A good flit of a message, brought by the command of its type. -/
theorem exec_messageCmd_read (ht : m.type = k) (h2 : 2 ≤ k) :
    exec (messageCmd k q fec bs) s = .next (ctlFirst q m (messageEffect k) (countFec s q fec true)) := by
  rw [exec_messageCmd, messageType_eq h2 (ht ▸ ctlRead_type hm)]
  exact ctlFlitIn_read s q fec bs _ _ m hq hu hg hc hm ht

theorem exec_messageCmd_seen (ht : m.type = k) (h2 : 2 ≤ k) (h : domainMember s = false ∨ ctlSeen s m = true) :
    exec (messageCmd k q fec bs) s = .next (countFec s q fec true) := by
  rw [exec_messageCmd_read hq hu hg hc hm ht h2, ctlFirst_seen]
  rwa [domainMember_countFec, ctlSeen_countFec]

variable (hd : domainMember s = true) (hs : ctlSeen s m = false)

include hd hs

theorem exec_messageCmd_here (ht : m.type = k) (h2 : 2 ≤ k) (h : ctlDest m = none ∨ ctlDest m = some s.start.record.coord) :
    exec (messageCmd k q fec bs) s = .next (messageEffect k m (ctlForward (countFec s q fec true) q m)) := by
  rw [exec_messageCmd_read hq hu hg hc hm ht h2, ctlFirst_new]
  · rwa [domainMember_countFec]
  · rwa [ctlSeen_countFec]
  · rwa [countFec_start]

theorem exec_messageCmd_broadcast (ht : m.type = k) (h2 : 2 ≤ k) (h5 : k ≠ 5) (h10 : k ≠ 10) :
    exec (messageCmd k q fec bs) s = .next (messageEffect k m (ctlForward (countFec s q fec true) q m)) :=
  exec_messageCmd_here hq hu hg hc hm hd hs ht h2 (.inl (ctlDest_none (ht ▸ h5) (ht ▸ h10)))

theorem exec_messageCmd_there (ht : m.type = k) (h2 : 2 ≤ k) {c : Coord} (h : ctlDest m = some c) (hx : c ≠ s.start.record.coord) :
    exec (messageCmd k q fec bs) s = .next (ctlForward (countFec s q fec true) q m) := by
  rw [exec_messageCmd_read hq hu hg hc hm ht h2, ctlFirst_there _ _ _ _ c _ _ h]
  · rwa [countFec_start]
  · rwa [domainMember_countFec]
  · rwa [ctlSeen_countFec]

end

/-- An action that a message arms, in the state in which the message was forwarded. -/
theorem holdAction_forwarded {s : State} (q : Nat) (fec : RxMark) (m : CtlMsg) (a : ArmedAction) (h : s.time.armed.length < 64) :
    let v := ctlForward (countFec s q fec true) q m
    (holdAction v a).time.armed = s.time.armed ++ [a] ∧ (holdAction v a).time.forwarded = v.time.forwarded ∧
      (holdAction v a).steps = s.steps ∧ (holdAction v a).cores = s.cores := by
  intro v
  have hv : v.time.armed = s.time.armed := by rw [ctlForward_armed, countFec_time]
  rw [holdAction_room a (hv ▸ h)]
  exact ⟨congrArg (· ++ [a]) hv, rfl, by rw [ctlForward_steps, countFec_steps], by rw [ctlForward_cores, countFec_cores]⟩

/-- R226: an abandoned step of a group that one partition belongs to. -/
theorem messageEffect_abandon {v : State} {m : CtlMsg} {k : Nat} {r : StepRun} (hg : groupParts v m.group = [k]) (hr : runOf v k = some r) :
    messageEffect 9 m v = if r.group && r.number == m.a then stepEnd v k 0x0604 else v := by
  rw [messageEffect, hg]
  simp only [each, List.foldl_cons, List.foldl_nil, hr]

/-- Settles O41, from the lemmas on the commands that bring a message. -/
theorem messageCommands : Obligations.MessageCommands := by
  intro s q fec bs hq hu cmd u
  refine ⟨fun k => ⟨fun hg => ?_, fun hg hc => ?_, fun hg hc hm => ?_⟩, fun m hg hc hm => ⟨fun h2 h => ?_, fun hd hs => ?_⟩⟩
  · exact (exec_messageCmd_lost hq hu (.inl hg)).trans (by rw [hg])
  · exact (exec_messageCmd_lost hq hu (.inr hc)).trans (by rw [hg])
  · exact exec_messageCmd_bad hq hu hg hc hm
  · exact exec_messageCmd_seen hq hu hg hc hm rfl h2 h
  intro v here
  have acted {k : Nat} := exec_messageCmd_here (k := k) hq hu hg hc hm hd hs
  have broadcast {k : Nat} := exec_messageCmd_broadcast (k := k) hq hu hg hc hm hd hs
  have passed {k : Nat} := exec_messageCmd_there (k := k) hq hu hg hc hm hd hs
  refine ⟨fun ht => ?_, fun ht hr => ?_, fun ht hr => ?_, fun ht => ?_, fun ht => ?_, fun ht => ?_, fun ht => ?_, fun p r ht hp hr => ?_,
    fun ht => ?_⟩
  · exact broadcast ht (by decide) (by decide) (by decide)
  · obtain ⟨harmed, hsame, -⟩ := holdAction_forwarded q fec m { kind := .snapshot, tick := m.a, number := m.b, domainWide := true } hr
    have hall : ctlDest m ≠ some u.start.record.coord := by rw [ctlDest_none (by omega) (by omega)]; nofun
    refine ⟨_, broadcast ht (by decide) (by decide) (by decide), harmed, hsame.trans ((ctlForward_forwarded u q m hall).trans ?_)⟩
    rw [countFec_time]
  · obtain ⟨harmed, -, hsteps, hcores⟩ :=
      holdAction_forwarded q fec m { kind := .domainReset, tick := m.a, origin := m.origin, domainWide := true } hr
    exact ⟨_, broadcast ht (by decide) (by decide) (by decide), harmed, hsteps, hcores⟩
  · have hdest := ctlDest_resetDone ht
    exact ⟨fun hx => acted ht (by decide) (.inr (hdest.trans (congrArg _ hx))), fun hx => passed ht (by decide) hdest hx⟩
  · exact broadcast ht (by decide) (by decide) (by decide)
  · exact broadcast ht (by decide) (by decide) (by decide)
  · exact broadcast ht (by decide) (by decide) (by decide)
  · exact (broadcast ht (by decide) (by decide) (by decide)).trans (congrArg _ (messageEffect_abandon hp hr))
  · have hdest := ctlDest_management ht
    refine ⟨fun hx => ?_, fun hx => passed ht (by decide) hdest hx⟩
    have hmine : ctlDest m = some s.start.record.coord := hdest.trans (congrArg _ hx)
    refine ⟨_, acted ht (by decide) (.inr hmine), ?_, ?_⟩
    · change (ctlForward u q m).links.fwMsgs ++ _ = _
      rw [ctlForward_links, countFec_links]
    · refine (ctlForward_kept u q m ?_).trans ?_
      · rw [countFec_start, hmine]
      · rw [countFec_time]

end Sys2Proof.Proofs

/-! Markers, mastership, snapshots and domain resets (R188, R189, R193, R195, R198, R200, R201). -/

namespace Sys2Proof.Proofs

open Sys2Proof Sys2Proof.Machine

/-! ### Markers (R188, R189) -/

theorem execMarkerFlit_down {s : State} {q : Nat} (hq : q < 60) (h : (portOf s q).up = false) (frac : Nat) (fec : RxMark) (bs : List Byte) :
    execMarkerFlit q frac fec bs s = .next s := by
  rw [execMarkerFlit, ctlFlitIn, if_neg (Nat.not_le.2 hq), if_pos h]

theorem markerStamp_countFec (s : State) (q : Nat) (fec : RxMark) (g : Bool) (frac : Nat) :
    markerStamp (countFec s q fec g) frac = 16 * s.time.tick + frac % 16 := by
  rw [markerStamp, now, countFec_time]

/-- A good flit that carries a marker. -/
theorem execMarkerFlit_read {s : State} {q : Nat} {fec : RxMark} {bs : List Byte} {m : CtlMsg} (frac : Nat) (hq : q < 60)
    (hu : (portOf s q).up = true) (hg : flitGood fec bs = true) (hc : bits (fieldAt bs 0 4) 0 2 = 2) (hm : ctlRead bs = some m)
    (ht : m.type = 1) : let u := countFec s q fec true
    execMarkerFlit q frac fec bs s = .next (if domainMember s then
      syncReached (hearMarker u q m.a (bits m.b 0 2) (bits m.b 8 8) (16 * s.time.tick + frac % 16)) else u) := by
  rw [execMarkerFlit, ctlFlitIn_read s q fec bs 1 _ m hq hu hg hc hm ht, domainMember_countFec, markerStamp_countFec]

theorem execSyncMarkerSend_between {s : State} (h : s.time.tick % 65536 ≠ 0) : execSyncMarkerSend s = .next s := by
  rw [execSyncMarkerSend, now, decide_eq_false h, Bool.and_false, Bool.false_and]; rfl

/-- R188: a master sends on every port that is up, with its own rank and one hop. -/
theorem execSyncMarkerSend_master {s : State} (hd : domainMember s = true) (ht : s.time.tick % 65536 = 0) (hm : getF s tbMaster = 1) :
    execSyncMarkerSend s = .next (each ((List.range 60).filter (fun q => (portOf s q).up))
      (fun q u => ctlSend u 1 0xFFFF u.time.tick (getF u tbMasterRank + 256) 0 q) s) := by
  simp [execSyncMarkerSend, now, hd, ht, hm]

/-! ### Holdover (R193) -/

/-- R193: the state of a block whose markers have failed. -/
def heldOver (s : State) : State :=
  { setF (setF s tbSyncState 3) tbUpstream 0x3F with time.holdoverAt := s.time.tick, time.reacquire := none, time.missCounted := 4 }

theorem execMarkerHoldover_holds {s : State} (hm : getF s tbMaster = 0) (hs : getF s tbSyncState = 1 ∨ getF s tbSyncState = 2)
    (ht : s.time.lastMarker + 262144 ≤ s.time.tick) (hb : bestUpstream s = none) : execMarkerHoldover s =
      .next (healthEvent (addF (addF (heldOver s) tbHoldovers) tbMarkersMissed (4 - s.time.missCounted)) { source := 11 }) :=
  if_pos ⟨hm, hs, ht, by rw [hb]; rfl⟩

theorem getF_heldOver (s : State) : getF (heldOver s) tbSyncState = 3 ∧ getF (heldOver s) tbUpstream = 0x3F := by
  have hregs : (heldOver s).regs = (setF (setF s tbSyncState 3) tbUpstream 0x3F).regs := by rw [heldOver]
  rw [getF_congr hregs, getF_congr hregs]
  exact ⟨(getF_setF_disj _ tbUpstream tbSyncState _ 0 0 rfl rfl (by decide) (by decide)).trans (getF_setF_self _ _ _ _ (by decide)),
    getF_setF_self _ _ _ _ (by decide)⟩

theorem execMarkerHoldover_early {s : State} (h : s.time.tick < s.time.lastMarker + 262144) : execMarkerHoldover s = .next s :=
  if_neg fun hc => absurd hc.2.2.1 (Nat.not_le.2 h)

theorem execUnaligned_alone {s : State} (hs : getF s tbSyncState = 3) (ht : s.time.holdoverAt + 60000000 ≤ s.time.tick)
    (hu : getF s tbUnaligned = 0) (hr : s.steps.running = []) : execUnaligned s = .next (setF s tbUnaligned 1) := by
  rw [execUnaligned, if_pos ⟨hs, ht, hu⟩, endGroupSteps, setF_steps, hr]; rfl

theorem execUnaligned_early {s : State} (h : s.time.tick < s.time.holdoverAt + 60000000) : execUnaligned s = .next s :=
  if_neg fun hc => absurd hc.2.1 (Nat.not_le.2 h)

/-! ### Mastership (R195) -/

theorem execMasterTakeover_takes {s : State} {k : Nat} (hk : ownRank s = some k) (hd : domainMember s = true) (hm : getF s tbMaster = 0)
    (h1 : 1 ≤ k) (hb : 9 ≤ getF s bcState) (ht : s.start.startTick + (4 + 4 * k) * 65536 ≤ s.time.tick) (hr : rankSilent s k = true) :
    execMasterTakeover s = .next (syncReached (capChange (becomeMaster s k) [])) := by
  rw [execMasterTakeover, hk]
  exact if_pos (by simp [hd, hm, h1, hb, ht, hr, now])

theorem execMasterTakeover_unranked {s : State} (h : ownRank s = none) : execMasterTakeover s = .next s := by
  rw [execMasterTakeover, h]

/-! ### Arming (R198, R200, R201) -/

theorem armSnapshot_late {s : State} {tick : Nat} (h : tick < s.time.tick) (n : Nat) (d o : Bool) : armSnapshot s tick n d o = none :=
  if_pos (.inl (Nat.lt_of_lt_of_le h (Nat.le_add_right ..)))

theorem armSnapshot_local {s : State} {tick : Nat} (h : s.time.tick ≤ tick) (hr : s.time.armed.length < 64) (n : Nat) (o : Bool) :
    armSnapshot s tick n false o =
      some { s with time.armed := s.time.armed ++ [{ kind := .snapshot, tick := tick, number := n, domainWide := false, own := o }] } := by
  rw [armSnapshot, Bool.false_and, if_neg]
  · rw [holdAction_room _ hr]; rfl
  · simp [now, h, hr]

theorem execSnapshotArm_late {s : State} (hh : s.bound.hostAnswers = true) (h : getF64 s tbSnapAtLo < s.time.tick) :
    execSnapshotArm s = .next (setF s tbSnapRefused 1) := by
  rw [execSnapshotArm, hostWrite_answers hh, snapArmed, armSnapshot_late h]

/-- R198: a snapshot of this block alone is held. -/
theorem execSnapshotArm_local {s : State} (hh : s.bound.hostAnswers = true) (h : s.time.tick ≤ getF64 s tbSnapAtLo)
    (hd : getF s tbSnapDomain = 0) (hr : s.time.armed.length < 64) : ∃ t, execSnapshotArm s = .next t ∧ getF t tbSnapRefused = 0 ∧
      getF t tbSnapArm = 1 ∧ t.time.armed = s.time.armed ++
        [{ kind := .snapshot, tick := getF64 s tbSnapAtLo, number := getF s tbSnapNumber, domainWide := false, own := true }] := by
  rw [execSnapshotArm, hostWrite_answers hh, snapArmed, hd, show (0 == 1) = false from rfl, armSnapshot_local h hr]
  refine ⟨_, rfl, ?_, getF_setF_self _ _ _ _ (by decide), by rw [setF_time, setF_time]⟩
  exact (getF_setF_disj _ tbSnapArm tbSnapRefused _ 0 0 rfl rfl (by decide) (by decide)).trans (getF_setF_self _ _ _ _ (by decide))

theorem execDomainResetArm_full {s : State} (hh : s.bound.hostAnswers = true) (h : 64 ≤ s.time.armed.length) :
    execDomainResetArm s = .next s := by
  rw [execDomainResetArm, hostWrite_answers hh, armReset, if_pos h]; rfl

section

variable (s : State) (t g a b c q : Nat)

@[simp] theorem ctlSend_armed : (ctlSend s t g a b c q).time.armed = s.time.armed := by rw [ctlSend_time]

@[simp] theorem ctlSend_resetAt : (ctlSend s t g a b c q).time.resetAt = s.time.resetAt := by rw [ctlSend_time]

@[simp] theorem ctlSend_resetReports : (ctlSend s t g a b c q).time.resetReports = s.time.resetReports := by rw [ctlSend_time]

end

/-- R201: what arming a domain reset leaves. -/
theorem armReset_room {s : State} (h : s.time.armed.length < 64) (b : Option Nat) : ∃ t, armReset s b = some t ∧ getF t tbResetBusy = 1 ∧
    getF t tbResetIncomplete = 0 ∧ t.time.resetAt = s.time.tick + getF s tbDomainB ∧ t.time.resetReports = [] ∧
    t.time.armed = s.time.armed ++
      [{ kind := .domainReset, tick := s.time.tick + getF s tbDomainB, origin := s.start.record.coord, domainWide := true }] := by
  rw [armReset, if_neg (Nat.not_le.2 h)]
  refine ⟨_, rfl, ?_, ?_, ?_, ?_, ?_⟩
  · rw [getF_congr (ctlSend_regs ..), getF_setF_ne _ _ tbResetBusy _ _ _ (by decide),
      getF_setF_disj _ tbResetIncomplete tbResetBusy _ 0 0 rfl rfl (by decide) (by decide), getF_setF_self _ _ _ _ (by decide)]
    rfl
  · rw [getF_congr (ctlSend_regs ..), getF_setF_ne _ _ tbResetIncomplete _ _ _ (by decide), getF_setF_self _ _ _ _ (by decide)]
    rfl
  · rw [ctlSend_resetAt, setF_time, setF_time, setF_time]; rfl
  · rw [ctlSend_resetReports, setF_time, setF_time, setF_time]
  · rw [ctlSend_armed, setF_time, setF_time, setF_time]
    exact congrArg (·.time.armed) (holdAction_room _ h)

/-! ### Firing (R186, R199) -/

section

variable {s : State} {a : ArmedAction} {k : ArmKind} (h : s.time.armed = [a])

include h

/-- The one armed action, where it is of the kind and has fallen due. -/
theorem eachDue_one (f : ArmedAction → State → State) (hk : a.kind = k) (ht : a.tick ≤ s.time.tick) :
    each (dueActions s k) f (dropActions s k) = f a { s with time.armed := [] } := by
  have hd : (a.kind == k && decide (a.tick ≤ now s)) = true := by simp [hk, now, ht]
  rw [dueActions, dropActions, h]
  simp only [List.filter_cons, List.filter_nil, hd]
  rfl

theorem eachDue_none (f : ArmedAction → State → State) (hn : a.kind ≠ k ∨ s.time.tick < a.tick) :
    each (dueActions s k) f (dropActions s k) = s := by
  have hd : (a.kind == k && decide (a.tick ≤ now s)) = false :=
    Bool.and_eq_false_iff.2 (hn.imp beq_false_of_ne fun hn => decide_eq_false (Nat.not_le.2 hn))
  rw [dueActions, dropActions, h]
  simp only [List.filter_cons, List.filter_nil, hd]
  exact congrArg (fun l => { s with time.armed := l }) h.symm

end

theorem latchDue_none {s : State} {a : ArmedAction} (h : s.time.armed = [a]) (hn : a.kind ≠ .snapshot ∨ s.time.tick < a.tick) :
    latchDue s = s := eachDue_none h _ hn

theorem execDomainResetFire_eq (s : State) : execDomainResetFire s = .next (resetsDue (latchDue s)) := rfl

theorem execDomainResetFire_early {s : State} {a : ArmedAction} (h : s.time.armed = [a]) (ht : s.time.tick < a.tick) :
    execDomainResetFire s = .next s := by
  rw [execDomainResetFire_eq, latchDue_none h (.inr ht)]
  exact congrArg _ (eachDue_none h _ (.inr ht))

/-- R201: a domain reset that is the only armed action fires. -/
theorem execDomainResetFire_one {s : State} {a : ArmedAction} (h : s.time.armed = [a]) (hk : a.kind = .domainReset) (ht : a.tick ≤ s.time.tick) :
    execDomainResetFire s = .next (fireReset { s with time.armed := [] } a) := by
  rw [execDomainResetFire_eq, latchDue_none h (.inl (by rw [hk]; decide))]
  exact congrArg _ (eachDue_one h _ hk ht)

/-! ### What a latch reads (R200, R421) -/

theorem telemNow_counted (s : State) {i : Nat} (h : i ≠ 1) : telemNow s i = mget s.health.telem i := by
  rw [telemNow, if_neg h]; exact BitVec.add_zero _

theorem mget_latchCopies (s : State) {i : Nat} (h : i < 24) (h1 : i ≠ 1) : mget (latchCopies s) i = mget s.health.telem i := by
  rw [latchCopies, mget_foldl_mset, if_pos (List.mem_range.2 h), telemNow_counted s h1]

section

variable (s : State) (a : ArmedAction)

/-- R200: the copies, the number and the tick of a latch. -/
def latched : State := setF64 (setF { s with health.snap := latchCopies s } hpSnapNumber a.number) tbSnapTickLo s.time.tick

theorem latchSnapshot_eq : latchSnapshot s a = if a.own then setF (latched s a) tbSnapArm 0 else latched s a := rfl

theorem latchSnapshot_time : (latchSnapshot s a).time = s.time := by
  rw [latchSnapshot_eq]; split <;> simp [latched]

theorem latchSnapshot_health : (latchSnapshot s a).health = { s.health with snap := latchCopies s } := by
  rw [latchSnapshot_eq]; split <;> simp [latched]

/-- R229: the latch that TB_SNAP_CTL armed clears snap_arm. -/
theorem getF_latchSnapshot_arm : getF (latchSnapshot s a) tbSnapArm = if a.own = true then 0 else getF s tbSnapArm := by
  rw [latchSnapshot_eq]; split
  · exact getF_setF_self _ _ _ _ (by decide)
  · rw [latched, getF_setF64_ne _ _ _ _ _ _ (by decide) (by decide), getF_setF_ne _ _ _ _ _ _ (by decide)]
    exact getF_congr rfl _ _

theorem getF_latchSnapshot_number : getF (latchSnapshot s a) hpSnapNumber = a.number % 256 := by
  have hl : getF (latched s a) hpSnapNumber = a.number % 256 := by
    rw [latched, getF_setF64_ne _ _ _ _ _ _ (by decide) (by decide), getF_setF_self _ _ _ _ (by decide)]
    rfl
  rw [latchSnapshot_eq]; split
  · rw [getF_setF_ne _ _ _ _ _ _ (by decide), hl]
  · exact hl

theorem getF64_latchSnapshot_tick : getF64 (latchSnapshot s a) tbSnapTickLo = s.time.tick % 2 ^ 64 := by
  have hl : getF64 (latched s a) tbSnapTickLo = s.time.tick % 2 ^ 64 := getF64_setF64_self ..
  rw [latchSnapshot_eq]; split
  · rw [getF64_setF_ne _ _ _ _ _ _ (by decide) (by decide), hl]
  · exact hl

end

/-- R200: a snapshot that is the only armed action fires. -/
theorem execSnapshotLatch_one {s : State} {a : ArmedAction} (h : s.time.armed = [a]) (hk : a.kind = .snapshot) (ht : a.tick ≤ s.time.tick) :
    ∃ t, execSnapshotLatch s = .next t ∧ t.time.armed = [] ∧
      getF t tbSnapArm = (if a.own = true then 0 else getF s tbSnapArm) ∧ getF t hpSnapNumber = a.number % 256 ∧
      getF64 t tbSnapTickLo = s.time.tick % 2 ^ 64 ∧ (∀ i, i < 24 → i ≠ 1 → mget t.health.snap i = mget s.health.telem i) ∧
      t.health.telem = s.health.telem := by
  refine ⟨latchSnapshot { s with time.armed := [] } a, congrArg _ (eachDue_one h _ hk ht), ?_, ?_, getF_latchSnapshot_number .., ?_, ?_, ?_⟩
  · rw [latchSnapshot_time]
  · rw [getF_latchSnapshot_arm]; rfl
  · rw [getF64_latchSnapshot_tick]
  · intro i hi h1
    rw [latchSnapshot_health]
    exact mget_latchCopies { s with time.armed := [] } hi h1
  · rw [latchSnapshot_health]

/-! ### The end of a domain reset (R201) -/

theorem execDomainResetLocalDone_not {s : State} (h : s.time.resetRunning = false) : execDomainResetLocalDone s = .next s := by
  rw [execDomainResetLocalDone, h]; rfl

theorem execDomainResetLocalDone_ends {s : State} (h : s.time.resetRunning = true) : let u : State := { s with time.resetRunning := false }
    execDomainResetLocalDone s = .next (if s.time.resetOrigin = s.start.record.coord then reportDone u s.start.record.coord s.time.resetAt
      else ctlSend u 5 0xFFFF s.time.resetAt (packCoord s.time.resetOrigin) 0) := if_pos h

theorem endReset_unasked {s : State} (h : s.time.resetMailbox = none) (c : Code) : endReset s c = setF s tbResetBusy 0 := by
  rw [endReset, setF_time, h]

theorem execDomainResetDeadline_passed {s : State} (hb : getF s tbResetBusy = 1)
    (ht : s.time.resetAt + 14000 + getF s tbDomainB ≤ s.time.tick) (hm : s.time.resetMailbox = none) :
    ∃ t, execDomainResetDeadline s = .next t ∧ getF t tbResetBusy = 0 ∧ getF t tbResetIncomplete = 1 := by
  refine ⟨_, (if_pos ⟨hb, ht⟩).trans (congrArg _ (endReset_unasked (by rw [setF_time, setF_time, hm]) _)), ?_, ?_⟩
  · exact getF_setF_self _ _ _ _ (by decide)
  · rw [getF_setF_disj _ tbResetBusy tbResetIncomplete _ 0 0 rfl rfl (by decide) (by decide), getF_setF_self _ _ _ _ (by decide)]
    rfl

theorem execDomainResetDeadline_idle {s : State} (h : getF s tbResetBusy = 0) : execDomainResetDeadline s = .next s :=
  if_neg fun hc => absurd (h.symm.trans hc.1) (by decide)

/-- Settles O42, from one lemma for each outcome of each command. -/
theorem domainTimeCommands : Obligations.DomainTimeCommands := by
  intro s
  refine ⟨fun q frac fec bs hq => ⟨fun h => ?_, fun m hu hg hc hm ht => ⟨fun hd => ?_, fun hd => ?_⟩⟩, ?_, ?_, fun hm hs ht hb => ⟨?_, ?_⟩,
    ?_, ?_, ?_, fun k hk hd hm h1 hb ht hr => ?_, ?_, fun hh => ⟨?_, ?_, ?_, fun hr => ?_⟩, fun a h => ⟨?_, fun ht => ⟨?_, ?_⟩, fun hk ht => ?_⟩,
    ?_, ?_, ?_, ?_⟩
  · exact execMarkerFlit_down hq h frac fec bs
  · exact (execMarkerFlit_read frac hq hu hg hc hm ht).trans (congrArg _ (if_pos hd))
  · exact (execMarkerFlit_read frac hq hu hg hc hm ht).trans (congrArg _ (if_neg (by rw [hd]; decide)))
  · exact execSyncMarkerSend_between
  · exact execSyncMarkerSend_master
  · exact execMarkerHoldover_holds hm hs ht hb
  · exact getF_heldOver s
  · exact execMarkerHoldover_early
  · exact execUnaligned_alone
  · exact execUnaligned_early
  · exact execMasterTakeover_takes hk hd hm h1 hb ht hr
  · exact execMasterTakeover_unranked
  · exact execSnapshotArm_late hh
  · exact execSnapshotArm_local hh
  · exact execDomainResetArm_full hh
  · obtain ⟨t, ht, hfacts⟩ := armReset_room hr none
    refine ⟨t, ?_, hfacts⟩
    change execDomainResetArm s = _
    rw [execDomainResetArm, hostWrite_answers hh, ht]; rfl
  · exact execSnapshotLatch_one h
  · exact congrArg _ (latchDue_none h (.inr ht))
  · exact execDomainResetFire_early h ht
  · exact execDomainResetFire_one h hk ht
  · exact execDomainResetLocalDone_not
  · exact execDomainResetLocalDone_ends
  · exact execDomainResetDeadline_passed
  · exact execDomainResetDeadline_idle

end Sys2Proof.Proofs

/-! Mailbox messages that firmware serves (R198, R201, R224, R377, R383, R389, R396). -/

namespace Sys2Proof.Proofs

open Sys2Proof Sys2Proof.Machine

/-! ### Nothing to serve -/

theorem execCommandUnknown_none {s : State} {m : Nat} (hm : m < 64) (h : mboxMsg s m = none) : execCommandUnknown m s = .next s := by
  rw [execCommandUnknown, if_neg (Nat.not_le.2 hm), h]

theorem noMessage_served {s : State} {m : Nat} (hm : m < 64) (h : mboxMsg s m = none) : execGetStatus m s = .next s ∧
    execPushBundle m s = .next s ∧ (∀ b, execFlashUpdate m b s = .next s) ∧ (∀ b f d, execRetrainPort m b f d s = .next s) ∧
    execDomainReset m s = .next s ∧ execArmSnapshot m s = .next s ∧ execAddSoftRepair m s = .next s ∧ execCommandUnknown m s = .next s :=
  ⟨serveMsg_none _ _ _ _ hm h, serveMsg_none _ _ _ _ hm h, fun _ => serveMsg_none _ _ _ _ hm h, fun _ _ _ => serveMsg_none _ _ _ _ hm h,
    serveMsg_none _ _ _ _ hm h, serveMsg_none _ _ _ _ hm h, serveMsg_none _ _ _ _ hm h, execCommandUnknown_none hm h⟩

section

variable {s : State} {m : Nat} {x : MboxMsg} (hm : m < 64) (hx : mboxMsg s m = some x)

include hm hx

theorem execGetStatus_serves (hc : x.command = 1) : execGetStatus m s =
    .next (mbAck (if x.result = 0 then s else fwHostWrite s x.cp x.result (statusBytes s x.seq)) m 0) :=
  serveMsg_some m 1 s _ x hm hx hc

/-! ### PUSH_BUNDLE (R389) -/

theorem execPushBundle_early (hc : x.command = 2) (h : getF s bcState ≠ 4) : execPushBundle m s = .next (mbAck s m 0x090D) :=
  (serveMsg_some m 2 s _ x hm hx hc).trans (congrArg _ (if_pos h))

theorem execPushBundle_inside (hc : x.command = 2) (h : getF s bcState = 4) (hi : pushInside s x = true) :
    let r := verifyStore (pushCopy s x) true
    execPushBundle m s = .next (mbAck (if r.1 = 0 then setF r.2 bcPushed 1 else r.2) m r.1) :=
  (serveMsg_some m 2 s _ x hm hx hc).trans (congrArg _ ((if_neg (not_not.2 h)).trans (if_neg (by rw [hi]; decide))))

/-! ### FLASH_UPDATE (R377) -/

theorem execFlashUpdate_early (b : Bool) (hc : x.command = 3) (h : greenFw s = false) : execFlashUpdate m b s = .next (mbAck s m 0x090D) :=
  (serveMsg_some m 3 s _ x hm hx hc).trans (congrArg _ (if_pos h))

theorem execFlashUpdate_refused (b : Bool) (hc : x.command = 3) (h : greenFw s = true) (ha : flashAllowed s = false) :
    execFlashUpdate m b s = .next (mbAck (limiterRefuse s x.cp 0x0908 ccFlash 0) m 0x090D) :=
  (serveMsg_some m 3 s _ x hm hx hc).trans (congrArg _ ((if_neg (by rw [h]; decide)).trans (if_pos ha)))

theorem execFlashUpdate_programs (hc : x.command = 3) (h : greenFw s = true) (ha : flashAllowed s = true) (hi : pushInside s x = true)
    (hr : s.steps.running = []) : execFlashUpdate m true s = .next (mbAck (flashNew s x) m 0) := by
  rw [execFlashUpdate, serveMsg_some m 3 s _ x hm hx hc, h, ha, hi, hr]; rfl

/-! ### RETRAIN_PORT (R224) -/

theorem execRetrainPort_early (b : Bool) (f : Nat) (d : List Nat) (hc : x.command = 4)
    (h : greenFw s = false ∨ retrainOk s (payAt s x 0 4) = false) : execRetrainPort m b f d s = .next (mbAck s m 0x090D) :=
  (serveMsg_some m 4 s _ x hm hx hc).trans (congrArg _ (if_pos h))

/-- A port that may be retrained, in the green stage: what the message meets next. -/
theorem execRetrainPort_may (b : Bool) (f : Nat) (d : List Nat) (hc : x.command = 4) (h : greenFw s = true)
    (hq : retrainOk s (payAt s x 0 4) = true) : let q := payAt s x 0 4
    let p := (portOf s q).peer.getD ({}, 0)
    let t := portUp (measurePort s q f d p.1 p.2) q
    execRetrainPort m b f d s = .next (if bit s.start.record.allowed.toNat q = false then mbAck (limiterEvent s x.cp 0x0906 ccPort q) m 0x090D
      else if b = false then mbAck s m 0x090D else mbAck (if q < 48 then dirBack t q else t) m 0) :=
  (serveMsg_some m 4 s _ x hm hx hc).trans (congrArg _ (if_neg (by simp [h, hq])))

/-! ### DOMAIN_RESET and ARM_SNAPSHOT (R198, R201) -/

theorem execDomainReset_idle (hc : x.command = 5) (h : greenFw s = true) (hn : s.time.resetMailbox = none) (hb : getF s tbResetBusy = 0) :
    execDomainReset m s = .next ((armReset s (some m)).getD (mbAck s m 0x0407)) := by
  rw [execDomainReset, serveMsg_some m 5 s _ x hm hx hc, h, hn, hb]
  cases armReset s (some m) <;> rfl

theorem execArmSnapshot_green (hc : x.command = 6) (h : greenFw s = true) : execArmSnapshot m s =
    .next (match armSnapshot s (payAt s x 0 8) (payAt s x 8 4 % 256) (bit (payAt s x 0xC 4) 0) with
      | some t => mbAck t m 0
      | none => mbAck s m 0x0407) := by
  rw [execArmSnapshot, serveMsg_some m 6 s _ x hm hx hc, h]; rfl

/-! ### ADD_SOFT_REPAIR (R396) -/

theorem execAddSoftRepair_may (hc : x.command = 7) (h : s.ctrl.imageRuns = true) (hp : bit (getF s bcPolicy) 2 = true) : execAddSoftRepair m s =
    .next (match pendingSlot s with
      | some i => mbAck (setF s bcEntry600 (payAt s x 0 4) i) m 0
      | none => mbAck s m 0x090E) := by
  rw [execAddSoftRepair, serveMsg_some m 7 s _ x hm hx hc, h, hp]; rfl

theorem execCommandUnknown_unknown (hc : x.command = 0 ∨ 7 < x.command) :
    execCommandUnknown m s = .next (mbAck s m (if s.ctrl.imageRuns then 0x090C else 0x090D)) := by
  rw [execCommandUnknown, if_neg (Nat.not_le.2 hm), hx]
  exact congrArg _ (if_neg (by omega))

end

/-- Settles O47, from one lemma for each outcome of each command. -/
theorem serviceCommands : Obligations.ServiceCommands := by
  intro s m hm
  refine ⟨fun h => ?_, fun x hx => ⟨?_, fun hc => ⟨?_, ?_⟩, fun hc b => ⟨?_, ?_, ?_⟩, fun hc b f d => ⟨?_, fun hg hq ha => ?_, fun hg hq ha h48 => ?_⟩,
    fun hc hg hn hb => ⟨fun t ht => ?_, fun ht => ?_⟩, fun hc hg => ⟨fun t ht => ?_, fun ht => ?_⟩,
    fun hc hi hp => ⟨fun i h => ?_, fun h => ?_⟩, ?_⟩⟩
  · exact noMessage_served hm h
  · exact execGetStatus_serves hm hx
  · exact execPushBundle_early hm hx hc
  · exact execPushBundle_inside hm hx hc
  · exact execFlashUpdate_early hm hx b hc
  · exact execFlashUpdate_refused hm hx b hc
  · exact execFlashUpdate_programs hm hx hc
  · exact execRetrainPort_early hm hx b f d hc
  · exact (execRetrainPort_may hm hx b f d hc hg hq).trans (congrArg _ (if_pos ha))
  · refine (execRetrainPort_may hm hx true f d hc hg hq).trans (congrArg _ ((if_neg (by rw [ha]; decide)).trans ?_))
    rw [if_neg (by decide), if_neg (Nat.not_lt.2 h48)]
  · exact (execDomainReset_idle hm hx hc hg hn hb).trans (by rw [ht]; rfl)
  · exact (execDomainReset_idle hm hx hc hg hn hb).trans (by rw [ht]; rfl)
  · exact (execArmSnapshot_green hm hx hc hg).trans (by rw [ht])
  · exact (execArmSnapshot_green hm hx hc hg).trans (by rw [ht])
  · exact (execAddSoftRepair_may hm hx hc hi hp).trans (by rw [h])
  · exact (execAddSoftRepair_may hm hx hc hi hp).trans (by rw [h])
  · exact execCommandUnknown_unknown hm hx

end Sys2Proof.Proofs

/-! One edge of the tick counter (R185, R186, R199). -/

namespace Sys2Proof.Proofs

open Sys2Proof Sys2Proof.Machine

theorem step_nil {s : State} (h : s.pending = []) : step s = .next (blockEdge s) := by
  rw [step, h]

theorem blockEdge_stopped {s : State} (h : aclkRuns s = false) : blockEdge s = s := by
  rw [blockEdge, h]; rfl

theorem blockEdge_running {s : State} (h : aclkRuns s = true) :
    blockEdge s = fireBefore 7 (beginTick (aclkEdge (if edgeAmount s = 0 then s else endTick s))) := if_pos h

/-! ### What each part of an edge can change -/

theorem countGated_health (s : State) : ∃ y, countGated s = { s with health := y } := by
  rw [countGated]; split <;> split <;> exact ⟨_, rfl⟩

theorem countPorts_health (s : State) : ∃ y, countPorts s = { s with health := y, freeCount := s.freeCount + 2 } := ⟨_, rfl⟩

theorem servoEdge_time (n : Nat) (s : State) : ∃ x, servoEdge n s = { s with time := x } ∧ x.tick = s.time.tick := by
  rw [servoEdge]; split <;> exact ⟨_, rfl, rfl⟩

theorem steerMaster_time (b : Nat) (s : State) : ∃ x, steerMaster b s = { s with time := x } ∧ x.tick = s.time.tick := by
  rw [steerMaster]; split <;> exact ⟨_, rfl, rfl⟩

/-- The state before the counter of a running clock moves. -/
def servoed (s : State) : State := servoEdge (edgeAmount s) (countPorts (countGated s))

theorem aclkEdge_servoed {s : State} (h : aclkRuns s = true) : aclkEdge s =
    steerMaster (servoed s).time.tick { servoed s with time.tick := (servoed s).time.tick + edgeAmount s } := if_pos h

theorem servoed_time (s : State) : ∃ x y c, servoed s = { s with time := x, health := y, freeCount := c } ∧ x.tick = s.time.tick := by
  obtain ⟨y, hy⟩ := countGated_health s
  obtain ⟨y', hy'⟩ := countPorts_health { s with health := y }
  obtain ⟨x, hx, ht⟩ := servoEdge_time (edgeAmount s) { s with health := y', freeCount := s.freeCount + 2 }
  exact ⟨x, y', s.freeCount + 2, by rw [servoed, hy, hy', hx], ht⟩

/-- R185: an edge of a running clock moves the counter by the servo's amount; beside the time base it changes telemetry alone. -/
theorem aclkEdge_running {s : State} (h : aclkRuns s = true) :
    ∃ x y c, aclkEdge s = { s with time := x, health := y, freeCount := c } ∧ x.tick = s.time.tick + edgeAmount s := by
  obtain ⟨x, y, c, hv, ht⟩ := servoed_time s
  rw [aclkEdge_servoed h, hv]
  obtain ⟨x', hx, ht'⟩ := steerMaster_time x.tick { s with time := { x with tick := x.tick + edgeAmount s }, health := y, freeCount := c }
  exact ⟨x', y, c, hx, ht'.trans (congrArg (· + edgeAmount s) ht)⟩

theorem aclkEdge_stopped {s : State} (h : aclkRuns s = false) : aclkEdge s = s := by
  rw [aclkEdge, h]; rfl

theorem edgeAmount_le (s : State) : edgeAmount s ≤ 2 := by
  rw [edgeAmount]; split
  · split
    · exact Nat.le_refl 2
    · split <;> decide
  · decide

/-- R185: the servo does not adjust within 1,023 edges of an adjustment. -/
theorem edgeAmount_adjusted {s : State} (h : s.time.sinceAdjust < 1023) : edgeAmount s = 1 := by
  rw [edgeAmount, decide_eq_false (Nat.not_le.2 h), Bool.and_false]; rfl

theorem fireBefore_succ (n : Nat) (s : State) : fireBefore (n + 1) s = fireRank n (fireBefore n s) := by
  rw [fireBefore, iter, List.range_succ, List.foldl_append]; rfl

/-- R199: the actions of a tick, in their order. -/
theorem fireBefore_all (u : State) : let a := resetsDue (latchDue u)
    let b := each (mkeys a.upd.groups) (fun g s => tealFlip s g) a
    let c := each (liveParts b) (fun p s => slipsDue s p) b
    let d := each (liveParts c) (fun p s => insertionsDue s p) c
    fireBefore 7 u = each (liveParts d) (fun p s => launchesDue s p) d := by
  intro a b c d
  rw [fireBefore_succ 6, fireBefore_succ 5, fireBefore_succ 4, fireBefore_succ 3, show fireBefore 3 u = a from rfl]
  rfl

/-- R185: an edge changes the time base and telemetry alone, and moves the counter by 0, 1 or 2. -/
theorem aclkEdge_counts (u : State) : { aclkEdge u with time := u.time, health := u.health, freeCount := u.freeCount } = u ∧
    u.time.tick ≤ (aclkEdge u).time.tick ∧ (aclkEdge u).time.tick ≤ u.time.tick + 2 ∧
    (aclkRuns u = true → u.time.sinceAdjust < 1023 → (aclkEdge u).time.tick = u.time.tick + 1) := by
  cases hr : aclkRuns u with
  | false =>
    rw [aclkEdge_stopped hr]
    exact ⟨rfl, Nat.le_refl _, Nat.le_add_right _ 2, nofun⟩
  | true =>
    obtain ⟨x, y, c, he, ht⟩ := aclkEdge_running hr
    rw [he]
    dsimp only
    rw [ht]
    exact ⟨rfl, Nat.le_add_right .., Nat.add_le_add_left (edgeAmount_le u) _, fun _ h => by rw [edgeAmount_adjusted h]⟩

/-- Settles O2, from what an edge of the clock can change and the order of the actions of a tick. -/
theorem idleIsOneEdge : Obligations.IdleIsOneEdge := by
  intro s hp
  rw [step_nil hp]
  exact ⟨fun h => congrArg _ (blockEdge_stopped h), fun h => congrArg _ (blockEdge_running h), aclkEdge_counts, fireBefore_all⟩

end Sys2Proof.Proofs

/-! Objects: their creation, their freeing and their release (R240, R242, R244). -/

namespace Sys2Proof.Proofs

open Sys2Proof Sys2Proof.Machine

/-! ### What a command sees as its effect begins (R278) -/

@[simp] theorem ctxOf_begun (s : State) (n : Nat) : ctxOf (begun s) n = ctxOf s n := rfl

@[simp] theorem partOf_begun (s : State) (p : Nat) : partOf (begun s) p = partOf s p := rfl

@[simp] theorem fenceOf_begun (s : State) (i : Nat) : fenceOf (begun s) i = fenceOf s i := rfl

@[simp] theorem objOf_begun (s : State) (i : Nat) : objOf (begun s) i = objOf s i := rfl

/-! ### Creation (R240, R242) -/

/-- R240: the range of a create-object keeps its type's rules (a size of 0 does not, log 37) and overlaps no other of its context. -/
def rangeFree (b : State) (x : Job) : Prop :=
  objPlaceOk b (bits (d8 x.desc 0x30) 0 8) (d8 x.desc 0x20) (d8 x.desc 0x28) = true ∧
  objOverlaps b x.ctx (d8 x.desc 0x20) (d8 x.desc 0x28) = false

theorem createObj_misplaced {b : State} {j : Nat} {x : Job} (h : ¬ rangeFree b x) : createObj b j x = finishJob b j 0x030D := by
  refine if_pos ?_
  rw [rangeFree, not_and_or, Bool.not_eq_true, Bool.not_eq_false] at h
  exact h

theorem not_misplaced {b : State} {x : Job} (h : rangeFree b x) :
    ¬ (objPlaceOk b (bits (d8 x.desc 0x30) 0 8) (d8 x.desc 0x20) (d8 x.desc 0x28) = false ∨
      objOverlaps b x.ctx (d8 x.desc 0x20) (d8 x.desc 0x28) = true) := by
  obtain ⟨hp, ho⟩ := h
  rw [hp, ho]; decide

/-- R242: the context has its quota of objects, or no index is left. -/
theorem createObj_none_left {b : State} {j : Nat} {x : Job} (h : rangeFree b x)
    (hn : objQuotaOk b x.ctx = false ∨ b.front.objAlloc.take = none) : createObj b j x = finishJob b j 0x0306 := by
  refine (if_neg (not_misplaced h)).trans ?_
  obtain hq | ht := hn
  · exact if_pos hq
  · rw [ht]
    exact ite_self _

/-- R240: the object that a create-object describes, at an index of generation `gen`. -/
def describedObj (gen : Nat) (x : Job) : Obj :=
  { gen := gen, va := BitVec.ofNat 64 (d8 x.desc 0x20), size := BitVec.ofNat 64 (d8 x.desc 0x28), type := bits (d8 x.desc 0x30) 0 8, ctx := x.ctx,
    pinned := bit (d8 x.desc 0x30) 8, allocated := true }

/-- R240, R273: the object stands at its index, and its handle is written; without a place for the handle there is no object. -/
theorem createObj_created {b : State} {j i : Nat} {x : Job} {a : IdxAlloc} (h : rangeFree b x) (hq : objQuotaOk b x.ctx = true)
    (ht : b.front.objAlloc.take = some (i, a)) :
    let o := describedObj (objOf b i).gen x
    let w := vaWrite (putObj { b with front.objAlloc := a } i o) x.ctx (d8 x.desc 0x38) (leBytes 8 (handleOf i o))
    createObj b j x = if w.1 = 0 then finishJob w.2 j 0 else finishJob b j w.1 := by
  refine (if_neg (not_misplaced h)).trans ((if_neg (by rw [hq]; decide)).trans ?_)
  rw [ht]
  rfl

theorem execCreateObject_eq {s : State} {j : Nat} {x : Job} (h : dispatchedAs s j 0x10 x) :
    execCreateObject j s = .next (createObj (begun s) j x) := runJob_at _ h

/-! ### Freeing and release (R244) -/

/-- R244: the object after a command has freed it: a new generation, and the command waits for its release. -/
def freedObj (s : State) (i j : Nat) : State :=
  putObj (begun s) i { objOf s i with gen := (objOf s i).gen + 1, freed := true, freeJobs := (objOf s i).freeJobs ++ [j] }

section

variable {s : State} {j : Nat} {x : Job} (h : dispatchedAs s j 0x11 x)

include h

theorem execFreeObject_bound (hb : (objOf s (hIndex (d8 x.desc 0x20))).bindings ≠ 0) :
    execFreeObject j s = .next (finishJob (begun s) j 0x0309) :=
  (runJob_at _ h).trans (congrArg _ (if_pos hb))

theorem execFreeObject_waits (hb : (objOf s (hIndex (d8 x.desc 0x20))).bindings = 0) :
    execFreeObject j s = .next (awaitJob (freedObj s (hIndex (d8 x.desc 0x20)) j) j) :=
  (runJob_at _ h).trans (congrArg _ (if_neg (not_not.2 hb)))

end

/-- R244: the record of a freed object with one command that waits for it, released. -/
def releasedObj (s : State) (i j : Nat) : State :=
  let t := putObj (finishJob s j 0) i { gen := (objOf s i).gen }
  { t with front.objAlloc.released := t.front.objAlloc.released ++ [i] }

theorem objOf_releasedObj (s : State) (i j k : Nat) :
    objOf (releasedObj s i j) k = objOf (putObj (finishJob s j 0) i { gen := (objOf s i).gen }) k := by
  simp only [objOf, releasedObj]

theorem jobOf_releasedObj (s : State) (i j k : Nat) : jobOf (releasedObj s i j) k = jobOf (finishJob s j 0) k := by
  rw [jobOf, releasedObj, putObj, jobOf]

theorem releaseObj_one {s : State} {i j : Nat} (hj : (objOf s i).freeJobs = [j]) (hg : (objOf s i).gen ≤ 0xFFFFFF) :
    releaseObj s i = releasedObj s i j := by
  rw [releaseObj, hj]
  exact if_pos hg

theorem execObjectRelease_one {s : State} {i j : Nat} (hi : i < 1048576) (ha : (objOf s i).allocated = true) (hf : (objOf s i).freed = true)
    (hr : (objOf s i).refs = 0) (hj : (objOf s i).freeJobs = [j]) (hg : (objOf s i).gen ≤ 0xFFFFFF) :
    execObjectRelease i s = .next (releasedObj s i j) := by
  rw [execObjectRelease, if_neg (Nat.not_le.2 hi), ← releaseObj_one hj hg]
  refine if_pos ?_
  rw [ha, hf, hr]; rfl

/-- Settles O24, from one lemma for each outcome of each command. -/
theorem objectCommands : Obligations.ObjectCommands := by
  intro s j x
  refine ⟨fun h => ⟨fun hr => ?_, fun hp ho hn => ?_, fun i a hp ho hq ht => ?_⟩,
    fun h => ⟨execFreeObject_bound h, fun hb => ⟨_, execFreeObject_waits h hb, ?_, fun k hk => ?_, ?_, rfl, rfl, ?_⟩⟩,
    fun i hi ha hf hr hj hg hx hw => ⟨_, execObjectRelease_one hi ha hf hr hj hg, ?_, fun k hk => ?_, ?_, rfl, rfl⟩⟩
  · refine (execCreateObject_eq h).trans (congrArg _ (createObj_misplaced fun ⟨hp, ho⟩ => ?_))
    exact not_misplaced ⟨hp, ho⟩ hr
  · exact (execCreateObject_eq h).trans (congrArg _ (createObj_none_left ⟨hp, ho⟩ hn))
  · exact (execCreateObject_eq h).trans (congrArg _ (createObj_created ⟨hp, ho⟩ hq ht))
  · rw [objOf_awaitJob, freedObj, objOf_putObj_self]
  · rw [objOf_awaitJob, freedObj, objOf_putObj_ne _ _ hk, objOf_begun]
  · obtain ⟨hj, hs⟩ := dispatched_not_done h
    exact jobOf_awaitJob_self _ j x (by rw [freedObj, jobOf_putObj, hj]) hs
  · rw [awaitJob_cores, freedObj, putObj_cores]; rfl
  · rw [objOf_releasedObj, objOf_putObj_self]
  · rw [objOf_releasedObj, objOf_putObj_ne _ _ hk, objOf_finishJob]
  · rw [doneWith, jobOf_releasedObj]
    exact doneWith_finishJob s j x 0 hx (by rw [hw]; decide)

end Sys2Proof.Proofs

/-! Fences and arenas: creation, updates, destruction, grants (R14, R249, R251, R252, R254 to R256, R283). -/

namespace Sys2Proof.Proofs

open Sys2Proof Sys2Proof.Machine

/-! ### One update of a fence's values (R252, R283) -/

/-- R248: a fence that an update can still change. -/
def fenceLive (x : FenceState) : Prop := x = .pending ∨ x = .signalled

section

variable {x : FenceVals} {u : FenceUp} (i : Nat) (hx : fenceLive x.state)

include hx

theorem apply_live : x.apply i u =
    if u.fails then { x with state := .error, error := u.code, origin := u.origin }
    else if u.value = BitVec.allOnes 64 then { x with state := .error, error := 0x030A, origin := i }
    else if u.value.toNat < x.value.toNat then { x with ooo := satAdd 0xFFFF x.ooo 1 }
    else { x with value := u.value, state := .signalled } := by
  obtain h | h := hx <;> rw [FenceVals.apply, h]

theorem apply_fails (hf : u.fails = true) : x.apply i u = { x with state := .error, error := u.code, origin := u.origin } :=
  (apply_live i hx).trans (if_pos hf)

variable (hf : u.fails = false)

include hf

theorem apply_allOnes (hv : u.value = BitVec.allOnes 64) : x.apply i u = { x with state := .error, error := 0x030A, origin := i } :=
  (apply_live i hx).trans ((if_neg (by rw [hf]; decide)).trans (if_pos hv))

theorem apply_lower (hv : u.value ≠ BitVec.allOnes 64) (hl : u.value.toNat < x.value.toNat) :
    x.apply i u = { x with ooo := satAdd 0xFFFF x.ooo 1 } :=
  (apply_live i hx).trans ((if_neg (by rw [hf]; decide)).trans ((if_neg hv).trans (if_pos hl)))

theorem apply_raises (hv : u.value ≠ BitVec.allOnes 64) (hl : x.value.toNat ≤ u.value.toNat) :
    x.apply i u = { x with value := u.value, state := .signalled } :=
  (apply_live i hx).trans ((if_neg (by rw [hf]; decide)).trans ((if_neg hv).trans (if_neg (Nat.not_lt.2 hl))))

end

theorem apply_not_free {x : FenceVals} (i : Nat) (u : FenceUp) (hx : fenceLive x.state) : (x.apply i u).state ≠ .free := by
  have hn : x.state ≠ .free := by obtain h | h := hx <;> rw [h] <;> decide
  rw [apply_live i hx]
  split
  · exact FenceState.noConfusion
  · split
    · exact FenceState.noConfusion
    · split
      · exact hn
      · exact FenceState.noConfusion

/-! ### The updates of a tick (R254) -/

/-- R254: the first update of a tick acts on the values that the fence holds. -/
theorem update_first {f : Fence} {t : Nat} (i : Nat) (u : FenceUp) (h : f.upAt ≠ some t) : f.update t i u =
    { f with value := (f.vals.apply i u).value, state := (f.vals.apply i u).state, error := (f.vals.apply i u).error,
             ooo := (f.vals.apply i u).ooo, origin := (f.vals.apply i u).origin, before := f.value, upAt := some t, ups := [u], base := f.vals,
             valueAt := if (f.vals.apply i u).value = f.value then f.valueAt else t,
             errorAt := if (f.vals.apply i u).state = .error ∧ f.state ≠ .error then t else f.errorAt } := by
  have hs : (f.upAt == some t) = false := beq_eq_false_iff_ne.2 h
  rw [Fence.update]
  simp only [hs]
  rfl

/-- R254: a further update of a tick settles its updates anew. -/
theorem update_again_vals {f : Fence} {t : Nat} (i : Nat) (u : FenceUp) (h : f.upAt = some t) :
    (f.update t i u).vals = (insertUp u f.ups).foldl (fun x u => x.apply i u) f.base := by
  have hs : (f.upAt == some t) = true := beq_iff_eq.2 h
  rw [Fence.update]
  simp only [hs]
  rfl

theorem fenceUpdate_takes {s : State} {i : Nat} (u : FenceUp) (hf : (fenceOf s i).state ≠ .free)
    (he : (fenceOf s i).state = .error → (fenceOf s i).upAt = some s.time.tick) :
    fenceUpdate s i u = putFence s i ((fenceOf s i).update s.time.tick i u) := by
  refine if_neg ?_
  rintro (h | ⟨h, hn⟩)
  · exact hf h
  · exact hn (he h)

theorem fenceUpdate_refused {s : State} {i : Nat} (u : FenceUp) (h : (fenceOf s i).state = .error ∨ (fenceOf s i).state = .free)
    (hu : (fenceOf s i).upAt ≠ some s.time.tick) : fenceUpdate s i u = s :=
  if_pos (h.symm.imp_right fun he => ⟨he, hu⟩)

section

variable {s : State} {i : Nat} (hl : fenceLive (fenceOf s i).state)

include hl

theorem fenceUpdate_live (u : FenceUp) : fenceUpdate s i u = putFence s i ((fenceOf s i).update s.time.tick i u) := by
  refine fenceUpdate_takes u ?_ fun he => ?_
  · obtain h | h := hl <;> rw [h] <;> decide
  · obtain h | h := hl <;> rw [h] at he <;> cases he

variable (hu : (fenceOf s i).upAt ≠ some s.time.tick)

include hu

theorem fenceUpdate_first_vals (u : FenceUp) : (fenceOf (fenceUpdate s i u) i).vals = (fenceOf s i).vals.apply i u := by
  rw [fenceUpdate_live hl, fenceOf_putFence_self, update_first i u hu]; rfl

/-- R254: two updates of one tick act on what the fence held before them. -/
theorem fenceUpdate_second_vals (a b : FenceUp) : (fenceOf (fenceUpdate (fenceUpdate s i a) i b) i).vals =
    (insertUp b [a]).foldl (fun x u => x.apply i u) (fenceOf s i).vals := by
  have hg : fenceOf (fenceUpdate s i a) i = (fenceOf s i).update s.time.tick i a := by rw [fenceUpdate_live hl, fenceOf_putFence_self]
  have ht : (fenceUpdate s i a).time = s.time := by rw [fenceUpdate_live hl, putFence_time]
  have hf : (fenceOf (fenceUpdate s i a) i).upAt = some s.time.tick := by rw [hg]; rfl
  have hn : (fenceOf (fenceUpdate s i a) i).state ≠ .free := by
    rw [hg, update_first i a hu]
    exact apply_not_free (x := (fenceOf s i).vals) i a hl
  rw [fenceUpdate_takes b hn (fun _ => by rw [ht]; exact hf), fenceOf_putFence_self, ht, update_again_vals i b hf, hg,
    update_first i a hu]

/-- R254: which of two updates of one tick comes first makes no difference: the requester numbers order them. -/
theorem fenceUpdate_comm_vals {a b : FenceUp} (h : a.req < b.req) :
    (fenceOf (fenceUpdate (fenceUpdate s i a) i b) i).vals = (fenceOf (fenceUpdate (fenceUpdate s i b) i a) i).vals := by
  have hba : insertUp b [a] = [a, b] := if_neg (Nat.not_lt.2 (Nat.le_of_lt h))
  have hab : insertUp a [b] = [a, b] := if_pos h
  rw [fenceUpdate_second_vals hl hu, fenceUpdate_second_vals hl hu, hba, hab]

theorem fenceSignal_vals (v : BitVec 64) :
    (fenceOf (fenceSignal s i v) i).vals = (fenceOf s i).vals.apply i { req := reqFront, value := v } := fenceUpdate_first_vals hl hu _

theorem fenceSignal_raises {v : BitVec 64} (hv : v ≠ BitVec.allOnes 64) (h : (fenceOf s i).value.toNat ≤ v.toNat) :
    (fenceOf (fenceSignal s i v) i).value = v ∧ (fenceOf (fenceSignal s i v) i).state = .signalled := by
  have hg := (fenceSignal_vals hl hu v).trans (apply_raises (x := (fenceOf s i).vals) i hl rfl hv h)
  exact ⟨congrArg FenceVals.value hg, congrArg FenceVals.state hg⟩

theorem fenceSignal_lower {v : BitVec 64} (hv : v ≠ BitVec.allOnes 64) (h : v.toNat < (fenceOf s i).value.toNat) :
    (fenceOf (fenceSignal s i v) i).value = (fenceOf s i).value ∧ (fenceOf (fenceSignal s i v) i).state = (fenceOf s i).state ∧
    (fenceOf (fenceSignal s i v) i).ooo = satAdd 0xFFFF (fenceOf s i).ooo 1 := by
  have hg := (fenceSignal_vals hl hu v).trans (apply_lower (x := (fenceOf s i).vals) i hl rfl hv h)
  exact ⟨congrArg FenceVals.value hg, congrArg FenceVals.state hg, congrArg FenceVals.ooo hg⟩

theorem fenceSignal_allOnes {v : BitVec 64} (hv : v = BitVec.allOnes 64) :
    (fenceOf (fenceSignal s i v) i).state = .error ∧ (fenceOf (fenceSignal s i v) i).error = 0x030A ∧
    (fenceOf (fenceSignal s i v) i).value = (fenceOf s i).value := by
  have hg := (fenceSignal_vals hl hu v).trans (apply_allOnes (x := (fenceOf s i).vals) i hl rfl hv)
  exact ⟨congrArg FenceVals.state hg, congrArg FenceVals.error hg, congrArg FenceVals.value hg⟩

theorem fenceError_fails (code : Code) (origin : Nat) : (fenceOf (fenceError s i code origin) i).state = .error ∧
    (fenceOf (fenceError s i code origin) i).error = code := by
  have hg := (fenceUpdate_first_vals hl hu _).trans
    (apply_fails (x := (fenceOf s i).vals) (u := { req := reqFront, fails := true, code := code, origin := origin }) i hl rfl)
  exact ⟨congrArg FenceVals.state hg, congrArg FenceVals.error hg⟩

end

/-! ### Creation (R249, R251) -/

section

variable {s : State} {j : Nat} {x : Job} (h : dispatchedAs s j 0x12 x)

include h

theorem execCreateFence_full (hq : fenceQuotaOk (begun s) x.ctx = false) : execCreateFence j s = .next (finishJob (begun s) j 0x0308) :=
  (runJob_at _ h).trans (congrArg _ (if_pos hq))

/-- R249, R273: the fence is pending with its value, and its ID is written; without a place for the ID there is no fence. -/
theorem execCreateFence_creates {i : Nat} {a : IdxAlloc} (hq : fenceQuotaOk (begun s) x.ctx = true) (ht : s.front.fenceAlloc.take = some (i, a)) :
    let w := vaWrite (putFence { begun s with front.fenceAlloc := a } i
      { value := BitVec.ofNat 64 (d8 x.desc 0x20), state := .pending, ctx := x.ctx }) x.ctx (d8 x.desc 0x38) (leBytes 8 i)
    execCreateFence j s = .next (if w.1 = 0 then finishJob w.2 j 0 else finishJob (begun s) j w.1) := by
  have hb : (begun s).front.fenceAlloc.take = some (i, a) := ht
  refine (runJob_at _ h).trans (congrArg _ ((if_neg (by rw [hq]; decide)).trans ?_))
  rw [hb]

end

/-! ### Destruction (R255) -/

/-- R250: a fence that a context may signal exists and is its own. -/
theorem maySignal_not_free {s : State} {n i : Nat} (h : maySignal s n i = true) : (fenceOf s i).state ≠ .free := by
  rw [maySignal, Bool.and_eq_true, bne_iff_ne] at h
  exact h.1

theorem live_of_not_free_error {x : FenceState} (hf : x ≠ .free) (he : x ≠ .error) : fenceLive x := by
  cases x with
  | free => exact absurd rfl hf
  | pending => exact .inl rfl
  | signalled => exact .inr rfl
  | error => exact absurd rfl he

/-- R255: a fence in error, as its destruction leaves it while commands still name it. -/
def doomedFence (s : State) (i j : Nat) : State :=
  let t := fenceError (begun s) i 0x030B i
  putFence t i { fenceOf t i with destroying := true, destroyJobs := (fenceOf t i).destroyJobs ++ [j] }

section

variable {s : State} {j : Nat} {x : Job} (h : dispatchedAs s j 0x13 x)

include h

theorem execDestroyFence_refused (hm : maySignal (begun s) x.ctx (bits (d4 x.desc 0x20) 0 20) = false) :
    execDestroyFence j s = .next (finishJob (begun s) j 0x0307) :=
  (runJob_at _ h).trans (congrArg _ (if_pos hm))

theorem execDestroyFence_waits (hm : maySignal (begun s) x.ctx (bits (d4 x.desc 0x20) 0 20) = true) :
    execDestroyFence j s = .next (awaitJob (doomedFence s (bits (d4 x.desc 0x20) 0 20) j) j) :=
  (runJob_at _ h).trans (congrArg _ (if_neg (by rw [hm]; decide)))

end

/-- R252, R255: the fence of a destroy-fence enters error; its value stays. -/
theorem fenceError_destroyed {s : State} {i : Nat} (hl : fenceLive (fenceOf s i).state) (hu : (fenceOf s i).upAt ≠ some s.time.tick) :
    let u : FenceUp := { req := reqFront, fails := true, code := 0x030B, origin := i }
    fenceError s i 0x030B i = putFence s i { fenceOf s i with
      state := .error, error := 0x030B, origin := i, before := (fenceOf s i).value, upAt := some s.time.tick, ups := [u],
      base := (fenceOf s i).vals, errorAt := s.time.tick } := by
  intro u
  have hne : (fenceOf s i).state ≠ .error := by obtain h | h := hl <;> rw [h] <;> decide
  have hx : (fenceOf s i).vals.apply i u = { (fenceOf s i).vals with state := .error, error := 0x030B, origin := i } :=
    apply_fails (x := (fenceOf s i).vals) i hl rfl
  have hv : ((fenceOf s i).vals.apply i u).value = (fenceOf s i).value := congrArg FenceVals.value hx
  have hs : ((fenceOf s i).vals.apply i u).state = .error := congrArg FenceVals.state hx
  rw [fenceError, fenceUpdate_live hl, update_first i u hu, if_pos hv, if_pos ⟨hs, hne⟩, hx]
  rfl

/-- R255: the only fence that a destroy-fence changes is in error, keeps its value and awaits its release. -/
theorem doomedFence_fences {s : State} {i j : Nat} (hl : fenceLive (fenceOf s i).state) (hu : (fenceOf s i).upAt ≠ some s.time.tick) :
    (let f := fenceOf s i
     let g := fenceOf (doomedFence s i j) i
     g.state = .error ∧ g.error = 0x030B ∧ g.origin = i ∧ g.value = f.value ∧ g.errorAt = s.time.tick ∧ g.valueAt = f.valueAt ∧
     g.destroying = true ∧ g.destroyJobs = f.destroyJobs ++ [j] ∧ g.ctx = f.ctx ∧ g.ooo = f.ooo) ∧
    (∀ k, k ≠ i → fenceOf (doomedFence s i j) k = fenceOf s k) ∧ ∀ k, jobOf (doomedFence s i j) k = jobOf s k := by
  have he := fenceError_destroyed (s := begun s) (i := i) hl hu
  rw [doomedFence, he]
  refine ⟨?_, fun k hk => ?_, fun k => ?_⟩
  · rw [fenceOf_putFence_self, fenceOf_putFence_self]
    exact ⟨rfl, rfl, rfl, rfl, rfl, rfl, rfl, rfl, rfl, rfl⟩
  · rw [fenceOf_putFence_ne _ _ hk, fenceOf_putFence_ne _ _ hk, fenceOf_begun]
  · rw [jobOf_putFence, jobOf_putFence]; rfl

/-- R255: the fence is free again, and its index stands with the released ones. -/
def freedFence (s : State) (i : Nat) : State :=
  let t := putFence s i {}
  { t with front.fenceAlloc.released := t.front.fenceAlloc.released ++ [i] }

theorem fenceOf_freedFence (s : State) (i k : Nat) : fenceOf (freedFence s i) k = fenceOf (putFence s i {}) k := by
  rw [fenceOf, freedFence, fenceOf]

theorem jobOf_freedFence (s : State) (i k : Nat) : jobOf (freedFence s i) k = jobOf s k :=
  jobOf_congr (by rw [freedFence, putFence]) k

theorem execFenceFree_frees {s : State} {i j : Nat} (hi : i < 1048576) (hd : (fenceOf s i).destroying = true) (hs : (fenceOf s i).state ≠ .free)
    (hn : fenceNamed s i = false) (hj : (fenceOf s i).destroyJobs = [j]) : execFenceFree i s = .next (finishJob (freedFence s i) j 0) := by
  have hc : ((fenceOf s i).destroying && (fenceOf s i).state != .free && !fenceNamed s i) = true := by
    rw [hd, hn, bne_iff_ne.2 hs]; rfl
  rw [execFenceFree, if_neg (Nat.not_le.2 hi)]
  refine (if_pos hc).trans ?_
  rw [hj]; rfl

/-! ### Arenas (R256) -/

/-- R256: the pages that an object of `size` bytes at `va` adds to an arena. -/
def arenaPages (i : Nat) (o : Obj) : List ArenaPage :=
  (List.range (o.size.toNat / 2 ^ 25)).map (fun k => { obj := i, va := BitVec.ofNat 64 (o.va.toNat + k * 2 ^ 25), free := [(25, 0)] })

/-- R256: the object's pages have joined the arena of its context, which holds a binding of it. -/
def arenaGranted (s : State) (n i : Nat) : State :=
  bindObj (updCtx (begun s) n (fun c => { c with arena := c.arena ++ arenaPages i (objOf s i) })) i

/-- R256: the object's pages have left the arena of its context. -/
def arenaRevoked (s : State) (n i : Nat) : State :=
  unbindObj (updCtx (begun s) n (fun c => { c with arena := c.arena.filter (fun a => a.obj != i) })) i

section

variable {s : State} {j : Nat} {x : Job} (h : dispatchedAs s j 0x22 x)

include h

theorem execGrantArena_again (ha : (ctxOf s x.ctx).arena.any (fun a => a.obj == hIndex (d8 x.desc 0x20)) = true) :
    execGrantArena j s = .next (finishJob (begun s) j 0x030D) :=
  (runJob_at _ h).trans (congrArg _ (if_pos ha))

variable (ha : (ctxOf s x.ctx).arena.any (fun a => a.obj == hIndex (d8 x.desc 0x20)) = false)

include ha

theorem execGrantArena_full (hn : 4096 < (ctxOf s x.ctx).arena.length + (objOf s (hIndex (d8 x.desc 0x20))).size.toNat / 2 ^ 25) :
    execGrantArena j s = .next (finishJob (begun s) j 0x0306) :=
  (runJob_at _ h).trans (congrArg _ ((if_neg (Bool.eq_false_iff.1 ha)).trans (if_pos hn)))

theorem execGrantArena_grants (hn : (ctxOf s x.ctx).arena.length + (objOf s (hIndex (d8 x.desc 0x20))).size.toNat / 2 ^ 25 ≤ 4096) :
    execGrantArena j s = .next (finishJob (arenaGranted s x.ctx (hIndex (d8 x.desc 0x20))) j 0) :=
  (runJob_at _ h).trans (congrArg _ ((if_neg (Bool.eq_false_iff.1 ha)).trans (if_neg (Nat.not_lt.2 hn))))

end

section

variable {s : State} {j : Nat} {x : Job} (h : dispatchedAs s j 0x23 x)

include h

theorem execRevokeArena_none (hm : (ctxOf s x.ctx).arena.filter (fun a => a.obj == hIndex (d8 x.desc 0x20)) = []) :
    execRevokeArena j s = .next (finishJob (begun s) j 0x0301) :=
  (runJob_at _ h).trans (congrArg _ (if_pos (List.isEmpty_iff.2 hm)))

variable (hm : (ctxOf s x.ctx).arena.filter (fun a => a.obj == hIndex (d8 x.desc 0x20)) ≠ [])

include hm

theorem execRevokeArena_used
    (hu : ((ctxOf s x.ctx).arena.filter (fun a => a.obj == hIndex (d8 x.desc 0x20))).any (fun a => !a.used.isEmpty) = true) :
    execRevokeArena j s = .next (finishJob (begun s) j 0x030C) :=
  (runJob_at _ h).trans (congrArg _ ((if_neg (mt List.isEmpty_iff.1 hm)).trans (if_pos hu)))

theorem execRevokeArena_revokes
    (hu : ((ctxOf s x.ctx).arena.filter (fun a => a.obj == hIndex (d8 x.desc 0x20))).any (fun a => !a.used.isEmpty) = false) :
    execRevokeArena j s = .next (finishJob (arenaRevoked s x.ctx (hIndex (d8 x.desc 0x20))) j 0) :=
  (runJob_at _ h).trans (congrArg _ ((if_neg (mt List.isEmpty_iff.1 hm)).trans (if_neg (Bool.eq_false_iff.1 hu))))

end

/-- Settles O25, from one lemma for each outcome of each command and the laws of an update. -/
theorem fenceAndArenaCommands : Obligations.FenceAndArenaCommands := by
  refine ⟨fun s j x => ⟨fun h => ⟨execCreateFence_full h, fun i a hq ht => execCreateFence_creates h hq ht⟩,
      fun h => ⟨execDestroyFence_refused h, fun hm he hu => ?_⟩, fun i hi hd hs hn hj hx hw => ?_,
      fun h => ⟨execGrantArena_again h, execGrantArena_full h, fun ha hn => ?_⟩,
      fun h => ⟨execRevokeArena_none h, execRevokeArena_used h, fun hm hu => ?_⟩⟩,
    fun s i v code origin hu => ⟨fun he => ⟨fenceUpdate_refused _ he hu, fenceUpdate_refused _ he hu⟩,
      fun hl => ⟨fenceSignal_raises hl hu, fenceSignal_lower hl hu, fenceSignal_allOnes hl hu, (fenceError_fails hl hu code origin).1,
        (fenceError_fails hl hu code origin).2, fun a b hab => fenceUpdate_comm_vals hl hu hab⟩⟩⟩
  · obtain ⟨hj, hs⟩ := dispatched_not_done h
    obtain ⟨hf, hk, hjob⟩ := doomedFence_fences (j := j) (live_of_not_free_error (maySignal_not_free hm) he) hu
    refine ⟨_, execDestroyFence_waits h hm, ?_, fun k hki => ?_, ?_⟩
    · simp only [fenceOf_awaitJob]
      exact hf
    · rw [fenceOf_awaitJob]
      exact hk k hki
    · exact jobOf_awaitJob_self _ j x ((hjob j).trans hj) hs
  · refine ⟨_, execFenceFree_frees hi hd hs hn hj, ?_, fun k hk => ?_, ?_, rfl⟩
    · rw [fenceOf_finishJob, fenceOf_freedFence, fenceOf_putFence_self]
    · rw [fenceOf_finishJob, fenceOf_freedFence, fenceOf_putFence_ne _ _ hk]
    · exact doneWith_finishJob _ j x 0 (by rw [jobOf_freedFence, hx]) (by rw [hw]; decide)
  · obtain ⟨hj, hs⟩ := dispatched_not_done h
    refine ⟨_, execGrantArena_grants h ha hn, ?_, ?_, ?_, fun m hm => ?_, fun k hk => ?_⟩
    · rw [ctxOf_finishJob, arenaGranted, ctxOf_bindObj, ctxOf_updCtx_self]; rfl
    · rw [objOf_finishJob, arenaGranted, bindObj, objOf_updObj_self, objOf_updCtx, objOf_begun]
    · exact jobOf_finishJob_self _ j 0 x (by rw [arenaGranted, jobOf_bindObj, jobOf_updCtx, hj]) hs
    · rw [ctxOf_finishJob, arenaGranted, ctxOf_bindObj, ctxOf_updCtx_ne _ _ hm, ctxOf_begun]
    · rw [objOf_finishJob, arenaGranted, bindObj, objOf_updObj_ne _ _ hk, objOf_updCtx, objOf_begun]
  · obtain ⟨hj, hs⟩ := dispatched_not_done h
    refine ⟨_, execRevokeArena_revokes h hm hu, ?_, ?_, ?_⟩
    · rw [ctxOf_finishJob, arenaRevoked, ctxOf_unbindObj, ctxOf_updCtx_self]; rfl
    · rw [objOf_finishJob, arenaRevoked, unbindObj, objOf_updObj_self, objOf_updCtx, objOf_begun]
    · exact jobOf_finishJob_self _ j 0 x (by rw [arenaRevoked, jobOf_unbindObj, jobOf_updCtx, hj]) hs

end Sys2Proof.Proofs

/-! Step programs: load, unload and launch-step (R247, R287). -/

namespace Sys2Proof.Proofs

open Sys2Proof Sys2Proof.Machine

/-! ### load-program (R247) -/

/-- R247: an image whose header and bytes can be read, and that lies in its object, is loaded where no check fails (the order of the
checks is log 114). -/
theorem execLoadProgram_reads {s : State} {j : Nat} {x : Job} {h m : List Byte} (hd : dispatchedAs s j 0x20 x)
    (hh : vaRead (begun s) x.ctx (objOf s (hIndex (d8 x.desc 0x20))).va.toNat 128 = (0, h)) (h128 : 128 ≤ imgBytes h)
    (hsize : imgBytes h ≤ (objOf s (hIndex (d8 x.desc 0x20))).size.toNat)
    (hm : vaRead (begun s) x.ctx (objOf s (hIndex (d8 x.desc 0x20))).va.toNat (imgBytes h) = (0, m)) :
    let i := hIndex (d8 x.desc 0x20)
    let u := touchRead (begun s) engFront x.ctx (objOf s i).va.toNat (imgBytes h)
    execLoadProgram j s = .next (if loadCode u x.ctx i m ≠ 0 then finishJob u j (loadCode u x.ctx i m)
      else finishJob (loadImage u x.ctx i m) j 0) := by
  have hin : ¬ (imgBytes h < 128 ∨ (objOf s (hIndex (d8 x.desc 0x20))).size.toNat < imgBytes h) :=
    not_or.2 ⟨Nat.not_lt.2 h128, Nat.not_lt.2 hsize⟩
  rw [execLoadProgram, runJob_at _ hd]
  simp only [objOf_begun, hh, hm]
  exact congrArg _ ((if_neg (by decide)).trans ((if_neg hin).trans (if_neg (by decide))))

/-! ### unload-program (R247) -/

/-- R247: the program takes no new launch, and the command waits for its last one to end. -/
def unloadAsked (s : State) (i j : Nat) : State :=
  { begun s with steps.programs := mupd s.steps.programs i (fun g => { g with unloading := true, unloadJobs := g.unloadJobs ++ [j] }) }

theorem execUnloadProgram_waits {s : State} {j : Nat} {x : Job} (h : dispatchedAs s j 0x21 x) :
    execUnloadProgram j s = .next (unloadDone (awaitJob (unloadAsked s (hIndex (d8 x.desc 0x20)) j) j) (hIndex (d8 x.desc 0x20))) :=
  runJob_at _ h

/-! ### launch-step (R287) -/

/-- R287: the submission of a launch-step whose first launch tick is `l`. -/
def submissionOf (s : State) (j : Nat) (x : Job) (g : Program) (l : Nat) : Submission :=
  { job := j, ctx := x.ctx, part := (ctxOf s x.ctx).partition, program := hIndex (d8 x.desc 0x20), variant := bits (d8 x.desc 0x30) 0 4,
    next := l, dueNext := l, count := dLen x.desc, period := imgPeriod g.image, group := (ctxOf s x.ctx).group,
    came := s.front.lastDispatch.getD s.time.tick }

theorem execLaunchStep_submits {s : State} {j l : Nat} {x : Job} {g : Program} (h : dispatchedAs s j 4 x)
    (hg : mfind s.steps.programs (hIndex (d8 x.desc 0x20)) = some g) (hk : imgGroup g.image = (ctxOf s x.ctx).group)
    (hv : bits (d8 x.desc 0x30) 0 4 < imgVariants g.image)
    (hl : settleLaunch g.image x.desc (s.front.lastDispatch.getD s.time.tick) = (0, l)) :
    execLaunchStep j s = .next (awaitJob { begun s with steps.subs := s.steps.subs ++ [submissionOf s j x g l] } j) := by
  have hb : mfind (begun s).steps.programs (hIndex (d8 x.desc 0x20)) = some g := hg
  have ht : settleLaunch g.image x.desc ((begun s).front.lastDispatch.getD (now (begun s))) = (0, l) := hl
  rw [execLaunchStep, runJob_at _ h]
  simp only [hb, ht]
  exact congrArg _ ((if_neg (not_not.2 hk)).trans ((if_neg (Nat.not_le.2 hv)).trans (if_neg (by decide))))

/-- Settles O28, from one lemma for each of the three commands. -/
theorem programCommands : Obligations.ProgramCommands := by
  intro s j x
  refine ⟨fun hd h m hh h128 hsize hm => ⟨fun hc => ?_, fun hc => ?_⟩, execUnloadProgram_waits,
    fun h g l hg hk hv hl => ⟨_, execLaunchStep_submits h hg hk hv hl, ?_, ?_, ?_, ?_⟩⟩
  · exact (execLoadProgram_reads hd hh h128 hsize hm).trans (congrArg _ (if_pos hc))
  · exact (execLoadProgram_reads hd hh h128 hsize hm).trans (congrArg _ (if_neg (not_not.2 hc)))
  · obtain ⟨hj, hs⟩ := dispatched_not_done h
    exact jobOf_awaitJob_self _ j x hj hs
  · rw [awaitJob_cores]; rfl
  · rw [awaitJob_mem]; rfl
  · rw [awaitJob_steps]; rfl

end Sys2Proof.Proofs

/-! The administrator's commands on a context (R233, R260, R289, R293, R299, R314, R327, R328). -/

namespace Sys2Proof.Proofs

open Sys2Proof Sys2Proof.Machine

/-! ### create-context (R233, R299) -/

/-- R299: the bytes of the parameter block that a create-context names. -/
def parameterBlock (s : State) (x : Job) : List Byte := rdBytes s.mem.host (d8 x.desc 0x20) 128

theorem execCreateContext_eq {s : State} {j : Nat} {x : Job} (h : dispatchedAs s j 0x80 x) : execCreateContext j s =
    .next (finishJob (if createCode (begun s) (parameterBlock s x) = 0 then
      makeContext (begun s) (bits (fieldAt (parameterBlock s x) 0 4) 0 12) (pbContext (begun s) (parameterBlock s x)) else begun s)
      j (createCode (begun s) (parameterBlock s x))) := runJob_at _ h

theorem execCreateContext_fails {s : State} {j : Nat} {x : Job} (h : dispatchedAs s j 0x80 x)
    (hc : createCode (begun s) (parameterBlock s x) ≠ 0) :
    execCreateContext j s = .next (finishJob (begun s) j (createCode (begun s) (parameterBlock s x))) := by
  rw [execCreateContext_eq h, if_neg hc]

theorem execCreateContext_creates {s : State} {j : Nat} {x : Job} (h : dispatchedAs s j 0x80 x)
    (hc : createCode (begun s) (parameterBlock s x) = 0) : execCreateContext j s = .next (finishJob
      (makeContext (begun s) (bits (fieldAt (parameterBlock s x) 0 4) 0 12) (pbContext (begun s) (parameterBlock s x))) j 0) := by
  rw [execCreateContext_eq h, hc, if_pos rfl]

theorem ctxOf_makeContext (s : State) (n : Nat) (c : Context) (k : Nat) : ctxOf (makeContext s n c) k = ctxOf (putCtx s n c) k := rfl

theorem jobOf_makeContext (s : State) (n : Nat) (c : Context) (k : Nat) : jobOf (makeContext s n c) k = jobOf s k := rfl

theorem makeContext_mem (s : State) (n : Nat) (c : Context) : (makeContext s n c).mem = s.mem := rfl

theorem makeContext_parts (s : State) (n : Nat) (c : Context) : (makeContext s n c).parts = s.parts := rfl

/-! ### destroy-context and the end of a destruction (R260) -/

section

variable {s : State} {j : Nat} {x : Job} (h : dispatchedAs s j 0x81 x)

include h

theorem execDestroyContext_refused (hs : (ctxOf s (bits (d8 x.desc 0x20) 0 12)).state = .free ∨
    (ctxOf s (bits (d8 x.desc 0x20) 0 12)).state = .destroying) : execDestroyContext j s = .next (finishJob (begun s) j 0x030E) :=
  (runJob_at _ h).trans (congrArg _ (if_pos hs))

/-- R260: the phases of the abort take one step (log 77), and the command waits for the context to be free. -/
theorem execDestroyContext_aborts (hf : (ctxOf s (bits (d8 x.desc 0x20) 0 12)).state ≠ .free)
    (hd : (ctxOf s (bits (d8 x.desc 0x20) 0 12)).state ≠ .destroying) :
    execDestroyContext j s = .next (awaitJob (forceAbort (begun s) (bits (d8 x.desc 0x20) 0 12) 0x0801 (some j)) j) :=
  (runJob_at _ h).trans (congrArg _ (if_neg (not_or.2 ⟨hf, hd⟩)))

end

/-- R260 phase 8: the context's place is free, its ring pages are forgotten and its vectors masked. -/
def vacated (s : State) (n : Nat) : State :=
  let t := putCtx s n {}
  { t with front.ringPages := t.front.ringPages.filter (fun e => e.ctx != n),
           bound.msixMasked := t.bound.msixMasked ++ [(ctxOf s n).cqVector, (ctxOf s n).eqVector].filter (fun v => v ∉ t.bound.msixMasked) }

theorem ctxOf_vacated (s : State) (n k : Nat) : ctxOf (vacated s n) k = ctxOf (putCtx s n {}) k := rfl

theorem jobOf_vacated (s : State) (n j : Nat) : jobOf (vacated s n) j = jobOf s j := rfl

/-- R260: a context becomes free; the command that destroys it, if one does, is complete. -/
theorem freeContext_eq (s : State) (n : Nat) : freeContext s n = match (ctxOf s n).abort with
    | some { job := some j, forced := f, .. } => finishJob (vacated s n) j (if f then 0x0806 else 0)
    | _ => vacated s n := rfl

theorem ctxOf_freeContext (s : State) (n k : Nat) : ctxOf (freeContext s n) k = ctxOf (putCtx s n {}) k := by
  rw [freeContext_eq]
  split
  · rw [ctxOf_finishJob, ctxOf_vacated]
  · rw [ctxOf_vacated]

theorem freeContext_destroyed {s : State} {n j : Nat} {f : Bool}
    (h : (ctxOf s n).abort.map (fun a => (a.job, a.forced)) = some (some j, f)) :
    freeContext s n = finishJob (vacated s n) j (if f then 0x0806 else 0) := by
  obtain ⟨a, ha, he⟩ := Option.map_eq_some_iff.1 h
  obtain ⟨hj, hf⟩ := Prod.mk.inj he
  obtain ⟨code, since, job, forced⟩ := a
  obtain rfl : job = some j := hj
  obtain rfl : forced = f := hf
  rw [freeContext_eq, ha]

theorem execDestroyComplete_frees {s : State} {n : Nat} (hn : n < 4096) (hs : (ctxOf s n).state = .destroying) (hr : ctxReleased s n = true) :
    execDestroyComplete n s = .next (freeContext s n) :=
  (if_neg (Nat.not_le.2 hn)).trans (if_pos ⟨hs, hr⟩)

/-! ### set-context-sched (R314) -/

/-- R314: the share of a context is set, and its window unless that is kept. -/
def rescheduled (s : State) (n share base count : Nat) (keep : Bool) : State :=
  let t := updCtx (begun s) n (fun c => { c with share := share })
  if keep then t else updCtx t n (fun c => { c with sramBase := base, sramCount := count })

theorem execSetContextSched_cases {s : State} {j : Nat} {x : Job} (h : dispatchedAs s j 0x87 x) :
    let n := bits (d4 x.desc 0x20) 0 12
    let share := bits (d4 x.desc 0x24) 0 10
    let base := bits (d4 x.desc 0x28) 0 4
    let count := bits (d4 x.desc 0x28) 4 5
    let keep := bit (d4 x.desc 0x28) 9
    let code := schedCode (begun s) n share base count keep
    (code ≠ 0 → execSetContextSched j s = .next (finishJob (begun s) j code)) ∧
    (code = 0 → execSetContextSched j s = .next (finishJob (rescheduled s n share base count keep) j 0)) :=
  ⟨fun hc => (runJob_at _ h).trans (congrArg _ (if_pos hc)), fun hc => (runJob_at _ h).trans (congrArg _ (if_neg (not_not.2 hc)))⟩

theorem jobOf_rescheduled (s : State) (n share base count : Nat) (keep : Bool) (k : Nat) :
    jobOf (rescheduled s n share base count keep) k = jobOf (begun s) k := by
  rw [rescheduled]
  split
  · rw [jobOf_updCtx]
  · rw [jobOf_updCtx, jobOf_updCtx]

theorem ctxOf_rescheduled_ne (s : State) {n k : Nat} (share base count : Nat) (keep : Bool) (h : k ≠ n) :
    ctxOf (rescheduled s n share base count keep) k = ctxOf s k := by
  rw [rescheduled]
  split
  · rw [ctxOf_updCtx_ne _ _ h, ctxOf_begun]
  · rw [ctxOf_updCtx_ne _ _ h, ctxOf_updCtx_ne _ _ h, ctxOf_begun]

theorem ctxOf_rescheduled_self (s : State) (n share base count : Nat) (keep : Bool) : ctxOf (rescheduled s n share base count keep) n =
    if keep then { ctxOf s n with share := share } else { ctxOf s n with share := share, sramBase := base, sramCount := count } := by
  cases keep with
  | true => rw [rescheduled, if_pos rfl, if_pos rfl, ctxOf_updCtx_self, ctxOf_begun]
  | false => rw [rescheduled, if_neg Bool.false_ne_true, if_neg Bool.false_ne_true, ctxOf_updCtx_self, ctxOf_updCtx_self, ctxOf_begun]

/-! ### set-calibration (R328) -/

/-- R328: the calibration of program `i`: a value, or with 0 the wish for a measurement. -/
def calibrated (s : State) (n i v : Nat) : State :=
  let t := updCtx (begun s) n (fun c => { c with calibWanted := c.calibWanted.filter (· != i) })
  if v = 0 then updCtx t n (fun c => { c with calibWanted := c.calibWanted ++ [i] }) else updCtx t n (fun c => { c with calib := mput c.calib i v })

theorem execSetCalibration_sets {s : State} {j : Nat} {x : Job} (h : dispatchedAs s j 0x88 x)
    (hs : (ctxOf s (bits (d4 x.desc 0x20) 0 12)).state ≠ .free)
    (hp : s.steps.programs.any (fun e => e.1 == d4 x.desc 0x24 && e.2.ctx == bits (d4 x.desc 0x20) 0 12) = true) :
    execSetCalibration j s =
      .next (finishJob (calibrated s (bits (d4 x.desc 0x20) 0 12) (d4 x.desc 0x24) (d4 x.desc 0x28)) j 0) :=
  (runJob_at _ h).trans (congrArg _ ((if_neg hs).trans (if_neg (Bool.not_eq_false _ ▸ hp))))

theorem jobOf_calibrated (s : State) (n i v k : Nat) : jobOf (calibrated s n i v) k = jobOf (begun s) k := by
  rw [calibrated]
  split <;> rw [jobOf_updCtx, jobOf_updCtx]

theorem ctxOf_calibrated_ne (s : State) {n k : Nat} (i v : Nat) (h : k ≠ n) : ctxOf (calibrated s n i v) k = ctxOf s k := by
  rw [calibrated]
  split <;> rw [ctxOf_updCtx_ne _ _ h, ctxOf_updCtx_ne _ _ h, ctxOf_begun]

theorem calibrated_value (s : State) (n i : Nat) {v : Nat} (h : v ≠ 0) : mfind (ctxOf (calibrated s n i v) n).calib i = some v := by
  rw [calibrated, if_neg h, ctxOf_updCtx_self]
  exact mfind_mput_self ..

theorem calibrated_wanted (s : State) (n i : Nat) :
    i ∈ (ctxOf (calibrated s n i 0) n).calibWanted ∧ (ctxOf (calibrated s n i 0) n).calib = (ctxOf s n).calib := by
  rw [calibrated, if_pos rfl, ctxOf_updCtx_self, ctxOf_updCtx_self]
  exact ⟨List.mem_append_right _ (List.mem_singleton_self i), rfl⟩

/-! ### read-accounting (R327) -/

theorem execReadAccounting_reads {s : State} {j : Nat} {x : Job} (h : dispatchedAs s j 0x89 x) (h0 : dLen x.desc ≠ 0)
    (hl : bits (d4 x.desc 0x20) 0 12 + dLen x.desc ≤ 4096) : execReadAccounting j s = .next (finishJob { begun s with
      mem.host := wrBytes s.mem.host (d8 x.desc 0x28)
        ((List.range (dLen x.desc)).flatMap (fun i => accountBytes s (bits (d4 x.desc 0x20) 0 12 + i))) } j 0) :=
  (runJob_at _ h).trans (congrArg _ (if_neg (not_or.2 ⟨h0, Nat.not_lt.2 hl⟩)))

/-! ### replay-holding-ring (R293) -/

theorem replayGo_empty {s : State} {n : Nat} (h : (ctxOf s n).holding = []) (fuel : Nat) : replayGo fuel s n = s := by
  cases fuel with
  | zero => rfl
  | succ k => rw [replayGo, h]

section

variable {s : State} {j : Nat} {x : Job} (h : dispatchedAs s j 0x90 x)

include h

theorem execReplayHoldingRing_refused (hs : (ctxOf s (bits (d8 x.desc 0x20) 0 12)).state ≠ .broken) :
    execReplayHoldingRing j s = .next (finishJob (begun s) j 0x010A) :=
  (runJob_at _ h).trans (congrArg _ (if_pos hs))

/-- R293: with nothing held back, a broken context is active again. -/
theorem execReplayHoldingRing_empty (hs : (ctxOf s (bits (d8 x.desc 0x20) 0 12)).state = .broken)
    (he : (ctxOf s (bits (d8 x.desc 0x20) 0 12)).holding = []) : execReplayHoldingRing j s =
      .next (finishJob (updCtx (resumeTimers (begun s) (bits (d8 x.desc 0x20) 0 12)) (bits (d8 x.desc 0x20) 0 12)
        (fun c => { c with state := .active })) j 0) := by
  rw [execReplayHoldingRing, runJob_at _ h]
  refine congrArg _ ((if_neg (not_not.2 hs)).trans ?_)
  rw [replayGo_empty (s := begun s) he]
  exact if_pos (List.isEmpty_iff.2 he)

end

/-! ### set-queue (R277, R289) -/

theorem execSetQueue_sets {s : State} {j : Nat} {x : Job} (h : dispatchedAs s j 0x91 x)
    (hs : (ctxOf s (bits (d8 x.desc 0x20) 0 12)).state ≠ .free) (ht : bits (d4 x.desc 0x24) 0 26 ≤ 60000000) :
    execSetQueue j s = .next (finishJob (updSubq (begun s) (bits (d8 x.desc 0x20) 0 12) (bits (d8 x.desc 0x20) 12 2) (fun y =>
      { y with fetchLimit := bits (d8 x.desc 0x28) 0 8,
               timeoutUs := if bits (d4 x.desc 0x24) 0 26 = 0 then 2000000 else bits (d4 x.desc 0x24) 0 26 })) j 0) :=
  (runJob_at _ h).trans (congrArg _ ((if_neg hs).trans (if_neg (Nat.not_lt.2 ht))))

theorem subqOf_updSubq_self (s : State) (n q : Nat) (f : SubQ → SubQ) : subqOf (updSubq s n q f) n q = f (subqOf s n q) := by
  rw [subqOf, updSubq, ctxOf_updCtx_self, mmod, mget_mset_self, subqOf]

theorem subqOf_updSubq_ne (s : State) (n : Nat) {q r : Nat} (f : SubQ → SubQ) (h : r ≠ q) : subqOf (updSubq s n q f) n r = subqOf s n r := by
  rw [subqOf, updSubq, ctxOf_updCtx_self, mmod, mget_mset_ne _ _ h, subqOf]

theorem subqOf_finishJob (s : State) (j : Nat) (c : Code) (n q : Nat) : subqOf (finishJob s j c) n q = subqOf s n q := by
  rw [subqOf, ctxOf_finishJob, subqOf]

/-- A dispatched command is complete whatever its effect leaves in the state, where that is not its own entry. -/
theorem dispatched_finishes {s t : State} {j op : Nat} {x : Job} (h : dispatchedAs s j op x) (ht : jobOf t j = jobOf (begun s) j) (c : Code) :
    doneWith (finishJob t j c) j c := by
  obtain ⟨hj, hs⟩ := dispatched_not_done h
  exact doneWith_finishJob t j x c (ht.trans hj) hs

/-- Settles O30, from one lemma for each outcome of each command. -/
theorem contextCommands : Obligations.ContextCommands := by
  intro s j x
  refine ⟨fun h => ⟨execCreateContext_fails h, fun hc => ⟨_, execCreateContext_creates h hc, ?_, fun i hi => ?_, ?_, ?_, ?_⟩⟩,
    fun h => ⟨execDestroyContext_refused h, execDestroyContext_aborts h⟩,
    fun i hi hs hr => ⟨_, execDestroyComplete_frees hi hs hr, ?_, fun k hk => ?_, fun f hx hw ha => ?_⟩,
    fun h => ⟨(execSetContextSched_cases h).1, fun hc => ⟨_, (execSetContextSched_cases h).2 hc, ?_, ?_, fun k hk => ?_⟩⟩,
    fun h hs hp => ⟨_, execSetCalibration_sets h hs hp, ?_, fun k hk => ?_, fun hv => ?_, fun hv => ?_⟩,
    execReadAccounting_reads,
    fun h => ⟨execReplayHoldingRing_refused h, fun hs he => ⟨_, execReplayHoldingRing_empty h hs he, ?_, ?_, fun k hk => ?_⟩⟩,
    fun h hs ht => ⟨_, execSetQueue_sets h hs ht, ?_, fun k hk => ?_, ?_, fun r hr => ?_⟩⟩
  -- create-context
  · rw [ctxOf_finishJob, ctxOf_makeContext]
    exact ctxOf_putCtx_self ..
  · rw [ctxOf_finishJob, ctxOf_makeContext]
    exact ctxOf_putCtx_ne _ _ hi
  · exact dispatched_finishes h (jobOf_makeContext ..) 0
  · rw [finishJob_mem, makeContext_mem]; rfl
  · rw [finishJob_parts, makeContext_parts]; rfl
  -- the end of a destruction
  · rw [ctxOf_freeContext, ctxOf_putCtx_self]
  · rw [ctxOf_freeContext, ctxOf_putCtx_ne _ _ hk]
  · rw [freeContext_destroyed ha]
    exact doneWith_finishJob _ j x _ (by rw [jobOf_vacated, hx]) (by rw [hw]; decide)
  -- set-context-sched
  · exact dispatched_finishes h (jobOf_rescheduled ..) 0
  · rw [ctxOf_finishJob, ctxOf_rescheduled_self]
  · rw [ctxOf_finishJob, ctxOf_rescheduled_ne _ _ _ _ _ hk]
  -- set-calibration
  · exact dispatched_finishes h (jobOf_calibrated ..) 0
  · rw [ctxOf_finishJob, ctxOf_calibrated_ne s _ _ hk]
  · rw [ctxOf_finishJob, calibrated_value s _ _ hv]
  · rw [ctxOf_finishJob, hv]
    exact calibrated_wanted ..
  -- replay-holding-ring
  · exact dispatched_finishes h (by rw [jobOf_updCtx, resumeTimers, jobOf_updCtx]) 0
  · rw [ctxOf_finishJob, ctxOf_updCtx_self]
  · rw [ctxOf_finishJob, ctxOf_updCtx_ne _ _ hk, resumeTimers, ctxOf_updCtx_ne _ _ hk, ctxOf_begun]
  -- set-queue
  · exact dispatched_finishes h (by rw [updSubq, jobOf_updCtx]) 0
  · rw [ctxOf_finishJob, updSubq, ctxOf_updCtx_ne _ _ hk, ctxOf_begun]
  · rw [subqOf_finishJob, subqOf_updSubq_self]; rfl
  · rw [subqOf_finishJob, subqOf_updSubq_ne _ _ _ hr]; rfl

end Sys2Proof.Proofs

/-! The watchdog of a destruction, partition resets and the resets of functions (R260, R261, R330). -/

namespace Sys2Proof.Proofs

open Sys2Proof Sys2Proof.Machine

/-! ### The watchdog of a destruction (R261) -/

/-- R261: a partition is reset, unless it is being reset already. -/
def resetOnce (s : State) (p : Nat) : State := if (partOf s p).resetUntil.isSome then s else resetPartition s p

/-- R261: the watchdog has counted and reported, and the destruction is forced from here on. -/
def watchdogFired (s : State) (n : Nat) (a : Abort) : State :=
  updCtx (addF (eventAdm s n (watchdogEvent s n)) qfDestroyWd) n (fun c => { c with abort := some { a with forced := true } })

theorem execDestroyWatchdog_fires {s : State} {n : Nat} {a : Abort} (hn : n < 4096) (ha : (ctxOf s n).abort = some a)
    (hs : (ctxOf s n).state = .destroying) (hj : a.job ≠ none) (hf : a.forced = false) (ht : a.since + 1400000 ≤ s.time.tick) :
    execDestroyWatchdog n s = .next (resetOnce (watchdogFired s n a) (ctxOf s n).partition) := by
  rw [execDestroyWatchdog, if_neg (Nat.not_le.2 hn)]
  simp only [ha]
  exact if_pos ⟨hs, Option.isSome_iff_ne_none.2 hj, hf, ht⟩

/-- R261: the watchdog watches destructions alone. -/
theorem execDestroyWatchdog_idle {s : State} {n : Nat} (hn : n < 4096) (hs : (ctxOf s n).state ≠ .destroying) :
    execDestroyWatchdog n s = .next s := by
  rw [execDestroyWatchdog, if_neg (Nat.not_le.2 hn)]
  dsimp only
  split
  · rfl
  · exact if_neg fun ⟨hd, _⟩ => hs hd

/-! ### Partition resets (R261) -/

section

variable {s : State} {p t : Nat} (hp : p < 64) (ht : (partOf s p).resetUntil = some t)

include hp ht

theorem execPartitionResetDone_eq : execPartitionResetDone p s =
    if s.time.tick ≤ t then .next (finishForced (updPart s p (fun x => { x with resetUntil := none })) p) else .next s := by
  rw [execPartitionResetDone, res_of_part hp, ht]
  rfl

theorem execPartitionResetOverrun_eq :
    execPartitionResetOverrun p s = if t < s.time.tick then .next (failPartition s p) else .next s := by
  rw [execPartitionResetOverrun, res_of_part hp, ht]
  rfl

end

/-! ### Resets of functions (R330) -/

/-- R330: the reset of a function without contexts notes its beginning and changes nothing else of the block. -/
theorem beginReset_no_contexts {s : State} {f : Nat} (h0 : 0 < f) (h : fnCtxs s f true = []) : beginReset s f none =
    { s with bound.instResets := s.bound.instResets ++ [(f, s.time.tick, none)], bound.flrDone := s.bound.flrDone &&& ~~~(1#16 <<< f) } := by
  have hf : ¬ (f = 0 ∧ (none : Option Nat).isNone = true) := fun ⟨h, _⟩ => absurd h (Nat.ne_of_gt h0)
  rw [beginReset, if_neg hf, Option.isNone_none, h]
  rfl

theorem execFunctionLevelReset_eq {s : State} {f : Nat} (h : f < 16) : execFunctionLevelReset f s = .next (beginReset s f none) :=
  if_neg (Nat.not_le.2 h)

theorem execResetInstance_begins {s : State} {j : Nat} {x : Job} (h : dispatchedAs s j 0x8C x) :
    execResetInstance j s = .next (awaitJob (beginReset (begun s) (bits (d8 x.desc 0x20) 0 4) (some j)) j) := runJob_at _ h

section

variable {s : State} {f tk : Nat} (hr : s.bound.instResets = [(f, tk, none)])

include hr

/-- R330: the only reset under way is a function-level one. -/
theorem flrRuns_one : flrRuns s f = true := by
  rw [flrRuns, hr]
  simp

/-- R330: the reset is over: its function is silent until a context of it is created, and its completion can be read. -/
theorem execFunctionResetComplete_one (h0 : 0 < f) (hf : f < 16) (hn : fnCtxs s f true = []) : execFunctionResetComplete f s =
    .next { s with bound.instResets := [], bound.fnSilent := s.bound.fnSilent ||| (1#16 <<< f),
                   bound.flrDone := s.bound.flrDone ||| (1#16 <<< f) } := by
  have hc : ((fnCtxs s f (flrRuns s f)).isEmpty && s.bound.instResets.any (fun e => e.1 == f)) = true := by
    rw [flrRuns_one hr, hn, hr]
    simp
  have hl : s.bound.instResets.filter (fun e => e.1 == f) = [(f, tk, none)] := by rw [hr]; simp
  have hm : s.bound.instResets.filter (fun e => e.1 != f) = [] := by rw [hr]; simp
  have hz : ¬ (f = 0 ∧ flrRuns s 0 = true) := fun ⟨h, _⟩ => absurd h (Nat.ne_of_gt h0)
  rw [execFunctionResetComplete, if_neg (Nat.not_le.2 hf), if_pos hc]
  simp only [hl, hm, if_neg hz]
  rfl

/-- R330: the resets of the partitions that still hold a context of the function, for one context. -/
theorem execFunctionResetBound_one {n : Nat} (hf : f < 16) (ht : tk + 1400000 ≤ s.time.tick) (hn : fnCtxs s f true = [n])
    (hp : (ctxOf s n).partition < 64) : execFunctionResetBound f s = .next (resetOnce
      (updCtx s n (fun c => { c with abort := c.abort.map (fun a => { a with forced := true }) })) (ctxOf s n).partition) := by
  have hc : s.bound.instResets.any (fun e => e.1 == f && decide (e.2.1 + 1400000 ≤ now s)) = true := by
    rw [hr, List.any_cons, decide_eq_true (show tk + 1400000 ≤ now s from ht)]
    simp
  have hl : fnCtxs s f (flrRuns s f) = [n] := by rw [flrRuns_one hr, hn]
  have hq : (List.range 64).filter (fun p => [n].any (fun k => (ctxOf s k).partition == p)) = [(ctxOf s n).partition] := by
    simp only [List.any_cons, List.any_nil, Bool.or_false]
    exact range_filter_beq _ hp
  rw [execFunctionResetBound, if_neg (Nat.not_le.2 hf), if_pos hc]
  simp only [hl, hq]
  rfl

end

/-- Settles O32, from one lemma for each outcome of each command. -/
theorem resetsAndWatchdog : Obligations.ResetsAndWatchdog := by
  intro s
  refine ⟨fun n a hn ha hs hj hf ht => execDestroyWatchdog_fires hn ha hs hj hf ht, fun n hn hs => execDestroyWatchdog_idle hn hs,
    fun p t hp ht => ⟨fun h => ?_, fun h => ⟨?_, ?_⟩, fun h => ?_⟩,
    fun f h0 hf hn => ⟨_, (execFunctionLevelReset_eq hf).trans (congrArg _ (beginReset_no_contexts h0 hn)), rfl, rfl, rfl, rfl⟩,
    fun j x h => execResetInstance_begins h,
    fun f tk h0 hf hr hn => ⟨_, execFunctionResetComplete_one hr h0 hf hn, rfl, rfl, rfl⟩,
    fun f n tk hf hr ht hn hp => execFunctionResetBound_one hr hf ht hn hp⟩
  · exact (execPartitionResetDone_eq hp ht).trans (if_pos h)
  · exact (execPartitionResetDone_eq hp ht).trans (if_neg (Nat.not_le.2 h))
  · exact (execPartitionResetOverrun_eq hp ht).trans (if_pos h)
  · exact (execPartitionResetOverrun_eq hp ht).trans (if_neg (Nat.not_lt.2 h))

end Sys2Proof.Proofs

/-! The administrator queue: its index registers, fetch, dispatch and retirement (R47, R49, R277 to R280, R298). -/

namespace Sys2Proof.Proofs

open Sys2Proof Sys2Proof.Machine

/-! ### The depths of the rings, and the registers that index them (R269) -/

theorem admDepth_pos (s : State) (f : Fld) (hi : Nat) : 0 < admDepth s f hi := by
  rw [admDepth]
  split
  · exact Nat.two_pow_pos _
  · decide

theorem admDepth_le {s : State} {f : Fld} {hi : Nat} (h : 6 ≤ hi) : admDepth s f hi ≤ 2 ^ hi := by
  rw [admDepth]
  split
  next hn => exact Nat.pow_le_pow_right (by decide) hn.2
  next => exact Nat.pow_le_pow_right (n := 2) (by decide) h

theorem getF_setF_of_lt {s : State} {f : Fld} {v : Nat} (h : f.lo + f.width ≤ 32) (hv : v < 2 ^ f.width) : getF (setF s f v) f = v :=
  (getF_setF_self s f v 0 h).trans (Nat.mod_eq_of_lt hv)

/-! ### Writes of the indices (R298) -/

/-- R47, R49: the controller drops what the host writes. -/
theorem hostWrite_dropped {s : State} (h : s.bound.hostAnswers = false) (f : State → State) : hostWrite s f = .next s := by
  rw [hostWrite, h]; rfl

theorem flushAdmLost_none {s : State} (h : s.front.admDropped = 0) : flushAdmLost s = s := by
  rw [flushAdmLost]
  exact if_pos (.inl h)

section

variable {s : State} {v : W32} (hh : s.bound.hostAnswers = true)

include hh

theorem execAdmqTailWrite_moves (hx : bits v.toNat 0 16 < admDepth s qfAdmqLog2 16) :
    execAdmqTailWrite v s = .next (setF s qfAdmqTail (bits v.toNat 0 16)) := by
  rw [execAdmqTailWrite, hostWrite_answers hh, if_neg (Nat.not_le.2 hx)]

theorem execAdmcqHeadWrite_moves (hx : bits v.toNat 0 16 < admDepth s qfAdmcqLog2 16) :
    execAdmcqHeadWrite v s = .next (setF s qfAdmcqHead (bits v.toNat 0 16)) := by
  rw [execAdmcqHeadWrite, hostWrite_answers hh, if_neg (Nat.not_le.2 hx)]

/-- R296, R298: with no drops to tell, the write moves the head and no more. -/
theorem execAdmeqHeadWrite_moves (hx : bits v.toNat 0 16 < admDepth s qfAdmeqLog2 12) (hd : s.front.admDropped = 0) :
    execAdmeqHeadWrite v s = .next (setF s qfAdmeqHead (bits v.toNat 0 16)) := by
  rw [execAdmeqHeadWrite, hostWrite_answers hh, if_neg (Nat.not_le.2 hx), flushAdmLost_none (by rw [setF_front, hd])]

end

/-- Settles O19, from one lemma for each index register and `hostWrite_dropped`. -/
theorem administratorIndices : Obligations.AdministratorIndices := by
  refine ⟨fun s v hh => ?_, fun s v i hh => ?_⟩
  · intro x
    have hx : bits v.toNat 0 16 = x := by rw [bits, Nat.pow_zero, Nat.div_one]; rfl
    have h16 : x < 2 ^ 16 := Nat.mod_lt _ (by decide)
    refine ⟨fun hlt => ⟨?_, getF_setF_of_lt (by decide) h16⟩, fun hlt => ⟨?_, getF_setF_of_lt (by decide) h16⟩,
      fun hlt hd => ⟨?_, getF_setF_of_lt (by decide) h16⟩⟩
    · exact hx ▸ execAdmqTailWrite_moves hh (hx ▸ hlt)
    · exact hx ▸ execAdmcqHeadWrite_moves hh (hx ▸ hlt)
    · exact hx ▸ execAdmeqHeadWrite_moves hh (hx ▸ hlt) hd
  · simp only [exec, execAdmqTailWrite, execAdmcqHeadWrite, execAdmeqHeadWrite, execAcClearAll, execSnapshotArm, execDomainResetArm,
      execUnitMarkOut, execAshWatchSet, execAshWatchClear, execDigestGo, hostWrite_dropped hh, and_self]

/-! ### Fetch (R277, R298) -/

/-- R298: the descriptor at the head of the administrator queue, as it is read from host memory in the current tick. -/
def announcedDesc (s : State) : Desc :=
  { raw := rdBytes s.mem.host (getF64 s qfAdmqLo + 64 * getF s qfAdmqHead) 64, slot := getF s qfAdmqHead, submit := s.time.tick }

/-- R277: the descriptor is in the empty buffer, the head has moved past it, and the fetch is counted. -/
def admBuffered (s : State) : State :=
  let t := setF s qfAdmqHead ((getF s qfAdmqHead + 1) % admDepth s qfAdmqLog2 16)
  addF64 { t with front.admFetched := [announcedDesc s] } qfFetchedLo

theorem admBuffered_front (s : State) : (admBuffered s).front = { s.front with admFetched := [announcedDesc s] } := by
  rw [admBuffered, addF64_front, setF_front]

/-- R277: one descriptor is announced, and the buffer and the completion ring have room for it. -/
theorem fetchAdm_announced {s : State} (hr : frontRuns s = true) (ht : getF s qfAdmqTail ≠ getF s qfAdmqHead)
    (hf : s.front.admFetched = []) (hc : admReserved s < admDepth s qfAdmcqLog2 16 - 1) : fetchAdm s = admHead (admBuffered s) := by
  have hg : (frontRuns s && getF s qfAdmqTail != getF s qfAdmqHead && decide (s.front.admFetched.length < 8) &&
      decide (admReserved s < admDepth s qfAdmcqLog2 16 - 1)) = true := by
    rw [hr, hf, bne_iff_ne.2 ht, decide_eq_true hc]; rfl
  refine (if_pos hg).trans (congrArg admHead ?_)
  rw [setF_front, hf]
  rfl

/-- Settles O20: the buffered descriptor reaches the head at once. -/
theorem administratorFetch : Obligations.AdministratorFetch := by
  intro s hs hr ht hf hc
  have he : exec (.descriptorFetch true) s = .next (admHead (admBuffered s)) :=
    congrArg _ ((if_pos hs).trans (fetchAdm_announced hr ht hf hc))
  rw [admHead_cons _ (announcedDesc s) (by rw [admBuffered_front]) rfl] at he
  refine ⟨_, _, he, rfl, rfl, rfl, ?_, ?_, ?_, ?_⟩
  · simp only [now, admBuffered, addF64_time, setF_time]
  · simp only [admBuffered, addF64_mem, setF_mem]
  · simp only [admBuffered_front]
  · simp only [admBuffered, addF64_cores, setF_cores]

/-! ### Dispatch (R278, R298) -/

/-- R274, R278: a descriptor that passed its checks, waits on nothing and is not serial is not held at the head of its queue. -/
theorem headState_ready {s : State} {admin : Bool} {n q : Nat} {parent : Option Nat} {d : Desc} (hc : d.headCode = 0)
    (hw : dWaitEn d = false) (hs : dSerial d = false) : headState s admin n q parent d = .ready := by
  simp [headState, hc, hw, hs]

/-- R298: the record of an administrator command whose dispatch begins. -/
def admJob (d : Desc) : Job := { admin := true, ctx := 0, queue := 0, desc := d }

theorem dispatchAdm_ready {s : State} {d : Desc} (hf : s.front.admFetched = [d]) (hd : headState s true 0 0 none d = .ready) :
    dispatchAdm s = dispatchJob { s with front.admFetched := [] } (admJob d) := by
  rw [dispatchAdm, hf]
  dsimp only
  rw [hd]
  rfl

/-- R278: the record of an administrator command that has taken a dispatch slot. -/
def admDispatched (s : State) (d : Desc) : Job :=
  { admJob d with start := if dOpcode d = 4 then none else some (now s), refs := descRefs true d }

/-- R278, R298: dispatch checks no handle of an administrator command, and takes its references. -/
theorem dispatchJob_adm (s : State) (d : Desc) : dispatchJob s (admJob d) =
    takeRefs (addF64 { newJob s (admDispatched s d) with front.executing := some s.front.jobNext } qfDispatchedLo) (descRefs true d) := rfl

/-- R245: beside the objects and their records, a dispatched administrator command changes the front end's slot and its own record. -/
theorem dispatchJob_adm_shape (s : State) (d : Desc) : ∃ r o m, dispatchJob s (admJob d) =
    { newJob s (admDispatched s d) with front.executing := some s.front.jobNext, regs := r, front.objs := o, mem.hbm := m } := by
  obtain ⟨o, m, h⟩ := takeRefs_shape
    (addF64 { newJob s (admDispatched s d) with front.executing := some s.front.jobNext } qfDispatchedLo) (descRefs true d)
  exact ⟨_, o, m, (dispatchJob_adm s d).trans h⟩

/-- R278: the slot is taken while an effect is to come, and for 4 ticks after a dispatch. -/
theorem slotFree_taken {s : State} (h : s.front.executing ≠ none ∨ ∃ t, s.front.lastDispatch = some t ∧ s.time.tick < t + 4) :
    slotFree s = false := by
  rw [slotFree]
  obtain he | ⟨t, ht, hlt⟩ := h
  · obtain ⟨j, hj⟩ := Option.ne_none_iff_exists'.1 he
    rw [hj]; rfl
  · rw [ht]
    dsimp only
    rw [decide_eq_false (show ¬ t + 4 ≤ now s from Nat.not_le.2 hlt), Bool.and_false]

theorem execDispatch_taken {s : State} {a : Bool} (h : slotFree s = false) : execDispatch a s = .next s := by
  rw [execDispatch, h]; rfl

theorem execDispatch_adm {s : State} (h : slotFree s = true) : execDispatch true s = .next (dispatchAdm s) := by
  rw [execDispatch, if_pos h, if_pos rfl]

/-- Settles O21, from the shape of a dispatched administrator command and `slotFree_taken`. -/
theorem administratorDispatch : Obligations.AdministratorDispatch := by
  refine ⟨fun s d hf hs hc hw hser => ?_, fun s a h => execDispatch_taken (slotFree_taken h)⟩
  have he := (execDispatch_adm hs).trans (congrArg _ (dispatchAdm_ready hf (headState_ready hc hw hser)))
  obtain ⟨r, o, m, ht⟩ := dispatchJob_adm_shape { s with front.admFetched := [] } d
  rw [ht] at he
  exact ⟨_, admDispatched s d, he, rfl, rfl, rfl, mfind_mput_self .., rfl, rfl, rfl, fun i hi => mfind_mput_ne _ _ hi, rfl⟩

/-! ### Retirement (R279, R280, R298) -/

/-- R279: the state after a retired administrator command whose entry is `e`. -/
def admRetired (s : State) (j : Nat) (e : List Byte) : State :=
  let t := writeAdmEntry s e false
  { t with front.jobs := mdel t.front.jobs j }

theorem writeAdmEntry_jobs (s : State) (e : List Byte) : (writeAdmEntry s e false).front.jobs = s.front.jobs := rfl

theorem writeAdmEntry_cores (s : State) (e : List Byte) : (writeAdmEntry s e false).cores = s.cores := rfl

/-- R298: an entry is written at the tail of the completion ring, and nothing else of a memory changes. -/
theorem writeAdmEntry_mem (s : State) (e : List Byte) : (writeAdmEntry s e false).mem =
    { s.mem with host := wrBytes s.mem.host (getF64 s qfAdmcqLo + 32 * getF s qfAdmcqTail) e } := rfl

/-- R298: the tail of the completion ring moves by one entry, round the ring. -/
theorem writeAdmEntry_tail (s : State) (e : List Byte) :
    getF (writeAdmEntry s e false) qfAdmcqTail = (getF s qfAdmcqTail + 1) % admDepth s qfAdmcqLog2 16 :=
  getF_setF_of_lt (by decide) (Nat.lt_of_lt_of_le (Nat.mod_lt _ (admDepth_pos ..)) (admDepth_le (by decide)))

theorem jobOf_admRetired_self (s : State) (j : Nat) (e : List Byte) : jobOf (admRetired s j e) j = none := mfind_mdel_self ..

theorem jobOf_admRetired_ne (s : State) {i j : Nat} (e : List Byte) (h : i ≠ j) : jobOf (admRetired s j e) i = jobOf s i := by
  rw [jobOf, admRetired, writeAdmEntry_jobs, mfind_mdel_ne _ h, jobOf]

theorem execCommandRetire_done {s : State} {j : Nat} {x : Job} (h : jobOf s j = some x) (hs : x.status = .done) :
    execCommandRetire j .good s = .next (retire s j x) := by
  rw [execCommandRetire, h]
  exact if_pos hs

/-- Settles O22, from `retire_adm` and the laws of an entry of the administrator's completion ring. -/
theorem administratorRetire : Obligations.AdministratorRetire := by
  intro s j x hj hst hc ha hp hr he hv hs hi ho tail depth
  have ht := execCommandRetire_done hj hst
  rw [retire_adm s j x hc ha hp hr he hs hi ho hv] at ht
  refine ⟨admRetired s j (entryBytes { x with endAt := s.time.tick } (getF s qfAdmqHead) (phaseBit s.front.admCqWraps) 0), ht,
    jobOf_admRetired_self .., fun i hij => jobOf_admRetired_ne _ _ hij, writeAdmEntry_tail .., ?_, ?_, ?_⟩
  · rw [admRetired, writeAdmEntry_mem]
  · rw [admRetired, writeAdmEntry_mem]
  · rw [admRetired, writeAdmEntry_cores]

end Sys2Proof.Proofs

/-! The administrator's commands on partitions, groups and pages (R307 to R312). -/

namespace Sys2Proof.Proofs

open Sys2Proof Sys2Proof.Machine

/-! ### Partitions (R308, R309, R311) -/

/-- R308: the partition block that a command names. -/
def namedBlock (s : State) (x : Job) : PartBlock := readPartBlock s (d8 x.desc 0x20)

section

variable {s : State} {j : Nat} {x : Job} (h : dispatchedAs s j 0x82 x)

include h

theorem execCreatePartition_exists (hp : (partOf s (namedBlock s x).partition).state ≠ .absent) :
    execCreatePartition j s = .next (finishJob (begun s) j 0x030E) :=
  (runJob_at _ h).trans (congrArg _ (if_pos hp))

theorem execCreatePartition_badMasks (hp : (partOf s (namedBlock s x).partition).state = .absent)
    (hm : masksOk (begun s) (namedBlock s x) = false) : execCreatePartition j s = .next (finishJob (begun s) j 0x0101) :=
  (runJob_at _ h).trans (congrArg _ ((if_neg (not_not.2 hp)).trans (if_pos hm)))

theorem execCreatePartition_creates (hp : (partOf s (namedBlock s x).partition).state = .absent)
    (hm : masksOk (begun s) (namedBlock s x) = true) :
    execCreatePartition j s = .next (finishJob (makePartition (begun s) (namedBlock s x)) j 0) :=
  (runJob_at _ h).trans (congrArg _ ((if_neg (not_not.2 hp)).trans (if_neg (Bool.not_eq_false _ ▸ hm))))

end

/-- R309: a partition takes a resize while it is active and neither a resize nor its destruction is pending. -/
def takesResize (y : Partition) : Prop := y.state = .active ∧ y.resize = none ∧ y.resizeRest = none ∧ y.destroyJob = none

theorem takesResize_iff (y : Partition) :
    takesResize y ↔ ¬ (y.state ≠ .active ∨ y.resize.isSome ∨ y.resizeRest.isSome ∨ y.destroyJob.isSome) := by
  simp [takesResize]

section

variable {s : State} {j : Nat} {x : Job} (h : dispatchedAs s j 0x83 x) (hy : takesResize (partOf s (namedBlock s x).partition))

include h hy

theorem execResizePartition_refused (hr : resizeOk (begun s) (namedBlock s x) = false) :
    execResizePartition j s = .next (finishJob (begun s) j 0x0101) :=
  (runJob_at _ h).trans (congrArg _ ((if_neg ((takesResize_iff _).1 hy)).trans (if_pos hr)))

/-- R306, R309: the resize is noted, and is applied at once where the partition is at a boundary. -/
theorem execResizePartition_pends (hr : resizeOk (begun s) (namedBlock s x) = true) :
    execResizePartition j s = .next (boundary (awaitJob (updPart (begun s) (namedBlock s x).partition
      (fun y => { y with resize := some (namedBlock s x, j) })) j) (namedBlock s x).partition) :=
  (runJob_at _ h).trans (congrArg _ ((if_neg ((takesResize_iff _).1 hy)).trans (if_neg (Bool.not_eq_false _ ▸ hr))))

end

/-- R311: a partition that is not active, is being destroyed, or holds a group or contexts, is not destroyed. -/
theorem destroyRefused_iff (y : Partition) (l : List Nat) : (y.state ≠ .active ∨ y.destroyJob ≠ none ∨ y.group ≠ none ∨ l ≠ []) ↔
    (y.state ≠ .active ∨ y.destroyJob.isSome ∨ y.group.isSome ∨ l.isEmpty = false) := by
  simp only [Option.isSome_iff_ne_none, List.isEmpty_eq_false_iff]

section

variable {s : State} {j : Nat} {x : Job} (h : dispatchedAs s j 0x84 x)

include h

theorem execDestroyPartition_refused (hy : (partOf s (dPart x.desc)).state ≠ .active ∨ (partOf s (dPart x.desc)).destroyJob ≠ none ∨
    (partOf s (dPart x.desc)).group ≠ none ∨ ctxsOf (begun s) (dPart x.desc) ≠ []) :
    execDestroyPartition j s = .next (finishJob (begun s) j 0x030E) :=
  (runJob_at _ h).trans (congrArg _ (if_pos ((destroyRefused_iff ..).1 hy)))

/-- R306, R311: the destruction is noted, and is applied at once where the partition is at a boundary. -/
theorem execDestroyPartition_pends (ha : (partOf s (dPart x.desc)).state = .active) (hd : (partOf s (dPart x.desc)).destroyJob = none)
    (hg : (partOf s (dPart x.desc)).group = none) (hc : ctxsOf (begun s) (dPart x.desc) = []) : execDestroyPartition j s =
      .next (boundary (awaitJob (updPart (begun s) (dPart x.desc) (fun y => { y with destroyJob := some j })) j) (dPart x.desc)) := by
  refine (runJob_at _ h).trans (congrArg _ (if_neg fun hy => ?_))
  obtain hy | hy | hy | hy := (destroyRefused_iff ..).2 hy
  · exact hy ha
  · exact hy hd
  · exact hy hg
  · exact hy hc

end

/-! ### Placement groups (R312) -/

/-- R312: the group is the partition's with its lead, and the command waits for the new copy of the capability table. -/
def groupLoaded (s : State) (j p : Nat) (g : Group) : State :=
  let u := capChange (setF (updPart (begun s) p (fun y => { y with group := some g })) tbGroupLead (105 * g.hops) p) [p]
  awaitJob { u with front.capJobs := u.front.capJobs ++ [j] } j

section

variable {s : State} {j : Nat} {x : Job} (h : dispatchedAs s j 0x85 x)

include h

theorem execLoadGroup_notMember (hm : memberBit s = false) : execLoadGroup j s = .next (finishJob (begun s) j 0x0607) :=
  (runJob_at _ h).trans (congrArg _ (if_pos hm))

theorem execLoadGroup_refused (hm : memberBit s = true)
    (hy : (partOf s (dPart x.desc)).state ≠ .active ∨ (partOf s (dPart x.desc)).group ≠ none) :
    execLoadGroup j s = .next (finishJob (begun s) j 0x030E) :=
  (runJob_at _ h).trans (congrArg _ ((if_neg (Bool.not_eq_false _ ▸ hm)).trans (if_pos (hy.imp_right Option.isSome_iff_ne_none.2))))

/-- R312: an active partition without a group takes the one that the group block describes. -/
theorem execLoadGroup_reads (hm : memberBit s = true) (ha : (partOf s (dPart x.desc)).state = .active)
    (hg : (partOf s (dPart x.desc)).group = none) : execLoadGroup j s =
      .next ((readGroup (begun s) (d8 x.desc 0x28)).elim (finishJob (begun s) j 0x0101) (groupLoaded s j (dPart x.desc))) := by
  refine (runJob_at _ h).trans (congrArg _ ((if_neg (Bool.not_eq_false _ ▸ hm)).trans
    ((if_neg (not_or.2 ⟨not_not.2 ha, mt Option.isSome_iff_ne_none.1 (not_not.2 hg)⟩)).trans ?_)))
  cases readGroup (begun s) (d8 x.desc 0x28) with
  | none => rfl
  | some g => rfl

theorem execLoadGroup_badBlock (hm : memberBit s = true) (ha : (partOf s (dPart x.desc)).state = .active)
    (hg : (partOf s (dPart x.desc)).group = none) (hb : readGroup (begun s) (d8 x.desc 0x28) = none) :
    execLoadGroup j s = .next (finishJob (begun s) j 0x0101) := by
  rw [execLoadGroup_reads h hm ha hg, hb, Option.elim_none]

theorem execLoadGroup_loads {g : Group} (hm : memberBit s = true) (ha : (partOf s (dPart x.desc)).state = .active)
    (hg : (partOf s (dPart x.desc)).group = none) (hb : readGroup (begun s) (d8 x.desc 0x28) = some g) :
    execLoadGroup j s = .next (groupLoaded s j (dPart x.desc) g) := by
  rw [execLoadGroup_reads h hm ha hg, hb, Option.elim_some]

end

/-- R312: the partition has no group, and its lead reads 0. -/
def ungrouped (s : State) (p : Nat) : State := setF (updPart (begun s) p (fun y => { y with group := none })) tbGroupLead 0 p

theorem jobOf_ungrouped (s : State) (p j : Nat) : jobOf (ungrouped s p) j = jobOf (begun s) j := by
  rw [ungrouped, jobOf_setF, jobOf_updPart]

theorem partOf_ungrouped_self (s : State) (p : Nat) : partOf (ungrouped s p) p = { partOf s p with group := none } := by
  rw [ungrouped, partOf_setF, partOf_updPart_self, partOf_begun]

theorem partOf_ungrouped_ne (s : State) {p q : Nat} (h : q ≠ p) : partOf (ungrouped s p) q = partOf s q := by
  rw [ungrouped, partOf_setF, partOf_updPart_ne _ _ h, partOf_begun]

theorem groupLead_ungrouped (s : State) (p : Nat) : getF (ungrouped s p) tbGroupLead p = 0 := getF_setF_self _ tbGroupLead 0 p (by decide)

section

variable {s : State} {j : Nat} {x : Job} (h : dispatchedAs s j 0x86 x)

include h

theorem execUnloadGroup_refused (hg : (partOf s (dPart x.desc)).group = none ∨ hasGroupCtx s (dPart x.desc) = true) :
    execUnloadGroup j s = .next (finishJob (begun s) j 0x030E) :=
  (runJob_at _ h).trans (congrArg _ (if_pos (hg.imp_left Option.isNone_iff_eq_none.2)))

theorem execUnloadGroup_unloads (hg : (partOf s (dPart x.desc)).group ≠ none) (hc : hasGroupCtx s (dPart x.desc) = false) :
    execUnloadGroup j s = .next (finishJob (ungrouped s (dPart x.desc)) j 0) :=
  (runJob_at _ h).trans (congrArg _ (if_neg (not_or.2 ⟨hg ∘ Option.isNone_iff_eq_none.1, Bool.eq_false_iff.1 hc⟩)))

end

/-! ### Pages (R310) -/

/-- R307, R310: a command on pages names 1 to 512 of them, each of them fit. -/
theorem pages_fit {n : Nat} {b : Bool} (h0 : n ≠ 0) (hl : n ≤ 512) (hb : b = true) : ¬ (n = 0 ∨ 512 < n ∨ b = false) :=
  not_or.2 ⟨h0, not_or.2 ⟨Nat.not_lt.2 hl, Bool.not_eq_false _ ▸ hb⟩⟩

/-- R310: the pages of a list belong to a partition. -/
def granted (s : State) (p : Nat) (l : List Nat) : State :=
  { begun s with parts.pageOwn := l.foldl (fun m i => mput m i p) s.parts.pageOwn }

theorem jobOf_granted (s : State) (p : Nat) (l : List Nat) (j : Nat) : jobOf (granted s p l) j = jobOf (begun s) j := rfl

theorem pageOwner_finishJob (s : State) (j : Nat) (c : Code) (i : Nat) : pageOwner (finishJob s j c) i = pageOwner s i := by
  rw [pageOwner, finishJob_parts, pageOwner]

theorem pageOwner_granted_mem (s : State) (p : Nat) {l : List Nat} {i : Nat} (h : i ∈ l) : pageOwner (granted s p l) i = p :=
  congrArg (Option.getD · 0xFF) (foldl_mput_in l s.parts.pageOwn p i (.inl h))

theorem pageOwner_granted_notMem (s : State) (p : Nat) {l : List Nat} {i : Nat} (h : i ∉ l) :
    pageOwner (granted s p l) i = pageOwner s i :=
  congrArg (Option.getD · 0xFF) (foldl_mput_notin l s.parts.pageOwn p i h)

section

variable {s : State} {j : Nat} {x : Job} (h : dispatchedAs s j 0x8A x) (ha : (partOf s (dPart x.desc)).state = .active)

include h ha

theorem execGrantPages_refused (hp : (dPages x.desc).all (pageGrantable s (dPart x.desc)) = false) :
    execGrantPages j s = .next (finishJob (begun s) j 0x0101) :=
  (runJob_at _ h).trans (congrArg _ ((if_neg (not_not.2 ha)).trans (if_pos (.inr (.inr hp)))))

theorem execGrantPages_grants (h0 : dLen x.desc ≠ 0) (hl : dLen x.desc ≤ 512)
    (hp : (dPages x.desc).all (pageGrantable s (dPart x.desc)) = true) :
    execGrantPages j s = .next (finishJob (granted s (dPart x.desc) (dPages x.desc)) j 0) :=
  (runJob_at _ h).trans (congrArg _ ((if_neg (not_not.2 ha)).trans (if_neg (pages_fit h0 hl hp))))

end

section

variable {s : State} {j : Nat} {x : Job} (h : dispatchedAs s j 0x8B x) (ha : (partOf s (dPart x.desc)).state ≠ .absent)

include h ha

theorem execRevokePages_refused (hp : (dPages x.desc).all (fun i => pageExists s i && pageOwner s i == dPart x.desc) = false) :
    execRevokePages j s = .next (finishJob (begun s) j 0x0101) :=
  (runJob_at _ h).trans (congrArg _ ((if_neg ha).trans (if_pos (.inr (.inr hp)))))

/-- R306, R310: the revocation is noted, and is applied at once where the partition is at a boundary. -/
theorem execRevokePages_pends (h0 : dLen x.desc ≠ 0) (hl : dLen x.desc ≤ 512)
    (hp : (dPages x.desc).all (fun i => pageExists s i && pageOwner s i == dPart x.desc) = true) :
    execRevokePages j s = .next (boundary (awaitJob (updPart (begun s) (dPart x.desc) (fun y =>
      { y with revokes := y.revokes ++ [(j, bits (d8 x.desc 0x28) 0 16, dLen x.desc, s.time.tick)] })) j) (dPart x.desc)) :=
  (runJob_at _ h).trans (congrArg _ ((if_neg ha).trans (if_neg (pages_fit h0 hl hp))))

end

/-- Settles O31, from one lemma for each outcome of each command. -/
theorem partitionCommands : Obligations.PartitionCommands := by
  intro s j x
  refine ⟨fun h => ⟨execCreatePartition_exists h, execCreatePartition_badMasks h, execCreatePartition_creates h⟩,
    fun h ha hr hrr hd => ⟨execResizePartition_refused h ⟨ha, hr, hrr, hd⟩, execResizePartition_pends h ⟨ha, hr, hrr, hd⟩⟩,
    fun h => ⟨execDestroyPartition_refused h, execDestroyPartition_pends h⟩,
    fun h => ⟨execLoadGroup_notMember h, execLoadGroup_refused h, execLoadGroup_badBlock h, fun _ => execLoadGroup_loads h⟩,
    fun h => ⟨execUnloadGroup_refused h, fun hg hc _ => ⟨_, execUnloadGroup_unloads h hg hc, ?_, ?_, fun q hq => ?_, ?_⟩⟩,
    fun h ha h0 hl => ⟨execGrantPages_refused h ha, fun hp => ⟨_, execGrantPages_grants h ha h0 hl hp, ?_, fun i hi => ?_, fun i hi => ?_⟩⟩,
    fun h ha h0 hl => ⟨execRevokePages_refused h ha, execRevokePages_pends h ha h0 hl⟩⟩
  -- unload-group
  · exact dispatched_finishes h (jobOf_ungrouped ..) 0
  · exact (partOf_finishJob ..).trans (partOf_ungrouped_self ..)
  · exact (partOf_finishJob ..).trans (partOf_ungrouped_ne s hq)
  · exact groupLead_ungrouped s (dPart x.desc)
  -- grant-pages
  · exact dispatched_finishes h (jobOf_granted ..) 0
  · exact (pageOwner_finishJob ..).trans (pageOwner_granted_mem s _ hi)
  · exact (pageOwner_finishJob ..).trans (pageOwner_granted_notMem s _ hi)

end Sys2Proof.Proofs

/-! Walks, page requests, ATS and the fault queue (R341, R347 to R349, R353, R355, R357, R358, R366 to R369). -/

namespace Sys2Proof.Proofs

open Sys2Proof Sys2Proof.Machine

theorem engineGoes_below {s : State} {eng : Nat} (h : eng < 84) : engineGoes s eng = s := if_neg (by omega)

/-! ### Walks (R341, R347 to R349, R353) -/

section

variable {s : State} {w : WalkRequest} (hw : w.engine < 102)

include hw

theorem execTranslationWalk_free (ecc : SramEcc) (hc : (ctxOf s w.ctx).state = .free) : execTranslationWalk w ecc s = .next s := by
  rw [execTranslationWalk, if_neg (Nat.not_le.2 hw), if_pos hc]

theorem execTranslationWalk_good (hc : (ctxOf s w.ctx).state ≠ .free) :
    execTranslationWalk w .good s = .next (lookupMiss s w.engine w.ctx w.va.toNat w.write) := by
  rw [execTranslationWalk, if_neg (Nat.not_le.2 hw), if_neg hc]

end

/-- R347: a lookup that finds nothing anywhere finds nothing in the engine's micro-TLB. -/
theorem utlb_find_of_tlbHit_none {s : State} {eng pasid va : Nat} (h : tlbHit s eng pasid va = none) :
    (mget s.trans.utlb eng).find? (fun e => e.covers pasid va) = none := by
  rw [tlbHit] at h
  split at h
  next => cases h
  next hf => exact hf

/-- R341, R366: a device address that no TLB translates is walked. -/
theorem lookupMiss_walks {s : State} {eng n va : Nat} (hm : tlbHit s eng (ctxOf s n).pasid va = none) (ha : atsAddress s va = false) (write : Bool) :
    lookupMiss s eng n va write = walkMiss s eng n va write := by
  simp only [lookupMiss, utlb_find_of_tlbHit_none hm, hm, ha, Option.isSome_none, Bool.false_eq_true, if_false]

/-- R348: a walk and its reads of the tables are counted. -/
def walkCounted (s : State) (x : Xl) : State := addF (addF (addF s tuL2Miss) tuWalkReads x.reads) tuUtlbMiss

theorem walkMiss_finds {s : State} {eng n va : Nat} {write : Bool} {x : Xl}
    (hx : walk s (ctxOf s n).pasid (ctxOf s n).partition va write = x) (h : x.code = 0) :
    walkMiss s eng n va write = engineGoes (installWalk (walkCounted s x) eng (ctxOf s n).pasid va x) eng := by
  subst hx; exact if_pos h

theorem walkMiss_fails {s : State} {eng n va : Nat} {write : Bool} {x : Xl}
    (hx : walk s (ctxOf s n).pasid (ctxOf s n).partition va write = x) (h : x.code ≠ 0) :
    walkMiss s eng n va write = walkFails (walkCounted s x) eng n va write x := by
  subst hx; exact if_neg h

/-- R347: the engine's lookup gives what a walk has installed. -/
theorem tlbHit_installWalk (s : State) (eng pasid va : Nat) (x : Xl) :
    tlbHit (installWalk s eng pasid va x) eng pasid va = some (entryOf pasid va x) :=
  tlbHit_utlbPut _ _ _ _ _ (entryOf_covers pasid va x)

/-! ### Answers to page requests (R355, R358, R368) -/

/-- R358: the entry that a value written to TU_PRESP names. -/
def prespEntry (v : W32) : Nat := bits v.toNat 0 4

section

variable {s : State} (hh : s.bound.hostAnswers = true) {v : W32}

include hh

theorem execPageRequestResponse_ignored (h : (mget s.trans.preqs (prespEntry v)).used = false) :
    execPageRequestResponse v s = .next (addF s tuPrespIgnored) := by
  rw [execPageRequestResponse, hostWrite_answers hh]
  exact congrArg _ (if_neg (Bool.eq_false_iff.1 h))

theorem execPageRequestResponse_fails (h : (mget s.trans.preqs (prespEntry v)).used = true) (hb : bit v.toNat 8 = true) :
    execPageRequestResponse v s = .next (failPage s (prespEntry v)) := by
  rw [execPageRequestResponse, hostWrite_answers hh]
  exact congrArg _ ((if_pos h).trans (if_pos hb))

theorem execPageRequestResponse_answers (h : (mget s.trans.preqs (prespEntry v)).used = true) (hb : bit v.toNat 8 = false) :
    execPageRequestResponse v s = .next (answerPage s (prespEntry v)) := by
  rw [execPageRequestResponse, hostWrite_answers hh]
  exact congrArg _ ((if_pos h).trans (if_neg (Bool.eq_false_iff.1 hb)))

end

section

variable {s : State} {e : Nat} (he : e < 16)

include he

theorem execPriResponse_unused (h : (mget s.trans.preqs e).used = false) (r : PriResponse) : execPriResponse e r s = .next s :=
  (if_neg (Nat.not_le.2 he)).trans (if_pos h)

/-- R368: an answer to an entry in use has the effect of its response code. -/
theorem execPriResponse_used (h : (mget s.trans.preqs e).used = true) : execPriResponse e .success s = .next (retryAts s e) ∧
    execPriResponse e .invalid s = .next (failPage s e) ∧
    execPriResponse e .failure s = .next (failPage { s with trans.priStopped := true } e) := by
  have hlow : ¬ 16 ≤ e := Nat.not_le.2 he
  have hlive : ¬ (mget s.trans.preqs e).used = false := by rw [h]; decide
  exact ⟨(if_neg hlow).trans (if_neg hlive), (if_neg hlow).trans (if_neg hlive), (if_neg hlow).trans (if_neg hlive)⟩

end

/-! ### ATS (R366 to R369) -/

/-- R367: the entry that an ATS completion gives for a PASID. -/
def atsEntry (pasid : Nat) (a : AtsReply) : TlbEntry :=
  { pasid := pasid, page := a.va.toNat / 2 ^ max 12 (min 30 a.sizeLog2), sizeLog2 := max 12 (min 30 a.sizeLog2),
    pa := a.pa / 2 ^ max 12 (min 30 a.sizeLog2) * 2 ^ max 12 (min 30 a.sizeLog2), hostPage := true, read := a.readOk, write := a.writeOk }

theorem atsEntry_covers (pasid : Nat) (a : AtsReply) : (atsEntry pasid a).covers pasid a.va.toNat = true := by
  simp [TlbEntry.covers, atsEntry]

/-- R368: the completion denies the access that was asked for. -/
def atsRefuses (a : AtsReply) : Bool := a.denied || !(if a.write then a.writeOk else a.readOk)

section

variable {s : State} {a : AtsReply} (he : a.engine < 102) (hc : (ctxOf s a.ctx).state ≠ .free) (hv : atsAddress s a.va.toNat = true)

include he hc hv

theorem execAtsCompletion_live : execAtsCompletion a s = if atsRefuses a then .next (atsDenied s a.engine a.ctx a.va.toNat a.write) else
    .next (engineGoes (utlbPut (atcPut s (atsEntry (ctxOf s a.ctx).pasid a)) a.engine (atsEntry (ctxOf s a.ctx).pasid a)) a.engine) :=
  (if_neg (Nat.not_le.2 he)).trans (if_neg (not_or.2 ⟨hc, by rw [hv]; decide⟩))

theorem execAtsCompletion_refused (h : a.denied = true ∨ (if a.write then a.writeOk else a.readOk) = false) :
    execAtsCompletion a s = .next (atsDenied s a.engine a.ctx a.va.toNat a.write) := by
  rw [execAtsCompletion_live he hc hv, if_pos]
  rw [atsRefuses, Bool.or_eq_true, Bool.not_eq_true']
  exact h

theorem execAtsCompletion_granted (hd : a.denied = false) (hp : (if a.write then a.writeOk else a.readOk) = true) (h84 : a.engine < 84) :
    execAtsCompletion a s =
      .next (utlbPut (atcPut s (atsEntry (ctxOf s a.ctx).pasid a)) a.engine (atsEntry (ctxOf s a.ctx).pasid a)) := by
  rw [execAtsCompletion_live he hc hv, engineGoes_below h84, atsRefuses, hd, hp]; rfl

end

/-- R369: the entries that an ATS invalidation of a range removes. -/
def atsDrops (p va len : Nat) (e : TlbEntry) : Prop := e.hostPage = true ∧ e.pasid = p ∧ e.overlaps va len = true

theorem mem_filter_kept {p va len : Nat} {l : List TlbEntry} {e : TlbEntry} :
    e ∈ l.filter (fun e => !(e.hostPage && e.pasid == p && e.overlaps va len)) ↔ e ∈ l ∧ ¬ atsDrops p va len e := by
  rw [List.mem_filter, atsDrops, Bool.not_eq_true', Bool.eq_false_iff, ne_eq, Bool.and_eq_true, Bool.and_eq_true, beq_iff_eq,
    and_assoc]

theorem execAtsInvalidate_drops (s : State) (p va len : Nat) : ∃ t, execAtsInvalidate p va len s = .next t ∧
    t.bound.atsInvDone = false ∧ t.trans.atsDrain = true ∧ t.mem = s.mem ∧
    (∀ e, e ∈ t.trans.atc ↔ e ∈ s.trans.atc ∧ ¬ atsDrops p va len e) ∧
    (∀ k l, (k, l) ∈ t.trans.utlb → ∀ e ∈ l, ¬ atsDrops p va len e) := by
  refine ⟨_, rfl, rfl, rfl, rfl, fun e => mem_filter_kept, fun k l hl e he => ?_⟩
  obtain ⟨x, -, hx⟩ := List.mem_map.1 (List.mem_filter.1 hl).1
  obtain ⟨-, rfl⟩ := Prod.mk.inj hx
  exact (mem_filter_kept.1 he).2

theorem execAtsInvalidateDone_idle {s : State} (h : s.trans.atsDrain = false) : execAtsInvalidateDone s = .next s :=
  if_neg (by rw [h]; decide)

theorem execAtsInvalidateDone_drained {s : State} (h : s.trans.atsDrain = true) :
    ∃ t, execAtsInvalidateDone s = .next t ∧ t.bound.atsInvDone = true ∧ t.trans.atsDrain = false :=
  ⟨_, if_pos h, by rw [addF_bound], by rw [addF_trans]⟩

/-! ### The fault queue (R357) -/

theorem execFaultRecordWrite_none {s : State} (h : s.trans.fqHeld = []) : execFaultRecordWrite s = .next s := by
  rw [execFaultRecordWrite, h]

theorem acFlush_idle {s : State} (h : s.trans.acPending = []) : acFlush s = s := by
  rw [acFlush, h]

theorem fqWrite_trans (s : State) (b : List Byte) : (fqWrite s b).trans = s.trans := by
  rw [fqWrite, (requestVector_regs _ _).2.1, setF_trans]

theorem fqWrite_host (s : State) (b : List Byte) :
    (fqWrite s b).mem.host = wrBytes s.mem.host (getF64 s tuFqLo / 4096 * 4096 + 32 * getF s tuFqTail) b := by
  rw [fqWrite, (requestVector_regs _ _).2.2, setF_mem]

theorem getF_fqWrite_tail (s : State) (b : List Byte) : getF (fqWrite s b) tuFqTail = (getF s tuFqTail + 1) % fqDepth s % 65536 := by
  rw [fqWrite, getF_congr (requestVector_regs _ _).1]
  exact getF_setF_self _ _ _ _ (by decide)

section

variable {s : State} {b : List Byte} {l : List (List Byte)} (hb : s.trans.fqHeld = b :: l)

include hb

theorem execFaultRecordWrite_full (h : fqFull s = true) : execFaultRecordWrite s = .next s := by
  rw [execFaultRecordWrite, hb]
  exact if_pos h

/-- R357: with room in the queue the oldest record held is written at its tail. -/
theorem execFaultRecordWrite_writes (h : fqFull s = false) (hp : s.trans.acPending = []) : ∃ t, execFaultRecordWrite s = .next t ∧
    t.trans.fqHeld = l ∧ getF t tuFqTail = (getF s tuFqTail + 1) % fqDepth s % 65536 ∧
    t.mem.host = wrBytes s.mem.host (getF64 s tuFqLo / 4096 * 4096 + 32 * getF s tuFqTail) b := by
  rw [execFaultRecordWrite, hb]
  refine ⟨_, (if_neg (by rw [h]; decide)).trans (congrArg _ (acFlush_idle ?_)), ?_, getF_fqWrite_tail .., fqWrite_host ..⟩
  · rw [fqWrite_trans]; exact hp
  · rw [fqWrite_trans]

end

/-- Settles O48, from one lemma for each case of each command. -/
theorem walkCommands : Obligations.WalkCommands := by
  intro s
  refine ⟨fun w ecc hw => ⟨execTranslationWalk_free hw ecc, fun hc hm ha => ⟨fun hx h84 => ?_, fun hx => ?_⟩⟩,
    fun v hh => ⟨execPageRequestResponse_ignored hh, execPageRequestResponse_fails hh,
      fun hu hb => ⟨execPageRequestResponse_answers hh hu hb, rfl⟩⟩,
    fun e he => ⟨execPriResponse_unused he, execPriResponse_used he⟩,
    fun a he hc hv => ⟨execAtsCompletion_refused he hc hv, fun hd hp h84 => ?_⟩,
    execAtsInvalidate_drops s, execAtsInvalidateDone_idle, execAtsInvalidateDone_drained, execFaultRecordWrite_none,
    fun b l hb => ⟨execFaultRecordWrite_full hb, execFaultRecordWrite_writes hb⟩⟩
  · obtain ⟨hmem, hcores⟩ := installWalk_frame (walkCounted s _) w.engine (ctxOf s w.ctx).pasid w.va.toNat _
    refine ⟨_, (execTranslationWalk_good hw hc).trans (congrArg _ ((lookupMiss_walks hm ha _).trans
      ((walkMiss_finds rfl hx).trans (engineGoes_below h84)))), tlbHit_installWalk .., hmem, hcores⟩
  · exact (execTranslationWalk_good hw hc).trans (congrArg _ ((lookupMiss_walks hm ha _).trans (walkMiss_fails rfl hx)))
  · exact ⟨_, _, execAtsCompletion_granted he hc hv hd hp h84, tlbHit_utlbPut _ _ _ _ _ (atsEntry_covers _ a), rfl, rfl, rfl, rfl⟩

end Sys2Proof.Proofs

/-! Access counters and the mirror engine (R360, R364, R365). -/

namespace Sys2Proof.Proofs

open Sys2Proof Sys2Proof.Machine

/-! ### Access counters (R364, R365) -/

/-- R364: a decay tick halves every counter and changes nothing else. -/
theorem execAccessCounterDecay_halves {s : State} (hl : getF s tuDecayLog2 ≠ 0) (ht : s.time.tick % 2 ^ max 16 (getF s tuDecayLog2) = 0)
    (hr : rising s.trans.acs = true) : ∃ t, execAccessCounterDecay s = .next t ∧
      (∀ k, mget t.trans.acs k = mget s.trans.acs k / 2) ∧ { t with trans.acs := s.trans.acs } = s :=
  ⟨_, if_neg (not_or.2 ⟨hl, not_not.2 ht⟩), mfind_halved s.trans.acs hr, rfl⟩

theorem execAccessCounterDecay_waits {s : State} (h : getF s tuDecayLog2 = 0 ∨ s.time.tick % 2 ^ max 16 (getF s tuDecayLog2) ≠ 0) :
    execAccessCounterDecay s = .next s :=
  if_pos h

/-- R365: one counter and its notification are cleared. -/
theorem execAcClear_clears {s : State} (hh : s.bound.hostAnswers = true) {i : Nat} (hi : i < 131072) : ∃ t, execAcClear i s = .next t ∧
    mget t.trans.acs i = 0 ∧ mget t.trans.acNotified i = false ∧
    (∀ k, k ≠ i → mget t.trans.acs k = mget s.trans.acs k ∧ mget t.trans.acNotified k = mget s.trans.acNotified k) ∧
    { t with trans.acs := s.trans.acs, trans.acNotified := s.trans.acNotified, trans.acPending := s.trans.acPending } = s := by
  rw [execAcClear, if_neg (Nat.not_le.2 hi), hostWrite_answers hh]
  exact ⟨_, rfl, mget_mset_self s.trans.acs i 0, mget_mset_self s.trans.acNotified i false,
    fun k hk => ⟨mget_mset_ne s.trans.acs 0 hk, mget_mset_ne s.trans.acNotified false hk⟩, rfl⟩

theorem execAcClearAll_clears {s : State} (hh : s.bound.hostAnswers = true) : ∃ t, execAcClearAll s = .next t ∧
    (∀ k, mget t.trans.acs k = 0 ∧ mget t.trans.acNotified k = false) ∧
    { t with trans.acs := s.trans.acs, trans.acNotified := s.trans.acNotified, trans.acPending := s.trans.acPending } = s :=
  ⟨_, hostWrite_answers hh _, fun _ => ⟨rfl, rfl⟩, rfl⟩

/-! ### The mirror engine (R360) -/

/-- R360: the copy that the mirror registers describe breaks a rule of the engine. -/
def mirrorBad (s : State) : Bool := mirrorRefused s (getF64 s tuSrcLo) (getF64 s tuDstLo) (getF s tuLen)

theorem mirrorBegin_busy {s : State} (h : s.trans.mirror ≠ none) : mirrorBegin s = s :=
  if_pos (Option.isSome_iff_ne_none.2 h)

theorem mirrorBegin_idle {s : State} (h : s.trans.mirror = none) : mirrorBegin s = if mirrorBad s then setF s tuError 1 else
    setF (setF { s with trans.mirror := some (getF64 s tuSrcLo, getF64 s tuDstLo, getF s tuLen) } tuError 0) tuGo 1 :=
  if_neg (by rw [h]; decide)

section

variable {s : State} (hh : s.bound.hostAnswers = true)

include hh

theorem execMirrorGo_busy (h : s.trans.mirror ≠ none) : execMirrorGo s = .next s :=
  (hostWrite_answers hh _).trans (congrArg _ (mirrorBegin_busy h))

theorem execMirrorGo_refused (h : s.trans.mirror = none) (hb : mirrorBad s = true) : execMirrorGo s = .next (setF s tuError 1) := by
  rw [execMirrorGo, hostWrite_answers hh, mirrorBegin_idle h, if_pos hb]

theorem execMirrorGo_starts (h : s.trans.mirror = none) (hb : mirrorBad s = false) : ∃ t, execMirrorGo s = .next t ∧
    t.trans.mirror = some (getF64 s tuSrcLo, getF64 s tuDstLo, getF s tuLen) ∧ getF t tuGo = 1 ∧ getF t tuError = 0 ∧ t.mem = s.mem := by
  rw [execMirrorGo, hostWrite_answers hh, mirrorBegin_idle h, hb]
  refine ⟨_, rfl, rfl, getF_setF_self _ _ _ _ (by decide), ?_, rfl⟩
  exact (getF_setF_disj _ tuGo tuError _ 0 0 rfl rfl (by decide) (by decide)).trans (getF_setF_self _ _ _ _ (by decide))

end

theorem execMirrorDone_idle {s : State} (h : s.trans.mirror = none) : execMirrorDone s = .next s := by
  rw [execMirrorDone, h]

theorem execMirrorDone_writes {s : State} {a b n : Nat} (h : s.trans.mirror = some (a, b, n)) : ∃ t, execMirrorDone s = .next t ∧
    t.mem.hbm = wrBytes s.mem.hbm b (rdBytes s.mem.host a n) ∧ t.mem.host = s.mem.host ∧ t.trans.mirror = none ∧ getF t tuGo = 0 ∧
    t.cores = s.cores := by
  rw [execMirrorDone, h]
  exact ⟨_, rfl, rfl, rfl, rfl, getF_setF_self _ _ _ _ (by decide), rfl⟩

/-- Settles O49, from one lemma for each case of each command. -/
theorem countersAndMirror : Obligations.CountersAndMirror := fun _ =>
  ⟨execAccessCounterDecay_halves, execAccessCounterDecay_waits,
    fun hh => ⟨fun _ => execAcClear_clears hh, execAcClearAll_clears hh, execMirrorGo_busy hh, execMirrorGo_refused hh, execMirrorGo_starts hh⟩,
    execMirrorDone_idle, fun _ _ _ => execMirrorDone_writes⟩

end Sys2Proof.Proofs

/-! Invalidations, the translation region and mode, and the key slots (R336, R343, R346, R362, R363, R366). -/

namespace Sys2Proof.Proofs

open Sys2Proof Sys2Proof.Machine

theorem bits_lt (v lo w : Nat) : bits v lo w < 2 ^ w := Nat.mod_lt _ (Nat.two_pow_pos w)

/-! ### Invalidations (R362, R363) -/

/-- R362: the number that the next invalidation takes. -/
def nextInvSeq (s : State) : Nat := (s.trans.invSeq + 1) % 65536

/-- R362: the command that a write of TU_INV_CTL puts in the queue. -/
def invCmd (s : State) (k d p : Nat) : InvCmd :=
  { scope := k, domain := d % 256, pasid := p % 1048576, addr := getF64 s tuInvAddrLo, len := getF s tuInvLen, seq := nextInvSeq s }

/-- R362: the queue has taken a command, which has removed nothing yet. -/
def invQueued (s : State) (k d p : Nat) : State :=
  setF (setF { s with trans.invQ := s.trans.invQ ++ [invCmd s k d p], trans.invSeq := nextInvSeq s } tuSubmitted (nextInvSeq s))
    tuFull (b2n (decide (16 ≤ (s.trans.invQ ++ [invCmd s k d p]).length)))

theorem invQueue_full {s : State} (k d p : Nat) (h : 16 ≤ s.trans.invQ.length) : invQueue s k d p = setF s tuDropped 1 := if_pos h

theorem invQueue_room {s : State} (k d p : Nat) (h : s.trans.invQ.length < 16) :
    invQueue s k d p = if s.trans.invQ.isEmpty then invBegin (invQueued s k d p) else invQueued s k d p :=
  if_neg (Nat.not_le.2 h)

/-- R362: behind another command, a command only takes its place. -/
theorem invQueue_behind {s : State} (k d p : Nat) (hq : s.trans.invQ ≠ []) (h : s.trans.invQ.length < 16) :
    invQueue s k d p = invQueued s k d p := by
  rw [invQueue_room k d p h, if_neg (mt List.isEmpty_iff.1 hq)]

/-- R363: a command that finds the queue empty removes its entries at once. -/
theorem invQueue_first {s : State} (k d p : Nat) (hq : s.trans.invQ = []) : invQueue s k d p = invBegin (invQueued s k d p) := by
  rw [invQueue_room k d p (by rw [hq]; decide), hq]; rfl

theorem invQueued_trans (s : State) (k d p : Nat) :
    (invQueued s k d p).trans = { s.trans with invQ := s.trans.invQ ++ [invCmd s k d p], invSeq := nextInvSeq s } := by
  rw [invQueued, setF_trans, setF_trans]

theorem invQueued_mem (s : State) (k d p : Nat) : (invQueued s k d p).mem = s.mem := by
  rw [invQueued, setF_mem, setF_mem]

theorem invQueued_emb (s : State) (k d p : Nat) : (invQueued s k d p).emb = s.emb := by
  rw [invQueued, setF_emb, setF_emb]

/-- R362: each command of TU_INV_CTL is queued with its scope. -/
theorem execInvalidate_queues {s : State} (hh : s.bound.hostAnswers = true) (n : Nat) :
    execInvalidateAll s = .next (invQueue s 0 0 0) ∧ execInvalidatePasid n s = .next (invQueue s 1 0 n) ∧
    execInvalidatePasidRange n s = .next (invQueue s 2 0 n) ∧ execInvalidateDomain n s = .next (invQueue s 3 n 0) ∧
    execInvalidateDomainRange n s = .next (invQueue s 4 n 0) ∧ execInvalidatePasidEntry n s = .next (invQueue s 5 0 n) :=
  ⟨hostWrite_answers hh _, hostWrite_answers hh _, hostWrite_answers hh _, hostWrite_answers hh _, hostWrite_answers hh _,
    hostWrite_answers hh _⟩

/-- R362: with nothing in the page map, scope 0 leaves no translation cached. -/
theorem execInvalidateAll_empties {s : State} (hh : s.bound.hostAnswers = true) (hq : s.trans.invQ = []) (hp : s.emb.pmap = []) :
    ∃ t, execInvalidateAll s = .next t ∧ t.trans.utlb = [] ∧ t.trans.l2 = [] ∧ t.trans.atc = [] ∧ t.trans.wcache = [] ∧
      t.trans.invSeq = nextInvSeq s ∧ t.mem = s.mem := by
  rw [execInvalidateAll, hostWrite_answers hh, invQueue_first 0 0 0 hq]
  have htr := invQueued_trans s 0 0 0
  obtain ⟨hutlb, hl2, hatc, hwalk, hseq, hmem⟩ := invBegin_all (invQueued s 0 0 0) (invCmd s 0 0 0) []
    (by rw [htr, hq]; rfl) rfl (by rw [invQueued_emb, hp])
  exact ⟨_, rfl, hutlb, hl2, hatc, hwalk, hseq.trans (by rw [htr]), hmem.trans (invQueued_mem ..)⟩

theorem invBegin_idle {s : State} (h : s.trans.invQ = []) : invBegin s = s := by
  rw [invBegin, h]

theorem execInvalidationComplete_idle {s : State} (h : s.trans.invQ = []) : execInvalidationComplete s = .next s := by
  rw [execInvalidationComplete, h]

theorem execInvalidationComplete_waits {s : State} {c : InvCmd} {l : List InvCmd} (h : s.trans.invQ = c :: l) (hw : invWaits s c = true) :
    execInvalidationComplete s = .next s := by
  rw [execInvalidationComplete, h]
  exact if_pos hw

/-- R363: the command at the head is complete, and the next one removes its entries. -/
theorem execInvalidationComplete_next {s : State} {c : InvCmd} {l : List InvCmd} (h : s.trans.invQ = c :: l) (hw : invWaits s c = false) :
    execInvalidationComplete s =
      .next (invBegin (setF (setF { s with trans.invQ := l, trans.invDone := c.seq } tuCompleted c.seq) tuFull 0)) := by
  rw [execInvalidationComplete, h]
  exact if_neg (by rw [hw]; decide)

theorem execInvalidationComplete_last {s : State} {c : InvCmd} (h : s.trans.invQ = [c]) (hw : invWaits s c = false) :
    ∃ t, execInvalidationComplete s = .next t ∧ t.trans.invQ = [] ∧ t.trans.invDone = c.seq ∧ getF t tuCompleted = c.seq % 65536 := by
  rw [execInvalidationComplete_next h hw, invBegin_idle (by rw [setF_trans, setF_trans])]
  refine ⟨_, rfl, by rw [setF_trans, setF_trans], by rw [setF_trans, setF_trans], ?_⟩
  exact (getF_setF_ne _ tuFull tuCompleted _ 0 0 (by decide)).trans (getF_setF_self _ _ _ _ (by decide))

/-! ### The mode and the region (R336, R366) -/

section

variable {s : State} (hh : s.bound.hostAnswers = true)

include hh

theorem execForerunnerModeSet_takes (b : Bool) (hc : noContexts s = true) (hp : bit (getF s bcPolicy) 0 = true) :
    execForerunnerModeSet b s = .next (setF s tuForerunner (b2n b)) := by
  rw [execForerunnerModeSet, hostWrite_answers hh, hc, hp]; rfl

theorem execForerunnerModeSet_ignored (b : Bool) (h : noContexts s = false ∨ bit (getF s bcPolicy) 0 = false) :
    execForerunnerModeSet b s = .next s := by
  rw [execForerunnerModeSet, hostWrite_answers hh, Bool.and_eq_false_iff.2 h]; rfl

theorem execTranslationRegionSet_ignored {v : W32} (h : regionOk s (bits v.toNat 0 16) (bits v.toNat 16 16) = false) :
    execTranslationRegionSet v s = .next s := by
  rw [execTranslationRegionSet, hostWrite_answers hh, h]; rfl

theorem execTranslationRegionSet_takes {v : W32} (h : regionOk s (bits v.toNat 0 16) (bits v.toNat 16 16) = true) :
    ∃ t, execTranslationRegionSet v s = .next t ∧ getF t tuFirstPage = bits v.toNat 0 16 ∧ getF t tuPages = bits v.toNat 16 16 := by
  rw [execTranslationRegionSet, hostWrite_answers hh, h]
  refine ⟨_, rfl, ?_, getF_setF_of_lt (by decide) (bits_lt ..)⟩
  exact (getF_setF_disj _ tuPages tuFirstPage _ 0 0 rfl rfl (by decide) (by decide)).trans (getF_setF_of_lt (by decide) (bits_lt ..))

end

/-! ### Key slots (R343, R346) -/

theorem keyBegin_ignored {s : State} (k : Nat) (b : Bool) (h : keysReady s = false) : keyBegin s k b = s :=
  if_neg (by rw [h]; decide)

/-- R346: the engine is busy with the slot from the write until the change takes effect. -/
theorem keyBegin_pends {s : State} (k : Nat) (b : Bool) (h : keysReady s = true) :
    (keyBegin s k b).trans.keyPending = some (k % 64, b, s.trans.keyData) ∧ getF (keyBegin s k b) mpBusy = 1 ∧
    getF (keyBegin s k b) mpSlot = k % 64 := by
  rw [keyBegin, if_pos h]
  refine ⟨by rw [setF_trans, setF_trans], getF_setF_self _ _ _ _ (by decide), ?_⟩
  exact (getF_setF_disj _ mpBusy mpSlot _ 0 0 rfl rfl (by decide) (by decide)).trans
    (getF_setF_of_lt (by decide) (Nat.mod_lt _ (by decide)))

section

variable {s : State} (hh : s.bound.hostAnswers = true) (k : Nat)

include hh

theorem execKeySlotLoad_begins : execKeySlotLoad k s = .next (keyBegin s k true) := hostWrite_answers hh _

theorem execKeySlotClear_begins : execKeySlotClear k s = .next (keyBegin s k false) := hostWrite_answers hh _

end

theorem execKeySlotEffect_idle {s : State} (h : s.trans.keyPending = none) : execKeySlotEffect s = .next s := by
  rw [execKeySlotEffect, h]

theorem keyState_trans (s : State) : (keyState s).trans = s.trans := by
  rw [keyState, setF64_trans]

/-- R346: the slot takes the keys that were written, or is empty; the other slots keep theirs. -/
theorem execKeySlotEffect_changes {s : State} {k : Nat} {b : Bool} {d : BitVec 512} (h : s.trans.keyPending = some (k, b, d)) :
    ∃ t, execKeySlotEffect s = .next t ∧ t.trans.keyPending = none ∧ getF t mpBusy = 0 ∧
      mget t.trans.keys k = (if b then { loaded := true, data := d } else {}) ∧ (∀ i, i ≠ k → mget t.trans.keys i = mget s.trans.keys i) := by
  rw [execKeySlotEffect, h]
  refine ⟨_, rfl, ?_, getF_setF_self _ _ _ _ (by decide), ?_, fun i hi => ?_⟩
  · rw [setF_trans, keyState_trans]
  · rw [setF_trans, keyState_trans]; exact mget_mset_self ..
  · rw [setF_trans, keyState_trans]; exact mget_mset_ne _ _ hi

/-- Settles O50, from one lemma for each case of each command. -/
theorem invalidationsAndKeys : Obligations.InvalidationsAndKeys := by
  intro s
  refine ⟨fun hh => ⟨execInvalidate_queues hh, invQueue_full, fun k d p hq hl => ?_, execInvalidateAll_empties hh,
      fun b => ⟨execForerunnerModeSet_takes hh b, execForerunnerModeSet_ignored hh b⟩,
      fun v => ⟨execTranslationRegionSet_ignored hh, execTranslationRegionSet_takes hh⟩, fun k => ⟨fun hr => ?_, fun hr => ?_⟩⟩,
    execInvalidationComplete_idle, fun c l hq => ⟨execInvalidationComplete_waits hq, fun hw hl => ?_⟩,
    execKeySlotEffect_idle, fun _ _ _ => execKeySlotEffect_changes⟩
  · rw [invQueue_behind k d p hq hl, invQueued_trans]
    exact ⟨rfl, rfl, invQueued_mem ..⟩
  · have hl := execKeySlotLoad_begins hh k
    have hc := execKeySlotClear_begins hh k
    rw [keyBegin_ignored k _ hr] at hl hc
    exact ⟨hl, hc⟩
  · obtain ⟨hpend, hbusy, -⟩ := keyBegin_pends k false hr
    exact ⟨⟨_, execKeySlotLoad_begins hh k, keyBegin_pends k true hr⟩, _, execKeySlotClear_begins hh k, hpend, hbusy⟩
  · subst hl
    exact execInvalidationComplete_last hq hw

end Sys2Proof.Proofs

/-! The control processors: holds, watchdogs, and what the limiter lets firmware reach (R373 to R375, R377, R378). -/

namespace Sys2Proof.Proofs

open Sys2Proof Sys2Proof.Machine

/-- A command that names a processor which exists gets past the check of its number. -/
theorem res_of_cp {c : Nat} (hc : c < 4) (r : Res) : (if 4 ≤ c then .fault .noSuchUnit else r) = r := if_neg (Nat.not_le.2 hc)

/-! ### Holds and kicks from the host (R374, R375, R382) -/

section

variable {s : State} {c : Nat} (hc : c < 4) (hh : s.bound.hostAnswers = true)

include hc hh

section

variable (hp : s.ctrl.powered = true)

include hp

theorem execCpHoldSet_on : execCpHoldSet c s = .next (cpStop s c) := by
  rw [execCpHoldSet, res_of_cp hc, hostWrite_answers hh, if_pos hp]

theorem execCpHoldClear_on : execCpHoldClear c s = .next (if bit (getF s ccHold) c then cpStart s c else s) := by
  rw [execCpHoldClear, res_of_cp hc, hostWrite_answers hh, if_neg (by rw [hp]; decide)]

theorem execWatchdogKick_on : execWatchdogKick c s = .next { s with ctrl.kicked := mset s.ctrl.kicked c s.time.tick } := by
  rw [execWatchdogKick, res_of_cp hc, hostWrite_answers hh, if_pos hp]
  rfl

/-- R374: a hold cleared starts the processor at its entry. -/
theorem execCpHoldClear_held (h : bit (getF s ccHold) c = true) : execCpHoldClear c s = .next (cpStart s c) := by
  rw [execCpHoldClear_on hc hh hp, if_pos h]

theorem execCpHoldClear_free (h : bit (getF s ccHold) c = false) : execCpHoldClear c s = .next s := by
  rw [execCpHoldClear_on hc hh hp, if_neg (by rw [h]; decide)]

end

section

variable (hp : s.ctrl.powered = false)

include hp

theorem execCpHoldSet_off : execCpHoldSet c s = .next (unpowered s 0x1400004 true) := by
  rw [execCpHoldSet, res_of_cp hc, hostWrite_answers hh, if_neg (by rw [hp]; decide)]

theorem execCpHoldClear_off : execCpHoldClear c s = .next (unpowered s 0x1400004 true) := by
  rw [execCpHoldClear, res_of_cp hc, hostWrite_answers hh, if_pos hp]

theorem execWatchdogKick_off : execWatchdogKick c s = .next (unpowered s (0x1400008 + 4 * c) true) := by
  rw [execWatchdogKick, res_of_cp hc, hostWrite_answers hh, if_neg (by rw [hp]; decide)]

end

end

/-! ### Watchdogs (R375) -/

/-- R375: a watchdog with a period expires on a processor that runs and has not been kicked for its period. -/
theorem execWatchdogExpire_eq {c : Nat} (hc : c < 4) (s : State) : execWatchdogExpire c s =
    .next (if cpRuns s c && decide (0 < getF s ccPeriod c ∧ mget s.ctrl.kicked c + getF s ccPeriod c * 2048 ≤ s.time.tick) then
      expireCp s c else s) :=
  res_of_cp hc _

theorem execWatchdogExpire_due {s : State} {c : Nat} (hc : c < 4) (hr : cpRuns s c = true) (hn : 0 < getF s ccPeriod c)
    (ht : mget s.ctrl.kicked c + getF s ccPeriod c * 2048 ≤ s.time.tick) : execWatchdogExpire c s = .next (expireCp s c) := by
  rw [execWatchdogExpire_eq hc, hr, decide_eq_true ⟨hn, ht⟩]
  rfl

theorem execWatchdogExpire_not {s : State} {c : Nat} (hc : c < 4)
    (h : cpRuns s c = false ∨ getF s ccPeriod c = 0 ∨ s.time.tick < mget s.ctrl.kicked c + getF s ccPeriod c * 2048) :
    execWatchdogExpire c s = .next s := by
  rw [execWatchdogExpire_eq hc]
  refine congrArg _ (if_neg fun hg => ?_)
  obtain ⟨hr, hd⟩ := Bool.and_eq_true_iff.1 hg
  obtain ⟨hn, ht⟩ := of_decide_eq_true hd
  obtain h | h | h := h
  · rw [h] at hr
    cases hr
  · omega
  · omega

/-! ### Accesses of firmware (R373, R377) -/

theorem fwRead_sram {s : State} {c : Nat} {a : FwAccess} (h : a.addr + a.len ≤ 0x200000) (ecc : SramEcc) :
    fwRead s c a ecc = sramRead s c a ecc := if_pos h

theorem fwWrite_sram {s : State} {c : Nat} {a : FwAccess} (h : a.addr + a.data.length ≤ 0x200000) :
    fwWrite s c a = { s with mem.ctrlSram := wrBytes s.mem.ctrlSram a.addr a.data } := if_pos h

/-- R373: writes from 0x100000000000 up go to host memory through the administrator window. -/
theorem fwWrite_host {s : State} {c : Nat} {a : FwAccess} (h : 0x100000000000 ≤ a.addr) :
    fwWrite s c a = fwHostWrite s c (a.addr - 0x100000000000) a.data :=
  (if_neg (by omega)).trans <| (if_neg (by omega)).trans <| (if_neg (by omega)).trans <| if_pos h

theorem fwHostWrite_outside {s : State} {c o : Nat} {bs : List Byte} (h : inWindow s o bs.length = false) :
    fwHostWrite s c o bs = limiterRefuse s c 0x0903 ccDma o := if_pos h

theorem fwHostWrite_inside {s : State} {c o : Nat} {bs : List Byte} (h : inWindow s o bs.length = true)
    (hr : onRing s true (winBase s + o) bs.length = false) :
    fwHostWrite s c o bs = { s with mem.host := wrBytes s.mem.host (winBase s + o) bs } :=
  (if_neg (by rw [h]; decide)).trans (if_neg (by rw [hr]; decide))

theorem flashCommand_refused {s : State} (h : flashAllowed s = false) (c : Nat) (e : Bool) (o : Nat) (bs : List Byte) :
    flashCommand s c e o bs = limiterRefuse s c 0x0908 ccFlash o := if_pos h

theorem flashCommand_now {s : State} (h : flashAllowed s = true) (hr : s.steps.running = []) (hf : s.ctrl.heldFlash = [])
    (c : Nat) (e : Bool) (o : Nat) (bs : List Byte) : flashCommand s c e o bs = flashApply s e o bs :=
  (if_neg (by rw [h]; decide)).trans (if_pos ⟨List.isEmpty_iff.2 hr, List.isEmpty_iff.2 hf⟩)

/-- R378: while a step runs a flash command waits behind those before it. -/
theorem flashCommand_held {s : State} (h : flashAllowed s = true) (hr : s.steps.running ≠ []) (c : Nat) (e : Bool) (o : Nat) (bs : List Byte) :
    flashCommand s c e o bs = { s with ctrl.heldFlash := s.ctrl.heldFlash ++ [(b2n e, o, bs)] } :=
  (if_neg (by rw [h]; decide)).trans (if_neg fun hg => hr (List.isEmpty_iff.1 hg.1))

/-- R378: flash commands let go take effect in their order, the list being empty after. -/
theorem execFlashCommandRelease_idle {s : State} (h : s.steps.running = []) : execFlashCommandRelease s =
    .next (each s.ctrl.heldFlash (fun (e : Nat × Nat × List Byte) s => flashApply s (e.1 == 1) e.2.1 e.2.2) { s with ctrl.heldFlash := [] }) := by
  rw [execFlashCommandRelease, if_pos (List.isEmpty_iff.2 h)]

theorem execFlashCommandRelease_running {s : State} (h : s.steps.running ≠ []) : execFlashCommandRelease s = .next s := by
  rw [execFlashCommandRelease, if_neg (mt List.isEmpty_iff.1 h)]

theorem execFirmwareAccess_stopped {s : State} {c : Nat} (hc : c < 4) (h : cpRuns s c = false) (a : FwAccess) (ecc : SramEcc) :
    execFirmwareAccess c a ecc s = .next s := by
  rw [execFirmwareAccess, res_of_cp hc, if_neg (by rw [h]; decide)]

section

variable {s : State} {c : Nat} (hc : c < 4) (h : cpRuns s c = true) {a : FwAccess} (ecc : SramEcc)

include hc h

theorem execFirmwareAccess_read (hk : a.kind = .read) : execFirmwareAccess c a ecc s = .next (fwRead s c a ecc) := by
  rw [execFirmwareAccess, res_of_cp hc, if_pos h, hk]

theorem execFirmwareAccess_write (hk : a.kind = .write) : execFirmwareAccess c a ecc s = .next (fwWrite s c a) := by
  rw [execFirmwareAccess, res_of_cp hc, if_pos h, hk]

theorem execFirmwareAccess_program (hk : a.kind = .flashProgram) :
    execFirmwareAccess c a ecc s = .next (flashCommand s c false a.addr a.data) := by
  rw [execFirmwareAccess, res_of_cp hc, if_pos h, hk]

/-- R373: a read of control SRAM returns its bytes to the processor alone. -/
theorem execFirmwareAccess_readsSram (hk : a.kind = .read) (hl : a.addr + a.len ≤ 0x200000) :
    execFirmwareAccess c a .good s = .next (cpReturn s c (rdBytes s.mem.ctrlSram a.addr a.len)) := by
  rw [execFirmwareAccess_read hc h _ hk, fwRead_sram hl]
  rfl

end

/-- Settles O45, from one lemma for each case of each command. -/
theorem firmwareCommands : Obligations.FirmwareCommands := by
  intro s c hc
  refine ⟨fun hh hp => ⟨execCpHoldSet_on hc hh hp, execCpHoldClear_held hc hh hp, execCpHoldClear_free hc hh hp, execWatchdogKick_on hc hh hp⟩,
    fun hh hp => ⟨execCpHoldSet_off hc hh hp, execCpHoldClear_off hc hh hp, execWatchdogKick_off hc hh hp⟩,
    ⟨execWatchdogExpire_due hc, execWatchdogExpire_not hc⟩, fun a ecc hr => execFirmwareAccess_stopped hc hr a ecc,
    fun a hr => ⟨fun hk hl => ?_, fun hk hl => ?_, fun hk hl hw => ?_, fun hk hl hw ho => ?_, fun hk hf => ?_, fun hk hf hn he => ?_,
      fun hk hf hn => ?_⟩, execFlashCommandRelease_running, fun a bs hn he => ?_⟩
  · exact ⟨_, execFirmwareAccess_readsSram hc hr hk hl, mget_mset_self .., rfl, rfl⟩
  · exact (execFirmwareAccess_write hc hr .good hk).trans (congrArg _ (fwWrite_sram hl))
  · exact (execFirmwareAccess_write hc hr .good hk).trans (congrArg _ ((fwWrite_host hl).trans (fwHostWrite_outside hw)))
  · exact (execFirmwareAccess_write hc hr .good hk).trans (congrArg _ ((fwWrite_host hl).trans (fwHostWrite_inside hw ho)))
  · exact (execFirmwareAccess_program hc hr .good hk).trans (congrArg _ (flashCommand_refused hf ..))
  · exact (execFirmwareAccess_program hc hr .good hk).trans (congrArg _ (flashCommand_now hf hn he ..))
  · exact ⟨_, (execFirmwareAccess_program hc hr .good hk).trans (congrArg _ (flashCommand_held hf hn ..)), rfl, rfl⟩
  · have hx := execFlashCommandRelease_idle hn
    rw [he] at hx
    exact ⟨_, hx, rfl, rfl, rfl⟩

end Sys2Proof.Proofs

/-! Corrected errors, ash watch, units marked out, weight digests, and refresh (R25, R26, R401 to R403, R408 to R416). -/

namespace Sys2Proof.Proofs

open Sys2Proof Sys2Proof.Machine

/-! ### Counters of corrected errors (R408) -/

/-- R408: every counter of corrected errors at half its value. -/
def ceHalved (s : State) : State := halveAll (halveAll (halveAll s hpCount400) hpCount500) hpCount580

theorem getF_ceHalved_core (s : State) {c : Nat} (hc : c < 64) : getF (ceHalved s) hpCount400 c = getF s hpCount400 c / 2 := by
  rw [ceHalved, getF_halveAll_ne _ hpCount580 hpCount400 c, getF_halveAll_ne _ hpCount500 hpCount400 c]
  · exact getF_halveAll s hpCount400 (by decide) (by decide) c hc
  all_goals intro i _; simp only [Fld.at, hpCount400, hpCount500, hpCount580]; omega

theorem getF_ceHalved_group (s : State) {g : Nat} (hg : g < 20) : getF (ceHalved s) hpCount500 g = getF s hpCount500 g / 2 := by
  rw [ceHalved, getF_halveAll_ne _ hpCount580 hpCount500 g, getF_halveAll _ hpCount500 (by decide) (by decide) g hg,
    getF_halveAll_ne _ hpCount400 hpCount500 g]
  · intro i hi
    simp only [Fld.at, hpCount400, hpCount500] at hi ⊢
    omega
  · intro i _
    simp only [Fld.at, hpCount500, hpCount580]
    omega

theorem getF_ceHalved_stack (s : State) {k : Nat} (hk : k < 20) : getF (ceHalved s) hpCount580 k = getF s hpCount580 k / 2 := by
  rw [ceHalved, getF_halveAll _ hpCount580 (by decide) (by decide) k hk, getF_halveAll_ne _ hpCount500 hpCount580 k,
    getF_halveAll_ne _ hpCount400 hpCount580 k]
  all_goals
    intro i hi
    simp only [Fld.at, hpCount400, hpCount500, hpCount580] at hi ⊢
    omega

theorem execCeCounterHalving_due {s : State} (h : s.time.tick % 2 ^ 41 = 0) : ∃ t, execCeCounterHalving s = .next t ∧ t.health.ceRaised = [] ∧
    (∀ c, c < 64 → getF t hpCount400 c = getF s hpCount400 c / 2) ∧ (∀ g, g < 20 → getF t hpCount500 g = getF s hpCount500 g / 2) ∧
    (∀ k, k < 20 → getF t hpCount580 k = getF s hpCount580 k / 2) := by
  have hr : ({ ceHalved s with health.ceRaised := [] } : State).regs = (ceHalved s).regs := by dsimp only
  exact ⟨_, if_pos h, rfl, fun c hc => (getF_congr hr _ c).trans (getF_ceHalved_core s hc),
    fun g hg => (getF_congr hr _ g).trans (getF_ceHalved_group s hg), fun k hk => (getF_congr hr _ k).trans (getF_ceHalved_stack s hk)⟩

theorem execCeCounterHalving_not {s : State} (h : s.time.tick % 2 ^ 41 ≠ 0) : execCeCounterHalving s = .next s := if_neg h

/-! ### Tests and ash watch (R412 to R414) -/

/-- R412: may a test of a unit start? -/
def ashStarts (s : State) (u : Nat) : Bool := ashUnit s u && ashMayRun s u && ashIsDue s u && !s.health.ashRunning.contains u

theorem execAshTest_not {s : State} {u : Nat} (d : Bool) (h : ashStarts s u = false) : execAshTest u d s = .next s :=
  if_neg (by rw [← ashStarts, h]; decide)

/-- R412: a test that starts is noted with its tick, and disturbs no core and no memory. -/
theorem execAshTest_starts {s : State} {u : Nat} (d : Bool) (h : ashStarts s u = true) : ∃ t, execAshTest u d s = .next t ∧
    t.health.ashRunning = s.health.ashRunning ++ [u] ∧ (mfind t.health.ashLast u).map (·.1) = some s.time.tick ∧
    t.cores = s.cores ∧ t.mem = s.mem := by
  refine ⟨_, if_pos h, ?_⟩
  rw [addF_health, addF_cores, addF_mem]
  cases d <;> exact ⟨rfl, congrArg _ (mfind_mput_self ..), rfl, rfl⟩

theorem execAshTestResult_idle {s : State} {u : Nat} (b : Bool) (w : W32) (h : s.health.ashRunning.contains u = false) :
    execAshTestResult u b w s = .next s := if_neg (by rw [h]; decide)

/-- R414: a test that ends runs no longer; one that failed has consequences. -/
theorem execAshTestResult_ends {s : State} {u : Nat} (b : Bool) (w : W32) (h : s.health.ashRunning.contains u = true) :
    let v : State := { s with health.ashRunning := s.health.ashRunning.filter (· != u) }
    execAshTestResult u b w s = .next (if b then v else ashFailed v u w) := if_pos h

section

variable {s : State} (hh : s.bound.hostAnswers = true)

include hh

theorem execAshWatchSet_enters {u : Nat} (h : ashUnit s u = true) : execAshWatchSet u s = .next (ashEnter s u) := by
  rw [execAshWatchSet, hostWrite_answers hh, if_pos h]

theorem execAshWatchSet_ignored {u : Nat} (h : ashUnit s u = false) : execAshWatchSet u s = .next s := by
  rw [execAshWatchSet, hostWrite_answers hh, if_neg (by rw [h]; decide)]

theorem execAshWatchClear_leaves (u : Nat) : execAshWatchClear u s = .next (ashPut s u false) := hostWrite_answers hh _

/-! ### Units marked out (R415, R416) -/

theorem execUnitMarkOut_marks (u : Nat) : execUnitMarkOut u s = .next (markUnitOut s u) := hostWrite_answers hh _

end

/-- R406: the kind and the number that a unit identity holds. -/
theorem unit_parts (k : Nat) {n : Nat} (h : n < 4096) : (4096 * k + n) / 4096 = k ∧ (4096 * k + n) % 4096 = n := by omega

theorem markUnitOut_core (s : State) {c : Nat} (h : c < 64) : markUnitOut s (0x1000 + c) = markCoreOut s c := by
  obtain ⟨hk, hn⟩ := unit_parts 1 (show c < 4096 by omega)
  rw [markUnitOut, hk, hn]
  exact if_pos h

theorem markUnitOut_lane (s : State) {l : Nat} (h : l < 2560) : markUnitOut s (0x2000 + l) = markLaneOut s l := by
  obtain ⟨hk, hn⟩ := unit_parts 2 (show l < 4096 by omega)
  rw [markUnitOut, hk, hn]
  exact if_pos h

theorem markUnitOut_stack (s : State) {k : Nat} (h : k < 20) : markUnitOut s (0x4000 + k) = markStackOut s k := by
  obtain ⟨hk, hn⟩ := unit_parts 4 (show k < 4096 by omega)
  rw [markUnitOut, hk, hn]
  exact if_pos h

theorem markUnitOut_port (s : State) {q : Nat} (h : q < 60) (hp : portPresent s q = true) : markUnitOut s (0x5000 + q) = markPortOut s q := by
  obtain ⟨hk, hn⟩ := unit_parts 5 (show q < 4096 by omega)
  rw [markUnitOut, hk, hn]
  exact if_pos ⟨h, hp⟩

theorem markCoreOut_gone {s : State} {c : Nat} (h : corePresent s c = false ∨ coreOut s c = true) : markCoreOut s c = s := by
  refine if_pos ?_
  obtain h | h := h <;> simp [h]

theorem markStackOut_gone {s : State} {k : Nat} (h : stackPresent s k = false ∨ bit s.bound.stackLost.toNat k = true) : markStackOut s k = s := by
  refine if_pos ?_
  obtain h | h := h <;> simp [h]

/-! ### Weight digests (R409, R410) -/

theorem digestBegin_busy {s : State} (h : s.health.digest ≠ none) : digestBegin s = s :=
  if_pos (Option.isSome_iff_ne_none.2 h)

section

variable {s : State} {c : Code} {i va : Nat} (hd : s.health.digest = none)
  (hr : digestRange s (getF s hpCtx) (getF64 s hpHandleLo) (getF64 s hpOffsetLo) (getF64 s hpLenLo) = (c, i, va))

include hd hr

theorem digestBegin_idle : digestBegin s = if c ≠ 0 then setF s hpStatus c.toNat
    else setF { takeRefs s [i] with health.digest := some { ctx := getF s hpCtx, obj := i, va := va, len := getF64 s hpLenLo } } hpGo21C 1 := by
  rw [digestBegin, if_neg (by rw [hd]; decide)]
  dsimp only
  rw [hr]

theorem digestBegin_refused (h : c ≠ 0) : digestBegin s = setF s hpStatus c.toNat := by
  rw [digestBegin_idle hd hr, if_pos h]

theorem digestBegin_runs (h : c = 0) :
    (digestBegin s).health.digest = some { ctx := getF s hpCtx, obj := i, va := va, len := getF64 s hpLenLo } ∧ getF (digestBegin s) hpGo21C = 1 := by
  rw [digestBegin_idle hd hr, if_neg (not_not.2 h), setF_health]
  exact ⟨rfl, getF_setF_self _ _ _ _ (by decide)⟩

end

theorem dropRefs_health (s : State) (l : List Nat) : (dropRefs s l).health = s.health :=
  each_inv (fun t : State => t.health = s.health) l _ s rfl fun _ _ h => (updObj_health ..).trans h

theorem putDigest_health (s : State) (bs : List Byte) : (putDigest s bs).health = s.health :=
  each_inv (fun t : State => t.health = s.health) _ _ s rfl fun _ _ h => (setF_health ..).trans h

theorem telemAdd_digest (s : State) (i n : Nat) : (telemAdd s i n).health.digest = s.health.digest := rfl

theorem execDigestDone_idle {s : State} (h : s.health.digest = none) : execDigestDone s = .next s := by
  rw [execDigestDone, h]

/-- R410: a request that ends leaves its code, and the engine free. -/
theorem execDigestDone_ends {s : State} {d : Digest} {r : Code × List Byte} (hd : s.health.digest = some d)
    (hr : vaReadE s 102 d.ctx d.va d.len = r) : ∃ t, execDigestDone s = .next t ∧ t.health.digest = none ∧
      getF t hpStatus = r.1.toNat ∧ getF t hpGo21C = 0 := by
  rw [execDigestDone, hd]
  refine ⟨_, rfl, ?_, ?_, getF_setF_self _ _ _ _ (by decide)⟩
  · rw [setF_health, setF_health]
    split
    · rw [telemAdd_digest, putDigest_health, dropRefs_health]
    · rw [dropRefs_health]
  · rw [getF_setF_ne _ hpGo21C hpStatus _ _ _ (by decide), hr]
    exact getF_setF_of_lt (by decide) r.1.isLt

/-! ### Reads of a stack (R403, R415) -/

section

variable {s : State} {k : Nat} (hk : k < 20)

include hk

/-- A command that names a stack which exists gets past the check of its number. -/
theorem res_of_stack (r : Res) : (if 20 ≤ k then .fault .noSuchUnit else r) = r := if_neg (Nat.not_le.2 hk)

theorem execStackReadBeat_cases (r : BeatReader) (a : Nat) : execStackReadBeat k 0 r a s = .next s ∧
    execStackReadBeat k 1 r a s = .next (ceCount s (unitStack k)) ∧ execStackReadBeat k 2 r a s = .next (beatFails s k r a) :=
  ⟨res_of_stack hk _, res_of_stack hk _, res_of_stack hk _⟩

theorem execStackReadTimeout_loses : execStackReadTimeout k s = .next (markStackOut s k) := res_of_stack hk _

/-! ### Refresh (R25, R26) -/

variable {b : Nat} (hb : b < 64)

include hb

theorem res_of_channel (r : Res) : (if 20 ≤ k ∨ 64 ≤ b then .fault .noSuchUnit else r) = r := if_neg (by omega)

/-- R26: an urgent refresh that meets a grant, of its own edge or given before, stalls nothing. -/
theorem execSpRefUrgent_granted {m : Bool} (h : m = true ∨ refGranted s k b = true) : execSpRefUrgent k b m s = .next s := by
  rw [execSpRefUrgent, res_of_channel hk hb, if_pos (Bool.or_eq_true_iff.2 h)]

theorem execSpRefUrgent_stalls (h : refGranted s k b = false) : ∃ t, execSpRefUrgent k b false s = .next t ∧
    mget t.bound.refUrgent k = mget s.bound.refUrgent k ||| (1#64 <<< b) ∧ mget t.bound.urgentCount k = mget s.bound.urgentCount k + 1 ∧
    ∀ i, i ≠ k → mget t.bound.refUrgent i = mget s.bound.refUrgent i := by
  rw [execSpRefUrgent, res_of_channel hk hb, if_neg (by rw [h]; decide)]
  refine ⟨_, rfl, mget_mset_self .., ?_, fun _ hi => mget_mset_ne _ _ hi⟩
  rw [mget_mset_self]

end

section

variable {s : State} {p i : Nat} (hp : p < 64)

include hp

theorem execRefreshWindow_none (h : refreshEntry s p i = none) : execRefreshWindow p i s = .next s := by
  rw [execRefreshWindow, res_of_part hp, h]
  cases runOf s p <;> rfl

theorem execRefreshWindow_entry {r : StepRun} {w : RefWindow} (hr : runOf s p = some r) (hw : refreshEntry s p i = some w) :
    execRefreshWindow p i s = .next (if r.base + w.start ≤ s.time.tick ∧ i ∉ r.refDone then
      updRun { s with bound.refGrant := s.bound.refGrant ++ [(w.group, w.mask)] } p (fun r => { r with refDone := r.refDone ++ [i] }) else s) := by
  rw [execRefreshWindow, res_of_part hp, hr, hw]
  rfl

theorem execRefreshWindow_not {r : StepRun} {w : RefWindow} (hr : runOf s p = some r) (hw : refreshEntry s p i = some w)
    (h : s.time.tick < r.base + w.start ∨ i ∈ r.refDone) : execRefreshWindow p i s = .next s := by
  rw [execRefreshWindow_entry hp hr hw, if_neg]
  rintro ⟨ht, hi⟩
  obtain h | h := h
  · omega
  · exact hi h

/-- R25: at its tick a window's grants are pulsed, once. -/
theorem execRefreshWindow_grants {r : StepRun} {w : RefWindow} (hr : runOf s p = some r) (hw : refreshEntry s p i = some w)
    (ht : r.base + w.start ≤ s.time.tick) (hi : i ∉ r.refDone) : ∃ t, execRefreshWindow p i s = .next t ∧
      t.bound.refGrant = s.bound.refGrant ++ [(w.group, w.mask)] ∧ runOf t p = some { r with refDone := r.refDone ++ [i] } ∧
      t.cores = s.cores ∧ t.mem = s.mem := by
  rw [execRefreshWindow_entry hp hr hw, if_pos ⟨ht, hi⟩]
  refine ⟨_, rfl, by rw [updRun_bound], (runOf_updRun_self _ p _).trans ?_, by rw [updRun_cores], by rw [updRun_mem]⟩
  exact congrArg (Option.map _) hr

end

/-- Settles O51, from one lemma for each case of each command. -/
theorem healthCommands : Obligations.HealthCommands := by
  intro s
  refine ⟨execCeCounterHalving_due, execCeCounterHalving_not, fun u d => ⟨execAshTest_not d, execAshTest_starts d⟩,
    fun u b w => ⟨execAshTestResult_idle b w, fun h => ⟨execAshTestResult_ends true w h, execAshTestResult_ends false w h⟩⟩,
    fun hh => ⟨fun u => ⟨execAshWatchSet_enters hh, execAshWatchSet_ignored hh, execAshWatchClear_leaves hh u⟩, fun c hc => ⟨?_, markCoreOut_gone⟩,
      fun l hl => ?_, fun k hk => ?_, fun q hq hp => ?_, fun hd => ?_, fun c i va hd hr => ⟨fun hc => ?_, fun hc => ?_⟩⟩,
    execDigestDone_idle, fun _ _ => execDigestDone_ends, fun k b r a hk => ⟨?_, execStackReadTimeout_loses hk, fun hg => ?_,
      fun hb => ⟨execSpRefUrgent_granted hk hb (.inl rfl), fun hg => execSpRefUrgent_granted hk hb (.inr hg), execSpRefUrgent_stalls hk hb⟩⟩,
    fun p i hp => ⟨execRefreshWindow_none hp, fun r w hr hw => ⟨execRefreshWindow_not hp hr hw, execRefreshWindow_grants hp hr hw⟩⟩⟩
  · exact (execUnitMarkOut_marks hh _).trans (congrArg _ (markUnitOut_core s hc))
  · exact (execUnitMarkOut_marks hh _).trans (congrArg _ (markUnitOut_lane s hl))
  · exact (execUnitMarkOut_marks hh _).trans (congrArg _ (markUnitOut_stack s hk))
  · exact (execUnitMarkOut_marks hh _).trans (congrArg _ (markUnitOut_port s hq hp))
  · exact (hostWrite_answers hh _).trans (congrArg _ (digestBegin_busy hd))
  · exact (hostWrite_answers hh _).trans (congrArg _ (digestBegin_refused hd hr hc))
  · exact ⟨_, hostWrite_answers hh _, digestBegin_runs hd hr hc⟩
  · exact execStackReadBeat_cases hk r a
  · exact (execStackReadTimeout_loses hk).trans (congrArg _ (markStackOut_gone hg))

end Sys2Proof.Proofs
